-- ==== Sys2Proof/Word.lean ====
section
/-!
DEFINITION. The words of the machine and the narrow fields that instructions hold.
Widths are those of spec/03 (R78 to R86).
-/

namespace Sys2Proof

/-- A 64-bit word: a register, an address, an instruction word (R78). -/
abbrev Word := BitVec 64

/-- One byte of memory (R4). -/
abbrev Byte := BitVec 8

/-- A scalar register field: 0 to 55 name g registers, 56 to 63 the queue ports (R22). -/
abbrev Reg := BitVec 6

/-- A predicate register p0 to p7 (R26). -/
abbrev PReg := BitVec 3

/-- A vector register v0 to v31 (R29). -/
abbrev VReg := BitVec 5

/-- The 64 bytes of a vector register or of a memory line; byte j is bits 8j+7 : 8j (R29). -/
abbrev Line := BitVec 512

end Sys2Proof
end

