-- ==== Sys2Proof/Syntax.lean ====
section
/-!
DEFINITION. The instructions and events of spec/opcode_table.json, one constructor for each row.
Helm words carry their guard and the fields that R80 to R87 give them; bits that must be 0 are not held.
Events carry the plain data that says which unit acts, and what the outside world did where it acts.
-/

namespace Sys2Proof

/-- The guard of a word: predicate PG, negated when PN = 1 (R79). -/
structure Guard where
  pg : BitVec 3
  pn : BitVec 1
deriving DecidableEq, Repr, Inhabited

/-- The address fields of MAJ 0x40 and 0x66: BASE, IDX, SCL, DISP (R80, R87). -/
structure MemOp where
  base : Reg
  idx  : Reg
  scl  : BitVec 2
  disp : BitVec 18
deriving DecidableEq, Repr, Inhabited

/-- Order class and scope of a memory access (R83). -/
structure Ord where
  ord   : BitVec 3
  scope : BitVec 2
deriving DecidableEq, Repr, Inhabited

/-- The completion specifier of R166: BR, Q, BAR, TAG. -/
structure Compl where
  br  : Reg
  q   : BitVec 1
  bar : BitVec 1
  tag : BitVec 12
deriving DecidableEq, Repr, Inhabited

/-- The IMM28 fields of SND and SNDV (R212). -/
structure SendOp where
  scope : BitVec 2
  rel   : BitVec 1
  lvl   : BitVec 2
  bsp   : BitVec 1
  ch    : BitVec 4
  count : BitVec 10
deriving DecidableEq, Repr, Inhabited

/-- Every row of spec/opcode_table.json. -/
inductive Instr where
  -- MAJ 0x01 (R105 to R108); w is MOD.W32 and u is MOD.UNS
  | add (g : Guard) (d a b : Reg) (w u : BitVec 1)
  | sub (g : Guard) (d a b : Reg) (w u : BitVec 1)
  | mul (g : Guard) (d a b : Reg) (w u : BitVec 1)
  | mulh (g : Guard) (d a b : Reg) (w u : BitVec 1)
  | div (g : Guard) (d a b : Reg) (w u : BitVec 1)
  | rem (g : Guard) (d a b : Reg) (w u : BitVec 1)
  | and (g : Guard) (d a b : Reg) (w u : BitVec 1)
  | or (g : Guard) (d a b : Reg) (w u : BitVec 1)
  | xor (g : Guard) (d a b : Reg) (w u : BitVec 1)
  | andn (g : Guard) (d a b : Reg) (w u : BitVec 1)
  | shl (g : Guard) (d a b : Reg) (w u : BitVec 1)
  | shr (g : Guard) (d a b : Reg) (w u : BitVec 1)
  | sar (g : Guard) (d a b : Reg) (w u : BitVec 1)
  | rot (g : Guard) (d a b : Reg) (w u : BitVec 1)
  | min (g : Guard) (d a b : Reg) (w u : BitVec 1)
  | max (g : Guard) (d a b : Reg) (w u : BitVec 1)
  | clz (g : Guard) (d a : Reg) (w u : BitVec 1)
  | ctz (g : Guard) (d a : Reg) (w u : BitVec 1)
  | popc (g : Guard) (d a : Reg) (w u : BitVec 1)
  | bswap (g : Guard) (d a : Reg) (w u : BitVec 1)
  | ext (g : Guard) (d a : Reg) (len : BitVec 6) (u : BitVec 1)
  | bfx (g : Guard) (d a : Reg) (pos len : BitVec 6) (u : BitVec 1)
  | bfi (g : Guard) (d a b : Reg) (pos len : BitVec 6)
  | sel (g : Guard) (d a b c : Reg)
  | mov (g : Guard) (d a : Reg)
  | cmp (g : Guard) (pd : PReg) (a b : Reg) (cond : BitVec 4) (w : BitVec 1)
  | lea (g : Guard) (d a b : Reg) (pos : BitVec 2)
  -- MAJ 0x21 (R89, R109)
  | addImm (g : Guard) (d a : Reg) (imm : BitVec 34)
  | subImm (g : Guard) (d a : Reg) (imm : BitVec 34)
  | mulImm (g : Guard) (d a : Reg) (imm : BitVec 34)
  | mulhImm (g : Guard) (d a : Reg) (imm : BitVec 34)
  | divImm (g : Guard) (d a : Reg) (imm : BitVec 34)
  | remImm (g : Guard) (d a : Reg) (imm : BitVec 34)
  | andImm (g : Guard) (d a : Reg) (imm : BitVec 34)
  | orImm (g : Guard) (d a : Reg) (imm : BitVec 34)
  | xorImm (g : Guard) (d a : Reg) (imm : BitVec 34)
  | andnImm (g : Guard) (d a : Reg) (imm : BitVec 34)
  | shlImm (g : Guard) (d a : Reg) (n : BitVec 6)
  | shrImm (g : Guard) (d a : Reg) (n : BitVec 6)
  | sarImm (g : Guard) (d a : Reg) (n : BitVec 6)
  | rotImm (g : Guard) (d a : Reg) (n : BitVec 6)
  | minImm (g : Guard) (d a : Reg) (imm : BitVec 34)
  | maxImm (g : Guard) (d a : Reg) (imm : BitVec 34)
  | cmpImm (g : Guard) (pd : PReg) (a : Reg) (cond : BitVec 4) (imm : BitVec 30)
  | leaImm (g : Guard) (d a : Reg) (imm : BitVec 34)
  -- MAJ 0x22 (R110)
  | movi (g : Guard) (d : Reg) (imm : BitVec 34)
  | movhi (g : Guard) (d a : Reg) (imm : BitVec 30)
  -- MAJ 0x03 (R111 to R114)
  | fadd (g : Guard) (d a b : Reg) (rm : BitVec 3)
  | fsub (g : Guard) (d a b : Reg) (rm : BitVec 3)
  | fmul (g : Guard) (d a b : Reg) (rm : BitVec 3)
  | ffma (g : Guard) (d a b c : Reg) (rm : BitVec 3)
  | fdiv (g : Guard) (d a b : Reg) (rm : BitVec 3)
  | fsqrt (g : Guard) (d a : Reg) (rm : BitVec 3)
  | fmin (g : Guard) (d a b : Reg)
  | fmax (g : Guard) (d a b : Reg)
  | fcmp (g : Guard) (pd : PReg) (a b : Reg) (cond : BitVec 4)
  | fcvt (g : Guard) (d a : Reg) (rm : BitVec 3) (sat : BitVec 1) (dt st : BitVec 4) (w64 : BitVec 1)
  | fclass (g : Guard) (d a : Reg)
  -- MAJ 0x04 and 0x05 (R115, R116)
  | pset (g : Guard) (pd : PReg) (count : BitVec 7)
  | plim (g : Guard) (pd : PReg) (a b : Reg)
  | pmin (g : Guard) (pd pa pb : PReg)
  | pmax (g : Guard) (pd pa pb : PReg)
  | prd (g : Guard) (d : Reg) (pa : PReg)
  | grd (g : Guard) (d a : Reg) (imm : BitVec 34)
  | gwr (g : Guard) (d a : Reg) (imm : BitVec 34)
  -- MAJ 0x40 to 0x42 (R117 to R126)
  | ld (g : Guard) (t : Reg) (size : BitVec 3) (o : Ord) (m : MemOp)
  | st (g : Guard) (t : Reg) (size : BitVec 3) (o : Ord) (m : MemOp)
  | ldp (g : Guard) (t : Reg) (o : Ord) (m : MemOp)
  | stp (g : Guard) (t : Reg) (o : Ord) (m : MemOp)
  | amoadd (g : Guard) (t base idx : Reg) (size : BitVec 3) (o : Ord) (disp : BitVec 18)
  | amomin (g : Guard) (t base idx : Reg) (uns : BitVec 1) (size : BitVec 3) (o : Ord) (disp : BitVec 18)
  | amomax (g : Guard) (t base idx : Reg) (uns : BitVec 1) (size : BitVec 3) (o : Ord) (disp : BitVec 18)
  | amoand (g : Guard) (t base idx : Reg) (size : BitVec 3) (o : Ord) (disp : BitVec 18)
  | amoor (g : Guard) (t base idx : Reg) (size : BitVec 3) (o : Ord) (disp : BitVec 18)
  | amoxor (g : Guard) (t base idx : Reg) (size : BitVec 3) (o : Ord) (disp : BitVec 18)
  | amoswp (g : Guard) (t base idx : Reg) (size : BitVec 3) (o : Ord) (disp : BitVec 18)
  | amocas (g : Guard) (t base idx : Reg) (size : BitVec 3) (o : Ord) (disp : BitVec 18)
  | amofadd (g : Guard) (t base idx : Reg) (o : Ord) (disp : BitVec 18)
  | fence (g : Guard) (o : Ord)
  | sbar (g : Guard) (mask : BitVec 18)
  -- MAJ 0x50 and 0x52 (R127 to R134)
  | br (g : Guard) (off : BitVec 30)
  | bc (g : Guard) (cond : BitVec 4) (a b : Reg) (off : BitVec 30)
  | bp (g : Guard) (z : BitVec 1) (pa : PReg) (off : BitVec 30)
  | call (g : Guard) (a : Reg) (off : BitVec 30)
  | ret (g : Guard) (a : Reg)
  | jmpr (g : Guard) (a : Reg) (off : BitVec 30)
  | loop (g : Guard) (a : Reg) (off : BitVec 30)
  | exit (g : Guard) (abandon : BitVec 1)
  | yield (g : Guard)
  | nop (g : Guard)
  | trap (g : Guard) (n : BitVec 34)
  | brk (g : Guard) (n : BitVec 34)
  -- MAJ 0x60 (R142, R143)
  | vadd (g : Guard) (vd va vb : VReg) (et : BitVec 4) (rm : BitVec 3) (sat : BitVec 1)
  | vsub (g : Guard) (vd va vb : VReg) (et : BitVec 4) (rm : BitVec 3) (sat : BitVec 1)
  | vmul (g : Guard) (vd va vb : VReg) (et : BitVec 4) (rm : BitVec 3) (sat : BitVec 1)
  | vfma (g : Guard) (vd va vb vc : VReg) (et : BitVec 4) (rm : BitVec 3) (sat : BitVec 1)
  | vfms (g : Guard) (vd va vb vc : VReg) (et : BitVec 4) (rm : BitVec 3) (sat : BitVec 1)
  | vmin (g : Guard) (vd va vb : VReg) (et : BitVec 4)
  | vmax (g : Guard) (vd va vb : VReg) (et : BitVec 4)
  | vabs (g : Guard) (vd va : VReg) (et : BitVec 4) (sat : BitVec 1)
  | vneg (g : Guard) (vd va : VReg) (et : BitVec 4) (sat : BitVec 1)
  | vclamp (g : Guard) (vd va vb vc : VReg) (et : BitVec 4)
  -- MAJ 0x61 (R144)
  | vexp2 (g : Guard) (vd va : VReg) (et : BitVec 4) (rm : BitVec 3)
  | vlog2 (g : Guard) (vd va : VReg) (et : BitVec 4) (rm : BitVec 3)
  | vrcp (g : Guard) (vd va : VReg) (et : BitVec 4) (rm : BitVec 3)
  | vrsq (g : Guard) (vd va : VReg) (et : BitVec 4) (rm : BitVec 3)
  | vtanh (g : Guard) (vd va : VReg) (et : BitVec 4) (rm : BitVec 3)
  | verf (g : Guard) (vd va : VReg) (et : BitVec 4) (rm : BitVec 3)
  -- MAJ 0x62 (R146); imm is IMM7, whose bit 6 selects the immediate count
  | vand (g : Guard) (vd va vb : VReg) (et : BitVec 4)
  | vor (g : Guard) (vd va vb : VReg) (et : BitVec 4)
  | vxor (g : Guard) (vd va vb : VReg) (et : BitVec 4)
  | vnot (g : Guard) (vd va : VReg) (et : BitVec 4)
  | vshl (g : Guard) (vd va vb : VReg) (et : BitVec 4) (imm : BitVec 7)
  | vshr (g : Guard) (vd va vb : VReg) (et : BitVec 4) (imm : BitVec 7)
  | vsar (g : Guard) (vd va vb : VReg) (et : BitVec 4) (imm : BitVec 7)
  | vmulh (g : Guard) (vd va vb : VReg) (et : BitVec 4)
  -- MAJ 0x63 (R147 to R150)
  | vcmp (g : Guard) (pd : PReg) (va vb : VReg) (et cond : BitVec 4)
  | vsel (g : Guard) (vd va vb : VReg) (et : BitVec 4) (x : PReg)
  | vcvt (g : Guard) (vd va : VReg) (et : BitVec 4) (rm : BitVec 3) (sat : BitVec 1) (part : BitVec 2) (st : BitVec 4)
  | vmov (g : Guard) (vd va : VReg) (et : BitVec 4)
  | vbcast (g : Guard) (vd : VReg) (gs : Reg) (et : BitVec 4)
  | vext (g : Guard) (gd : Reg) (va : VReg) (et : BitVec 4) (i : BitVec 7)
  | vins (g : Guard) (vd : VReg) (gs : Reg) (et : BitVec 4) (i : BitVec 7)
  | viota (g : Guard) (vd : VReg) (gs : Reg) (et : BitVec 4)
  | vcond (g : Guard) (x : PReg)
  -- MAJ 0x64 (R151 to R154)
  | vshup (g : Guard) (vd va : VReg) (et : BitVec 4) (skew : BitVec 5)
  | vshdn (g : Guard) (vd va : VReg) (et : BitVec 4) (skew : BitVec 5)
  | vrot (g : Guard) (vd va : VReg) (et : BitVec 4) (skew : BitVec 5)
  | vscan (g : Guard) (vd va : VReg) (et : BitVec 4) (rm : BitVec 3) (sat : BitVec 1) (op : BitVec 7)
  | vred (g : Guard) (vd va : VReg) (et : BitVec 4) (rm : BitVec 3) (sat : BitVec 1) (op : BitVec 7)
  | vmaxi (g : Guard) (vd va : VReg) (gi : Reg) (et : BitVec 4)
  | vperm (g : Guard) (vd va vb : VReg) (et : BitVec 4) (skew : BitVec 5)
  -- MAJ 0x65 (R155 to R157)
  | vpack (g : Guard) (vd va vb : VReg) (et : BitVec 4) (rm : BitVec 3) (sat : BitVec 1)
  | vunpk (g : Guard) (vd va : VReg) (et : BitVec 4) (h : BitVec 1)
  | vscale (g : Guard) (vd va : VReg) (gs : Reg) (et : BitVec 4) (rm : BitVec 3) (sat : BitVec 1) (inv : BitVec 1)
  | vqnt (g : Guard) (vd va : VReg) (gs : Reg) (et : BitVec 4) (rm : BitVec 3) (h : BitVec 1)
  -- MAJ 0x66 (R158 to R162)
  | vld (g : Guard) (vt : VReg) (size : BitVec 3) (o : Ord) (m : MemOp)
  | vst (g : Guard) (vt : VReg) (size : BitVec 3) (o : Ord) (m : MemOp)
  | vldff (g : Guard) (vt : VReg) (size : BitVec 3) (m : MemOp)
  | vlds (g : Guard) (vt : VReg) (size : BitVec 3) (o : Ord) (m : MemOp)
  | vsts (g : Guard) (vt : VReg) (size : BitVec 3) (o : Ord) (m : MemOp)
  | vgath (g : Guard) (vt : VReg) (size : BitVec 3) (o : Ord) (base : Reg) (vi : VReg) (scl : BitVec 2) (disp : BitVec 18)
  | vscat (g : Guard) (vt : VReg) (size : BitVec 3) (o : Ord) (base : Reg) (vi : VReg) (scl : BitVec 2) (disp : BitVec 18)
  | vldb (g : Guard) (vt : VReg) (size : BitVec 3) (o : Ord) (m : MemOp)
  -- MAJ 0x80 (R171 to R187)
  | mxcfg (g : Guard) (f : BitVec 9) (mode bank : BitVec 2)
  | mxzero (g : Guard) (bank : BitVec 2)
  | mxldw (g : Guard) (a : Reg) (sc : BitVec 1) (kq wt : BitVec 3) (buf : BitVec 1)
  | mxpass (g : Guard) (a b : Reg) (mhalf : BitVec 1) (at' : BitVec 2) (asc zf : BitVec 1) (nm1 : BitVec 7) (buf : BitVec 1) (bank : BitVec 2)
  | mxarm (g : Guard) (a b : Reg) (slot : BitVec 3)
  | mxdisarm (g : Guard) (slot : BitVec 3)
  | mxdrain (g : Guard) (a b c : Reg) (cs : Compl) (bank : BitVec 2)
  | mxramp (g : Guard) (n : BitVec 16)
  | mxwait (g : Guard) (n : BitVec 8)
  | mxpert (g : Guard) (a : Reg) (n m : BitVec 7) (bank : BitVec 2)
  | mxstat (g : Guard) (a : Reg) (bank : BitVec 2)
  -- MAJ 0x81 and 0x82 (R188 to R199)
  | cpy (g : Guard) (a b c : Reg) (cs : Compl) (ctslot ct : BitVec 1)
  | cpy2d (g : Guard) (a b c : Reg) (cs : Compl)
  | cpyg (g : Guard) (a b c : Reg) (cs : Compl) (arr : BitVec 1)
  | cpys (g : Guard) (a b c : Reg) (cs : Compl)
  | cpyf (g : Guard) (a b c : Reg) (cs : Compl)
  | cpym (g : Guard) (a b c : Reg) (cs : Compl) (km1 : BitVec 4)
  | cpstat (g : Guard) (a : Reg) (tag : BitVec 12)
  | cpwait (g : Guard) (n : BitVec 10)
  | ctcfg (g : Guard) (a b c : Reg) (slot : BitVec 1)
  | wopen (g : Guard) (a b c : Reg) (w : BitVec 4)
  | wadv (g : Guard) (a : Reg) (cs : Compl) (w : BitVec 4)
  | wsync (g : Guard) (a : Reg) (cs : Compl) (w : BitVec 4)
  | wclose (g : Guard) (cs : Compl) (w : BitVec 4)
  -- MAJ 0x83 (R200 to R203)
  | binit (g : Guard) (a : Reg) (p1 : BitVec 1) (count : BitVec 7)
  | bexp (g : Guard) (a b : Reg)
  | barv (g : Guard) (a b : Reg) (scope : BitVec 2) (exp : BitVec 1)
  | bwait (g : Guard) (a b : Reg) (scope : BitVec 2)
  | btest (g : Guard) (pc : PReg) (a b : Reg) (scope : BitVec 2)
  -- MAJ 0xA0 to 0xA3 (07)
  | qbind (g : Guard) (a : Reg) (kind : BitVec 4) (n : BitVec 3)
  | qstat (g : Guard) (a : Reg) (n : BitVec 3)
  | snd (g : Guard) (a b : Reg) (s : SendOp)
  | sndv (g : Guard) (a : Reg) (vb : VReg) (s : SendOp)
  | rdopen (g : Guard) (a b c : Reg) (base : BitVec 9) (all sat : BitVec 1) (ty op : BitVec 4)
  | rdcs (g : Guard) (a b : Reg)
  | rdcb (g : Guard) (a b c : Reg)
  | rdres (g : Guard) (a b : Reg) (cs : Compl) (rq : BitVec 1)
  | inj (g : Guard) (a b : Reg)
  | injc (g : Guard) (a b : Reg)
  | wbhdr (g : Guard) (va : VReg) (b : Reg)
  | wbpop (g : Guard) (a b : Reg)
  | wbrel (g : Guard) (b : Reg)
  | wdrive (g : Guard) (a b c : Reg)
  | wdstop (g : Guard)
  | dsync (g : Guard) (l : BitVec 2)
  | darv (g : Guard) (l : BitVec 2)
  | dwait (g : Guard) (l : BitVec 2)
  | spawn (g : Guard) (a b c : Reg) (base8 : BitVec 6) (size8 s : BitVec 3)
  | swait (g : Guard) (s : BitVec 3)
  -- MAJ 0xC0 to 0xC2 (16)
  | mfs (g : Guard) (d : Reg) (num : BitVec 12)
  | mts (g : Guard) (a : Reg) (num : BitVec 12)
  | topo (g : Guard) (d : Reg) (w : BitVec 1)
  | syscall (g : Guard) (d a : Reg) (lode : BitVec 1) (svc : BitVec 16)
  | tqpush (g : Guard) (d a : Reg) (lvl : BitVec 2)
  | tret (g : Guard)
  | tqpop (g : Guard) (d a : Reg) (lvl : BitVec 2) (cx : BitVec 6)
  | tqdone (g : Guard) (d a : Reg) (cx : BitVec 6)
  | tqcancel (g : Guard) (d a : Reg) (cx : BitVec 6)
  | tqresume (g : Guard) (d : Reg) (lvl : BitVec 2) (cx : BitVec 6)
  | place (g : Guard) (d a : Reg) (cx : BitVec 6)
  | cxnew (g : Guard) (d : Reg) (sealed : BitVec 1) (cx : BitVec 6)
  | cxkill (g : Guard) (d : Reg) (cx : BitVec 6)
  | cxreclaim (g : Guard) (d : Reg) (cx : BitVec 6)
  | cxsave (g : Guard) (d : Reg) (vlt lsall : BitVec 1) (cx : BitVec 6)
  | cxload (g : Guard) (d : Reg) (cx : BitVec 6)
  | preempt (g : Guard) (d : Reg) (cx : BitVec 6)
  | tlbinv (g : Guard) (d a : Reg) (npg : BitVec 20) (mode : BitVec 2) (cx : BitVec 6)
  | nameinv (g : Guard) (d a : Reg) (all : BitVec 1)
  | halt (g : Guard) (d : Reg) (us : BitVec 20)
  | cfgw (g : Guard) (d a : Reg)
  | recchk (g : Guard) (d a : Reg)
  | cfgr (g : Guard) (d a : Reg)
  | gtabw (g : Guard) (d a : Reg) (grp : BitVec 8)
  | ttabw (g : Guard) (d a : Reg) (tree : BitVec 9)
  -- sub-forms of MTS, named by the register and value written
  | errinjWrite (g : Guard) (a : Reg)
  | faultansWrite (g : Guard) (a : Reg)
  | rowstateKill (g : Guard) (a : Reg)
  | remapstatRebuild (g : Guard) (a : Reg)
  | ckptCheckpoint (g : Guard) (a : Reg)
  | ckptRestore (g : Guard) (a : Reg)
  -- events: strands, engines, mesh
  | strandStart (task : Nat)
  | commandCompletion (agent strand : Nat) (cpe : Bool)
  | copyLanding (agent entry piece : Nat)
  | drainStep (agent : Nat)
  | windowFill (agent entry : Nat)
  | triggeredPass (agent : Nat)
  | passResultHeld (agent run : Nat)
  | rampUpEnd (agent : Nat)
  | rampDownEnd (agent : Nat)
  | rampGapExpiry (agent : Nat)
  | messageLanding (msg : Nat)
  | phaseRelease (agent strand level : Nat) (peers : Bool)
  | nameWalk (agent name : Nat)
  | linkRetry (tile port : Nat) (fails : Nat)
  | routerLost (tile : Nat) (fromInside : Bool)
  | callAdmission (router group : Nat)
  | partialCombine (router group pos : Nat)
  | rootRounding (router group : Nat)
  | completionToken (agent group : Nat)
  | callReplay (group cause pos : Nat)
  | calldlExpiry (router group : Nat)
  | ringHop (group : Nat)
  -- events: light and chains
  | beaconRequest (request : Nat)
  | beaconSend (group : Nat)
  | blockArrival (group agent : Nat) (bad : Bool)
  | replayToken (group : Nat)
  | releaseCredit (group : Nat)
  | chainWalk (group : Nat)
  | branchCondition (group : Nat)
  | markWrite (group : Nat)
  | blockInvocation (agent : Nat)
  | epilogueEnd (agent : Nat)
  | chainStopToken (group : Nat)
  | chainEndUnit (group agent : Nat)
  | chainLeave (agent : Nat)
  -- events: tasks and contexts
  | tailObserved (cx lvl : Nat)
  | dependenceCounterZero (task : Nat)
  | taskPlacement (cx : Nat)
  | prefetch (task : Nat)
  | taskRetirement (task : Nat)
  | watchdog (task : Nat)
  | killMarker (cx checkpoint : Nat)
  | killAcknowledgement (cx : Nat)
  | orphan (response : Nat)
  | reclaimMarker (cx : Nat)
  | stopMarker (agent : Nat)
  | preemptDrained (cx : Nat)
  | tlbinvMarker (op agent : Nat)
  | translationWalk (walk : Nat)
  | translationTimeout (token : Nat)
  | syscallAnswer (agent strand : Nat) (ans : Word)
  | haltTimeout (agent strand : Nat)
  | faultRecord (core : Nat)
  -- events: host, peers, trust
  | cxlMemRead (port : Nat) (line : Nat)
  | cxlMemWrite (port : Nat) (line : Nat) (data : Line) (mask : BitVec 64)
  | hostSnoop (port : Nat) (addr : Nat) (data : Line)
  | mailboxGo (port : Nat) (attest : Bool) (len op : Nat) (payload : List Byte)
  | mgmtCommand (port : Nat) (code : Byte) (answer : List Byte)
  | certificateChain (port : Nat)
  | attestationReport (port : Nat)
  | signatureCheck (port : Nat)
  | bootstatRead (port : Nat)
  | convoyFormation (port : Nat)
  | revocationOrder (port : Nat)
  | mailboxAnswer (port : Nat) (attest : Bool)
  | ulnenuFrame (cx inc gen sender kind no : Nat) (cipher : List Byte) (tag : BitVec 128)
  | peerCopyLanding (cx inc name offset : Nat) (data : List Byte) (bar : Option Nat)
  -- events: faults, repair, checkpoints, boot
  | correctedError (array : Nat) (unit : Nat)
  | uncorrectableError (key : Nat)
  | scrub (key : Nat) (found : Bool)
  | hueDrift (agent rcv : Nat)
  | hueUnlock (agent rcv : Nat)
  | hueRelock (agent rcv : Nat)
  | receiverLost (agent rcv : Nat)
  | tileDeclaredDead (tile : Nat)
  | shiftRemapWave (row : Nat)
  | waveDrained
  | waveRepaired
  | fullRebuild
  | checkpointQuiesced
  | checkpointCommit
  | checkpointFailed
  | powerGood
  | selfTestEnd (dead : List Nat) (trims : List (Nat × Word))
  | selfTestOverrun (field : Nat)
  | calibrationComplete
  | calibrationOverrun
  | serviceSwitch
  | laserUnitLoss (u : Nat)
  | thermalThrottle (field : Nat)
  | throttleLift (field : Nat)
  | thermalPowerDown (field : Nat)
  | powerLoss
  | requestAtHome (request : Nat)
  | responseLanding (response : Nat)
  | passEnd (agent : Nat)
  | cxloadComplete (cx : Nat)
  | cxsaveComplete (cx : Nat)
  | nameinvAcknowledgement
  | checkpointRestoreComplete
  | contextFreed (cx : Nat)
  | receiverRetune (agent rcv : Nat)
  | laserUnitRelit (u : Nat)
deriving DecidableEq, Repr

end Sys2Proof
end

