-- ==== Sys2Proof/WellFormed.lean ====
section
/-!
DEFINITION. Which instructions a word can say: the code values, reserved bits and combinations that decode accepts
(03 R83 to R86, R90 steps 4, 5 and 7; 04 to 07 and 16 for each instruction), and which registers a strand may name (R21).
-/

namespace Sys2Proof

/-- Floating-point vector ET accepted by arithmetic: FP32, BF16, FP16 (R136). -/
def etFloat3 (et : BitVec 4) : Bool := et.toNat < 3
/-- Integer ET codes (R83). -/
def etInt (et : BitVec 4) : Bool := 5 ≤ et.toNat && et.toNat ≤ 10
/-- Any assigned ET code (R83). -/
def etAny (et : BitVec 4) : Bool := et.toNat ≤ 10
/-- Any floating-point ET code. -/
def etFloat (et : BitVec 4) : Bool := et.toNat < 5
/-- ET of arithmetic instructions: 0 to 2 and 5 to 10 (R136). -/
def etArith (et : BitVec 4) : Bool := etFloat3 et || etInt et
/-- Narrow types of VPACK and VUNPK (R136, R155). -/
def etNarrow (et : BitVec 4) : Bool := [1, 2, 3, 4, 6, 7, 9, 10].contains et.toNat

/-- Width in bits of an element type (R29, R83). -/
def etWidth (et : BitVec 4) : Nat :=
  match et.toNat with
  | 0 => 32 | 1 => 16 | 2 => 16 | 3 => 8 | 4 => 8 | 5 => 32 | 6 => 16 | 7 => 8 | 8 => 32 | 9 => 16 | 10 => 8 | _ => 32

/-- Elements of a register of that type: 512 / width (R29). -/
def etCount (et : BitVec 4) : Nat := 512 / etWidth et

/-- VCVT: number of parts, wide / narrow (R149). -/
def cvtParts (dt st : BitVec 4) : Nat :=
  (Nat.max (etWidth dt) (etWidth st)) / (Nat.min (etWidth dt) (etWidth st))

/-- ORD 0 and 4 name no scope (R117). -/
def ordScopeOk (o : Ord) : Bool := !((o.ord == 0 || o.ord == 4) && o.scope != 0)
/-- The order set accepted, and no scope without an ordering (R117, R158). -/
def ordOk (s : List Nat) (o : Ord) : Bool := s.contains o.ord.toNat && ordScopeOk o
/-- SIZE codes of scalar accesses (R117). -/
def sizeOk (s : BitVec 3) : Bool := s != 7
/-- SIZE codes of vector accesses (R158). -/
def vsizeOk (s : BitVec 3) : Bool := s.toNat < 3
/-- SIZE codes of atomics (R121). -/
def amoSizeOk (s : BitVec 3) : Bool := s == 2 || s == 3 || s == 6
/-- ORD of atomics, at any scope (R121). -/
def amoOrdOk (o : Ord) : Bool := 1 ≤ o.ord.toNat && o.ord.toNat ≤ 4
/-- BR is 0 without BAR (R166). -/
def complOk (c : Compl) : Bool := c.bar == 1 || c.br == 0
/-- A scope only with REL, a level only with BSP, a count in range (R212). -/
def sendOk (maxCount : Nat) (s : SendOp) : Bool :=
  (s.rel == 1 || s.scope == 0) && (s.bsp == 1 || s.lvl == 0) && 1 ≤ s.count.toNat && s.count.toNat ≤ maxCount
/-- The shift count forms of R146. -/
def vshiftOk (vb : VReg) (imm : BitVec 7) : Bool := if imm.getLsbD 6 then vb == 0 else imm == 0
/-- RM is defined where it is used and 0 elsewhere (R137). -/
def rmOk (used : Bool) (rm : BitVec 3) : Bool := if used then rm != 7 else rm == 0
/-- OP and TYPE of RDOPEN (R218). -/
def rdopenOk (base : BitVec 9) (sat : BitVec 1) (ty op : BitVec 4) : Bool :=
  base.toNat ≤ 188 && op.toNat < 7 && ty.toNat < 8 && !(4 ≤ op.toNat && ty.toNat < 4) && !(sat == 1 && !(op == 0 && ty.toNat < 4))

/-- The instruction is one that some word says (steps 4, 5 and 7 of R90, apart from the allocation). Events have no word. -/
def wellFormed : Instr → Bool
  | .bfx _ _ _ pos len _ => pos.toNat + len.toNat ≤ 63
  | .bfi _ _ _ _ pos len => pos.toNat + len.toNat ≤ 63
  | .cmp _ pd _ _ c _ => pd != 0 && c.toNat < 10
  | .cmpImm _ pd _ c _ => pd != 0 && c.toNat < 10
  | .fadd _ _ _ _ rm | .fsub _ _ _ _ rm | .fmul _ _ _ _ rm | .ffma _ _ _ _ _ rm | .fdiv _ _ _ _ rm | .fsqrt _ _ _ rm => rm != 7
  | .fcmp _ pd _ _ c => pd != 0 && c.toNat < 14
  | .fcvt _ _ _ rm _ dt st w64 =>
    rm != 7 && etAny dt && dt != 2 && etAny st && st != 2 && (w64 == 0 || dt == 5 || dt == 8 || st == 5 || st == 8)
  | .pset _ pd c => pd != 0 && c.toNat ≤ 64
  | .plim _ pd _ _ | .pmin _ pd _ _ | .pmax _ pd _ _ => pd != 0
  | .ld _ _ s o _ => sizeOk s && ordOk [0, 1, 4] o
  | .st _ _ s o _ => sizeOk s && ordOk [0, 2, 4] o
  | .ldp _ t o _ => ordOk [0, 1] o && !t.getLsbD 0 && t.toNat < 56
  | .stp _ t o _ => ordOk [0, 2] o && !t.getLsbD 0 && t.toNat < 56
  | .amoadd _ _ _ i s o _ | .amoand _ _ _ i s o _ | .amoor _ _ _ i s o _ | .amoxor _ _ _ i s o _ | .amoswp _ _ _ i s o _ =>
    amoSizeOk s && amoOrdOk o && i != 63
  | .amomin _ _ _ i u s o _ | .amomax _ _ _ i u s o _ => amoSizeOk s && amoOrdOk o && i != 63 && (u == 0 || s == 3)
  | .amocas _ t _ i s o _ => amoSizeOk s && amoOrdOk o && i != 63 && t.toNat < 56
  | .amofadd _ _ _ i o _ => amoOrdOk o && i != 63
  | .fence _ o => 1 ≤ o.ord.toNat && o.ord.toNat ≤ 3
  | .sbar _ m => m != 0
  | .bc _ c _ _ _ => c.toNat < 10
  | .loop _ a _ => a.toNat < 56
  | .vadd _ _ _ _ et rm _ | .vsub _ _ _ _ et rm _ | .vmul _ _ _ _ et rm _ => etArith et && rmOk (etFloat et) rm
  | .vfma _ _ _ _ _ et rm _ | .vfms _ _ _ _ _ et rm _ => etArith et && rmOk (etFloat et) rm
  | .vmin _ _ _ _ et | .vmax _ _ _ _ et | .vabs _ _ _ et _ | .vneg _ _ _ et _ | .vclamp _ _ _ _ _ et => etArith et
  | .vexp2 _ _ _ et rm | .vlog2 _ _ _ et rm | .vrcp _ _ _ et rm | .vrsq _ _ _ et rm | .vtanh _ _ _ et rm | .verf _ _ _ et rm =>
    etFloat3 et && rm != 7
  | .vand _ _ _ _ et | .vor _ _ _ _ et | .vxor _ _ _ _ et | .vnot _ _ _ et | .vmulh _ _ _ _ et => etInt et
  | .vshl _ _ _ vb et imm | .vshr _ _ _ vb et imm | .vsar _ _ _ vb et imm => etInt et && vshiftOk vb imm
  | .vcmp g pd _ _ et c => g.pn == 0 && pd != 0 && etAny et && (if etFloat et then c.toNat < 14 else c.toNat < 10)
  | .vsel _ _ _ _ et _ | .vmov _ _ _ et | .vbcast _ _ _ et => etAny et
  | .vext _ _ _ et i | .vins _ _ _ et i => etAny et && i.toNat < etCount et
  | .vcvt _ _ _ et rm _ part st => etAny et && rm != 7 && etAny st && part.toNat < cvtParts et st
  | .viota _ _ _ et => etInt et
  | .vshup _ _ _ et k => etAny et && 0 ≤ k.toInt
  | .vshdn _ _ _ et k => etAny et && k.toInt ≤ 0 && k.toInt != -16
  | .vrot _ _ _ et k => etAny et && k.toInt != -16
  | .vscan _ _ _ et rm sat op => etArith et && op.toNat < 3 && rmOk (op == 0 && etFloat et) rm && (sat == 0 || op == 0)
  | .vred _ _ _ et rm sat op =>
    etArith et && op.toNat < 6 && !(3 ≤ op.toNat && etFloat et) && rmOk (op == 0 && etFloat et) rm && (sat == 0 || op == 0)
  | .vmaxi _ _ _ _ et => etArith et
  | .vperm _ _ _ _ et k => etAny et && k.toInt ≤ 0 && k.toInt != -16
  | .vpack _ _ _ _ et rm _ => etNarrow et && rmOk (etFloat et) rm
  | .vunpk _ _ _ et _ => etNarrow et
  | .vscale _ _ _ _ et rm _ _ => etFloat3 et && rm != 7
  | .vqnt _ _ _ _ et rm _ => (et == 3 || et == 4) && rm != 7
  | .vld _ _ s o _ | .vlds _ _ s o _ | .vldb _ _ s o _ => vsizeOk s && ordOk [0, 1] o
  | .vst _ _ s o _ | .vsts _ _ s o _ => vsizeOk s && ordOk [0, 2] o
  | .vldff g _ s _ => vsizeOk s && g.pg != 0 && g.pn == 0
  | .vgath _ _ s o _ _ _ _ => vsizeOk s && ordOk [0, 1] o
  | .vscat _ _ s o _ _ _ _ => vsizeOk s && ordOk [0, 2] o
  | .mxcfg _ _ mode _ => mode.toNat < 2
  | .mxldw _ _ sc kq wt _ => wt.toNat < 3 && !(sc == 1 && (!kq.getLsbD 0 || wt == 2))
  | .mxpass _ _ _ mh at' asc _ _ _ _ => at' != 3 && !(mh == 1 && at'.toNat < 2) && !(asc == 1 && at' == 2)
  | .mxdrain _ _ _ _ cs _ | .cpy _ _ _ _ cs _ _ | .cpyf _ _ _ _ cs | .wadv _ _ cs _ | .wsync _ _ cs _ | .wclose _ cs _ => complOk cs
  | .cpy2d _ _ _ c cs | .cpyg _ _ _ c cs _ | .cpys _ _ _ c cs | .cpym _ _ _ c cs _ => complOk cs && !c.getLsbD 0 && c.toNat < 56
  | .barv _ _ b _ e => e == 1 || b == 0
  | .btest _ pc _ _ _ => pc != 0
  | .qbind _ a k _ => k.toNat < 9 && ((1 ≤ k.toNat && k.toNat ≤ 4) || a == 0)
  | .snd _ _ _ s => sendOk 512 s
  | .sndv _ _ _ s => sendOk 8 s
  | .rdopen _ _ _ _ base _ sat ty op => rdopenOk base sat ty op
  | .rdres _ _ _ cs _ => complOk cs
  | .wdrive _ a _ _ => a.toNat < 56
  | .spawn _ _ _ _ _ s8 _ => s8 != 0
  | .tlbinv _ _ _ _ mode cx => mode != 3 && (mode != 2 || cx == 0)
  | _ => true

/-- A MEM base or index of 63 names no register (R81). -/
def memRegs (m : MemOp) : List Reg := (if m.base = 63 then [] else [m.base]) ++ (if m.idx = 63 then [] else [m.idx])

/-- A barrier register is read only with BAR (R166). -/
def complRegs (c : Compl) : List Reg := if c.bar = 1 then [c.br] else []

/-- The scalar fields that step 6 of R90 checks, in the order of R24, the destination last. -/
def scalarFields : Instr → List Reg
  | .add _ d a b _ _ | .sub _ d a b _ _ | .mul _ d a b _ _ | .mulh _ d a b _ _ | .div _ d a b _ _ | .rem _ d a b _ _
  | .and _ d a b _ _ | .or _ d a b _ _ | .xor _ d a b _ _ | .andn _ d a b _ _ | .shl _ d a b _ _ | .shr _ d a b _ _
  | .sar _ d a b _ _ | .rot _ d a b _ _ | .min _ d a b _ _ | .max _ d a b _ _ => [a, b, d]
  | .clz _ d a _ _ | .ctz _ d a _ _ | .popc _ d a _ _ | .bswap _ d a _ _ => [a, d]
  | .ext _ d a _ _ | .bfx _ d a _ _ _ | .mov _ d a => [a, d]
  | .bfi _ d a b _ _ | .lea _ d a b _ => [a, b, d]
  | .sel _ d a b c => [a, b, c, d]
  | .cmp _ _ a b _ _ => [a, b]
  | .addImm _ d a _ | .subImm _ d a _ | .mulImm _ d a _ | .mulhImm _ d a _ | .divImm _ d a _ | .remImm _ d a _ | .andImm _ d a _
  | .orImm _ d a _ | .xorImm _ d a _ | .andnImm _ d a _ | .shlImm _ d a _ | .shrImm _ d a _ | .sarImm _ d a _ | .rotImm _ d a _
  | .minImm _ d a _ | .maxImm _ d a _ | .leaImm _ d a _ => [a, d]
  | .cmpImm _ _ a _ _ => [a]
  | .movi _ d _ => [d]
  | .movhi _ d a _ => [a, d]
  | .fadd _ d a b _ | .fsub _ d a b _ | .fmul _ d a b _ | .fdiv _ d a b _ | .fmin _ d a b | .fmax _ d a b => [a, b, d]
  | .ffma _ d a b c _ => [a, b, c, d]
  | .fsqrt _ d a _ | .fcvt _ d a _ _ _ _ _ | .fclass _ d a => [a, d]
  | .fcmp _ _ a b _ => [a, b]
  | .plim _ _ a b => [a, b]
  | .prd _ d _ => [d]
  | .grd _ d a _ | .gwr _ d a _ => [a, d]
  | .ld _ t _ _ m | .st _ t _ _ m | .ldp _ t _ m | .stp _ t _ m => memRegs m ++ [t]
  | .amoadd _ t b i _ _ _ | .amoand _ t b i _ _ _ | .amoor _ t b i _ _ _ | .amoxor _ t b i _ _ _ | .amoswp _ t b i _ _ _
  | .amocas _ t b i _ _ _ | .amomin _ t b i _ _ _ _ | .amomax _ t b i _ _ _ _ | .amofadd _ t b i _ _ =>
    (if b = 63 then [] else [b]) ++ [i, t]
  | .bc _ _ a b _ => [a, b]
  | .call _ a _ | .ret _ a | .jmpr _ a _ | .loop _ a _ => [a]
  | .vbcast _ _ gs _ | .vins _ _ gs _ _ | .viota _ _ gs _ | .vscale _ _ _ gs _ _ _ _ | .vqnt _ _ _ gs _ _ _ => [gs]
  | .vext _ gd _ _ _ => [gd]
  | .vmaxi _ _ _ gi _ => [gi]
  | .vld _ _ _ _ m | .vst _ _ _ _ m | .vldff _ _ _ m | .vlds _ _ _ _ m | .vsts _ _ _ _ m | .vldb _ _ _ _ m => memRegs m
  | .vgath _ _ _ _ b _ _ _ | .vscat _ _ _ _ b _ _ _ => if b = 63 then [] else [b]
  | .mxldw _ a _ _ _ _ | .mxpert _ a _ _ _ | .mxstat _ a _ => [a]
  | .mxpass _ a b _ _ _ _ _ _ _ | .mxarm _ a b _ => [a, b]
  | .mxdrain _ a b c cs _ | .cpy _ a b c cs _ _ | .cpy2d _ a b c cs | .cpyg _ a b c cs _ | .cpys _ a b c cs | .cpyf _ a b c cs
  | .cpym _ a b c cs _ => [a, b, c] ++ complRegs cs
  | .cpstat _ a _ => [a]
  | .ctcfg _ a b c _ | .wopen _ a b c _ => [a, b, c]
  | .wadv _ a cs _ | .wsync _ a cs _ => a :: complRegs cs
  | .wclose _ cs _ => complRegs cs
  | .binit _ a _ _ => [a]
  | .bexp _ a b | .bwait _ a b _ | .btest _ _ a b _ => [a, b]
  | .barv _ a b _ e => if e = 1 then [a, b] else [a]
  | .qbind _ a k _ => if 1 ≤ k.toNat ∧ k.toNat ≤ 4 then [a] else []
  | .qstat _ a _ => [a]
  | .snd _ a b _ => [a, b]
  | .sndv _ a _ _ => [a]
  | .rdopen _ a b c _ _ _ _ _ | .rdcb _ a b c | .wdrive _ a b c | .spawn _ a b c _ _ _ => [a, b, c]
  | .rdcs _ a b | .inj _ a b | .injc _ a b | .wbpop _ a b => [a, b]
  | .rdres _ a b cs _ => [a, b] ++ complRegs cs
  | .wbhdr _ _ b | .wbrel _ b => [b]
  | .mfs _ d _ | .topo _ d _ => [d]
  | .mts _ a _ => [a]
  | .syscall _ d a _ _ | .tqpush _ d a _ | .tqpop _ d a _ _ | .tqdone _ d a _ | .tqcancel _ d a _ | .place _ d a _
  | .tlbinv _ d a _ _ _ | .nameinv _ d a _ | .cfgw _ d a | .recchk _ d a | .cfgr _ d a | .gtabw _ d a _ | .ttabw _ d a _ => [a, d]
  | .tqresume _ d _ _ | .cxnew _ d _ _ | .cxkill _ d _ | .cxreclaim _ d _ | .cxsave _ d _ _ _ | .cxload _ d _ | .preempt _ d _ | .halt _ d _ => [d]
  | .errinjWrite _ a | .faultansWrite _ a | .rowstateKill _ a | .remapstatRebuild _ a | .ckptCheckpoint _ a | .ckptRestore _ a => [a]
  | _ => []

/-- Every scalar field names a register below ALLOC.SIZE or a queue port (R21), and a register pair lies below it too (R117, R163). -/
def fits (size : Nat) (i : Instr) : Bool :=
  (scalarFields i).all (fun r => 56 ≤ r.toNat || r.toNat < size) &&
  match i with
  | .ldp _ t _ _ | .stp _ t _ _ => t.toNat + 1 < size
  | .cpy2d _ _ _ c _ | .cpyg _ _ _ c _ _ | .cpys _ _ _ c _ | .cpym _ _ _ c _ _ => c.toNat + 1 < size
  | _ => true

/-- An event of the opcode table: a unit of the wafer, or the outside world, makes it; no strand executes it. -/
def isEvent : Instr → Bool
  | .strandStart .. | .commandCompletion .. | .copyLanding .. | .drainStep .. | .windowFill .. | .triggeredPass .. | .passResultHeld ..
  | .rampUpEnd .. | .rampDownEnd .. | .rampGapExpiry .. | .messageLanding .. | .phaseRelease .. | .nameWalk .. | .linkRetry ..
  | .routerLost .. | .callAdmission .. | .partialCombine .. | .rootRounding .. | .completionToken .. | .callReplay ..
  | .calldlExpiry .. | .ringHop .. | .beaconRequest .. | .beaconSend .. | .blockArrival .. | .replayToken .. | .releaseCredit ..
  | .chainWalk .. | .branchCondition .. | .markWrite .. | .blockInvocation .. | .epilogueEnd .. | .chainStopToken .. | .chainEndUnit ..
  | .chainLeave .. | .tailObserved .. | .dependenceCounterZero .. | .taskPlacement .. | .prefetch .. | .taskRetirement .. | .watchdog ..
  | .killMarker .. | .killAcknowledgement .. | .orphan .. | .reclaimMarker .. | .stopMarker .. | .preemptDrained .. | .tlbinvMarker ..
  | .translationWalk .. | .translationTimeout .. | .syscallAnswer .. | .haltTimeout .. | .faultRecord .. | .cxlMemRead .. | .cxlMemWrite ..
  | .hostSnoop .. | .mailboxGo .. | .mgmtCommand .. | .certificateChain .. | .attestationReport .. | .signatureCheck .. | .bootstatRead ..
  | .convoyFormation .. | .revocationOrder .. | .mailboxAnswer .. | .ulnenuFrame .. | .peerCopyLanding .. | .correctedError ..
  | .uncorrectableError .. | .scrub .. | .hueDrift .. | .hueUnlock .. | .hueRelock .. | .receiverLost .. | .tileDeclaredDead ..
  | .shiftRemapWave .. | .waveDrained .. | .waveRepaired .. | .fullRebuild .. | .checkpointQuiesced .. | .checkpointCommit ..
  | .checkpointFailed .. | .powerGood .. | .selfTestEnd .. | .selfTestOverrun .. | .calibrationComplete .. | .calibrationOverrun ..
  | .serviceSwitch .. | .laserUnitLoss .. | .thermalThrottle .. | .throttleLift .. | .thermalPowerDown .. | .powerLoss .. | .requestAtHome ..
  | .responseLanding .. | .passEnd .. | .cxloadComplete .. | .cxsaveComplete .. | .nameinvAcknowledgement .. | .checkpointRestoreComplete ..
  | .contextFreed .. | .receiverRetune .. | .laserUnitRelit .. => true
  | _ => false

/-- The instruction is a helm word of R88, not an event and not a sub-form that shares the word of CFGW or MTS. -/
def isWord (i : Instr) : Bool :=
  match i with
  | .recchk .. | .errinjWrite .. | .faultansWrite .. | .rowstateKill .. | .remapstatRebuild .. | .ckptCheckpoint .. | .ckptRestore .. => false
  | _ => !isEvent i

end Sys2Proof
end

