-- ==== Sys2Proof/Decode.lean ====
section
/-!
DEFINITION. Decoding an instruction word in the order of 03 R90, with the TINFO of R91 and R474, and encoding one from the formats of R80.
`row` gives for each assigned MAJ and FN (R88) what steps 4 to 7 check and the instruction it says; `encode` writes the fields back.
Log 11 says how REASON is numbered.
-/

namespace Sys2Proof

/-- The n bits of w from bit lo up. -/
abbrev fld (w : Word) (lo n : Nat) : BitVec n := w.extractLsb' lo n

/-- A decode trap (R90, R91): PRIVILEGE or ILLEGAL, with REASON and FIELD. -/
structure DecErr where
  priv   : Bool
  reason : Nat
  field  : Nat
deriving DecidableEq, Repr

/-- What decode needs of one MAJ and FN. codes: step 4, the lowest bit of a field and whether its value is accepted, most
significant first. used: the assigned bits below FN, as (lowest bit, width). regs: step 6, the lowest bits of scalar fields, most significant
first. bad: step 7, for each condition the lowest bit of the field it reports and whether it holds. -/
structure Row where
  codes : List (Nat × Bool)
  used  : List (Nat × Nat)
  regs  : List Nat
  bad   : List (Nat × Bool)
  instr : Instr

/-- The guard of a word (R79). -/
def guardOf (w : Word) : Guard := ⟨fld w 53 3, fld w 52 1⟩

/-- The formats of R80. -/
inductive Format where
  | rrr | rri | mem | br | vec | eng | sys
deriving DecidableEq, Repr

/-- The format of a MAJ and the privilege its class needs: 0 U, 1 S, 2 L (R88, R92); none when MAJ is unassigned. -/
def majInfo (maj : Nat) : Option (Format × Nat) :=
  match maj with
  | 0x01 | 0x03 | 0x04 => some (.rrr, 0)
  | 0x21 | 0x22 | 0x05 => some (.rri, 0)
  | 0x40 | 0x41 | 0x42 | 0x66 => some (.mem, 0)
  | 0x50 => some (.br, 0)
  | 0x52 | 0xC0 => some (.sys, 0)
  | 0x60 | 0x61 | 0x62 | 0x63 | 0x64 | 0x65 => some (.vec, 0)
  | 0x80 | 0x81 | 0x82 | 0x83 | 0xA0 | 0xA1 | 0xA2 | 0xA3 => some (.eng, 0)
  | 0xC1 => some (.sys, 1)
  | 0xC2 => some (.sys, 2)
  | _ => none

/-- The lowest bit of FN in a format (R80). -/
def fnLow (f : Format) : Nat := if f = .rrr then 42 else 46

/-- FN of the word in that format. -/
def fnOf (f : Format) (w : Word) : Nat := if f = .rrr then (fld w 42 10).toNat else (fld w 46 6).toNat

/-! ### RRR, RRI -/

/-- Three scalar fields with W32 and UNS (R105). -/
def rowAlu (w : Word) (mk : Guard → Reg → Reg → Reg → BitVec 1 → BitVec 1 → Instr) : Row :=
  ⟨[], [(36, 6), (30, 6), (24, 6), (0, 2)], [36, 30, 24], [], mk (guardOf w) (fld w 36 6) (fld w 30 6) (fld w 24 6) (fld w 0 1) (fld w 1 1)⟩

/-- Two scalar fields with W32 and UNS (R106). -/
def rowAlu1 (w : Word) (mk : Guard → Reg → Reg → BitVec 1 → BitVec 1 → Instr) : Row :=
  ⟨[], [(36, 6), (30, 6), (0, 2)], [36, 30], [], mk (guardOf w) (fld w 36 6) (fld w 30 6) (fld w 0 1) (fld w 1 1)⟩

/-- D, A and a 34-bit immediate (R89, R109). -/
def rowImm (w : Word) (mk : Guard → Reg → Reg → BitVec 34 → Instr) : Row :=
  ⟨[], [(40, 6), (34, 6), (0, 34)], [40, 34], [], mk (guardOf w) (fld w 40 6) (fld w 34 6) (fld w 0 34)⟩

/-- D, A and a shift count in IMM<5:0> (R89). -/
def rowShiftImm (w : Word) (mk : Guard → Reg → Reg → BitVec 6 → Instr) : Row :=
  ⟨[], [(40, 6), (34, 6), (0, 6)], [40, 34], [], mk (guardOf w) (fld w 40 6) (fld w 34 6) (fld w 0 6)⟩

/-- FP32 operation with D, A, B and RM (R112). -/
def rowFp (w : Word) (mk : Guard → Reg → Reg → Reg → BitVec 3 → Instr) : Row :=
  ⟨[(15, fld w 15 3 != 7)], [(36, 6), (30, 6), (24, 6), (15, 3)], [36, 30, 24], [],
   mk (guardOf w) (fld w 36 6) (fld w 30 6) (fld w 24 6) (fld w 15 3)⟩

/-- MAJ 0x01 (R86, R105 to R108). -/
def row01 (fn : Nat) (w : Word) : Option Row :=
  let g := guardOf w; let d : Reg := fld w 36 6; let a : Reg := fld w 30 6; let b : Reg := fld w 24 6; let c : Reg := fld w 18 6
  let pos : BitVec 6 := fld w 12 6; let len : BitVec 6 := fld w 6 6; let u : BitVec 1 := fld w 1 1
  match fn with
  | 0 => some (rowAlu w .add) | 1 => some (rowAlu w .sub) | 2 => some (rowAlu w .mul) | 3 => some (rowAlu w .mulh)
  | 4 => some (rowAlu w .div) | 5 => some (rowAlu w .rem) | 6 => some (rowAlu w .and) | 7 => some (rowAlu w .or)
  | 8 => some (rowAlu w .xor) | 9 => some (rowAlu w .andn) | 10 => some (rowAlu w .shl) | 11 => some (rowAlu w .shr)
  | 12 => some (rowAlu w .sar) | 13 => some (rowAlu w .rot) | 14 => some (rowAlu w .min) | 15 => some (rowAlu w .max)
  | 16 => some (rowAlu1 w .clz) | 17 => some (rowAlu1 w .ctz) | 18 => some (rowAlu1 w .popc) | 19 => some (rowAlu1 w .bswap)
  | 20 => some ⟨[], [(36, 6), (30, 6), (6, 6), (1, 1)], [36, 30], [], .ext g d a len u⟩
  | 21 => some ⟨[], [(36, 6), (30, 6), (12, 6), (6, 6), (1, 1)], [36, 30], [(12, 63 < pos.toNat + len.toNat)], .bfx g d a pos len u⟩
  | 22 => some ⟨[], [(36, 6), (30, 6), (24, 6), (12, 6), (6, 6)], [36, 30, 24], [(12, 63 < pos.toNat + len.toNat)], .bfi g d a b pos len⟩
  | 23 => some ⟨[], [(36, 6), (30, 6), (24, 6), (18, 6)], [36, 30, 24, 18], [], .sel g d a b c⟩
  | 24 => some ⟨[], [(36, 6), (30, 6)], [36, 30], [], .mov g d a⟩
  | 25 => some ⟨[(2, (fld w 2 4).toNat < 10)], [(36, 3), (30, 6), (24, 6), (2, 4), (0, 1)], [30, 24], [(36, fld w 36 3 == 0)],
           .cmp g (fld w 36 3) a b (fld w 2 4) (fld w 0 1)⟩
  | 26 => some ⟨[], [(36, 6), (30, 6), (24, 6), (12, 6)], [36, 30, 24], [(12, 3 < pos.toNat)], .lea g d a b (fld w 12 2)⟩
  | _ => none

/-- MAJ 0x21 (R89, R109). -/
def row21 (fn : Nat) (w : Word) : Option Row :=
  match fn with
  | 0 => some (rowImm w .addImm) | 1 => some (rowImm w .subImm) | 2 => some (rowImm w .mulImm) | 3 => some (rowImm w .mulhImm)
  | 4 => some (rowImm w .divImm) | 5 => some (rowImm w .remImm) | 6 => some (rowImm w .andImm) | 7 => some (rowImm w .orImm)
  | 8 => some (rowImm w .xorImm) | 9 => some (rowImm w .andnImm) | 10 => some (rowShiftImm w .shlImm) | 11 => some (rowShiftImm w .shrImm)
  | 12 => some (rowShiftImm w .sarImm) | 13 => some (rowShiftImm w .rotImm) | 14 => some (rowImm w .minImm) | 15 => some (rowImm w .maxImm)
  | 25 => some ⟨[(30, (fld w 30 4).toNat < 10)], [(40, 3), (34, 6), (0, 34)], [34], [(40, fld w 40 3 == 0)],
           .cmpImm (guardOf w) (fld w 40 3) (fld w 34 6) (fld w 30 4) (fld w 0 30)⟩
  | 26 => some (rowImm w .leaImm)
  | _ => none

/-- MAJ 0x22 (R110). -/
def row22 (fn : Nat) (w : Word) : Option Row :=
  match fn with
  | 0 => some ⟨[], [(40, 6), (0, 34)], [40], [], .movi (guardOf w) (fld w 40 6) (fld w 0 34)⟩
  | 1 => some ⟨[], [(40, 6), (34, 6), (0, 30)], [40, 34], [], .movhi (guardOf w) (fld w 40 6) (fld w 34 6) (fld w 0 30)⟩
  | _ => none

/-- MAJ 0x03 (R86, R112, R113). -/
def row03 (fn : Nat) (w : Word) : Option Row :=
  let g := guardOf w; let d : Reg := fld w 36 6; let a : Reg := fld w 30 6; let b : Reg := fld w 24 6
  let dt : BitVec 4 := fld w 10 4; let st : BitVec 4 := fld w 6 4
  match fn with
  | 0 => some (rowFp w .fadd) | 1 => some (rowFp w .fsub) | 2 => some (rowFp w .fmul)
  | 3 => some ⟨[(15, fld w 15 3 != 7)], [(36, 6), (30, 6), (24, 6), (18, 6), (15, 3)], [36, 30, 24, 18], [],
          .ffma g d a b (fld w 18 6) (fld w 15 3)⟩
  | 4 => some (rowFp w .fdiv)
  | 5 => some ⟨[(15, fld w 15 3 != 7)], [(36, 6), (30, 6), (15, 3)], [36, 30], [], .fsqrt g d a (fld w 15 3)⟩
  | 6 => some ⟨[], [(36, 6), (30, 6), (24, 6)], [36, 30, 24], [], .fmin g d a b⟩
  | 7 => some ⟨[], [(36, 6), (30, 6), (24, 6)], [36, 30, 24], [], .fmax g d a b⟩
  | 8 => some ⟨[(2, (fld w 2 4).toNat < 14)], [(36, 3), (30, 6), (24, 6), (2, 4)], [30, 24], [(36, fld w 36 3 == 0)],
          .fcmp g (fld w 36 3) a b (fld w 2 4)⟩
  | 9 => some ⟨[(15, fld w 15 3 != 7), (10, etAny dt && dt != 2), (6, etAny st && st != 2)],
          [(36, 6), (30, 6), (15, 3), (14, 1), (10, 4), (6, 4), (1, 1)], [36, 30],
          [(10, fld w 1 1 == 1 && !(dt == 5 || dt == 8 || st == 5 || st == 8))],
          .fcvt g d a (fld w 15 3) (fld w 14 1) dt st (fld w 1 1)⟩
  | 10 => some ⟨[], [(36, 6), (30, 6)], [36, 30], [], .fclass g d a⟩
  | _ => none

/-- MAJ 0x04 (R115). -/
def row04 (fn : Nat) (w : Word) : Option Row :=
  let g := guardOf w; let pd : PReg := fld w 36 3; let p0 := (36, pd == 0)
  match fn with
  | 0 => some ⟨[], [(36, 3), (0, 7)], [], [p0, (0, 64 < (fld w 0 7).toNat)], .pset g pd (fld w 0 7)⟩
  | 1 => some ⟨[], [(36, 3), (30, 6), (24, 6)], [30, 24], [p0], .plim g pd (fld w 30 6) (fld w 24 6)⟩
  | 2 => some ⟨[], [(36, 3), (30, 3), (24, 3)], [], [p0], .pmin g pd (fld w 30 3) (fld w 24 3)⟩
  | 3 => some ⟨[], [(36, 3), (30, 3), (24, 3)], [], [p0], .pmax g pd (fld w 30 3) (fld w 24 3)⟩
  | 4 => some ⟨[], [(36, 6), (30, 3)], [36], [], .prd g (fld w 36 6) (fld w 30 3)⟩
  | _ => none

/-- MAJ 0x05 (R116). -/
def row05 (fn : Nat) (w : Word) : Option Row :=
  match fn with
  | 0 => some (rowImm w .grd)
  | 1 => some (rowImm w .gwr)
  | _ => none

/-! ### MEM -/

/-- The order and scope fields (R80). -/
def ordOf (w : Word) : Ord := ⟨fld w 20 3, fld w 18 2⟩
/-- The address fields (R80). -/
def memOf (w : Word) : MemOp := ⟨fld w 34 6, fld w 28 6, fld w 26 2, fld w 0 18⟩
/-- Base and index fields that name registers, most significant first (R81). -/
def memLows (w : Word) : List Nat := (if fld w 34 6 = 63 then [] else [34]) ++ (if fld w 28 6 = 63 then [] else [28])
/-- Step 4 of SIZE and ORD (R117). -/
def memCodes (w : Word) (size : Bool) (ords : List Nat) : List (Nat × Bool) := [(23, size), (20, ords.contains (fld w 20 3).toNat)]
/-- Step 7 of order and scope (R117). -/
def memBad (w : Word) : Nat × Bool := (20, !ordScopeOk (ordOf w))
/-- Assigned bits of a MEM word below SIZE and above. -/
def memUsed : List (Nat × Nat) := [(40, 6), (34, 6), (28, 6), (26, 2), (23, 3), (20, 3), (18, 2), (0, 18)]

/-- MAJ 0x40 (R117). -/
def row40 (fn : Nat) (w : Word) (size : Nat) : Option Row :=
  let g := guardOf w; let t : Reg := fld w 40 6; let s : BitVec 3 := fld w 23 3
  let pair := (40, t.getLsbD 0 || 56 ≤ t.toNat || size ≤ t.toNat + 1)
  match fn with
  | 0 => some ⟨memCodes w (s != 7) [0, 1, 4], memUsed, 40 :: memLows w, [memBad w], .ld g t s (ordOf w) (memOf w)⟩
  | 1 => some ⟨memCodes w (s != 7) [0, 2, 4], memUsed, 40 :: memLows w, [memBad w], .st g t s (ordOf w) (memOf w)⟩
  | 2 => some ⟨memCodes w (s == 3) [0, 1], memUsed, 40 :: memLows w, [pair, memBad w], .ldp g t (ordOf w) (memOf w)⟩
  | 3 => some ⟨memCodes w (s == 3) [0, 2], memUsed, 40 :: memLows w, [pair, memBad w], .stp g t (ordOf w) (memOf w)⟩
  | _ => none

/-- MAJ 0x41 (R121). -/
def row41 (fn : Nat) (w : Word) : Option Row :=
  let g := guardOf w; let t : Reg := fld w 40 6; let b : Reg := fld w 34 6; let i : Reg := fld w 28 6; let s : BitVec 3 := fld w 23 3
  let d : BitVec 18 := fld w 0 18; let o := ordOf w; let uns : BitVec 1 := fld w 26 1
  let sizeAcc := if fn = 8 then s == 2 else amoSizeOk s
  let minmax := fn = 1 ∨ fn = 2
  let codes := (if minmax then [(26, fld w 26 2 == 0 || (fld w 26 2 == 1 && s == 3))] else []) ++ [(23, sizeAcc), (20, amoOrdOk o)]
  let used := [(40, 6), (34, 6), (28, 6), (23, 3), (20, 3), (18, 2), (0, 18)] ++ (if minmax then [(26, 2)] else [])
  let regs := (if b = 63 then [40] else [40, 34]) ++ [28]
  let mk (x : Instr) : Option Row := some ⟨codes, used, regs, [(40, fn = 7 && 56 ≤ t.toNat), (28, i == 63)], x⟩
  match fn with
  | 0 => mk (.amoadd g t b i s o d)
  | 1 => mk (.amomin g t b i uns s o d)
  | 2 => mk (.amomax g t b i uns s o d)
  | 3 => mk (.amoand g t b i s o d)
  | 4 => mk (.amoor g t b i s o d)
  | 5 => mk (.amoxor g t b i s o d)
  | 6 => mk (.amoswp g t b i s o d)
  | 7 => mk (.amocas g t b i s o d)
  | 8 => mk (.amofadd g t b i o d)
  | _ => none

/-- MAJ 0x42 (R125, R126). -/
def row42 (fn : Nat) (w : Word) : Option Row :=
  match fn with
  | 0 => some ⟨[(20, 1 ≤ (fld w 20 3).toNat && (fld w 20 3).toNat ≤ 3)], [(20, 3), (18, 2)], [], [], .fence (guardOf w) (ordOf w)⟩
  | 1 => some ⟨[], [(0, 18)], [], [(0, fld w 0 18 == 0)], .sbar (guardOf w) (fld w 0 18)⟩
  | _ => none

/-- MAJ 0x66 (R158). -/
def row66 (fn : Nat) (w : Word) : Option Row :=
  let g := guardOf w; let t : VReg := fld w 40 5; let s : BitVec 3 := fld w 23 3; let o := ordOf w; let m := memOf w
  let t5 := (40, fld w 45 1 == 1)
  let mk (ords : List Nat) (x : Instr) : Option Row :=
    some ⟨memCodes w (vsizeOk s) ords, memUsed, memLows w, [t5, memBad w], x⟩
  let mkx (ords : List Nat) (x : Instr) : Option Row :=
    some ⟨memCodes w (vsizeOk s) ords, memUsed, if fld w 34 6 = 63 then [] else [34], [t5, (28, fld w 33 1 == 1), memBad w], x⟩
  match fn with
  | 0 => mk [0, 1] (.vld g t s o m)
  | 1 => mk [0, 2] (.vst g t s o m)
  | 2 => some ⟨memCodes w (vsizeOk s) [0], memUsed, memLows w, [(53, fld w 53 3 == 0), (52, fld w 52 1 == 1), t5, memBad w], .vldff g t s m⟩
  | 3 => mk [0, 1] (.vlds g t s o m)
  | 4 => mk [0, 2] (.vsts g t s o m)
  | 5 => mkx [0, 1] (.vgath g t s o (fld w 34 6) (fld w 28 5) (fld w 26 2) (fld w 0 18))
  | 6 => mkx [0, 2] (.vscat g t s o (fld w 34 6) (fld w 28 5) (fld w 26 2) (fld w 0 18))
  | 7 => mk [0, 1] (.vldb g t s o m)
  | _ => none

/-! ### BR and SYS -/

/-- MAJ 0x50 (R127). -/
def row50 (fn : Nat) (w : Word) : Option Row :=
  let g := guardOf w; let a : Reg := fld w 36 6; let off : BitVec 30 := fld w 0 30
  match fn with
  | 0 => some ⟨[], [(0, 30)], [], [], .br g off⟩
  | 1 => some ⟨[(42, (fld w 42 4).toNat < 10)], [(42, 4), (36, 6), (30, 6), (0, 30)], [36, 30], [], .bc g (fld w 42 4) a (fld w 30 6) off⟩
  | 2 => some ⟨[(42, (fld w 42 4).toNat < 2)], [(42, 4), (36, 3), (0, 30)], [], [], .bp g (fld w 42 1) (fld w 36 3) off⟩
  | 3 => some ⟨[], [(36, 6), (0, 30)], [36], [], .call g a off⟩
  | 4 => some ⟨[], [(36, 6)], [36], [], .ret g a⟩
  | 5 => some ⟨[], [(36, 6), (0, 30)], [36], [], .jmpr g a off⟩
  | 6 => some ⟨[], [(36, 6), (0, 30)], [36], [(36, 56 ≤ a.toNat)], .loop g a off⟩
  | _ => none

/-- MAJ 0x52 (R130). -/
def row52 (fn : Nat) (w : Word) : Option Row :=
  let g := guardOf w
  match fn with
  | 0 => some ⟨[], [(0, 1)], [], [], .exit g (fld w 0 1)⟩
  | 1 => some ⟨[], [], [], [], .yield g⟩
  | 2 => some ⟨[], [], [], [], .nop g⟩
  | 3 => some ⟨[], [(0, 34)], [], [], .trap g (fld w 0 34)⟩
  | 4 => some ⟨[], [(0, 34)], [], [], .brk g (fld w 0 34)⟩
  | _ => none

/-- MAJ 0xC0 (R379). -/
def rowC0 (fn : Nat) (w : Word) : Option Row :=
  let g := guardOf w; let d : Reg := fld w 40 6; let a : Reg := fld w 34 6
  match fn with
  | 0 => some ⟨[], [(40, 6), (0, 12)], [40], [], .mfs g d (fld w 0 12)⟩
  | 1 => some ⟨[], [(34, 6), (0, 12)], [34], [], .mts g a (fld w 0 12)⟩
  | 2 => some ⟨[], [(40, 6), (0, 1)], [40], [], .topo g d (fld w 0 1)⟩
  | 3 => some ⟨[], [(40, 6), (34, 6), (33, 1), (0, 16)], [40, 34], [], .syscall g d a (fld w 33 1) (fld w 0 16)⟩
  | 4 => some ⟨[], [(40, 6), (34, 6), (0, 2)], [40, 34], [], .tqpush g d a (fld w 0 2)⟩
  | 5 => some ⟨[], [], [], [], .tret g⟩
  | _ => none

/-- MAJ 0xC1 (R385). -/
def rowC1 (fn : Nat) (w : Word) : Option Row :=
  let g := guardOf w; let d : Reg := fld w 40 6; let a : Reg := fld w 34 6; let cx : BitVec 6 := fld w 0 6; let lvl : BitVec 2 := fld w 6 2
  let mode2 := fld w 6 2 == 2
  match fn with
  | 0 => some ⟨[], [(40, 6), (34, 6), (0, 8)], [40, 34], [], .tqpop g d a lvl cx⟩
  | 1 => some ⟨[], [(40, 6), (34, 6), (0, 6)], [40, 34], [], .tqdone g d a cx⟩
  | 2 => some ⟨[], [(40, 6), (34, 6), (0, 6)], [40, 34], [], .tqcancel g d a cx⟩
  | 3 => some ⟨[], [(40, 6), (0, 8)], [40], [], .tqresume g d lvl cx⟩
  | 4 => some ⟨[], [(40, 6), (34, 6), (0, 6)], [40, 34], [], .place g d a cx⟩
  | 5 => some ⟨[], [(40, 6), (0, 7)], [40], [], .cxnew g d (fld w 6 1) cx⟩
  | 6 => some ⟨[], [(40, 6), (0, 6)], [40], [], .cxkill g d cx⟩
  | 7 => some ⟨[], [(40, 6), (0, 6)], [40], [], .cxreclaim g d cx⟩
  | 8 => some ⟨[], [(40, 6), (0, 8)], [40], [], .cxsave g d (fld w 7 1) (fld w 6 1) cx⟩
  | 9 => some ⟨[], [(40, 6), (0, 6)], [40], [], .cxload g d cx⟩
  | 10 => some ⟨[], [(40, 6), (0, 6)], [40], [], .preempt g d cx⟩
  | 11 => some ⟨[], [(40, 6), (34, 6), (6, 22)] ++ (if mode2 then [] else [(0, 6)]), [40, 34], [(6, fld w 6 2 == 3)],
           .tlbinv g d a (fld w 8 20) (fld w 6 2) cx⟩
  | 12 => some ⟨[], [(40, 6), (34, 6), (6, 1)], [40, 34], [], .nameinv g d a (fld w 6 1)⟩
  | 13 => some ⟨[], [(40, 6), (0, 20)], [40], [], .halt g d (fld w 0 20)⟩
  | _ => none

/-- MAJ 0xC2 (R387, R389). -/
def rowC2 (fn : Nat) (w : Word) : Option Row :=
  let g := guardOf w; let d : Reg := fld w 40 6; let a : Reg := fld w 34 6
  match fn with
  | 0 => some ⟨[], [(40, 6), (34, 6)], [40, 34], [], .cfgw g d a⟩
  | 1 => some ⟨[], [(40, 6), (34, 6)], [40, 34], [], .cfgr g d a⟩
  | 2 => some ⟨[], [(40, 6), (34, 6), (0, 8)], [40, 34], [], .gtabw g d a (fld w 0 8)⟩
  | 3 => some ⟨[], [(40, 6), (34, 6), (0, 9)], [40, 34], [], .ttabw g d a (fld w 0 9)⟩
  | _ => none

/-! ### VEC -/

/-- RM as a code field, when the instruction uses it (R137). -/
def rmCode (w : Word) (used : Bool) : List (Nat × Bool) := if used then [(19, fld w 19 3 != 7)] else []
/-- The RM and SAT bits, when used (R137). -/
def rmSatUsed (rm sat : Bool) : List (Nat × Nat) := (if rm then [(19, 3)] else []) ++ (if sat then [(18, 1)] else [])

/-- MAJ 0x60 (R136, R137, R142). -/
def row60 (fn : Nat) (w : Word) : Option Row :=
  let g := guardOf w; let d : VReg := fld w 41 5; let a : VReg := fld w 36 5; let b : VReg := fld w 31 5; let c : VReg := fld w 26 5
  let et : BitVec 4 := fld w 22 4; let rm : BitVec 3 := fld w 19 3; let sat : BitVec 1 := fld w 18 1; let f := etFloat et
  let code := [(22, etArith et)]
  let two := [(41, 5), (36, 5), (22, 4)]
  match fn with
  | 0 => some ⟨code ++ rmCode w f, two ++ [(31, 5)] ++ rmSatUsed f true, [], [], .vadd g d a b et rm sat⟩
  | 1 => some ⟨code ++ rmCode w f, two ++ [(31, 5)] ++ rmSatUsed f true, [], [], .vsub g d a b et rm sat⟩
  | 2 => some ⟨code ++ rmCode w f, two ++ [(31, 5)] ++ rmSatUsed f true, [], [], .vmul g d a b et rm sat⟩
  | 3 => some ⟨code ++ rmCode w f, two ++ [(31, 5), (26, 5)] ++ rmSatUsed f true, [], [], .vfma g d a b c et rm sat⟩
  | 4 => some ⟨code ++ rmCode w f, two ++ [(31, 5), (26, 5)] ++ rmSatUsed f true, [], [], .vfms g d a b c et rm sat⟩
  | 5 => some ⟨code, two ++ [(31, 5)], [], [], .vmin g d a b et⟩
  | 6 => some ⟨code, two ++ [(31, 5)], [], [], .vmax g d a b et⟩
  | 7 => some ⟨code, two ++ rmSatUsed false true, [], [], .vabs g d a et sat⟩
  | 8 => some ⟨code, two ++ rmSatUsed false true, [], [], .vneg g d a et sat⟩
  | 9 => some ⟨code, two ++ [(31, 5), (26, 5)], [], [], .vclamp g d a b c et⟩
  | _ => none

/-- MAJ 0x61 (R144). -/
def row61 (fn : Nat) (w : Word) : Option Row :=
  let mk (x : Guard → VReg → VReg → BitVec 4 → BitVec 3 → Instr) : Option Row :=
    some ⟨[(22, etFloat3 (fld w 22 4)), (19, fld w 19 3 != 7)], [(41, 5), (36, 5), (22, 4), (19, 3)], [], [],
      x (guardOf w) (fld w 41 5) (fld w 36 5) (fld w 22 4) (fld w 19 3)⟩
  match fn with
  | 0 => mk .vexp2 | 1 => mk .vlog2 | 2 => mk .vrcp | 3 => mk .vrsq | 4 => mk .vtanh | 5 => mk .verf
  | _ => none

/-- MAJ 0x62 (R146). -/
def row62 (fn : Nat) (w : Word) : Option Row :=
  let g := guardOf w; let d : VReg := fld w 41 5; let a : VReg := fld w 36 5; let b : VReg := fld w 31 5; let et : BitVec 4 := fld w 22 4
  let imm : BitVec 7 := fld w 0 7
  let code := [(22, etInt et)]
  let three := [(41, 5), (36, 5), (31, 5), (22, 4)]
  let shift := if imm.getLsbD 6 then [(41, 5), (36, 5), (22, 4), (0, 7)] else [(41, 5), (36, 5), (31, 5), (22, 4), (6, 1)]
  match fn with
  | 0 => some ⟨code, three, [], [], .vand g d a b et⟩
  | 1 => some ⟨code, three, [], [], .vor g d a b et⟩
  | 2 => some ⟨code, three, [], [], .vxor g d a b et⟩
  | 3 => some ⟨code, [(41, 5), (36, 5), (22, 4)], [], [], .vnot g d a et⟩
  | 4 => some ⟨code, shift, [], [], .vshl g d a b et imm⟩
  | 5 => some ⟨code, shift, [], [], .vshr g d a b et imm⟩
  | 6 => some ⟨code, shift, [], [], .vsar g d a b et imm⟩
  | 7 => some ⟨code, three, [], [], .vmulh g d a b et⟩
  | _ => none

/-- MAJ 0x63 (R147 to R150). An element number or a PART beyond its ET reports its own field, not FIELD 22 (03 R474, log 111). -/
def row63 (fn : Nat) (w : Word) : Option Row :=
  let g := guardOf w; let d : VReg := fld w 41 5; let a : VReg := fld w 36 5; let b : VReg := fld w 31 5; let et : BitVec 4 := fld w 22 4
  let imm : BitVec 7 := fld w 0 7; let gr : Reg := fld w 7 6; let c : BitVec 4 := fld w 0 4
  match fn with
  | 0 => some ⟨[(22, etAny et), (0, if etFloat et then c.toNat < 14 else c.toNat < 10)], [(41, 3), (36, 5), (31, 5), (22, 4), (0, 4)], [],
          [(52, g.pn == 1), (41, fld w 41 3 == 0)], .vcmp g (fld w 41 3) a b et c⟩
  | 1 => some ⟨[(22, etAny et)], [(41, 5), (36, 5), (31, 5), (22, 4), (0, 3)], [], [], .vsel g d a b et (fld w 0 3)⟩
  | 2 => some ⟨[(22, etAny et), (19, fld w 19 3 != 7)], [(41, 5), (36, 5), (22, 4), (19, 3), (18, 1), (0, 6)], [],
          [(4, etAny c && cvtParts et c ≤ (fld w 4 2).toNat), (0, !etAny c)], .vcvt g d a et (fld w 19 3) (fld w 18 1) (fld w 4 2) c⟩
  | 3 => some ⟨[(22, etAny et)], [(41, 5), (36, 5), (22, 4)], [], [], .vmov g d a et⟩
  | 4 => some ⟨[(22, etAny et)], [(41, 5), (22, 4), (7, 6)], [7], [], .vbcast g d gr et⟩
  | 5 => some ⟨[(22, etAny et)], [(36, 5), (22, 4), (7, 6), (0, 7)], [7], [(0, etCount et ≤ imm.toNat)], .vext g gr a et imm⟩
  | 6 => some ⟨[(22, etAny et)], [(41, 5), (22, 4), (7, 6), (0, 7)], [7], [(0, etCount et ≤ imm.toNat)], .vins g d gr et imm⟩
  | 7 => some ⟨[(22, etInt et)], [(41, 5), (22, 4), (7, 6)], [7], [], .viota g d gr et⟩
  | 8 => some ⟨[(22, fld w 22 4 == 0)], [(0, 3)], [], [], .vcond g (fld w 0 3)⟩
  | _ => none

/-- MAJ 0x64 (R151 to R154). -/
def row64 (fn : Nat) (w : Word) : Option Row :=
  let g := guardOf w; let d : VReg := fld w 41 5; let a : VReg := fld w 36 5; let b : VReg := fld w 31 5; let et : BitVec 4 := fld w 22 4
  let k : BitVec 5 := fld w 13 5; let op : BitVec 7 := fld w 0 7; let rm : BitVec 3 := fld w 19 3; let sat : BitVec 1 := fld w 18 1
  let two := [(41, 5), (36, 5), (22, 4), (13, 5)]
  let f := op == 0 && etFloat et
  match fn with
  | 0 => some ⟨[(22, etAny et)], two, [], [(13, k.toInt < 0)], .vshup g d a et k⟩
  | 1 => some ⟨[(22, etAny et)], two, [], [(13, 0 < k.toInt || k.toInt == -16)], .vshdn g d a et k⟩
  | 2 => some ⟨[(22, etAny et)], two, [], [(13, k.toInt == -16)], .vrot g d a et k⟩
  | 3 => some ⟨[(22, etArith et)] ++ rmCode w f, two ++ rmSatUsed f (op == 0) ++ [(0, 7)], [], [(13, k != 15), (0, 3 ≤ op.toNat)],
          .vscan g d a et rm sat op⟩
  | 4 => some ⟨[(22, etArith et)] ++ rmCode w f, two ++ rmSatUsed f (op == 0) ++ [(0, 7)], [],
          [(22, 3 ≤ op.toNat && op.toNat ≤ 5 && etFloat et), (13, k != 15), (0, 6 ≤ op.toNat)], .vred g d a et rm sat op⟩
  | 5 => some ⟨[(22, etArith et)], two ++ [(7, 6)], [7], [(13, k != 15)], .vmaxi g d a (fld w 7 6) et⟩
  | 6 => some ⟨[(22, etAny et)], two ++ [(31, 5)], [], [(13, 0 < k.toInt || k.toInt == -16)], .vperm g d a b et k⟩
  | _ => none

/-- MAJ 0x65 (R155 to R157). -/
def row65 (fn : Nat) (w : Word) : Option Row :=
  let g := guardOf w; let d : VReg := fld w 41 5; let a : VReg := fld w 36 5; let et : BitVec 4 := fld w 22 4; let gr : Reg := fld w 7 6
  let rm : BitVec 3 := fld w 19 3; let sat : BitVec 1 := fld w 18 1; let f := etFloat et
  let two := [(41, 5), (36, 5), (22, 4)]
  match fn with
  | 0 => some ⟨[(22, etNarrow et)] ++ rmCode w f, two ++ [(31, 5)] ++ rmSatUsed f true, [], [], .vpack g d a (fld w 31 5) et rm sat⟩
  | 1 => some ⟨[(22, etNarrow et)], two ++ [(0, 1)], [], [], .vunpk g d a et (fld w 0 1)⟩
  | 2 => some ⟨[(22, etFloat3 et)] ++ rmCode w true, two ++ rmSatUsed true true ++ [(7, 6), (0, 1)], [7], [], .vscale g d a gr et rm sat (fld w 0 1)⟩
  | 3 => some ⟨[(22, et == 3 || et == 4)] ++ rmCode w true, two ++ rmSatUsed true false ++ [(7, 6), (0, 1)], [7], [], .vqnt g d a gr et rm (fld w 0 1)⟩
  | _ => none

/-! ### ENG -/

/-- The completion specifier (R166). -/
def complOf (w : Word) : Compl := ⟨fld w 22 6, fld w 21 1, fld w 20 1, fld w 8 12⟩
/-- Its assigned bits: BR only with BAR. -/
def complUsed (w : Word) : List (Nat × Nat) := (8, 14) :: (if fld w 20 1 = 1 then [(22, 6)] else [])
/-- Its scalar field. -/
def complLows (w : Word) : List Nat := if fld w 20 1 = 1 then [22] else []
/-- A register pair through C (R163). -/
def pairBad (w : Word) (size : Nat) : Nat × Bool :=
  (28, fld w 28 1 == 1 || 56 ≤ (fld w 28 6).toNat || size ≤ (fld w 28 6).toNat + 1)

/-- MAJ 0x80 (R172 to R187). -/
def row80 (fn : Nat) (w : Word) : Option Row :=
  let g := guardOf w; let a : Reg := fld w 40 6; let b : Reg := fld w 34 6; let c : Reg := fld w 28 6; let bank : BitVec 2 := fld w 0 2
  match fn with
  | 0 => some ⟨[], [(0, 13)], [], [(2, 2 ≤ (fld w 2 2).toNat)], .mxcfg g (fld w 4 9) (fld w 2 2) bank⟩
  | 1 => some ⟨[], [(0, 2)], [], [], .mxzero g bank⟩
  | 2 => some ⟨[], [(40, 6), (0, 8)], [40], [(7, fld w 7 1 == 1 && (fld w 4 1 == 0 || fld w 1 3 == 2)), (1, 3 ≤ (fld w 1 3).toNat)],
          .mxldw g a (fld w 7 1) (fld w 4 3) (fld w 1 3) (fld w 0 1)⟩
  | 3 => some ⟨[], [(40, 6), (34, 6), (0, 15)], [40, 34],
          [(14, fld w 14 1 == 1 && (fld w 12 2).toNat < 2), (12, fld w 12 2 == 3 || (fld w 11 1 == 1 && fld w 12 2 == 2))],
          .mxpass g a b (fld w 14 1) (fld w 12 2) (fld w 11 1) (fld w 10 1) (fld w 3 7) (fld w 2 1) bank⟩
  | 4 => some ⟨[], [(40, 6), (34, 6), (0, 3)], [40, 34], [], .mxarm g a b (fld w 0 3)⟩
  | 5 => some ⟨[], [(0, 3)], [], [], .mxdisarm g (fld w 0 3)⟩
  | 6 => some ⟨[], [(40, 6), (34, 6), (28, 6), (0, 2)] ++ complUsed w, [40, 34, 28] ++ complLows w, [], .mxdrain g a b c (complOf w) bank⟩
  | 7 => some ⟨[], [(0, 16)], [], [], .mxramp g (fld w 0 16)⟩
  | 8 => some ⟨[], [(0, 8)], [], [], .mxwait g (fld w 0 8)⟩
  | 9 => some ⟨[], [(40, 6), (0, 16)], [40], [], .mxpert g a (fld w 9 7) (fld w 2 7) bank⟩
  | 10 => some ⟨[], [(40, 6), (0, 2)], [40], [], .mxstat g a bank⟩
  | _ => none

/-- MAJ 0x81 (R190 to R194). -/
def row81 (fn : Nat) (w : Word) (size : Nat) : Option Row :=
  let g := guardOf w; let a : Reg := fld w 40 6; let b : Reg := fld w 34 6; let c : Reg := fld w 28 6; let cs := complOf w
  let used (n : Nat) : List (Nat × Nat) := [(40, 6), (34, 6), (28, 6), (0, n)] ++ complUsed w
  let regs := [40, 34, 28] ++ complLows w
  match fn with
  | 0 => some ⟨[], used 2, regs, [], .cpy g a b c cs (fld w 1 1) (fld w 0 1)⟩
  | 1 => some ⟨[], used 0, regs, [pairBad w size], .cpy2d g a b c cs⟩
  | 2 => some ⟨[], used 1, regs, [pairBad w size], .cpyg g a b c cs (fld w 0 1)⟩
  | 3 => some ⟨[], used 0, regs, [pairBad w size], .cpys g a b c cs⟩
  | 4 => some ⟨[], used 0, regs, [], .cpyf g a b c cs⟩
  | 5 => some ⟨[], used 4, regs, [pairBad w size], .cpym g a b c cs (fld w 0 4)⟩
  | 6 => some ⟨[], [(40, 6), (0, 12)], [40], [], .cpstat g a (fld w 0 12)⟩
  | 7 => some ⟨[], [(0, 10)], [], [], .cpwait g (fld w 0 10)⟩
  | _ => none

/-- MAJ 0x82 (R192, R196 to R198). -/
def row82 (fn : Nat) (w : Word) : Option Row :=
  let g := guardOf w; let a : Reg := fld w 40 6; let b : Reg := fld w 34 6; let c : Reg := fld w 28 6; let cs := complOf w; let win : BitVec 4 := fld w 0 4
  match fn with
  | 0 => some ⟨[], [(40, 6), (34, 6), (28, 6), (0, 1)], [40, 34, 28], [], .ctcfg g a b c (fld w 0 1)⟩
  | 1 => some ⟨[], [(40, 6), (34, 6), (28, 6), (0, 4)], [40, 34, 28], [], .wopen g a b c win⟩
  | 2 => some ⟨[], [(40, 6), (0, 4)] ++ complUsed w, 40 :: complLows w, [], .wadv g a cs win⟩
  | 3 => some ⟨[], [(40, 6), (0, 4)] ++ complUsed w, 40 :: complLows w, [], .wsync g a cs win⟩
  | 4 => some ⟨[], [(0, 4)] ++ complUsed w, complLows w, [], .wclose g cs win⟩
  | _ => none

/-- MAJ 0x83 (R202). -/
def row83 (fn : Nat) (w : Word) : Option Row :=
  let g := guardOf w; let a : Reg := fld w 40 6; let b : Reg := fld w 34 6; let scope : BitVec 2 := fld w 8 2
  let e := fld w 0 1 = 1
  match fn with
  | 0 => some ⟨[], [(40, 6), (0, 8)], [40], [], .binit g a (fld w 7 1) (fld w 0 7)⟩
  | 1 => some ⟨[], [(40, 6), (34, 6)], [40, 34], [], .bexp g a b⟩
  | 2 => some ⟨[], [(40, 6), (8, 2), (0, 1)] ++ (if e then [(34, 6)] else []), if e then [40, 34] else [40], [], .barv g a b scope (fld w 0 1)⟩
  | 3 => some ⟨[], [(40, 6), (34, 6), (8, 2)], [40, 34], [], .bwait g a b scope⟩
  | 4 => some ⟨[], [(40, 6), (34, 6), (28, 3), (8, 2)], [40, 34], [(28, fld w 28 3 == 0)], .btest g (fld w 28 3) a b scope⟩
  | _ => none

/-- The IMM28 fields of a send (R212). -/
def sendOf (w : Word) : SendOp := ⟨fld w 18 2, fld w 17 1, fld w 15 2, fld w 14 1, fld w 10 4, fld w 0 10⟩
/-- Their assigned bits: SCOPE only with REL, LVL only with BSP. -/
def sendUsed (w : Word) : List (Nat × Nat) :=
  [(17, 1), (14, 1), (10, 4), (0, 10)] ++ (if fld w 17 1 = 1 then [(18, 2)] else []) ++ (if fld w 14 1 = 1 then [(15, 2)] else [])
/-- A count outside 1 to the greatest (R212). -/
def countBad (w : Word) (top : Nat) : Nat × Bool := (0, (fld w 0 10).toNat == 0 || top < (fld w 0 10).toNat)

/-- MAJ 0xA0 (R206, R208, R212). -/
def rowA0 (fn : Nat) (w : Word) : Option Row :=
  let g := guardOf w; let a : Reg := fld w 40 6; let k := (fld w 3 4).toNat
  let noA := k == 0 || (5 ≤ k && k ≤ 8)
  match fn with
  | 0 => some ⟨[], (0, 7) :: (if noA then [] else [(40, 6)]), if noA then [] else [40], [(3, 9 ≤ k)], .qbind g a (fld w 3 4) (fld w 0 3)⟩
  | 1 => some ⟨[], [(40, 6), (0, 3)], [40], [], .qstat g a (fld w 0 3)⟩
  | 2 => some ⟨[], [(40, 6), (34, 6)] ++ sendUsed w, [40, 34], [countBad w 512], .snd g a (fld w 34 6) (sendOf w)⟩
  | 3 => some ⟨[], [(40, 6), (34, 6)] ++ sendUsed w, [40], [(34, fld w 39 1 == 1), countBad w 8], .sndv g a (fld w 34 5) (sendOf w)⟩
  | _ => none

/-- MAJ 0xA1 (R218 to R221). -/
def rowA1 (fn : Nat) (w : Word) : Option Row :=
  let g := guardOf w; let a : Reg := fld w 40 6; let b : Reg := fld w 34 6; let c : Reg := fld w 28 6
  let ty : BitVec 4 := fld w 4 4; let op : BitVec 4 := fld w 0 4
  match fn with
  | 0 => some ⟨[], [(40, 6), (34, 6), (28, 6), (0, 19)], [40, 34, 28],
          [(10, 188 < (fld w 10 9).toNat), (8, fld w 8 1 == 1 && !(op == 0 && ty.toNat < 4)),
           (4, 8 ≤ ty.toNat || (4 ≤ op.toNat && op.toNat < 7 && ty.toNat < 4)), (0, 7 ≤ op.toNat)],
          .rdopen g a b c (fld w 10 9) (fld w 9 1) (fld w 8 1) ty op⟩
  | 1 => some ⟨[], [(40, 6), (34, 6)], [40, 34], [], .rdcs g a b⟩
  | 2 => some ⟨[], [(40, 6), (34, 6), (28, 6)], [40, 34, 28], [], .rdcb g a b c⟩
  | 3 => some ⟨[], [(40, 6), (34, 6), (0, 1)] ++ complUsed w, [40, 34] ++ complLows w, [], .rdres g a b (complOf w) (fld w 0 1)⟩
  | _ => none

/-- MAJ 0xA2 (R224, R227 to R229). -/
def rowA2 (fn : Nat) (w : Word) : Option Row :=
  let g := guardOf w; let a : Reg := fld w 40 6; let b : Reg := fld w 34 6; let c : Reg := fld w 28 6
  match fn with
  | 0 => some ⟨[], [(40, 6), (34, 6)], [40, 34], [], .inj g a b⟩
  | 1 => some ⟨[], [(40, 6), (34, 6)], [40, 34], [], .injc g a b⟩
  | 2 => some ⟨[], [(40, 6), (34, 6)], [34], [(40, fld w 45 1 == 1)], .wbhdr g (fld w 40 5) b⟩
  | 3 => some ⟨[], [(40, 6), (34, 6)], [40, 34], [], .wbpop g a b⟩
  | 4 => some ⟨[], [(34, 6)], [34], [], .wbrel g b⟩
  | 5 => some ⟨[], [(40, 6), (34, 6), (28, 6)], [40, 34, 28], [(40, 56 ≤ a.toNat)], .wdrive g a b c⟩
  | 6 => some ⟨[], [], [], [], .wdstop g⟩
  | _ => none

/-- MAJ 0xA3 (R230 to R233). -/
def rowA3 (fn : Nat) (w : Word) : Option Row :=
  let g := guardOf w
  match fn with
  | 0 => some ⟨[], [(0, 2)], [], [], .dsync g (fld w 0 2)⟩
  | 1 => some ⟨[], [(0, 2)], [], [], .darv g (fld w 0 2)⟩
  | 2 => some ⟨[], [(0, 2)], [], [], .dwait g (fld w 0 2)⟩
  | 3 => some ⟨[], [(40, 6), (34, 6), (28, 6), (0, 12)], [40, 34, 28], [(3, fld w 3 3 == 0)],
          .spawn g (fld w 40 6) (fld w 34 6) (fld w 28 6) (fld w 6 6) (fld w 3 3) (fld w 0 3)⟩
  | 4 => some ⟨[], [(0, 3)], [], [], .swait g (fld w 0 3)⟩
  | _ => none

/-- The row of an assigned MAJ and FN (R88, R89). -/
def row (maj fn : Nat) (w : Word) (size : Nat) : Option Row :=
  match maj with
  | 0x01 => row01 fn w | 0x21 => row21 fn w | 0x22 => row22 fn w | 0x03 => row03 fn w | 0x04 => row04 fn w | 0x05 => row05 fn w
  | 0x40 => row40 fn w size | 0x41 => row41 fn w | 0x42 => row42 fn w | 0x50 => row50 fn w | 0x52 => row52 fn w
  | 0x60 => row60 fn w | 0x61 => row61 fn w | 0x62 => row62 fn w | 0x63 => row63 fn w | 0x64 => row64 fn w | 0x65 => row65 fn w
  | 0x66 => row66 fn w | 0x80 => row80 fn w | 0x81 => row81 fn w size | 0x82 => row82 fn w | 0x83 => row83 fn w
  | 0xA0 => rowA0 fn w | 0xA1 => rowA1 fn w | 0xA2 => rowA2 fn w | 0xA3 => rowA3 fn w
  | 0xC0 => rowC0 fn w | 0xC1 => rowC1 fn w | 0xC2 => rowC2 fn w
  | _ => none

/-! ### The checks of R90 -/

/-- Ones in the n bits from bit lo up. -/
def maskOf (r : Nat × Nat) : Nat := (2 ^ r.2 - 1) <<< r.1

/-- The reserved and unassigned bits of a word below its FN that are set (step 5). -/
def strayBits (f : Format) (r : Row) (w : Word) : Nat :=
  let used := (r.used.map maskOf).foldl (· ||| ·) 0
  (w.toNat % 2 ^ fnLow f) &&& (used ^^^ (2 ^ 64 - 1))

/-- Step 4: the first code field that is not accepted. -/
def step4 (r : Row) : Option Nat := (r.codes.find? (fun c => !c.2)).map (·.1)

/-- Step 6: the first scalar field that names a register outside the allocation (R21). -/
def step6 (r : Row) (w : Word) (size : Nat) : Option Nat :=
  r.regs.find? (fun lo => let v := (fld w lo 6).toNat; size ≤ v && v < 56)

/-- Step 7: the most significant field of the conditions that hold (R474). -/
def step7 (r : Row) : Option Nat :=
  (r.bad.filter (·.2)).foldl (fun m c => match m with | none => some c.1 | some x => some (Nat.max x c.1)) none

/-- Decode a fetched word for a strand of that privilege and allocation (R90, R91, R474). -/
def decode (w : Word) (priv size : Nat) : Except DecErr Instr :=
  match majInfo (fld w 56 8).toNat with
  | none => .error ⟨false, 1, 56⟩
  | some (f, need) =>
    match row (fld w 56 8).toNat (fnOf f w) w size with
    | none => .error ⟨false, 2, fnLow f⟩
    | some r =>
      if priv < need then .error ⟨true, need, 0⟩
      else match step4 r with
      | some lo => .error ⟨false, 3, lo⟩
      | none =>
        if strayBits f r w ≠ 0 then .error ⟨false, 4, (strayBits f r w).log2⟩
        else match step6 r w size with
        | some lo => .error ⟨false, 5, lo⟩
        | none =>
          match step7 r with
          | some lo => .error ⟨false, 6, lo⟩
          | none => .ok r.instr

/-! ### Encoding (R80) -/

/-- An RRR word. -/
def encRRR (maj : BitVec 8) (fn : BitVec 10) (g : Guard) (d a b c : BitVec 6) (m : BitVec 18) : Word :=
  maj ++ g.pg ++ g.pn ++ fn ++ d ++ a ++ b ++ c ++ m
/-- An RRI or SYS word. -/
def encRRI (maj : BitVec 8) (fn : BitVec 6) (g : Guard) (d a : BitVec 6) (imm : BitVec 34) : Word :=
  maj ++ g.pg ++ g.pn ++ fn ++ d ++ a ++ imm
/-- A MEM word. -/
def encMEM (maj : BitVec 8) (fn : BitVec 6) (g : Guard) (t base idx : BitVec 6) (scl : BitVec 2) (size : BitVec 3) (o : Ord) (disp : BitVec 18) : Word :=
  maj ++ g.pg ++ g.pn ++ fn ++ t ++ base ++ idx ++ scl ++ size ++ o.ord ++ o.scope ++ disp
/-- A BR word. -/
def encBR (fn : BitVec 6) (g : Guard) (cond : BitVec 4) (a b : BitVec 6) (off : BitVec 30) : Word :=
  (0x50 : BitVec 8) ++ g.pg ++ g.pn ++ fn ++ cond ++ a ++ b ++ off
/-- A VEC word. -/
def encVEC (maj : BitVec 8) (fn : BitVec 6) (g : Guard) (d a b c : BitVec 5) (et : BitVec 4) (rm : BitVec 3) (sat : BitVec 1) (skew : BitVec 5)
    (gr : BitVec 6) (imm : BitVec 7) : Word :=
  maj ++ g.pg ++ g.pn ++ fn ++ d ++ a ++ b ++ c ++ et ++ rm ++ sat ++ skew ++ gr ++ imm
/-- An ENG word. -/
def encENG (maj : BitVec 8) (fn : BitVec 6) (g : Guard) (a b c : BitVec 6) (imm : BitVec 28) : Word :=
  maj ++ g.pg ++ g.pn ++ fn ++ a ++ b ++ c ++ imm
/-- A completion specifier with bits 7:0 (R166). -/
def encCompl (c : Compl) (low : BitVec 8) : BitVec 28 := c.br ++ c.q ++ c.bar ++ c.tag ++ low
/-- The IMM28 of a send (R212). -/
def encSend (s : SendOp) : BitVec 28 := (0 : BitVec 8) ++ s.scope ++ s.rel ++ s.lvl ++ s.bsp ++ s.ch ++ s.count
/-- The MOD of an ALU word: UNS and W32 (R86). -/
def encWU (w u : BitVec 1) : BitVec 18 := (0 : BitVec 16) ++ u ++ w
/-- The MOD of a rounding FP32 word (R86). -/
def encRM (rm : BitVec 3) : BitVec 18 := rm ++ (0 : BitVec 15)
/-- The MOD of BFX, BFI, EXT, LEA (R86). -/
def encPos (pos len : BitVec 6) (u : BitVec 1) : BitVec 18 := pos ++ len ++ (0 : BitVec 4) ++ u ++ (0 : BitVec 1)
/-- A predicate in a 6-bit field (R81). -/
def encP (p : PReg) : BitVec 6 := (0 : BitVec 3) ++ p
/-- A MEM word with the address fields of an operand. -/
def encMem (maj : BitVec 8) (fn : BitVec 6) (g : Guard) (t : BitVec 6) (size : BitVec 3) (o : Ord) (m : MemOp) : Word :=
  encMEM maj fn g t m.base m.idx m.scl size o m.disp
/-- A vector register in a 6-bit field (R81). -/
def encV (v : VReg) : BitVec 6 := (0 : BitVec 1) ++ v

/-- The word of a helm instruction; 0 for an event. The sub-forms have the words of the CFGW or MTS they are. -/
def encode : Instr → Word
  | .add g d a b w u => encRRR 0x01 0 g d a b 0 (encWU w u)
  | .sub g d a b w u => encRRR 0x01 1 g d a b 0 (encWU w u)
  | .mul g d a b w u => encRRR 0x01 2 g d a b 0 (encWU w u)
  | .mulh g d a b w u => encRRR 0x01 3 g d a b 0 (encWU w u)
  | .div g d a b w u => encRRR 0x01 4 g d a b 0 (encWU w u)
  | .rem g d a b w u => encRRR 0x01 5 g d a b 0 (encWU w u)
  | .and g d a b w u => encRRR 0x01 6 g d a b 0 (encWU w u)
  | .or g d a b w u => encRRR 0x01 7 g d a b 0 (encWU w u)
  | .xor g d a b w u => encRRR 0x01 8 g d a b 0 (encWU w u)
  | .andn g d a b w u => encRRR 0x01 9 g d a b 0 (encWU w u)
  | .shl g d a b w u => encRRR 0x01 10 g d a b 0 (encWU w u)
  | .shr g d a b w u => encRRR 0x01 11 g d a b 0 (encWU w u)
  | .sar g d a b w u => encRRR 0x01 12 g d a b 0 (encWU w u)
  | .rot g d a b w u => encRRR 0x01 13 g d a b 0 (encWU w u)
  | .min g d a b w u => encRRR 0x01 14 g d a b 0 (encWU w u)
  | .max g d a b w u => encRRR 0x01 15 g d a b 0 (encWU w u)
  | .clz g d a w u => encRRR 0x01 16 g d a 0 0 (encWU w u)
  | .ctz g d a w u => encRRR 0x01 17 g d a 0 0 (encWU w u)
  | .popc g d a w u => encRRR 0x01 18 g d a 0 0 (encWU w u)
  | .bswap g d a w u => encRRR 0x01 19 g d a 0 0 (encWU w u)
  | .ext g d a len u => encRRR 0x01 20 g d a 0 0 (encPos 0 len u)
  | .bfx g d a pos len u => encRRR 0x01 21 g d a 0 0 (encPos pos len u)
  | .bfi g d a b pos len => encRRR 0x01 22 g d a b 0 (encPos pos len 0)
  | .sel g d a b c => encRRR 0x01 23 g d a b c 0
  | .mov g d a => encRRR 0x01 24 g d a 0 0 0
  | .cmp g pd a b c w => encRRR 0x01 25 g (encP pd) a b 0 ((0 : BitVec 12) ++ c ++ (0 : BitVec 1) ++ w)
  | .lea g d a b pos => encRRR 0x01 26 g d a b 0 (encPos ((0 : BitVec 4) ++ pos) 0 0)
  | .addImm g d a i => encRRI 0x21 0 g d a i
  | .subImm g d a i => encRRI 0x21 1 g d a i
  | .mulImm g d a i => encRRI 0x21 2 g d a i
  | .mulhImm g d a i => encRRI 0x21 3 g d a i
  | .divImm g d a i => encRRI 0x21 4 g d a i
  | .remImm g d a i => encRRI 0x21 5 g d a i
  | .andImm g d a i => encRRI 0x21 6 g d a i
  | .orImm g d a i => encRRI 0x21 7 g d a i
  | .xorImm g d a i => encRRI 0x21 8 g d a i
  | .andnImm g d a i => encRRI 0x21 9 g d a i
  | .shlImm g d a n => encRRI 0x21 10 g d a ((0 : BitVec 28) ++ n)
  | .shrImm g d a n => encRRI 0x21 11 g d a ((0 : BitVec 28) ++ n)
  | .sarImm g d a n => encRRI 0x21 12 g d a ((0 : BitVec 28) ++ n)
  | .rotImm g d a n => encRRI 0x21 13 g d a ((0 : BitVec 28) ++ n)
  | .minImm g d a i => encRRI 0x21 14 g d a i
  | .maxImm g d a i => encRRI 0x21 15 g d a i
  | .cmpImm g pd a c i => encRRI 0x21 25 g (encP pd) a (c ++ i)
  | .leaImm g d a i => encRRI 0x21 26 g d a i
  | .movi g d i => encRRI 0x22 0 g d 0 i
  | .movhi g d a i => encRRI 0x22 1 g d a ((0 : BitVec 4) ++ i)
  | .fadd g d a b rm => encRRR 0x03 0 g d a b 0 (encRM rm)
  | .fsub g d a b rm => encRRR 0x03 1 g d a b 0 (encRM rm)
  | .fmul g d a b rm => encRRR 0x03 2 g d a b 0 (encRM rm)
  | .ffma g d a b c rm => encRRR 0x03 3 g d a b c (encRM rm)
  | .fdiv g d a b rm => encRRR 0x03 4 g d a b 0 (encRM rm)
  | .fsqrt g d a rm => encRRR 0x03 5 g d a 0 0 (encRM rm)
  | .fmin g d a b => encRRR 0x03 6 g d a b 0 0
  | .fmax g d a b => encRRR 0x03 7 g d a b 0 0
  | .fcmp g pd a b c => encRRR 0x03 8 g (encP pd) a b 0 ((0 : BitVec 12) ++ c ++ (0 : BitVec 2))
  | .fcvt g d a rm sat dt st w64 => encRRR 0x03 9 g d a 0 0 (rm ++ sat ++ dt ++ st ++ (0 : BitVec 4) ++ w64 ++ (0 : BitVec 1))
  | .fclass g d a => encRRR 0x03 10 g d a 0 0 0
  | .pset g pd n => encRRR 0x04 0 g (encP pd) 0 0 0 ((0 : BitVec 11) ++ n)
  | .plim g pd a b => encRRR 0x04 1 g (encP pd) a b 0 0
  | .pmin g pd pa pb => encRRR 0x04 2 g (encP pd) (encP pa) (encP pb) 0 0
  | .pmax g pd pa pb => encRRR 0x04 3 g (encP pd) (encP pa) (encP pb) 0 0
  | .prd g d pa => encRRR 0x04 4 g d (encP pa) 0 0 0
  | .grd g d a i => encRRI 0x05 0 g d a i
  | .gwr g d a i => encRRI 0x05 1 g d a i
  | .ld g t s o m => encMem 0x40 0 g t s o m
  | .st g t s o m => encMem 0x40 1 g t s o m
  | .ldp g t o m => encMem 0x40 2 g t 3 o m
  | .stp g t o m => encMem 0x40 3 g t 3 o m
  | .amoadd g t b i s o d => encMEM 0x41 0 g t b i 0 s o d
  | .amomin g t b i u s o d => encMEM 0x41 1 g t b i ((0 : BitVec 1) ++ u) s o d
  | .amomax g t b i u s o d => encMEM 0x41 2 g t b i ((0 : BitVec 1) ++ u) s o d
  | .amoand g t b i s o d => encMEM 0x41 3 g t b i 0 s o d
  | .amoor g t b i s o d => encMEM 0x41 4 g t b i 0 s o d
  | .amoxor g t b i s o d => encMEM 0x41 5 g t b i 0 s o d
  | .amoswp g t b i s o d => encMEM 0x41 6 g t b i 0 s o d
  | .amocas g t b i s o d => encMEM 0x41 7 g t b i 0 s o d
  | .amofadd g t b i o d => encMEM 0x41 8 g t b i 0 2 o d
  | .fence g o => encMEM 0x42 0 g 0 0 0 0 0 o 0
  | .sbar g m => encMEM 0x42 1 g 0 0 0 0 0 ⟨0, 0⟩ m
  | .br g off => encBR 0 g 0 0 0 off
  | .bc g c a b off => encBR 1 g c a b off
  | .bp g z pa off => encBR 2 g ((0 : BitVec 3) ++ z) (encP pa) 0 off
  | .call g a off => encBR 3 g 0 a 0 off
  | .ret g a => encBR 4 g 0 a 0 0
  | .jmpr g a off => encBR 5 g 0 a 0 off
  | .loop g a off => encBR 6 g 0 a 0 off
  | .exit g ab => encRRI 0x52 0 g 0 0 ((0 : BitVec 33) ++ ab)
  | .yield g => encRRI 0x52 1 g 0 0 0
  | .nop g => encRRI 0x52 2 g 0 0 0
  | .trap g n => encRRI 0x52 3 g 0 0 n
  | .brk g n => encRRI 0x52 4 g 0 0 n
  | .vadd g d a b et rm sat => encVEC 0x60 0 g d a b 0 et rm sat 0 0 0
  | .vsub g d a b et rm sat => encVEC 0x60 1 g d a b 0 et rm sat 0 0 0
  | .vmul g d a b et rm sat => encVEC 0x60 2 g d a b 0 et rm sat 0 0 0
  | .vfma g d a b c et rm sat => encVEC 0x60 3 g d a b c et rm sat 0 0 0
  | .vfms g d a b c et rm sat => encVEC 0x60 4 g d a b c et rm sat 0 0 0
  | .vmin g d a b et => encVEC 0x60 5 g d a b 0 et 0 0 0 0 0
  | .vmax g d a b et => encVEC 0x60 6 g d a b 0 et 0 0 0 0 0
  | .vabs g d a et sat => encVEC 0x60 7 g d a 0 0 et 0 sat 0 0 0
  | .vneg g d a et sat => encVEC 0x60 8 g d a 0 0 et 0 sat 0 0 0
  | .vclamp g d a b c et => encVEC 0x60 9 g d a b c et 0 0 0 0 0
  | .vexp2 g d a et rm => encVEC 0x61 0 g d a 0 0 et rm 0 0 0 0
  | .vlog2 g d a et rm => encVEC 0x61 1 g d a 0 0 et rm 0 0 0 0
  | .vrcp g d a et rm => encVEC 0x61 2 g d a 0 0 et rm 0 0 0 0
  | .vrsq g d a et rm => encVEC 0x61 3 g d a 0 0 et rm 0 0 0 0
  | .vtanh g d a et rm => encVEC 0x61 4 g d a 0 0 et rm 0 0 0 0
  | .verf g d a et rm => encVEC 0x61 5 g d a 0 0 et rm 0 0 0 0
  | .vand g d a b et => encVEC 0x62 0 g d a b 0 et 0 0 0 0 0
  | .vor g d a b et => encVEC 0x62 1 g d a b 0 et 0 0 0 0 0
  | .vxor g d a b et => encVEC 0x62 2 g d a b 0 et 0 0 0 0 0
  | .vnot g d a et => encVEC 0x62 3 g d a 0 0 et 0 0 0 0 0
  | .vshl g d a b et i => encVEC 0x62 4 g d a b 0 et 0 0 0 0 i
  | .vshr g d a b et i => encVEC 0x62 5 g d a b 0 et 0 0 0 0 i
  | .vsar g d a b et i => encVEC 0x62 6 g d a b 0 et 0 0 0 0 i
  | .vmulh g d a b et => encVEC 0x62 7 g d a b 0 et 0 0 0 0 0
  | .vcmp g pd a b et c => encVEC 0x63 0 g ((0 : BitVec 2) ++ pd) a b 0 et 0 0 0 0 ((0 : BitVec 3) ++ c)
  | .vsel g d a b et x => encVEC 0x63 1 g d a b 0 et 0 0 0 0 ((0 : BitVec 4) ++ x)
  | .vcvt g d a et rm sat part st => encVEC 0x63 2 g d a 0 0 et rm sat 0 0 ((0 : BitVec 1) ++ part ++ st)
  | .vmov g d a et => encVEC 0x63 3 g d a 0 0 et 0 0 0 0 0
  | .vbcast g d gs et => encVEC 0x63 4 g d 0 0 0 et 0 0 0 gs 0
  | .vext g gd a et i => encVEC 0x63 5 g 0 a 0 0 et 0 0 0 gd i
  | .vins g d gs et i => encVEC 0x63 6 g d 0 0 0 et 0 0 0 gs i
  | .viota g d gs et => encVEC 0x63 7 g d 0 0 0 et 0 0 0 gs 0
  | .vcond g x => encVEC 0x63 8 g 0 0 0 0 0 0 0 0 0 ((0 : BitVec 4) ++ x)
  | .vshup g d a et k => encVEC 0x64 0 g d a 0 0 et 0 0 k 0 0
  | .vshdn g d a et k => encVEC 0x64 1 g d a 0 0 et 0 0 k 0 0
  | .vrot g d a et k => encVEC 0x64 2 g d a 0 0 et 0 0 k 0 0
  | .vscan g d a et rm sat op => encVEC 0x64 3 g d a 0 0 et rm sat 15 0 op
  | .vred g d a et rm sat op => encVEC 0x64 4 g d a 0 0 et rm sat 15 0 op
  | .vmaxi g d a gi et => encVEC 0x64 5 g d a 0 0 et 0 0 15 gi 0
  | .vperm g d a b et k => encVEC 0x64 6 g d a b 0 et 0 0 k 0 0
  | .vpack g d a b et rm sat => encVEC 0x65 0 g d a b 0 et rm sat 0 0 0
  | .vunpk g d a et h => encVEC 0x65 1 g d a 0 0 et 0 0 0 0 ((0 : BitVec 6) ++ h)
  | .vscale g d a gs et rm sat inv => encVEC 0x65 2 g d a 0 0 et rm sat 0 gs ((0 : BitVec 6) ++ inv)
  | .vqnt g d a gs et rm h => encVEC 0x65 3 g d a 0 0 et rm 0 0 gs ((0 : BitVec 6) ++ h)
  | .vld g t s o m => encMem 0x66 0 g (encV t) s o m
  | .vst g t s o m => encMem 0x66 1 g (encV t) s o m
  | .vldff g t s m => encMem 0x66 2 g (encV t) s ⟨0, 0⟩ m
  | .vlds g t s o m => encMem 0x66 3 g (encV t) s o m
  | .vsts g t s o m => encMem 0x66 4 g (encV t) s o m
  | .vgath g t s o b vi scl d => encMEM 0x66 5 g (encV t) b (encV vi) scl s o d
  | .vscat g t s o b vi scl d => encMEM 0x66 6 g (encV t) b (encV vi) scl s o d
  | .vldb g t s o m => encMem 0x66 7 g (encV t) s o m
  | .mxcfg g f mode bank => encENG 0x80 0 g 0 0 0 ((0 : BitVec 15) ++ f ++ mode ++ bank)
  | .mxzero g bank => encENG 0x80 1 g 0 0 0 ((0 : BitVec 26) ++ bank)
  | .mxldw g a sc kq wt buf => encENG 0x80 2 g a 0 0 ((0 : BitVec 20) ++ sc ++ kq ++ wt ++ buf)
  | .mxpass g a b mh at' asc zf nm1 buf bank => encENG 0x80 3 g a b 0 ((0 : BitVec 13) ++ mh ++ at' ++ asc ++ zf ++ nm1 ++ buf ++ bank)
  | .mxarm g a b slot => encENG 0x80 4 g a b 0 ((0 : BitVec 25) ++ slot)
  | .mxdisarm g slot => encENG 0x80 5 g 0 0 0 ((0 : BitVec 25) ++ slot)
  | .mxdrain g a b c cs bank => encENG 0x80 6 g a b c (encCompl cs ((0 : BitVec 6) ++ bank))
  | .mxramp g n => encENG 0x80 7 g 0 0 0 ((0 : BitVec 12) ++ n)
  | .mxwait g n => encENG 0x80 8 g 0 0 0 ((0 : BitVec 20) ++ n)
  | .mxpert g a n m bank => encENG 0x80 9 g a 0 0 ((0 : BitVec 12) ++ n ++ m ++ bank)
  | .mxstat g a bank => encENG 0x80 10 g a 0 0 ((0 : BitVec 26) ++ bank)
  | .cpy g a b c cs sl ct => encENG 0x81 0 g a b c (encCompl cs ((0 : BitVec 6) ++ sl ++ ct))
  | .cpy2d g a b c cs => encENG 0x81 1 g a b c (encCompl cs 0)
  | .cpyg g a b c cs arr => encENG 0x81 2 g a b c (encCompl cs ((0 : BitVec 7) ++ arr))
  | .cpys g a b c cs => encENG 0x81 3 g a b c (encCompl cs 0)
  | .cpyf g a b c cs => encENG 0x81 4 g a b c (encCompl cs 0)
  | .cpym g a b c cs k => encENG 0x81 5 g a b c (encCompl cs ((0 : BitVec 4) ++ k))
  | .cpstat g a tag => encENG 0x81 6 g a 0 0 ((0 : BitVec 16) ++ tag)
  | .cpwait g n => encENG 0x81 7 g 0 0 0 ((0 : BitVec 18) ++ n)
  | .ctcfg g a b c slot => encENG 0x82 0 g a b c ((0 : BitVec 27) ++ slot)
  | .wopen g a b c w => encENG 0x82 1 g a b c ((0 : BitVec 24) ++ w)
  | .wadv g a cs w => encENG 0x82 2 g a 0 0 (encCompl cs ((0 : BitVec 4) ++ w))
  | .wsync g a cs w => encENG 0x82 3 g a 0 0 (encCompl cs ((0 : BitVec 4) ++ w))
  | .wclose g cs w => encENG 0x82 4 g 0 0 0 (encCompl cs ((0 : BitVec 4) ++ w))
  | .binit g a p1 n => encENG 0x83 0 g a 0 0 ((0 : BitVec 20) ++ p1 ++ n)
  | .bexp g a b => encENG 0x83 1 g a b 0 0
  | .barv g a b scope e => encENG 0x83 2 g a b 0 ((0 : BitVec 18) ++ scope ++ (0 : BitVec 7) ++ e)
  | .bwait g a b scope => encENG 0x83 3 g a b 0 ((0 : BitVec 18) ++ scope ++ (0 : BitVec 8))
  | .btest g pc a b scope => encENG 0x83 4 g a b (encP pc) ((0 : BitVec 18) ++ scope ++ (0 : BitVec 8))
  | .qbind g a k n => encENG 0xA0 0 g a 0 0 ((0 : BitVec 21) ++ k ++ n)
  | .qstat g a n => encENG 0xA0 1 g a 0 0 ((0 : BitVec 25) ++ n)
  | .snd g a b s => encENG 0xA0 2 g a b 0 (encSend s)
  | .sndv g a vb s => encENG 0xA0 3 g a (encV vb) 0 (encSend s)
  | .rdopen g a b c base all sat ty op => encENG 0xA1 0 g a b c ((0 : BitVec 9) ++ base ++ all ++ sat ++ ty ++ op)
  | .rdcs g a b => encENG 0xA1 1 g a b 0 0
  | .rdcb g a b c => encENG 0xA1 2 g a b c 0
  | .rdres g a b cs rq => encENG 0xA1 3 g a b 0 (encCompl cs ((0 : BitVec 7) ++ rq))
  | .inj g a b => encENG 0xA2 0 g a b 0 0
  | .injc g a b => encENG 0xA2 1 g a b 0 0
  | .wbhdr g va b => encENG 0xA2 2 g (encV va) b 0 0
  | .wbpop g a b => encENG 0xA2 3 g a b 0 0
  | .wbrel g b => encENG 0xA2 4 g 0 b 0 0
  | .wdrive g a b c => encENG 0xA2 5 g a b c 0
  | .wdstop g => encENG 0xA2 6 g 0 0 0 0
  | .dsync g l => encENG 0xA3 0 g 0 0 0 ((0 : BitVec 26) ++ l)
  | .darv g l => encENG 0xA3 1 g 0 0 0 ((0 : BitVec 26) ++ l)
  | .dwait g l => encENG 0xA3 2 g 0 0 0 ((0 : BitVec 26) ++ l)
  | .spawn g a b c b8 s8 s => encENG 0xA3 3 g a b c ((0 : BitVec 16) ++ b8 ++ s8 ++ s)
  | .swait g s => encENG 0xA3 4 g 0 0 0 ((0 : BitVec 25) ++ s)
  | .mfs g d n => encRRI 0xC0 0 g d 0 ((0 : BitVec 22) ++ n)
  | .mts g a n => encRRI 0xC0 1 g 0 a ((0 : BitVec 22) ++ n)
  | .topo g d w => encRRI 0xC0 2 g d 0 ((0 : BitVec 33) ++ w)
  | .syscall g d a lode svc => encRRI 0xC0 3 g d a (lode ++ (0 : BitVec 17) ++ svc)
  | .tqpush g d a lvl => encRRI 0xC0 4 g d a ((0 : BitVec 32) ++ lvl)
  | .tret g => encRRI 0xC0 5 g 0 0 0
  | .tqpop g d a lvl cx => encRRI 0xC1 0 g d a ((0 : BitVec 26) ++ lvl ++ cx)
  | .tqdone g d a cx => encRRI 0xC1 1 g d a ((0 : BitVec 28) ++ cx)
  | .tqcancel g d a cx => encRRI 0xC1 2 g d a ((0 : BitVec 28) ++ cx)
  | .tqresume g d lvl cx => encRRI 0xC1 3 g d 0 ((0 : BitVec 26) ++ lvl ++ cx)
  | .place g d a cx => encRRI 0xC1 4 g d a ((0 : BitVec 28) ++ cx)
  | .cxnew g d sealed cx => encRRI 0xC1 5 g d 0 ((0 : BitVec 27) ++ sealed ++ cx)
  | .cxkill g d cx => encRRI 0xC1 6 g d 0 ((0 : BitVec 28) ++ cx)
  | .cxreclaim g d cx => encRRI 0xC1 7 g d 0 ((0 : BitVec 28) ++ cx)
  | .cxsave g d vlt ls cx => encRRI 0xC1 8 g d 0 ((0 : BitVec 26) ++ vlt ++ ls ++ cx)
  | .cxload g d cx => encRRI 0xC1 9 g d 0 ((0 : BitVec 28) ++ cx)
  | .preempt g d cx => encRRI 0xC1 10 g d 0 ((0 : BitVec 28) ++ cx)
  | .tlbinv g d a npg mode cx => encRRI 0xC1 11 g d a ((0 : BitVec 6) ++ npg ++ mode ++ cx)
  | .nameinv g d a all => encRRI 0xC1 12 g d a ((0 : BitVec 27) ++ all ++ (0 : BitVec 6))
  | .halt g d us => encRRI 0xC1 13 g d 0 ((0 : BitVec 14) ++ us)
  | .cfgw g d a | .recchk g d a => encRRI 0xC2 0 g d a 0
  | .cfgr g d a => encRRI 0xC2 1 g d a 0
  | .gtabw g d a grp => encRRI 0xC2 2 g d a ((0 : BitVec 26) ++ grp)
  | .ttabw g d a tree => encRRI 0xC2 3 g d a ((0 : BitVec 25) ++ tree)
  | .errinjWrite g a => encRRI 0xC0 1 g 0 a 0x280
  | .faultansWrite g a => encRRI 0xC0 1 g 0 a 0x141
  | .rowstateKill g a => encRRI 0xC0 1 g 0 a 0x292
  | .remapstatRebuild g a => encRRI 0xC0 1 g 0 a 0x290
  | .ckptCheckpoint g a | .ckptRestore g a => encRRI 0xC0 1 g 0 a 0x2A0
  | _ => 0

/-! ### The host's view -/

/-- The eight bytes of a word as memory holds them, lowest address first (R4, R78). -/
def wordBytes (w : Word) : List Byte := (List.range 8).map (fun i => w.extractLsb' (8 * i) 8)

/-- The word that eight bytes make, lowest address first (R4). -/
def wordOfBytes (bs : List Byte) : Word := bs.foldr (fun b acc => (acc <<< 8) ||| b.setWidth 64) 0

/-- The instruction decode reads from a word of the opcode table, for a strand of privilege L and the largest allocation:
the checks that depend on the strand are then the weakest. -/
def decodeTableWord (nbits w : Nat) : Option Instr :=
  let word : Word := BitVec.ofNat 64 (w % 2 ^ Nat.min nbits 64)
  match decode (wordOfBytes (wordBytes word)) 2 56 with
  | .ok i => some i
  | .error _ => none

end Sys2Proof
end

