-- ==== Sys2Proof/Config.lean ====
section
/-!
DEFINITION. What an implementation fixes, and the free values: opaque constants with no body, so no proof can lean on
what they are. Each is named in a log entry of notes/assumptions.
-/

namespace Sys2Proof.Config

/-- A free 64-bit value; applied to the counter `fresh` of the state (log 5). -/
opaque freeWord : Nat → Word

/-- A free bit, for a choice between two outcomes that the spec allows (log 5). -/
opaque freeBit : Nat → Bool

/-- A free number: which of several enabled steps happens next (log 3), and how many tc and ns a step takes (log 4). -/
opaque freeNat : Nat → Nat

/-- SHA3-256 of a byte list (18 R403; the standard is named, not repeated: log 9). -/
opaque sha3 : List Byte → BitVec 256

/-- ML-DSA-65 verification of a signature over a message under a public key (18 R405, log 9). -/
opaque mldsaVerify : List Byte → List Byte → List Byte → Bool

/-- ML-DSA-65 signature with the device key (18 R403, log 9). -/
opaque mldsaSign : List Byte → List Byte

/-- The vendor certificate chain held in Lodestar (18 R403, log 9). -/
opaque certificates : List Byte

/-- The ML-KEM-768 public key of this wafer for a convoy (18 R406, log 9). -/
opaque kemPublic : BitVec 256 → List Byte

/-- Decapsulation of a convoy secret with this wafer's ML-KEM-768 key for the convoy (18 R406, log 9). -/
opaque kemOpen : BitVec 256 → List Byte → Option (BitVec 256)

/-- Encapsulation of a convoy secret under a member's ML-KEM-768 public key; the number names the draw (18 R406, log 9). -/
opaque kemWrap : List Byte → BitVec 256 → Nat → List Byte

/-- KMAC256 of secret, generation and convoy identity: the collective key (18 R406, log 9). -/
opaque kmac : BitVec 256 → Nat → BitVec 256 → BitVec 256

/-- AES-256-XTS of one 64-byte line under a context's memory key: encryption (18 R408, log 9). -/
opaque xtsSeal : BitVec 256 → Nat → Line → Line

/-- AES-256-XTS of one 64-byte line under a context's memory key: decryption (18 R408, log 9). -/
opaque xtsOpen : BitVec 256 → Nat → Line → Line

/-- AES-256-GCM: opens a frame (key, nonce, associated data, ciphertext, tag), none when it does not authenticate (18 R409, log 9). -/
opaque gcmOpen : BitVec 256 → Nat → List Nat → List Byte → BitVec 128 → Option (List Byte)

/-- AES-256-GCM: seals a frame (key, nonce, associated data, plain text) into ciphertext and tag (18 R409, log 9). -/
opaque gcmSeal : BitVec 256 → Nat → List Nat → List Byte → List Byte × BitVec 128

/-- The vendor root key, whose hash is in the fuses (21 R451, log 9). -/
opaque vendorKey : List Byte

/-- The number of this wafer in the torus, 0 to 63 (18 R399): fixed by the system it is mounted in (log 12). -/
opaque waferNumber : BitVec 6

end Sys2Proof.Config
end

