-- ==== Sys2Proof/Machine/State.lean ====
section
/-!
DEFINITION. The state of the machine: everything the spec gives it, as plain data (INVENTORY.md lists each piece with its rule).
Sparse tables are association lists in ascending key order; a key not listed has the value its reader names as default.
-/

namespace Sys2Proof.Machine

/-- A sparse table: key and value, keys strictly rising. -/
abbrev SMap (α : Type) := List (Nat × α)

/-- The pair that names a context and its life (15 R352). -/
structure Tag where
  cx  : BitVec 6
  inc : BitVec 12
deriving DecidableEq, Repr, Inhabited

/-! ### Memory -/

/-- All memories in one key space: `Machine/Ops.lean` names the key of each home. -/
structure Memory where
  cells  : List Host.Cell  -- bytes, addresses strictly rising, none equal to the unlisted value
  poison : List Nat        -- poisoned aligned words (key / 8), strictly rising (19 R416)
deriving DecidableEq, Repr, Inhabited

/-! ### Strands -/

/-- The states of R17. -/
inductive StrandSt where
  | inactive | ready | waiting | draining | parked | stopped | failed
deriving DecidableEq, Repr, Inhabited

/-- What a WAITING strand waits for (R17). -/
inductive WaitCause where
  | operand | sink | engine | name | barrier | domain | walk | response | service | halt | other
deriving DecidableEq, Repr, Inhabited

/-- A posted fault not yet raised (06 R168, 07 R205, 20 R440): cause, TADDR, TINFO. -/
structure Posted where
  cause : Byte
  addr  : Word
  info  : Word
deriving DecidableEq, Repr, Inhabited

/-- Status of a byte-moving command for CPSTAT (06 R193). -/
structure CopyStat where
  no     : Nat
  tag    : BitVec 12
  st     : BitVec 3
  code   : Byte
  landed : Nat
deriving DecidableEq, Repr, Inhabited

/-- A corner-turn slot (06 R192). -/
structure CtSlot where
  c0 : BitVec 16
  c1 : BitVec 16
  c2 : BitVec 16
  esz : BitVec 2
  s0 : BitVec 32
  s1 : BitVec 32
  s2 : BitVec 32
deriving DecidableEq, Repr, Inhabited

/-- The completion specifier of a pushed command, with the barrier address read at the push (06 R166). -/
structure Done where
  bar : Option Word
  q   : Bool
  tag : BitVec 12
deriving DecidableEq, Repr, Inhabited

/-- A command of the MXE with the register values of its push (06 R163). -/
inductive MxOp where
  | cfg (f : BitVec 9) (mode bank : BitVec 2)
  | zero (bank : BitVec 2)
  | ldw (addr : Word) (sc : BitVec 1) (kq wt : BitVec 3) (buf : BitVec 1)
  | pass (addr stride : Word) (mhalf : BitVec 1) (at' : BitVec 2) (asc zf : BitVec 1) (nm1 : BitVec 7) (buf : BitVec 1) (bank : BitVec 2)
  | arm (slot : BitVec 3) (word desc : Word)
  | disarm (slot : BitVec 3)
  | drain (addr stride ctl : Word) (bank : BitVec 2) (rm : BitVec 3) (seed : Word) (dn : Done)
  | ramp (n : BitVec 16)
  | pert (bank : BitVec 2) (m n : BitVec 7) (val : Word)
deriving DecidableEq, Repr, Inhabited

/-- A queued MXE command: what, and the FN that fault records name. -/
structure MxCmd where
  op     : MxOp
  strand : Nat
  no     : Nat
deriving DecidableEq, Repr, Inhabited

/-- A command of the CPE with the register values of its push (06 R190 to R198). fn is FN of MAJ 0x81, or 0x20 + FN of MAJ 0x82. -/
structure CpCmd where
  fn     : BitVec 6
  a      : Word
  b      : Word
  c      : Word
  c1     : Word
  ct     : Option CtSlot
  arr    : Bool
  k      : Nat
  dn     : Done
  strand : Nat
  no     : Nat
deriving DecidableEq, Repr, Inhabited

/-- An element of a port with the scope of the acquire its pop makes (07 R217). -/
structure QElem where
  val : Word
  acq : Option (BitVec 2)
deriving DecidableEq, Repr, Inhabited

/-- The binding of a queue port (01 R43). -/
structure Binding where
  kind   : BitVec 4
  target : BitVec 16
deriving DecidableEq, Repr, Inhabited

/-- One word that came back from a home, or the status word of an operation. code is 0 when it was performed; idx names the element, key its place. -/
structure Reply where
  idx    : Nat
  val    : Word
  poison : Bool
  code   : Nat
  key    : Nat
deriving DecidableEq, Repr, Inhabited

/-- The read and write system registers of a strand (01 R39). -/
structure SysRegs where
  fpctl   : Word
  fpflags : Word
  tvec    : Word
  tpc     : Word
  tcause  : Word
  taddr   : Word
  tinfo   : Word
  tprev   : Word
  tdepth  : Word
  tcause2 : Word
  taddr2  : Word
  seed    : Word
deriving DecidableEq, Repr, Inhabited

/-- The engine and queue state of a strand (01 R34, 07 R206). -/
structure StrandEng where
  mxq    : List MxCmd
  cpq    : List CpCmd
  ccq    : List QElem
  mcq    : List QElem
  ceq    : List QElem
  ct     : SMap CtSlot
  posted : List Posted
  copies : List CopyStat
  sbarCp : List (Nat × Nat)    -- commands of the copy engine SBAR recorded: strand and number
  sbarMx : List Nat            -- drains SBAR recorded
  abandoned : Nat
deriving DecidableEq, Repr, Inhabited

/-- A strand (01 R17 to R43). -/
structure Strand where
  st     : StrandSt
  cause  : Option WaitCause
  resume : StrandSt
  pc     : Word
  tag    : Option Tag
  task   : Option Nat
  priv   : BitVec 2
  mode   : BitVec 2
  base   : BitVec 9
  size   : BitVec 6
  preds  : SMap (BitVec 7)
  vregs  : SMap Line
  sys    : SysRegs
  qb     : SMap Binding
  dom    : SMap Word
  arrived : SMap Bool          -- level: arrived at a phase not yet released (07 R230)
  eng    : StrandEng
  lastBranch : Option Word
  yielded : Bool
  hasRun : Bool
  reply  : Option (List Reply)
  word   : Option Word         -- the fetched instruction of a strand that waits in it
  epiLeft : Nat                -- epilogue words still to retire (11 R298)
  epiIdx  : Nat
deriving DecidableEq, Repr, Inhabited

/-! ### Engines -/

/-- An accumulator element (02 R60, R65): V, or FP32 in bits 31:0, and the four flags. -/
structure Elem where
  v    : BitVec 96
  nan  : Bool
  pinf : Bool
  ninf : Bool
  negz : Bool
deriving DecidableEq, Repr, Inhabited

/-- An accumulator bank (06 R171, R187). Elements not listed hold bg. -/
structure Bank where
  float   : Bool
  f       : BitVec 9
  inexact : Bool
  sat     : Bool
  dflags  : BitVec 5
  passes  : Nat
  bg      : Elem
  elems   : SMap Elem
  poison  : List Nat
deriving DecidableEq, Repr, Inhabited

/-- A weight buffer (06 R174); bytes not listed are 0. -/
structure WBuf where
  wt     : BitVec 3
  kq     : BitVec 3
  sc     : BitVec 1
  data   : SMap Byte
deriving DecidableEq, Repr, Inhabited

/-- An armed trigger slot (06 R178). -/
structure Trigger where
  word   : Word
  desc   : Word
  left   : Nat
  strand : Nat
deriving DecidableEq, Repr, Inhabited

/-- The current of the array (06 R183). -/
inductive ArrSt where
  | cold | rampUp | warm | rampDown
deriving DecidableEq, Repr, Inhabited

/-- Where an MXE command in progress stands (06 R177, R182, R183). -/
inductive RunPhase where
  | waiting    -- a fired pass that the MXE has not served yet
  | ramping    -- waits for the array to be WARM
  | running    -- occupies the array, or drains
  | holding    -- left the array; its elements do not hold their results yet
  | finished   -- complete but for COMMAND_COMPLETION
deriving DecidableEq, Repr, Inhabited

/-- A fired pass: trigger slot with its words, receive slot, block and what happens at its end (06 R180, 08 R251). -/
structure Fired where
  slot    : Nat
  word    : Word
  desc    : Word
  rslot   : Nat
  group   : Nat
  seq     : Nat
  btag    : BitVec 16
  report  : Bool
  release : Bool
deriving DecidableEq, Repr, Inhabited

/-- An MXE command or pass in progress. -/
structure MxRun where
  cmd    : MxCmd
  fired  : Option Fired
  phase  : RunPhase
  pos    : Nat
  flags  : BitVec 5
  seed   : Word
deriving DecidableEq, Repr, Inhabited

/-- A pending MXPERT (06 R185). -/
structure Pert where
  m   : BitVec 7
  n   : BitVec 7
  val : Word
deriving DecidableEq, Repr, Inhabited

/-- The matrix engine of a tile. -/
structure Mxe where
  banks : SMap Bank
  wbufs : SMap WBuf
  trig  : SMap Trigger
  arr   : ArrSt
  decl  : Nat
  runs  : List MxRun
  last  : Nat
  pert  : SMap Pert
deriving DecidableEq, Repr, Inhabited

/-- An entry of the copy table (06 R188, 15 R372). Pieces are 256 bytes of the issue order. -/
structure CpRun where
  cmd    : CpCmd
  landed : List Nat            -- pieces landed, rising
  bytes  : Nat                 -- bytes landed, across all replicas
  list   : Option (List Nat)   -- index or name list, once read
  snap   : Option (SMap Byte × List Nat)  -- source taken whole where it overlaps the destination
  pos    : Nat                 -- lines done (WADV); elements of CPYG that have landed and been put in pend
  pend   : List Nat            -- elements of CPYG whose queue elements are due
  away   : List (Nat × Nat)    -- pieces on their way to a peer wafer, with the frames not yet answered (18 R401)
  finished : Bool
  faulted  : Bool
deriving DecidableEq, Repr, Inhabited

/-- State of a window line (06 R197, R199). -/
inductive LineSt where
  | filling | valid | faulted | refill
deriving DecidableEq, Repr, Inhabited

/-- A held line of a window: its index, bytes, dirty bytes, the fault code of a failed fill, poisoned words. -/
structure WLine where
  idx    : Nat
  st     : LineSt
  data   : Line
  dirty  : BitVec 64
  code   : Nat
  poison : BitVec 8
  home   : Nat      -- where its dirty bytes go, as the last store found it
deriving DecidableEq, Repr, Inhabited

/-- An open stream window (06 R195). -/
structure Window where
  base   : Word
  stride : Word
  soff   : Nat
  size   : Nat
  dir    : BitVec 2
  tail   : Nat
  head   : Nat
  lines  : List WLine
  tag    : Tag
deriving DecidableEq, Repr, Inhabited

/-- The copy engine and windows of a tile. -/
structure Cpe where
  table : List CpRun
  last  : Nat
  wins  : SMap Window
deriving DecidableEq, Repr, Inhabited

/-! ### Network -/

/-- An element of a next-phase buffer: its level, and whether its sender had already arrived at the phase now open (07 R216, R231). -/
structure NextElem where
  lvl   : BitVec 2
  later : Bool
  elem  : QElem
deriving DecidableEq, Repr, Inhabited

/-- What the header flit of a message between tiles carries: both names, the VC, and ROUTE (09 R253, R258). -/
structure Header where
  sname : Nat
  dname : Nat
  vc    : Nat
  route : BitVec 12
deriving DecidableEq, Repr, Inhabited

/-- A mesh message (07 R212, R214). Its NI forms it from the elements of one instruction; whole says that the last of them is in it. -/
structure Msg where
  src   : Nat
  strand : Nat
  dst   : Nat
  tag   : Tag
  ch    : BitVec 4
  bsp   : Bool
  lvl   : BitVec 2
  acq   : Option (BitVec 2)
  after : Bool     -- sent while an arrival of its strand at lvl was unreleased (07 R231)
  elems : List Word
  whole : Bool
  hdr   : Header
  here  : Nat        -- the router that holds it
deriving DecidableEq, Repr, Inhabited

/-- An element in the NI send buffer: the message it goes into, and whether it is that message's last (07 R213). -/
structure SendEl where
  msg  : Msg
  elem : Word
  last : Bool
deriving DecidableEq, Repr, Inhabited

/-- A receive channel and its next-phase buffer (07 R206, R216). -/
structure Channel where
  q    : List QElem
  nxt  : List NextElem
  due  : List QElem              -- of a released phase, waiting for room (R216)
  ovf  : Bool
deriving DecidableEq, Repr, Inhabited

/-- A fault record (19 R429), words 0 to 5; words 6 and 7 are 0. -/
structure Rec where
  w0 : Word
  w1 : Word
  w2 : Word
  w3 : Word
  w4 : Word
  w5 : Word
deriving DecidableEq, Repr, Inhabited

/-- An entry of the NI name cache (14 R345): the entry word of R344. -/
structure NameEntry where
  name  : Nat
  entry : BitVec 32
deriving DecidableEq, Repr, Inhabited

/-- The network interface of a tile. -/
structure Ni where
  chans   : SMap Channel
  rqs     : SMap (List QElem)
  whq     : List Word
  names   : List NameEntry     -- most recently used first
  nwalks  : List Nat           -- names being walked
  fbox    : List Rec
  orphans : SMap Nat           -- by CXID (15 R354)
  sbuf    : List SendEl        -- the send buffer, oldest first (07 R206)
deriving DecidableEq, Repr, Inhabited

/-- An exact partial of a reduction (02 R66 to R71). -/
structure PVal where
  nan  : Bool
  pinf : Bool
  ninf : Bool
  negz : Bool
  nv   : Bool     -- a signalling NaN was contributed
  num  : Int      -- units of 2^-149 for floating types, of 1 for integer types
  raw  : Word     -- MIN, MAX, MAXIDX, AND, OR, XOR: the value in its own format
  idx  : Nat      -- MAXIDX
  broad : Bool    -- has travelled in broad form
deriving DecidableEq, Repr, Inhabited

/-- A run of contributions: RDCS value, or RDCB buffer (07 R220). -/
structure Contrib where
  pos  : Nat
  n    : Nat
  addr : Option Word
  val  : Word
  strand : Nat
deriving DecidableEq, Repr, Inhabited

/-- Where RDRES sends a result (07 R221). -/
structure ResSpec where
  dst    : Word
  rq     : Bool
  dn     : Done
  strand : Nat
deriving DecidableEq, Repr, Inhabited

/-- An open call of a tile (07 R218 to R221, 15 R373). -/
structure OpenCall where
  group  : Nat
  seq    : BitVec 32
  op     : BitVec 4
  ty     : BitVec 4
  sat    : Bool
  all    : Bool
  base   : BitVec 9
  len    : Nat
  given  : Nat
  vals   : List Contrib
  res    : Option ResSpec
  opener : Nat
  missing : Bool    -- its contribution was lost to poison (19 R418)
  sent   : Nat      -- elements sent up the tree in this attempt (09 R262)
deriving DecidableEq, Repr, Inhabited

/-! ### Light -/

/-- A transmitted block: header line, payload bytes (those not listed are 0), payload length. -/
structure Block where
  seq  : Nat
  va   : Word
  hdr  : Line
  body : SMap Byte
  len  : Nat
  inj  : Option (Nat × Nat)   -- the strand whose INJC walks the chain the block is of
deriving DecidableEq, Repr, Inhabited

/-- Who has taken the block of a receive slot (07 R227). -/
inductive SlotUse where
  | ordinary | trigger | chain
deriving DecidableEq, Repr, Inhabited

/-- A full receive slot (07 R226, 08 R244): decoded weights then scales, in the layout of R174. -/
structure Slot where
  group   : Nat
  seq     : Nat
  va      : Word
  hdr     : Line
  body    : SMap Byte
  len     : Nat
  faulted : Bool
  badHdr  : Bool      -- failed the header check of R291
  use     : SlotUse
  reading : Bool      -- a fired pass still reads it
  freeAfter : Bool    -- WBREL came while it was read
  due     : Option Word  -- its element waits to enter the weight-header queue
  inj     : Option (Nat × Nat)
deriving DecidableEq, Repr, Inhabited

/-- A member's state for one group (08 R245, 11 R295). -/
structure Member where
  e     : Nat
  rel   : Nat
  early : List (Nat × Bool)
  bits  : List (Nat × Bool)
deriving DecidableEq, Repr, Inhabited

/-- Receiver states (19 R423). -/
inductive HueSt where
  | locked | drifting | unlocked | lost
deriving DecidableEq, Repr, Inhabited

/-- A drop receiver (08 R236). -/
structure Receiver where
  st    : HueSt
  bus   : Nat
  hue   : Nat
deriving DecidableEq, Repr, Inhabited

/-- A block invocation in progress (11 R297). -/
structure Invocation where
  slot  : Nat
  seq   : Nat
  bankw : Bool
  ramp  : Bool       -- its pass waits for the array to be WARM (06 R183)
  epi   : Bool       -- its epilogue is running
  marks : List Nat   -- words (key / 8) whose poison marks move with its held stores (19 R417)
deriving DecidableEq, Repr, Inhabited

/-- How a chain leaves a tile: REASON of R228, and the trap the strand takes on a fault. -/
structure Leave where
  reason : Nat
  fault  : Option Posted
deriving DecidableEq, Repr, Inhabited

/-- The chain that owns a tile's MXE (07 R228, 11 R293). -/
structure Chain where
  group  : Nat
  strand : Nat
  dest   : Reg
  pc     : Word             -- the WDRIVE's PC + 8
  table  : Word
  blocks : Nat
  inv    : Option Invocation
  stop   : Bool
  fails  : Nat                 -- consecutive failures of one block (11 R302)
  stopTok : Option (Nat × Posted) -- chain-stop token sent: its SEQ, and the fault
  leave  : Option Leave
  inj    : Option (Nat × Nat)  -- the strand whose INJC walks it, once a block of it has landed
deriving DecidableEq, Repr, Inhabited

/-- The weight receive side of a tile. -/
structure Rx where
  slots   : SMap Slot
  members : SMap Member
  rcv     : SMap Receiver
  chain   : Option Chain
  cond    : Bool
  held    : List (Nat × Byte)  -- held stores, in program order (11 R299)
deriving DecidableEq, Repr, Inhabited

/-! ### Tiles and cores -/

/-- An entry of a translation cache (15 R365): tag, page base, level 1 (B) to 4 (E), leaf. -/
structure TlbE where
  tag   : Tag
  vbase : Nat
  lv    : Nat
  leaf  : Word
deriving DecidableEq, Repr, Inhabited

/-- A line of the instruction cache (03 R94): its VA, and its eight words, none for a poisoned one. -/
structure ICLine where
  tag   : Option Tag
  va    : Nat
  words : List (Option Word)
deriving DecidableEq, Repr, Inhabited

/-- The configuration space of a tile (16 R387, R388; 22 R463). -/
structure CfgSpace where
  words  : SMap Word
  staged : List (Nat × Word)
  ovf    : Bool
  result : Byte
deriving DecidableEq, Repr, Inhabited

/-- A tile, or a binnacle or security core. -/
structure Agent where
  name    : Option Nat
  pool    : SMap Word
  strands : SMap Strand
  last    : Nat
  cycle0  : Nat
  faultbox : Word
  maxmsg  : Option Word        -- MAXMSG and CALLDL of a tile that one of its own strands has written (log 34)
  calldl  : Option Word
  mx      : Mxe
  cp      : Cpe
  ni      : Ni
  rx      : Rx
  cfg     : CfgSpace
  calls   : List OpenCall
  tlb     : List TlbE
  icache  : List ICLine
  nextNo  : Nat                -- number of the next command or request of its strands
  stopped : Bool
  task    : Option Nat
deriving DecidableEq, Repr, Inhabited

/-- One access of a request, by key of its home (10 R278). -/
inductive AccOp where
  | read
  | write
  | amo (f : Nat) (size : BitVec 3) (uns : Bool)
  | barInit
  | barUpd (arrive : Bool)
deriving DecidableEq, Repr, Inhabited

/-- An access: key, bytes, operation, operands. -/
structure Access where
  key : Nat
  n   : Nat
  op  : AccOp
  a   : Word
  b   : Word
  idx : Nat
deriving DecidableEq, Repr, Inhabited

/-- A request in flight, or plain stores not yet performed in the tile's own memory (09 R254, 10 R278): its number among what the tile's strands have issued,
its accesses in ascending order, and what came back so far. -/
structure Req where
  src    : Nat
  strand : Nat
  no     : Nat
  tag    : Option Tag
  todo   : List Access
  res    : List Reply
  wants  : Bool
  hdr    : Header     -- its own, then its response's
  here   : Nat        -- the router that holds it
  past   : Bool       -- it has passed the checkpoint of its host port (15 R353)
deriving DecidableEq, Repr, Inhabited

/-- Who waits for a walk (15 R366). -/
inductive Requester where
  | strand (agent k : Nat)
  | copy (agent : Nat)
  | window (agent : Nat)   -- write-backs at a stop or at retirement (06 R475)
  | beacon (group : Nat)
  | tqu (cx : Nat)
deriving DecidableEq, Repr, Inhabited

/-- A walk under way, or waiting for Chart (token), or without a translation to use (failed). access is the code of R429. -/
structure Walk where
  who    : Requester
  tag    : Tag
  va     : Nat
  access : Nat
  dirty  : Bool
  chart  : Bool
  token  : Option Nat
  failed : Bool
  quiet  : Bool          -- never calls Chart (05 R161, 14 R323)
  denied : Option Word   -- failed since this leaf, whose A is 0, does not permit the access (R363, R364)
deriving DecidableEq, Repr, Inhabited

/-- The fields of a call packet's header flit (09 R262). -/
structure CallHdr where
  att   : BitVec 8
  kind  : BitVec 4
  sat   : Bool
  all   : Bool
  form  : BitVec 2
  op    : BitVec 4
  ty    : BitVec 4
  pos   : BitVec 20
  lm1   : BitVec 20
  group : BitVec 9
  nel   : BitVec 7
  seq   : BitVec 32
deriving DecidableEq, Repr, Inhabited

/-- A partial packet that a child port has brought to a router (09 R262): the tag and ROUTE of its flits, its header, and the elements its payload holds. -/
structure Packet where
  tag    : Tag
  route  : BitVec 12
  router : Nat
  port   : Nat
  hdr    : CallHdr
  vals   : List PVal
deriving DecidableEq, Repr, Inhabited

/-- A call at a router's RDU (09 R263 to R267): the fields its packets agree on, the choice of a backup pair, and the positions combined and forwarded so far. -/
structure RduCall where
  router : Nat
  group  : Nat
  tag    : Tag
  seq    : BitVec 32
  op     : BitVec 4
  ty     : BitVec 4
  sat    : Bool
  all    : Bool
  len    : Nat
  admitted : Bool
  backup : Option Bool         -- R267: some true when the backup was chosen
  waited : Nat                 -- deadlines expired so far
  dl     : Nat                 -- CALLDL when the call's first packet reached the router (R268)
  out    : List PVal
  fwd    : Nat                 -- positions forwarded to the parent
  ring   : Word                -- ULRING as it stood at the root's admission (18 R400)
  sent   : Bool                -- a wafer root's partials have gone on the ring
deriving DecidableEq, Repr, Inhabited

/-- A partial of a ring call that has reached this wafer (09 R272, 18 R400): its call, its sender, the wafer whose backup it is, blocks escalated so far,
members before this wafer, values, and which of its blocks have escalated. -/
structure RingIn where
  tag    : Tag
  group  : Nat
  seq    : BitVec 32
  sender : Nat
  backup : Option Nat
  escapes : Nat
  before : Nat
  vals   : List PVal
  esc    : List Bool
deriving DecidableEq, Repr, Inhabited

/-- Attempt and consecutive replays of the call on a group (09 R270). -/
structure Attempt where
  att     : Nat
  replays : Nat
deriving DecidableEq, Repr, Inhabited

/-- A completion token on its way to a member, with the results it follows (09 R266). -/
structure CallToken where
  tag     : Tag
  agent   : Nat
  group   : Nat
  seq     : BitVec 32
  results : Option (List Word)  -- none at a member that receives no results
  status  : Nat                 -- bits 31:0 of the status word
  abort   : Nat
  posted  : Bool                -- its abort has been posted
  rest    : Option (List Word)  -- what a result queue has still to take
deriving DecidableEq, Repr, Inhabited

/-- The mesh, the reduction units and the walkers. -/
structure Net where
  reqs    : List Req
  resps   : List Req
  msgs    : List Msg
  walks   : List Walk
  token   : Nat                -- next TOKEN of a TRANSLATE record
  fieldTlb : SMap (List TlbE)
  trees   : SMap (BitVec 128)  -- router × 512 + group
  rdus    : List RduCall
  packets : List Packet        -- in order of arrival
  done    : SMap (List (BitVec 32))  -- router × 512 + group: calls completed there (09 R263)
  ringIn  : List RingIn
  atts    : SMap Attempt
  tokens  : List CallToken
  l3      : SMap (List Nat)    -- context: tasks that are members of the open L3 phase (14 R343)
  linkFails : SMap Nat         -- tile × 8 + port
  served  : SMap Nat           -- network × 2^20 + tile × 8 + port: the VC an output port served last (09 R256)
  retired : List Nat
  lost    : List Nat           -- lost routers
deriving DecidableEq, Repr, Inhabited

/-- A request to a beacon (07 R224). -/
structure LReq where
  va     : Word
  chain  : Bool
  grp    : Word
  tag    : Option Tag
  agent  : Nat
  strand : Nat
  quiet  : Bool       -- the copy that a sibling group performs (08 R250)
  block  : Option Block   -- the block the sibling has fetched for it
deriving DecidableEq, Repr, Inhabited

/-- A MARK whose word is due when r passes its sequence number (11 R296). -/
structure Mark where
  seq  : Nat
  va   : Word
  addr : Word
  word : Word
deriving DecidableEq, Repr, Inhabited

/-- The chain a beacon walks (11 R294). -/
structure Walker where
  va     : Word
  links  : List Word
  count  : Nat
  tag    : Tag
  inj    : Option (Nat × Nat)    -- the strand whose INJC it is, where one is known
  branch : Option (Nat × Line)   -- a BRANCH sent at this number waits for Cond
  ending : Bool                  -- chain-end units are out
  confirm : List Nat             -- members that have not confirmed the chain-end unit
deriving DecidableEq, Repr, Inhabited

/-- A replay token at the beacon: the sequence number asked for, how it counts (0 toward R249, 1 in REPLAYS only, 2 not at all: 15 R374, 19 R423), and whether a
member had no free slot (08 R247). -/
structure BToken where
  seq    : Nat
  counts : Nat
  full   : Bool
  tag    : Tag
deriving DecidableEq, Repr, Inhabited

/-- The states of R246. -/
inductive BeaconSt where
  | idle | sending | windowFull | replay
deriving DecidableEq, Repr, Inhabited

/-- An entry of the group table and the state its beacon keeps for it (08 R238, R246). -/
structure Group where
  owner    : Tag
  st       : BitVec 3
  wm1      : BitVec 3
  rtree    : BitVec 9
  beacon   : BitVec 6
  sibv     : BitVec 1
  sib      : BitVec 8
  mcount   : BitVec 7
  hues     : Word
  next     : Nat
  rel      : Nat
  replays  : Nat
  overruns : Nat
  words    : List (BitVec 32)
  q        : List LReq
  buf      : List Block
  bst      : BeaconSt
  resend   : Option Nat
  token    : Option BToken
  sameAt   : Nat
  sameN    : Nat
  walker   : Option Walker
  marks    : List Mark
deriving DecidableEq, Repr, Inhabited

/-- Light on its way to a member: a block, or a chain-end unit (REASON, VA, SEQ, NEXTSEQ, cause) (08 R242, 11 R303). -/
inductive Photon where
  | block (b : Block)
  | chainEnd (reason : Nat) (va : Word) (seq next cause : Nat)
deriving DecidableEq, Repr, Inhabited

/-- Light in flight to one member of one group, with the frame tag of its units (08 R242). -/
structure Flight where
  group : Nat
  agent : Nat
  tag   : Tag
  what  : Photon
deriving DecidableEq, Repr, Inhabited

/-- Beacons and light. -/
structure Light where
  groups    : SMap Group
  flight    : List Flight
  pending   : List LReq        -- requests on their way to the beacons
  beaconTlb : SMap (List TlbE)
  served    : SMap Nat         -- the group each beacon served last (08 R242)
deriving DecidableEq, Repr, Inhabited

/-! ### Launches -/

/-- A context entry (15 R349): Lodestar's word 0, and the fields of words 2 to 4 in force (R350). -/
structure Ctx where
  st     : BitVec 2
  sealed : Bool
  inc    : BitVec 12
  ov1    : Bool
  old1   : BitVec 12
  ov2    : Bool
  old2   : BitVec 12
  region : Word
  qhdr   : Word
  ptroot : Word
deriving DecidableEq, Repr, Inhabited

/-- The TQU's side of a queue (14 R327, R328). -/
structure Queue where
  head   : Nat
  frozen : Bool
  fault  : Bool
  last   : Nat
deriving DecidableEq, Repr, Inhabited

/-- Task states (14 R332). -/
inductive TaskSt where
  | waiting | queued | placing | prefetch | running | preempted | done | failed | cancelled | killed
deriving DecidableEq, Repr, Inhabited

/-- What the TQU has read of a task image (14 R338): pattern, size, sections as (SECT, VA, NBYTES), fix words as (SECT, VA of the word, fix word, the word as
read), and the strands of the task as (strand, offset). -/
structure TaskImage where
  pattern : BitVec 32
  bytes   : Nat
  secs    : List (Nat × Nat × Nat)
  fixes   : List (Nat × Nat × Nat × Nat)
  starts  : List (Nat × Nat)
deriving DecidableEq, Repr, Inhabited

/-- A tracked task (14 R320 to R343). -/
structure Task where
  id     : Nat
  tag    : Tag
  lvl    : Nat
  record : List Word
  image  : TaskImage
  st     : TaskSt
  order  : Nat
  origin : Nat
  preds  : List Nat          -- outstanding predecessors
  counter : Bool
  since  : Nat               -- ns at which it became QUEUED
  foot   : List (Nat × Nat × Nat × Nat)  -- SRC, LEN, LSA, TSTR
  reason : Nat
  cause  : Nat
  ftile  : Nat
  fstr   : Nat
  taddr  : Word
  tinfo  : Word
  landed : Bool              -- image and footprint have landed
  retire : Option TaskSt     -- the final state TASK_RETIREMENT writes
deriving DecidableEq, Repr, Inhabited

/-- Operations of class S words that markers carry (15, 16 R385). -/
inductive OpKind where
  | kill
  | reclaim
  | preempt
  | tlbinv (mode : BitVec 2) (first npg : Nat)
  | nameinv (name : Nat) (all : Bool)
  | save (lsall vlt : Bool)
  | load
  | resume
deriving DecidableEq, Repr, Inhabited

/-- An operation in progress, its issuer, and the units its marker has reached. -/
structure Op where
  kind    : OpKind
  cx      : Nat
  agent   : Nat
  strand  : Nat
  newInc  : BitVec 12
  reached : List Nat
deriving DecidableEq, Repr, Inhabited

/-- A saved context (15 R370): what the internal sections of its records hold, by the MEAS of the records: the tiles by name, and its tasks.
last says that the context has not been loaded since. -/
structure Saved where
  cx    : Nat
  inc   : BitVec 12
  meas  : BitVec 256
  lsall : Bool
  vlt   : Bool
  last  : Bool
  area  : Nat          -- SAVE of that save
  tiles : SMap Agent
  tasks : List Task
deriving DecidableEq, Repr, Inhabited

/-- A service request outstanding (16 R380). -/
structure SvcReq where
  agent   : Nat
  strand  : Nat
  tag     : Option Tag
  lode    : Bool
  service : Nat
  arg     : Word
deriving DecidableEq, Repr, Inhabited

/-- Contexts, the TQU and Lodestar's operations. -/
structure Os where
  nameroot : Word
  cxtab    : Word
  ageLimit : Word
  maxmsg   : Word           -- MAXMSG and CALLDL as a core last wrote them for every tile (09 R255, R268, log 34)
  calldl   : Word
  ctxs     : SMap Ctx
  queues   : SMap Queue        -- context × 4 + level
  tasks    : List Task
  nextTask : Nat
  lastCx   : Nat            -- the context whose task was placed last (14 R333)
  ops      : List Op
  saves    : List Saved
  svc      : List SvcReq
deriving DecidableEq, Repr, Inhabited

/-! ### Hours -/

/-- A physical row (20 R433, R435). -/
structure Row where
  dead : BitVec 17
  pend : BitVec 17
deriving DecidableEq, Repr, Inhabited

/-- A shift-remap wave in progress (20 R438): row number field × 12 + prow, dead set to apply, names lost, names moved, groups and trees that step 5 waits for. -/
structure Wave where
  row   : Nat
  dead  : BitVec 17
  step  : Nat
  lost  : List Nat
  moved : List Nat
  groups : List Nat
  trees : List Nat
  switch : Bool       -- a service switch uses the same halt (21 R456)
deriving DecidableEq, Repr, Inhabited

/-- A checkpoint image: one Almanac slot with its commit records (20 R446). -/
structure Image where
  gen    : Nat
  mem    : Memory
  tiles  : SMap Agent
  ctxs   : SMap Ctx
  tasks  : List Task
  queues : SMap Queue
  good   : Bool
  l3     : SMap (List Nat)       -- open L3 phases
  held   : List Nat              -- contexts whose L3 release was withheld
  keys   : SMap (BitVec 256)     -- memory keys that Lodestar sealed to the generation (20 R447)
  names  : SMap (BitVec 256)     -- convoys of the sealed contexts
  seals  : SMap Nat
  m3     : SMap (BitVec 256)
  saves  : List Saved
deriving DecidableEq, Repr, Inhabited

/-- Checkpoint state (20 R445). -/
structure Ckpt where
  op    : BitVec 2
  st    : BitVec 8
  slot  : BitVec 1
  gen   : Nat
  slots : SMap Image
  staged : Option Image
  withheld : List Nat
  bad    : Bool          -- a fault has ended a task of a checkpointed context (20 R446)
deriving DecidableEq, Repr, Inhabited

/-- Faults, repair and checkpoints. -/
structure Rel where
  rows     : SMap Row
  rmap     : SMap Nat          -- logical row: grid row + 1, 0 for none
  rowsel   : Word
  wave     : Option Wave
  waves    : Nat
  lastRow  : Nat
  rebuild  : Bool              -- a rebuild has been requested
  tiles    : Nat               -- latched TILES (20 R436)
  lastrow  : Nat               -- latched LASTROW
  ckpt     : Ckpt
  errinj   : Word
  errSkip  : Nat
  recs     : SMap (List Rec)   -- records waiting at each core
  lostRecs : SMap Nat
  corrected : SMap Nat
  throttled : List Nat
deriving DecidableEq, Repr, Inhabited

/-- Fuses (21 R451, R452; 14 R347): grade 0 Indigo or 1 Madder, anti-rollback counter, hashes, fused-off tiles. -/
structure Fuses where
  grade   : BitVec 3
  svn     : Nat
  romHash : BitVec 256
  keyHash : BitVec 256
  off     : List Nat
deriving DecidableEq, Repr, Inhabited

/-- Boot, service level and lasers (21). -/
structure Boot where
  fuses  : Fuses
  stage  : BitVec 4
  code   : BitVec 4
  fields : List Nat            -- fields whose self-test passed
  lasers : BitVec 8
  tstage : Nat
  pilot  : Bool
  calibrated : Bool
  switch : Option Bool         -- a service switch is due: to pilot when true
  m0     : BitVec 256
  m1     : BitVec 256
  m2     : BitVec 256
deriving DecidableEq, Repr, Inhabited

/-! ### Host, peers, trust -/

/-- A mailbox (18 R397). -/
structure Mailbox where
  go    : Bool
  len   : Nat
  op    : Nat
  done  : Bool
  rlen  : Nat
  code  : Byte
  answer : Option (Byte × List Byte)   -- formed by the firmware, not yet written
  data  : SMap Byte
deriving DecidableEq, Repr, Inhabited

/-- A convoy this wafer belongs to (18 R406). -/
structure Convoy where
  id      : BitVec 256
  members : List Nat
  keys    : List (List Byte)
  k       : Nat
  gen     : Nat
  secret  : BitVec 256
  revoked : List Nat
  shares  : List (Nat × List Byte)
  frames  : Nat                -- frame counter of this wafer in the generation (18 R409)
  gone    : Bool               -- this wafer has been revoked: no secret is left (18 R412)
deriving DecidableEq, Repr, Inhabited

/-- A frame handed to the Ulnenu links (18 R399). -/
structure Frame where
  dst    : Nat
  tag    : Tag
  gen    : Nat
  kind   : Nat
  nonce  : Nat
  body   : List Byte
  auth   : BitVec 128
deriving DecidableEq, Repr, Inhabited

/-- Host ports, peers and Lodestar's secrets (18). -/
structure Trust where
  boxes    : SMap Mailbox      -- port × 2 + (1 for ATTEST)
  refused  : SMap Nat
  hostLines : List Nat         -- lines of host memory the device holds (18 R395)
  cxlOut   : Option (Line × Bool)   -- last CXL.mem read: data and poison indication
  ulring   : SMap Word
  seals    : SMap Nat          -- 64 KiB frame: sealed to this context
  memKeys  : SMap (BitVec 256)
  m3       : SMap (BitVec 256)
  cxConvoy : SMap (BitVec 256)
  convoys  : List Convoy
  authFail : Nat
  out      : List Frame
deriving DecidableEq, Repr, Inhabited

/-! ### The machine -/

/-- The model's own bookkeeping and the clocks: outside events to come, who acts, free-value counter, power, tc and ns. -/
structure Env where
  inputs  : List Instr
  agent   : Nat
  strand  : Nat
  fresh   : Nat
  powered : Bool
  tc      : Nat
  ns      : Nat
deriving DecidableEq, Repr, Inhabited

structure State where
  env    : Env
  mem    : Memory
  agents : SMap Agent
  net    : Net
  light  : Light
  os     : Os
  rel    : Rel
  boot   : Boot
  trust  : Trust
deriving DecidableEq, Repr, Inhabited

/-- Why a step stops. -/
inductive Fault where
  /-- Raised by `step` when the module has no power and no POWER_GOOD event is at hand (21 R453, R462): nothing can happen. Safe. -/
  | noPower
deriving DecidableEq, Repr

/-- Why an instruction has no meaning here. -/
inductive Refusal where
  /-- Raised by an arm of `exec` whose instruction has no meaning yet. Safe. -/
  | notModelled (mnemonic : String)
deriving DecidableEq, Repr

/-! ### Reset -/

/-- The system registers of R39 at strand start. -/
def sysRegs0 : SysRegs := ⟨0, 0, 0, 0, 0, 0, 0, 0, 0, 0, 0, 0⟩

/-- No engine state. -/
def strandEng0 : StrandEng := ⟨[], [], [], [], [], [], [], [], [], [], 0⟩

/-- An INACTIVE strand; what the spec states no reset value for is 0 (log 2). -/
def strand0 : Strand :=
  { st := .inactive, cause := none, resume := .inactive, pc := 0, tag := none, task := none, priv := 0, mode := 0,
    base := 0, size := 0, preds := [], vregs := [], sys := sysRegs0, qb := [], dom := [], arrived := [],
    eng := strandEng0, lastBranch := none, yielded := false, hasRun := false, reply := none, word := none, epiLeft := 0, epiIdx := 0 }

/-- A tile or core before any name, task or program: empty, or 0 (log 2). -/
def agent0 : Agent :=
  { name := none, pool := [], strands := [], last := 7, cycle0 := 0, faultbox := 0, maxmsg := none, calldl := none,
    mx := ⟨[], [], [], .cold, 0, [], 7, []⟩, cp := ⟨[], 7, []⟩, ni := ⟨[], [], [], [], [], [], [], []⟩,
    rx := ⟨[], [], [], none, false, []⟩, cfg := ⟨[], [], false, 0⟩, calls := [], tlb := [], icache := [], nextNo := 0,
    stopped := false, task := none }

/-- The wafer at power-good, before the ROM stage has done its work (21 R453): every table empty or at the reset value of its rule;
the values the spec does not state are those of log 2 and log 12. -/
def State.reset : State :=
  { env := { inputs := [], agent := 0, strand := 0, fresh := 0, powered := true, tc := 0, ns := 0 }
    mem := ⟨[], []⟩
    agents := []
    net := { reqs := [], resps := [], msgs := [], walks := [], token := 1, fieldTlb := [], trees := [], rdus := [], packets := [], done := [], ringIn := [], atts := [],
             tokens := [], l3 := [], linkFails := [], served := [], retired := [], lost := [] }
    light := ⟨[], [], [], [], []⟩
    os := { nameroot := 0, cxtab := 0, ageLimit := 2000, maxmsg := 16, calldl := 2000, ctxs := [], queues := [], tasks := [], nextTask := 0, lastCx := 63, ops := [], saves := [], svc := [] }
    rel := { rows := [], rmap := [], rowsel := 0, wave := none, waves := 0, lastRow := 0, rebuild := false, tiles := 0, lastrow := 0,
             ckpt := ⟨0, 0, 0, 0, [], none, [], false⟩, errinj := 0, errSkip := 0, recs := [], lostRecs := [], corrected := [], throttled := [] }
    boot := { fuses := ⟨0, 0, 0, 0, []⟩, stage := 0, code := 0, fields := [], lasers := 0, tstage := 0, pilot := true, calibrated := false,
              switch := none, m0 := 0, m1 := 0, m2 := 0 }
    trust := { boxes := [], refused := [], hostLines := [], cxlOut := none, ulring := [], seals := [], memKeys := [], m3 := [], cxConvoy := [],
               convoys := [], authFail := 0, out := [] } }

end Sys2Proof.Machine
end

