-- ==== Sys2Proof/Machine/Maps.lean ====
section
/-!
DEFINITION. Sparse tables and memory: lookup and update of association lists in ascending key order, bytes and poison marks
(00 R4, 19 R416, R417).
-/

namespace Sys2Proof.Machine

/-! ### Tables -/

/-- The value at a key. -/
def mget? {α : Type} : SMap α → Nat → Option α
  | [], _ => none
  | (k, v) :: t, i => if i = k then some v else mget? t i

/-- The value at a key, d when the key is not listed. -/
def mget {α : Type} (d : α) (m : SMap α) (i : Nat) : α := (mget? m i).getD d

/-- The table with v at key i. -/
def mput {α : Type} : SMap α → Nat → α → SMap α
  | [], i, v => [(i, v)]
  | (k, w) :: t, i, v => if i = k then (i, v) :: t else if i < k then (i, v) :: (k, w) :: t else (k, w) :: mput t i v

/-- The table without key i. -/
def mdel {α : Type} (m : SMap α) (i : Nat) : SMap α := m.filter (fun p => p.1 != i)

/-- The table with the value at key i (d when not listed) changed by f. -/
def mmod {α : Type} (d : α) (m : SMap α) (i : Nat) (f : α → α) : SMap α := mput m i (f (mget d m i))

/-- A list cut into runs of n; the first number is at least as many as the runs. -/
def chunks {α : Type} (n : Nat) : Nat → List α → List (List α)
  | 0, _ => []
  | f + 1, l => if l = [] then [] else l.take n :: chunks n f (l.drop n)

/-! ### Byte cells -/

/-- The byte at an address; an address not listed reads 0 (log 1). -/
def cellGet : List Host.Cell → Nat → Byte
  | [], _ => 0
  | (a, b) :: t, k => if k = a then b else cellGet t k

/-- The cells with byte b, not 0, at address k. -/
def cellPut : List Host.Cell → Nat → Byte → List Host.Cell
  | [], k, b => [(k, b)]
  | (a, c) :: t, k, b => if k = a then (k, b) :: t else if k < a then (k, b) :: (a, c) :: t else (a, c) :: cellPut t k b

/-- The cells with byte b at address k: a byte of 0 is not listed. -/
def cellSet (l : List Host.Cell) (k : Nat) (b : Byte) : List Host.Cell := if b = 0 then l.filter (fun c => c.1 != k) else cellPut l k b

/-- Addresses strictly rising from above lo, and no byte equal to what an unlisted address reads as. -/
def cellsWf : Option Nat → List Host.Cell → Bool
  | _, [] => true
  | lo, (a, b) :: t => (match lo with | none => true | some l => decide (l < a)) && decide (b ≠ 0) && cellsWf (some a) t

/-- Strictly rising numbers from above lo. -/
def risingFrom : Option Nat → List Nat → Bool
  | _, [] => true
  | lo, a :: t => (match lo with | none => true | some l => decide (l < a)) && risingFrom (some a) t

/-- A number put in its place of a rising list. -/
def insertNat : List Nat → Nat → List Nat
  | [], k => [k]
  | a :: t, k => if k = a then a :: t else if k < a then k :: a :: t else a :: insertNat t k

/-! ### Memory -/

/-- The canonical form of memory. -/
abbrev Memory.wf (m : Memory) : Prop := cellsWf none m.cells = true ∧ risingFrom none m.poison = true

/-- One byte of memory. -/
def readByte (m : Memory) (k : Nat) : Byte := cellGet m.cells k

/-- One byte stored, the poison marks left as they are. -/
def writeByte (m : Memory) (k : Nat) (b : Byte) : Memory := { m with cells := cellSet m.cells k b }

/-- n bytes from k on, the lowest address first. -/
def readBytes (m : Memory) (k : Nat) : Nat → List Byte
  | 0 => []
  | n + 1 => readByte m k :: readBytes m (k + 1) n

/-- Bytes stored from k on. -/
def storeBytes (m : Memory) (k : Nat) : List Byte → Memory
  | [] => m
  | b :: t => storeBytes (writeByte m k b) (k + 1) t

/-- The aligned word that holds key k carries a poison mark (19 R416). -/
def poisonedAt (m : Memory) (k : Nat) : Bool := m.poison.contains (k / 8)

/-- Some byte of the n from k on lies in a poisoned word. -/
def poisoned (m : Memory) (k n : Nat) : Bool := n != 0 && m.poison.any (fun w => k / 8 ≤ w && w ≤ (k + n - 1) / 8)

/-- The mark put on the word that holds k (19 R416). -/
def markPoison (m : Memory) (k : Nat) : Memory := { m with poison := insertNat m.poison (k / 8) }

/-- The marks of the words that the n bytes from k on cover whole are cleared (19 R417). -/
def clearPoison (m : Memory) (k n : Nat) : Memory :=
  { m with poison := m.poison.filter (fun w => !(k ≤ 8 * w && 8 * w + 8 ≤ k + n)) }

/-- A write: the bytes are stored, and the words it covers whole lose their marks (19 R417). -/
def writeBytes (m : Memory) (k : Nat) (bs : List Byte) : Memory := clearPoison (storeBytes m k bs) k bs.length

/-- The little-endian number that bytes make (00 R4). -/
def leNat : List Byte → Nat
  | [] => 0
  | b :: t => b.toNat + 256 * leNat t

/-- The n low bytes of a number, lowest first (00 R4). -/
def natBytes : Nat → Nat → List Byte
  | 0, _ => []
  | n + 1, v => BitVec.ofNat 8 v :: natBytes n (v / 256)

/-- An aligned or unaligned little-endian number of n bytes at k. -/
def readNat (m : Memory) (k n : Nat) : Nat := leNat (readBytes m k n)

/-- The word of eight bytes at k. -/
def readWord (m : Memory) (k : Nat) : Word := BitVec.ofNat 64 (readNat m k 8)

/-- A number stored in n bytes at k. -/
def writeNat (m : Memory) (k n v : Nat) : Memory := writeBytes m k (natBytes n v)

/-- A word stored at k. -/
def writeWord (m : Memory) (k : Nat) (v : Word) : Memory := writeNat m k 8 v.toNat

/-! ### CRC-32C (11 R289, 14 R338, 15 R370, 16 R388) -/

/-- Eight steps of the reflected division by the Castagnoli polynomial. -/
def crcShift : Nat → Nat → Nat
  | 0, c => c
  | n + 1, c => crcShift n (if c % 2 = 1 then (c / 2) ^^^ 0x82F63B78 else c / 2)

/-- The register after one more byte. -/
def crcByte (c : Nat) (b : Byte) : Nat := crcShift 8 (c ^^^ b.toNat)

/-- CRC-32C of some bytes, least significant bit first. -/
def crc32c (bs : List Byte) : Nat := (bs.foldl crcByte 0xFFFFFFFF) ^^^ 0xFFFFFFFF

/-- A move of n bytes: data and marks; the mark of a source word comes with each byte of it to the destination word (19 R417). -/
def moveBytes (m : Memory) (dst src n : Nat) : Memory :=
  let bs := readBytes m src n
  let marks := (List.range n).filter (fun i => poisonedAt m (src + i))
  marks.foldl (fun m i => markPoison m (dst + i)) (writeBytes m dst bs)

end Sys2Proof.Machine
end

