-- ==== Sys2Proof/Machine/Num.lean ====
section
/-!
DEFINITION. Number formats and the one rounding helper (02): decoding to exact values, exact arithmetic, RoundToFormat, conversions,
minimum and maximum, residues. A finite value is (-1)^neg * m * 2^e with m a natural number, so every operation here is exact.
-/

namespace Sys2Proof.Machine

/-- The flags of R42 and R55. -/
def fNV : BitVec 5 := 1
def fDZ : BitVec 5 := 2
def fOF : BitVec 5 := 4
def fUF : BitVec 5 := 8
def fNX : BitVec 5 := 16

/-- A floating-point format (R45): mantissa bits, bias, width, the encoding of the largest finite value, whether it has infinities, the
canonical NaN (R48), and whether its NaNs can signal (R49). -/
structure Fmt where
  mant : Nat
  bias : Nat
  width : Nat
  maxEnc : Nat
  hasInf : Bool
  nan : Nat
  signals : Bool
deriving DecidableEq, Repr

def fp32 : Fmt := ⟨23, 127, 32, 0x7F7FFFFF, true, 0x7FC00000, true⟩
def bf16 : Fmt := ⟨7, 127, 16, 0x7F7F, true, 0x7FC0, true⟩
def fp16 : Fmt := ⟨10, 15, 16, 0x7BFF, true, 0x7E00, true⟩
def e4m3 : Fmt := ⟨3, 7, 8, 0x7E, false, 0x7F, false⟩
def e5m2 : Fmt := ⟨2, 15, 8, 0x7B, true, 0x7E, false⟩

/-- The format of a floating-point ET code (R83). -/
def fmtOf (et : BitVec 4) : Fmt :=
  match et.toNat with
  | 0 => fp32 | 1 => bf16 | 2 => fp16 | 3 => e4m3 | _ => e5m2

/-- An exact value: a NaN and whether it signals, an infinity, a zero, or (-1)^neg * m * 2^e with m > 0. -/
inductive Num where
  | nan (sig : Bool)
  | inf (neg : Bool)
  | zero (neg : Bool)
  | fin (neg : Bool) (m : Nat) (e : Int)
deriving DecidableEq, Repr

/-- The value an encoding holds (R45, R49). -/
def Num.decode (f : Fmt) (bits : Nat) : Num :=
  let m := bits % 2 ^ f.mant
  let ex := (bits / 2 ^ f.mant) % 2 ^ (f.width - 1 - f.mant)
  let neg := (bits / 2 ^ (f.width - 1)) % 2 = 1
  let mag := bits % 2 ^ (f.width - 1)
  if ¬ f.hasInf ∧ mag = 2 ^ (f.width - 1) - 1 then .nan false
  else if f.hasInf ∧ ex = 2 ^ (f.width - 1 - f.mant) - 1 then
    if m = 0 then .inf neg else .nan (f.signals && m < 2 ^ (f.mant - 1))
  else if mag = 0 then .zero neg
  else if ex = 0 then .fin neg m (1 - f.bias - f.mant)
  else .fin neg (2 ^ f.mant + m) ((ex : Int) - f.bias - f.mant)

/-- Whether a signalling NaN was read (R49). -/
def Num.snan : Num → Bool
  | .nan s => s
  | _ => false

def Num.isNan : Num → Bool
  | .nan _ => true
  | _ => false

def Num.isZero : Num → Bool
  | .zero _ => true
  | _ => false

def Num.isInf : Num → Bool
  | .inf _ => true
  | _ => false

/-- The sign of a value that is not a NaN. -/
def Num.sign : Num → Bool
  | .nan _ => false
  | .inf n => n
  | .zero n => n
  | .fin n _ _ => n

/-- The value with the other sign; a NaN is left as it is. -/
def Num.neg : Num → Num
  | .nan s => .nan s
  | .inf n => .inf (!n)
  | .zero n => .zero (!n)
  | .fin n m e => .fin (!n) m e

/-- The magnitude. -/
def Num.abs : Num → Num
  | .nan s => .nan s
  | .inf _ => .inf false
  | .zero _ => .zero false
  | .fin _ m e => .fin false m e

/-- An integer times a power of two; a zero has the sign given. -/
def Num.ofInt (z : Bool) (n : Int) (e : Int) : Num := if n = 0 then .zero z else .fin (n < 0) n.natAbs e

/-- The signed integer n with the finite value equal to n * 2^e, for e at most the value's own exponent. -/
def Num.toIntAt : Num → Int → Int
  | .fin n m e, k => let v : Int := (m : Int) * 2 ^ (e - k).toNat; if n then -v else v
  | _, _ => 0

/-- The exponent of a finite value, 0 for others. -/
def Num.exp : Num → Int
  | .fin _ _ e => e
  | _ => 0

/-- The value times 2^k. -/
def Num.scale (x : Num) (k : Int) : Num :=
  match x with
  | .fin n m e => .fin n m (e + k)
  | y => y

/-! ### Rounding -/

/-- Whether the magnitude rounds away from zero: k is the lesser neighbour in lattice units, rem / 2^sh what is left (R51, R53). -/
def roundsUp (rm : Nat) (neg : Bool) (draw k rem sh : Nat) : Bool :=
  if rem = 0 then false
  else match rm with
    | 0 => 2 * rem > 2 ^ sh || (2 * rem == 2 ^ sh && k % 2 == 1)
    | 1 => false
    | 2 => !neg
    | 3 => neg
    | 4 => 2 * rem ≥ 2 ^ sh
    | _ => rem * 2 ^ 32 / 2 ^ sh + draw ≥ 2 ^ 32

/-- Rounds m * 2^e to a multiple of 2^q: the multiple, and whether it is inexact. -/
def roundAt (rm : Nat) (neg : Bool) (draw m : Nat) (e q : Int) : Nat × Bool :=
  if q ≤ e then (m * 2 ^ (e - q).toNat, false)
  else
    let sh := (q - e).toNat
    let k := m / 2 ^ sh
    let rem := m % 2 ^ sh
    ((if roundsUp rm neg draw k rem sh then k + 1 else k), rem != 0)

/-- The sign bit of a format. -/
def signBit (f : Fmt) (neg : Bool) : Nat := if neg then 2 ^ (f.width - 1) else 0

/-- RoundToFormat (R54): x exact, rm a mode 0 to 5, draw the SRD draw. -/
def roundTo (f : Fmt) (rm : Nat) (sat : Bool) (draw : Nat) (x : Num) : Nat × BitVec 5 :=
  match x with
  | .nan _ => (f.nan, 0)
  | .inf n =>
    if f.hasInf then (signBit f n + (f.maxEnc / 2 ^ f.mant + 1) * 2 ^ f.mant, 0)
    else if sat then (signBit f n + f.maxEnc, 0) else (f.nan, fNV)
  | .zero n => (signBit f n, 0)
  | .fin n m e =>
    let top : Int := (Nat.log2 m : Int) + e
    let qmin : Int := 1 - f.bias - f.mant
    let q : Int := max (top - f.mant) qmin
    let (k, nx) := roundAt rm n draw m e q
    let enc := (q - qmin).toNat * 2 ^ f.mant + k
    let qt : Int := top - f.mant
    let (kt, _) := roundAt rm n draw m e qt
    let tiny : Bool := decide (qt < qmin) && decide ((kt : Int) < 2 ^ (f.mant + (qmin - qt).toNat))
    if enc > f.maxEnc then
      let fl := fOF ||| fNX
      if sat then (signBit f n + f.maxEnc, fl)
      else if ¬ f.hasInf then (f.nan, fl)
      else if rm = 1 ∨ (rm = 3 ∧ ¬ n) ∨ (rm = 2 ∧ n) then (signBit f n + f.maxEnc, fl)
      else (signBit f n + (f.maxEnc / 2 ^ f.mant + 1) * 2 ^ f.mant, fl)
    else (signBit f n + enc, if nx then (if tiny then fNX ||| fUF else fNX) else 0)

/-! ### Exact arithmetic -/

/-- Exact result with the NV and DZ flags the operation itself raises (R55). -/
structure Exact where
  val : Num
  fl  : BitVec 5
deriving DecidableEq, Repr

/-- NV when some operand signals (R49). -/
def nvIf (b : Bool) : BitVec 5 := if b then fNV else 0

/-- The sign of an exactly zero sum (R57). -/
def zeroSumNeg (a b : Num) (rm : Nat) : Bool :=
  if a.isZero && b.isZero && a.sign == b.sign then a.sign else rm == 3

/-- a + b (R55, R57). -/
def xadd (rm : Nat) (a b : Num) : Exact :=
  let sn := nvIf (a.snan || b.snan)
  match a, b with
  | .nan _, _ => ⟨.nan false, sn⟩
  | _, .nan _ => ⟨.nan false, sn⟩
  | .inf x, .inf y => if x = y then ⟨.inf x, 0⟩ else ⟨.nan false, fNV⟩
  | .inf x, _ => ⟨.inf x, 0⟩
  | _, .inf y => ⟨.inf y, 0⟩
  | .zero _, .zero _ => ⟨.zero (zeroSumNeg a b rm), 0⟩
  | .zero _, y => ⟨y, 0⟩
  | x, .zero _ => ⟨x, 0⟩
  | x, y => let k := min x.exp y.exp; ⟨Num.ofInt (rm == 3) (x.toIntAt k + y.toIntAt k) k, 0⟩

/-- a × b (R55, R57). -/
def xmul (a b : Num) : Exact :=
  let sn := nvIf (a.snan || b.snan)
  let s := a.sign != b.sign
  match a, b with
  | .nan _, _ => ⟨.nan false, sn⟩
  | _, .nan _ => ⟨.nan false, sn⟩
  | .inf _, .zero _ => ⟨.nan false, fNV⟩
  | .zero _, .inf _ => ⟨.nan false, fNV⟩
  | .inf _, _ => ⟨.inf s, 0⟩
  | _, .inf _ => ⟨.inf s, 0⟩
  | .zero _, _ => ⟨.zero s, 0⟩
  | _, .zero _ => ⟨.zero s, 0⟩
  | .fin _ m e, .fin _ n f => ⟨.fin s (m * n) (e + f), 0⟩

/-- a × b + c, rounded once by the caller; 0 × ∞ raises NV whatever c is (R112, R142). -/
def xfma (rm : Nat) (a b c : Num) : Exact :=
  let p := xmul a b
  let r := xadd rm p.val c
  ⟨r.val, p.fl ||| r.fl ||| nvIf c.snan⟩

/-- a / b, to far more bits than any format holds, with a last bit that says whether anything was cut off (R55). -/
def xdiv (a b : Num) : Exact :=
  let sn := nvIf (a.snan || b.snan)
  let s := a.sign != b.sign
  match a, b with
  | .nan _, _ => ⟨.nan false, sn⟩
  | _, .nan _ => ⟨.nan false, sn⟩
  | .inf _, .inf _ => ⟨.nan false, fNV⟩
  | .zero _, .zero _ => ⟨.nan false, fNV⟩
  | .inf _, _ => ⟨.inf s, 0⟩
  | _, .inf _ => ⟨.zero s, 0⟩
  | .zero _, _ => ⟨.zero s, 0⟩
  | _, .zero _ => ⟨.inf s, fDZ⟩
  | .fin _ m e, .fin _ n f =>
    let q := m * 2 ^ 200 / n
    let rem := m * 2 ^ 200 % n
    ⟨.fin s (if rem = 0 then 2 * q else 2 * q + 1) (e - f - 201), 0⟩

/-- Integer square root: the greatest r with r * r ≤ n, found bit by bit from 2^(k-1) down. -/
def isqrtFrom : Nat → Nat → Nat → Nat
  | 0, _, r => r
  | k + 1, n, r => let t := r + 2 ^ k; isqrtFrom k n (if t * t ≤ n then t else r)

/-- Integer square root. -/
def isqrt (n : Nat) : Nat := isqrtFrom (Nat.log2 n / 2 + 1) n 0

/-- √a with a last bit that says whether anything was cut off (R112). -/
def xsqrt (a : Num) : Exact :=
  match a with
  | .nan s => ⟨.nan false, nvIf s⟩
  | .zero n => ⟨.zero n, 0⟩
  | .inf false => ⟨.inf false, 0⟩
  | .inf true => ⟨.nan false, fNV⟩
  | .fin true _ _ => ⟨.nan false, fNV⟩
  | .fin false m e =>
    let odd := e % 2 = 1
    let n := (if odd then 2 * m else m) * 2 ^ 200
    let ex : Int := (if odd then e - 1 else e) / 2 - 100
    let r := isqrt n
    ⟨.fin false (if r * r = n then 2 * r else 2 * r + 1) (ex - 1), 0⟩

/-- a < b for values that are not NaN, with -0 below +0 when `zeros` is set (R58), equal otherwise (R85). -/
def numLt (zeros : Bool) (a b : Num) : Bool :=
  match a, b with
  | .inf true, .inf true => false
  | .inf true, _ => true
  | _, .inf true => false
  | .inf false, _ => false
  | _, .inf false => true
  | .zero x, .zero y => zeros && x && !y
  | x, y => let k := min x.exp y.exp; x.toIntAt k < y.toIntAt k

/-- Lesser of two values (R58); NV only for a signalling NaN. -/
def xmin (a b : Num) : Exact :=
  if a.isNan || b.isNan then ⟨.nan false, nvIf (a.snan || b.snan)⟩ else ⟨if numLt true b a then b else a, 0⟩

/-- Greater of two values (R58). -/
def xmax (a b : Num) : Exact :=
  if a.isNan || b.isNan then ⟨.nan false, nvIf (a.snan || b.snan)⟩ else ⟨if numLt true a b then b else a, 0⟩

/-- The floating-point conditions of R85. -/
def fcond (c : Nat) (a b : Num) : Bool :=
  let un := a.isNan || b.isNan
  let lt := !un && numLt false a b
  let gt := !un && numLt false b a
  let eq := !un && !lt && !gt
  match c with
  | 0 => eq | 1 => un || !eq | 2 => lt | 3 => un || !lt | 4 => lt || eq | 5 => un || gt | 6 => gt | 7 => un || !gt
  | 8 => gt || eq | 9 => un || lt | 10 => !un && !eq | 11 => un || eq | 12 => !un | _ => un

/-! ### Integers -/

/-- Signedness of an integer type code: 5 to 7 signed, 8 to 10 unsigned (R83). -/
def etSigned (et : BitVec 4) : Bool := et.toNat ≤ 7

/-- The integer that w bits hold. -/
def intOf (signed : Bool) (w : Nat) (bits : Nat) : Int :=
  let b := bits % 2 ^ w
  if signed && b ≥ 2 ^ (w - 1) then (b : Int) - 2 ^ w else b

/-- The w bits of an integer, modulo 2^w (R50). -/
def bitsOf (w : Nat) (v : Int) : Nat := (v % 2 ^ w).toNat

/-- Least and greatest value of a type (R50). -/
def intMin (signed : Bool) (w : Nat) : Int := if signed then -(2 ^ (w - 1)) else 0
def intMax (signed : Bool) (w : Nat) : Int := if signed then 2 ^ (w - 1) - 1 else 2 ^ w - 1

/-- An exact integer delivered wrapped, or limited to the range of the type (R139). -/
def deliverInt (signed : Bool) (w : Nat) (sat : Bool) (v : Int) : Nat :=
  bitsOf w (if sat then max (intMin signed w) (min (intMax signed w) v) else v)

/-- The integer conditions of R84, on signed and unsigned views of the operands. -/
def icond (c : Nat) (sa sb ua ub : Int) : Bool :=
  match c with
  | 0 => ua == ub | 1 => ua != ub | 2 => sa < sb | 3 => sa ≥ sb | 4 => ua < ub | 5 => ua ≥ ub
  | 6 => sa ≤ sb | 7 => sa > sb | 8 => ua ≤ ub | _ => ua > ub

/-- A floating-point value converted to an integer type (R56). A value that rounds above an unsigned maximum, for which the table has no row, gives the maximum with NV
(log 109). -/
def numToInt (signed : Bool) (w : Nat) (rm draw : Nat) (x : Num) : Nat × BitVec 5 :=
  match x with
  | .nan _ => (0, fNV)
  | .inf n => (bitsOf w (if n then intMin signed w else intMax signed w), fNV)
  | .zero _ => (0, 0)
  | .fin n m e =>
    let (k, nx) := roundAt rm n draw m e 0
    let v : Int := if n then -(k : Int) else k
    if v < intMin signed w then (bitsOf w (intMin signed w), fNV)
    else if v > intMax signed w then (bitsOf w (intMax signed w), fNV)
    else (bitsOf w v, if nx then fNX else 0)

/-- Width of a conversion side: 64 for the 32-bit integer codes when W64 is set (R113). -/
def cvtWidth (et : BitVec 4) (w64 : Bool) : Nat := if w64 && (et == 5 || et == 8) then 64 else etWidth et

/-- One conversion of R56: source type st and bits, target type dt; the mode rm is effective. -/
def convert (dt st : BitVec 4) (w64 : Bool) (rm : Nat) (sat : Bool) (draw : Nat) (bits : Nat) : Nat × BitVec 5 :=
  if etFloat st then
    let x := Num.decode (fmtOf st) bits
    if etFloat dt then
      let (r, fl) := roundTo (fmtOf dt) rm sat draw x
      (r, fl ||| nvIf x.snan)
    else numToInt (etSigned dt) (cvtWidth dt w64) rm draw x
  else
    let v := intOf (etSigned st) (cvtWidth st w64) bits
    if etFloat dt then roundTo (fmtOf dt) rm sat draw (Num.ofInt false v 0)
    else (deliverInt (etSigned dt) (cvtWidth dt w64) sat v, 0)

/-! ### E8M0 scales and residues -/

/-- The exponent of an E8M0 scale; none for 0xFF, a NaN (R45). -/
def scaleExp (b : Nat) : Option Int := if b % 256 = 255 then none else some ((b % 256 : Nat) - 127)

/-- ResidueOf (R73). -/
def residueOf (v : Int) : Nat := (v % 127).toNat

/-! ### The draw -/

/-- One step of the generator of R52. -/
def srdNext (seed : Word) : Word := seed * 0x5851F42D4C957F2D + 0x14057B7EF767814F

/-- The 32 bits drawn from a state of the generator (R52). -/
def srdBits (seed : Word) : Nat := seed.toNat / 2 ^ 32

end Sys2Proof.Machine
end

