-- ==== Sys2Proof/Machine/Ops.lean ====
section
/-!
DEFINITION. The named operations on State: tiles, strands and their keys, fault records (19 R429), the failing of strands and tasks
(14 R340), taking a trap (16 R384) and returning from one (R383), and the small monad in which instruction meanings are written.
-/

namespace Sys2Proof.Machine

/-! ### Who is where

Tile (field, pcol, prow) has number field × 204 + prow × 17 + pcol (00 R6); binnacle core c is 9792 + c, the security core 9800. -/

/-- The number of binnacle core 0. -/
def coreBase : Nat := 9792
/-- The number of the security core. -/
def securityCore : Nat := 9800
/-- A binnacle or security core, which runs in no context (10 R473). -/
def isCore (a : Nat) : Bool := coreBase ≤ a
/-- The tile at (field, pcol, prow). -/
def physOf (field pcol prow : Nat) : Nat := field * 204 + prow * 17 + pcol
def tileField (p : Nat) : Nat := p / 204
def tileRow (p : Nat) : Nat := p % 204 / 17
def tileCol (p : Nat) : Nat := p % 17
/-- FIELD, PCOL and PROW as records and entries hold them (19 R429). -/
def locBits (p : Nat) : Nat := if isCore p then 0 else tileField p * 512 + tileCol p * 16 + tileRow p

/-- The agent with a number. -/
def agentAt (s : State) (a : Nat) : Agent := mget agent0 s.agents a
def setAgent (s : State) (a : Nat) (x : Agent) : State := { s with agents := mput s.agents a x }
def modAgent (s : State) (a : Nat) (f : Agent → Agent) : State := setAgent s a (f (agentAt s a))
/-- Every listed agent changed. -/
def mapAgents (s : State) (f : Nat → Agent → Agent) : State := { s with agents := s.agents.map (fun p => (p.1, f p.1 p.2)) }

/-- Strand k of an agent. -/
def strandOf (x : Agent) (k : Nat) : Strand := mget strand0 x.strands k
def strandAt (s : State) (a k : Nat) : Strand := strandOf (agentAt s a) k
def setStrand (s : State) (a k : Nat) (t : Strand) : State := modAgent s a (fun x => { x with strands := mput x.strands k t })
def modStrand (s : State) (a k : Nat) (f : Strand → Strand) : State := setStrand s a k (f (strandAt s a k))

/-- The strand that exec runs for, and its agent. -/
def cur (s : State) : Strand := strandAt s s.env.agent s.env.strand
def curAgent (s : State) : Agent := agentAt s s.env.agent
def modCur (s : State) (f : Strand → Strand) : State := modStrand s s.env.agent s.env.strand f
def modCurAgent (s : State) (f : Agent → Agent) : State := modAgent s s.env.agent f

/-- The tile that holds a logical name (14 R344; the tile's own record of its name). -/
def physOfName (s : State) (n : Nat) : Option Nat := (s.agents.find? (fun p => p.2.name == some n)).map (·.1)
/-- The logical name of a tile, 0 when it holds none. -/
def nameOf (s : State) (a : Nat) : Nat := (agentAt s a).name.getD 0

/-- The context entry c. -/
def ctx0 : Ctx := ⟨0, false, 0, false, 0, false, 0, 0, 0, 0⟩
def ctxAt (s : State) (c : Nat) : Ctx := mget ctx0 s.os.ctxs c
def modCtx (s : State) (c : Nat) (f : Ctx → Ctx) : State := { s with os := { s.os with ctxs := mmod ctx0 s.os.ctxs c f } }
/-- The tag {c, live INC}. -/
def liveTag (s : State) (c : Nat) : Tag := ⟨BitVec.ofNat 6 c, (ctxAt s c).inc⟩

/-- A free value of the model: Config.freeWord of the counter (log 5). -/
def freshWord (s : State) : Word × State := (Config.freeWord s.env.fresh, { s with env := { s.env with fresh := s.env.fresh + 1 } })
def freshBit (s : State) : Bool × State := (Config.freeBit s.env.fresh, { s with env := { s.env with fresh := s.env.fresh + 1 } })
def freshNat (s : State) : Nat × State := (Config.freeNat s.env.fresh, { s with env := { s.env with fresh := s.env.fresh + 1 } })

/-! ### Keys of memory (10 R273, R473) -/

/-- Bytes of module memory in one WMM: 192 GiB (15 R361). -/
def wmmBytes : Nat := 192 * 2 ^ 30
/-- A module physical address that exists. -/
def inModule (a : Nat) : Bool := a < 2 ^ 43 && a % 2 ^ 38 < wmmBytes
def keyHost (a : Nat) : Nat := 2 ^ 60 + a
def keyLs (p off : Nat) : Nat := 2 ^ 61 + p * 2 ^ 24 + off
def keyVault (p off : Nat) : Nat := 2 ^ 61 + p * 2 ^ 24 + 2 ^ 23 + off
def keyFlash (slot off : Nat) : Nat := 2 ^ 62 + slot * 2 ^ 32 + off
/-- Own LS: 3 MiB; own vault: 8 MiB. -/
def lsBytes : Nat := 0x300000
def vaultBytes : Nat := 0x800000
/-- Element i of accumulator bank b, so that a poison mark on it has a name (log 13). -/
def keyBank (p b i : Nat) : Nat := 2 ^ 63 + p * 2 ^ 24 + 8 * (b * 2 ^ 14 + i)
/-- The memory a key belongs to: its home, for the order of one strand's requests (10 R280). -/
def homeOf (key : Nat) : Nat := if key < 2 ^ 43 then key / 2 ^ 38 else if key < 2 ^ 61 then 32 else 64 + (key - 2 ^ 61) / 2 ^ 23

/-- The address a key has in its own memory: module or host physical, or the tile's own LS or vault address. -/
def addrOfKey (key : Nat) : Nat := if key < 2 ^ 60 then key else if key < 2 ^ 61 then key - 2 ^ 60 else if key < 2 ^ 62 then key % 2 ^ 24 else key % 2 ^ 32

/-- Memory replaced. -/
def setMem (s : State) (m : Memory) : State := { s with mem := m }

/-! ### Fault records (19 R426, R429, R430) -/

/-- A record. tag none leaves CXV 0. -/
def mkRec (s : State) (kind cause : Nat) (tag : Option Tag) (name loc unit detail : Nat) (addr info : Word)
    (token seq group access level : Nat) : Rec :=
  let tg := match tag with
    | some t => t.cx.toNat * 2 ^ 42 + t.inc.toNat * 2 ^ 30 + 2 ^ 29
    | none => 0
  { w0 := BitVec.ofNat 64 (kind * 2 ^ 56 + cause * 2 ^ 48 + tg + name * 2 ^ 15 + loc)
    w1 := BitVec.ofNat 64 (unit * 2 ^ 56 + detail * 2 ^ 48 + s.env.ns % 2 ^ 48)
    w2 := addr, w3 := info
    w4 := BitVec.ofNat 64 (token * 2 ^ 32 + seq % 2 ^ 32)
    w5 := BitVec.ofNat 64 (group * 2 ^ 55 + access * 8 + level) }

/-- The core that takes the records of a unit of field column c (19 R426). -/
def recCore (p : Nat) : Nat := if isCore p then 0 else tileField p % 8

/-- A record enters the fault mailbox of tile a; a core's own goes to its queue (19 R426). -/
def postTile (s : State) (a : Nat) (r : Rec) : State :=
  if isCore a then { s with rel := { s.rel with recs := mmod [] s.rel.recs 0 (· ++ [r]) } }
  else modAgent s a (fun x => { x with ni := { x.ni with fbox := x.ni.fbox ++ [r] } })

/-- A record goes to core c's queue, from a unit that is not on a tile (19 R426). -/
def postCore (s : State) (c : Nat) (r : Rec) : State := { s with rel := { s.rel with recs := mmod [] s.rel.recs c (· ++ [r]) } }

/-- A record of a unit of tile a. -/
def postUnit (s : State) (a kind cause : Nat) (tag : Option Tag) (unit detail : Nat) (addr info : Word) (seq group : Nat) : State :=
  postTile s a (mkRec s kind cause tag (nameOf s a) (locBits a) unit detail addr info 0 seq group 0 0)

/-- A POISON record (19 R418): DETAIL 1, the word's address, the consumer's FN. -/
def postPoison (s : State) (a : Nat) (tag : Option Tag) (unit key fn : Nat) : State :=
  postUnit s a 3 0x10 tag unit 1 (BitVec.ofNat 64 (addrOfKey key / 8 * 8)) (BitVec.ofNat 64 fn) 0 0

/-! ### Tasks that fail (14 R340) -/

/-- A task by its number. -/
def taskAt (s : State) (i : Nat) : Option Task := s.os.tasks.find? (fun t => t.id == i)
/-- The task changed. -/
def modTask (s : State) (i : Nat) (f : Task → Task) : State :=
  { s with os := { s.os with tasks := s.os.tasks.map (fun t => if t.id = i then f t else t) } }

/-- The instruction of a strand has issued and is not at its end: a send that places its elements, or one whose answer has come. -/
def midInstr (t : Strand) : Bool := t.reply.isSome && (t.st == .ready || (t.st == .waiting && t.cause == some .sink))

/-- A strand stops (15 R369): what is READY or WAITING is STOPPED and remembers it, but for an instruction that has issued, which completes first; the others keep
their state. -/
def stopStrand (t : Strand) : Strand :=
  if (t.st = .ready ∨ t.st = .waiting) ∧ !midInstr t then { t with st := .stopped, resume := t.st, yielded := false } else t

/-- The invocation in progress has written its bank and runs to its commit (11 R304). -/
def committing (x : Agent) : Bool := match x.rx.chain with | some c => c.inv.any (·.bankw) && (strandOf x c.strand).st != .failed | none => false

/-- Strand k runs the epilogue of an invocation that runs to its commit. -/
def finishesEpilogue (x : Agent) (k : Nat) : Bool := committing x && (match x.rx.chain with | some c => c.strand == k && c.inv.any (·.epi) | none => false)

/-- An invocation whose bank is not written is discarded; its strand is PARKED (15 R369). -/
def discardInvocation (x : Agent) : Agent :=
  match x.rx.chain with
  | none => x
  | some c =>
    if c.inv.isNone ∨ committing x then x
    else
      let t := strandOf x c.strand
      { x with
        rx := { x.rx with held := [], chain := some { c with inv := none } }
        strands := mput x.strands c.strand
          { t with st := if t.st = .failed then .failed else .parked, cause := none, reply := none, word := none, lastBranch := none, epiLeft := 0, epiIdx := 0 } }

/-- The strands of a tile stop. -/
def stopStrands (x : Agent) : SMap Strand := x.strands.map (fun p => (p.1, if finishesEpilogue x p.1 then p.2 else stopStrand p.2))

/-- The commands of a strand that have not issued are discarded and counted. -/
def abandonQueues (t : Strand) : Strand :=
  { t with eng := { t.eng with mxq := [], cpq := [], abandoned := t.eng.abandoned + t.eng.mxq.length + t.eng.cpq.length } }

/-- The rest of a failed task is stopped on a tile as at a stop: unissued commands are discarded, triggers disarmed (R340). -/
def abandonTile (x : Agent) : Agent :=
  let x := discardInvocation x
  { x with
    strands := (stopStrands x).map (fun p => (p.1, abandonQueues p.2))
    mx := { x.mx with trig := [] } }

/-- A task ends FAILED: the first failure decides, and the rest of the task is stopped (R340). Its record is written at TASK_RETIREMENT. -/
def failTask (s : State) (i reason cause ftile fstr : Nat) (taddr tinfo : Word) : State :=
  match taskAt s i with
  | none => s
  | some t =>
    if t.retire.isSome then s
    else
      let s := modTask s i (fun t => { t with retire := some .failed, reason := reason, cause := cause, ftile := ftile, fstr := fstr,
                                              taddr := taddr, tinfo := tinfo })
      let k := s.rel.ckpt.st.toNat
      let s := if 1 ≤ k ∧ k ≤ 4 then { s with rel := { s.rel with ckpt := { s.rel.ckpt with bad := true } } } else s
      mapAgents s (fun _ x => if x.task = some i then abandonTile x else x)

/-- A strand becomes FAILED, with its record and its task (R17, R340, 19 R430). -/
def failStrand (s : State) (a k detail cause : Nat) (addr info : Word) : State :=
  let t := strandAt s a k
  let s := setStrand s a k { t with st := .failed, cause := none }
  let s := postUnit s a 1 cause t.tag 0 detail addr info 0 0
  match t.task with
  | some i => failTask s i 6 cause (nameOf s a) k addr info
  | none => s

/-! ### Stops of an instruction -/

/-- A trap that an instruction raises (04 R103): cause of 01 R44, TADDR (none: the instruction's PC), TINFO, the TPC when it is not that PC,
TPREV, and what stays of the instruction's effects although it trapped: of FP_TRAP the flags and draws, of a release the bytes written back. hold marks a
store that the hold capacity of a chain does not take (11 R299). -/
structure Trap where
  cause : Nat
  addr  : Option Word
  info  : Word
  tpc   : Option Word
  prev  : Word
  post  : State → State
  hold  : Bool

/-- Why an instruction did not complete: a trap, or the strand is WAITING for a cause and the state it waits in follows from the one before. -/
inductive Stop where
  | trap (t : Trap)
  | wait (c : WaitCause) (f : State → State)

/-- Where the strand goes when an instruction has retired. -/
inductive Ctl where
  | next                   -- PC + 8
  | jump (t : Word)        -- a taken branch
  | keep                   -- the instruction has set the strand's state and PC itself
deriving DecidableEq, Repr

/-- A computation on the state that may stop; a stop undoes what came before it. -/
abbrev Exec (α : Type) := StateT State (Except Stop) α

/-- Traps with a cause, TADDR and TINFO. -/
def trapAt {α : Type} (cause : Nat) (addr : Word) (info : Nat) : Exec α :=
  fun _ => .error (.trap ⟨cause, some addr, BitVec.ofNat 64 info, none, 0, id, false⟩)
/-- Traps with TADDR the PC. -/
def trapPc {α : Type} (cause : Nat) (info : Word) : Exec α := fun _ => .error (.trap ⟨cause, none, info, none, 0, id, false⟩)
/-- The strand waits. -/
def waitFor {α : Type} (c : WaitCause) : Exec α := fun _ => .error (.wait c id)
/-- The strand waits, in the state f makes of the one before the instruction. -/
def waitWith {α : Type} (c : WaitCause) (f : State → State) : Exec α := fun _ => .error (.wait c f)
/-- The state. -/
def getS : Exec State := fun s => .ok (s, s)
/-- The state changed. -/
def modS (f : State → State) : Exec Unit := fun s => .ok ((), f s)
/-- A value of the state. -/
def reads {α : Type} (f : State → α) : Exec α := fun s => .ok (f s, s)

/-- Cause codes of 01 R44. -/
def cILLEGAL := 0x01
def cPRIVILEGE := 0x02
def cREGBOUND := 0x03
def cMISALIGN := 0x04
def cFETCH := 0x05
def cLOAD := 0x06
def cSTORE := 0x07
def cDRIVE := 0x08
def cNAME := 0x09
def cQUEUE := 0x0A
def cENGINE := 0x0B
def cFP := 0x0C
def cSWTRAP := 0x0D
def cBREAK := 0x0E
def cBLOCK := 0x0F
def cPOISON := 0x10
def cREDUCE := 0x11
def cBARRIER := 0x12
def cOVERRUN := 0x13
def cCAPACITY := 0x14
def cDOUBLE := 0x15
def cRESIDUE := 0x16
def cSAMPLE := 0x17
def cKEY := 0x18

/-! ### Taking a trap and returning -/

/-- Trap entry for strand k of agent a (16 R384): the trap registers are written, TDEPTH becomes 1 and the PC TVEC; with TDEPTH 1 already, TCAUSE2
and TADDR2 are written and the strand is FAILED (its task with REASON 6, CAUSE 0x15, R340). -/
def trapEntry (s : State) (a k : Nat) (cause : Nat) (tpc addr info prev : Word) : State :=
  let t := strandAt s a k
  if t.sys.tdepth = 0 then
    setStrand s a k
      { t with
        st := .ready, cause := none, reply := none, word := none, lastBranch := none, yielded := false
        pc := t.sys.tvec
        sys := { t.sys with tpc := tpc, tcause := BitVec.ofNat 64 cause, taddr := addr, tinfo := info, tprev := prev, tdepth := 1 } }
  else
    let s := setStrand s a k
      { t with cause := none, reply := none, word := none, sys := { t.sys with tcause2 := BitVec.ofNat 64 cause, taddr2 := addr } }
    failStrand s a k 1 cDOUBLE addr (BitVec.ofNat 64 cause)

/-- The TINFO of a chain fault (11 R301). -/
def chainInfo (seq group reason epiw : Nat) (bankw : Bool) (bside : Bool) : Word :=
  BitVec.ofNat 64 (seq % 2 ^ 24 * 2 ^ 40 + group * 2 ^ 32 + reason * 2 ^ 24 + epiw * 2 ^ 16 + (if bankw then 2 ^ 15 else 0) + (if bside then 1 else 0))

/-- A fault of the invocation in progress on tile a (11 R302, R303): it is discarded with its held stores, the driving strand is PARKED again, and a
chain-stop token with its SEQ is due. addr none stands for the block's VA. -/
def memberFault (s : State) (a : Nat) (reason cause : Nat) (addr : Option Word) (epiw : Nat) (place : Nat) : State :=
  let x := agentAt s a
  match x.rx.chain with
  | none => s
  | some c =>
    match c.inv with
    | none => s
    | some i =>
      let va := match mget? x.rx.slots i.slot with | some sl => sl.va | none => 0
      let info := chainInfo i.seq c.group reason epiw i.bankw false ||| BitVec.ofNat 64 place
      let f : Posted := ⟨BitVec.ofNat 8 cause, addr.getD va, info⟩
      let s := modAgent s a (fun x => { x with rx := { x.rx with held := [], chain := some { c with inv := none, stopTok := some (i.seq, f) } } })
      modStrand s a c.strand (fun t => { t with st := .parked, cause := none, reply := none, word := none, epiLeft := 0, lastBranch := none })

/-- The strand runs an epilogue: its chain's invocation is in its epilogue (11 R298). -/
def inEpilogue (s : State) (a k : Nat) : Bool :=
  match (agentAt s a).rx.chain with
  | some c => c.strand == k && (match c.inv with | some i => i.epi | none => false)
  | none => false

/-- The walks that failed for the current strand are answered by its trap (15 R366). -/
def dropFailedWalks (s : State) : State :=
  { s with net := { s.net with walks := s.net.walks.filter (fun w => !(w.failed && w.who == .strand s.env.agent s.env.strand)) } }

/-- The current strand takes a trap, what stays of the instruction first (04 R103). In an epilogue the chain ends instead, with REASON 22, or 19 for a
store that could not be held (11 R298). -/
def takeTrap (s : State) (t : Trap) : State :=
  let s := dropFailedWalks (t.post s)
  let pc := (cur s).pc
  let addr := t.addr.getD pc
  if inEpilogue s s.env.agent s.env.strand then
    if t.hold then memberFault s s.env.agent 19 cBLOCK none (cur s).epiIdx 0
    else memberFault s s.env.agent 22 t.cause (some addr) (cur s).epiIdx 0
  else trapEntry s s.env.agent s.env.strand t.cause (t.tpc.getD pc) addr t.info t.prev

/-- The current strand is WAITING (01 R17). -/
def beginWait (s : State) (c : WaitCause) : State := modCur s (fun t => { t with st := .waiting, cause := some c })

/-- The instruction of the current strand has retired: the PC moves on, and in an epilogue one word less is left (11 R298). -/
def retire (s : State) (c : Ctl) : State :=
  match c with
  | .keep => s
  | .next => modCur s (fun t => { t with st := .ready, cause := none, reply := none, word := none, lastBranch := none, pc := t.pc + 8,
                                          epiLeft := t.epiLeft - 1, epiIdx := if t.epiLeft = 0 then t.epiIdx else t.epiIdx + 1 })
  | .jump a => modCur s (fun t => { t with st := .ready, cause := none, reply := none, word := none, lastBranch := some t.pc, pc := a })

/-- One instruction of the current strand: retired, trapped with nothing else changed, or waiting with nothing else changed. -/
def runWord (s : State) (x : Exec Ctl) : Host.Outcome State Fault Refusal :=
  match x s with
  | .ok (c, s') => .next (retire s' c)
  | .error (.trap t) => .next (takeTrap s t)
  | .error (.wait c f) => .next (f (beginWait s c))

/-! ### Acquire and release (04 R125, 10 R283) -/

/-- An acquire at wafer or system scope marks every clean window line of a tile for refill. -/
def acquireAgent (scope : Nat) (x : Agent) : Agent :=
  if 2 ≤ scope then
    { x with cp := { x.cp with wins := x.cp.wins.map (fun p =>
        (p.1, { p.2 with lines := p.2.lines.map (fun l => if l.dirty = 0 ∧ l.st = .valid then { l with st := .refill } else l) })) } }
  else x

/-- The current tile's acquire. -/
def acquire (scope : Nat) : Exec Unit := modS (fun s => modCurAgent s (acquireAgent scope))

end Sys2Proof.Machine
end

