-- ==== Sys2Proof/Machine/Mesh.lean ====
section
/-!
DEFINITION. The mesh and the vault wafer's network, which has its topology (09 R253 to R258, 10 R276): ROUTE, the fixed path between two tiles (14 R346), and the
choice of an output port among the messages that wait for it.
-/

namespace Sys2Proof.Machine

/-! ### ROUTE (09 R258) -/

/-- The virtual channels of R254: 0 REQ, 1 RSP, 2 COLL, 3 CTRL. -/
def vcREQ : Nat := 0
def vcRSP : Nat := 1

/-- ROUTE of a message between tiles. -/
def routeOf (sname dname vc : Nat) : BitVec 12 := BitVec.ofNat 12 (sname * 0x9E5 + dname * 0x3B + vc)

/-- ROUTE of the flits of a tree. -/
def treeRoute (group : Nat) : BitVec 12 := BitVec.ofNat 12 (0x800 + group)

/-- The header of a message from tile a to tile b. -/
def headerFor (s : State) (a b vc : Nat) : Header := ⟨nameOf s a, nameOf s b, vc, routeOf (nameOf s a) (nameOf s b) vc⟩

/-- A switch passes a header whose ROUTE agrees with its names. -/
def Header.ok (h : Header) : Bool := h.route == routeOf h.sname h.dname h.vc

/-! ### Paths (14 R346) -/

/-- The prow of gateway g on a vertical edge. -/
def gateRow (g : Nat) : Nat := [0, 1, 3, 4, 6, 7, 9, 10].getD g 0
/-- The pcol of gateway g on a horizontal edge. -/
def gateCol (g : Nat) : Nat := 2 * g + 1

/-- One step of XY inside a field towards (pcol, prow): the port, 0 N, 1 E, 2 S, 3 W, and the router it leads to; none at the place itself. -/
def stepXY (here pcol prow : Nat) : Option (Nat × Nat) :=
  if tileCol here < pcol then some (1, here + 1)
  else if pcol < tileCol here then some (3, here - 1)
  else if tileRow here < prow then some (2, here + 17)
  else if prow < tileRow here then some (0, here - 17)
  else none

/-- The next router of a message that crosses by gateway g (R346): field columns first, then field rows, then XY inside the destination field. -/
def nextHop (g here dst : Nat) : Option (Nat × Nat) :=
  let f := tileField here
  let d := tileField dst
  if f % 8 < d % 8 then (stepXY here 16 (gateRow g)).or (some (1, physOf (f + 1) 0 (tileRow here)))
  else if d % 8 < f % 8 then (stepXY here 0 (gateRow g)).or (some (3, physOf (f - 1) 16 (tileRow here)))
  else if f < d then (stepXY here (gateCol g) 11).or (some (2, physOf (f + 8) (tileCol here) 0))
  else if d < f then (stepXY here (gateCol g) 0).or (some (0, physOf (f - 8) (tileCol here) 11))
  else stepXY here (tileCol dst) (tileRow dst)

/-- The next hop of a message with a header. -/
def hopOf (h : Header) (here dst : Nat) : Option (Nat × Nat) := nextHop ((h.sname ^^^ h.dname) % 8) here dst

/-! ### Homes on the two networks (10 R276) -/

/-- The tile whose LS or vault holds a key. -/
def tileOfKey (key : Nat) : Option Nat := if 2 ^ 61 ≤ key ∧ key < 2 ^ 62 then some ((key - 2 ^ 61) / 2 ^ 24) else none

/-- The tile a request goes to, or its response comes from: none for module and host memory. -/
def Req.tile (r : Req) : Option Nat :=
  match r.todo, r.res with
  | x :: _, _ => tileOfKey x.key
  | [], y :: _ => tileOfKey y.key
  | [], [] => none

/-- Where a request is bound for: its home's tile, its own for module and host memory, whose path the spec does not lay down (log 98). -/
def Req.bound (r : Req) : Nat := r.tile.getD r.src

/-! ### Output ports (09 R256, R257) -/

/-- An output port of one of the two networks: 0 the mesh, 1 the vault network. -/
def portKey (net here port : Nat) : Nat := net * 2 ^ 20 + here * 8 + port

/-- A CTRL flit waits for a mesh port: a marker has reached this router and not the next one (R254, R256, log 98). -/
def ctrlWaits (s : State) (here next : Nat) : Bool := s.os.ops.any (fun o => o.reached.contains here && !o.reached.contains next)

/-- The messages that wait for an output port of the mesh, by VC: only REQ messages take it (R276 sends requests for vaults and their responses over the vault network). -/
def meshWaits (s : State) (here port : Nat) : List Nat :=
  if s.net.msgs.any (fun m => m.whole && m.here == here && (hopOf m.hdr here m.dst).any (·.1 == port)) then [vcREQ] else []

/-- The same for the vault network: requests are REQ, responses RSP. -/
def vaultWaits (s : State) (here port : Nat) : List Nat :=
  (if s.net.reqs.any (fun r => r.here == here && (hopOf r.hdr here r.bound).any (·.1 == port)) then [vcREQ] else []) ++
  (if s.net.resps.any (fun r => r.here == here && (hopOf r.hdr here r.src).any (·.1 == port)) then [vcRSP] else [])

/-- The VC that an output port serves next: the first one waiting after the one it served last. -/
def nextVc (last : Nat) (waits : List Nat) : Option Nat := ((List.range 3).map (fun i => (last + 1 + i) % 3)).find? (fun v => waits.contains v)

/-- A port of a network may pass a message of a VC on now. -/
def portFree (s : State) (net here port next vc : Nat) : Bool :=
  !(net == 0 && ctrlWaits s here next) &&
    nextVc (mget 2 s.net.served (portKey net here port)) (if net = 0 then meshWaits s here port else vaultWaits s here port) == some vc

/-- A port has served a VC. -/
def noteServed (s : State) (net here port vc : Nat) : State := { s with net := { s.net with served := mput s.net.served (portKey net here port) vc } }

/-! ### MAXMSG and CALLDL of a tile (R255, R268) -/

def maxmsgOf (s : State) (a : Nat) : Word := (agentAt s a).maxmsg.getD s.os.maxmsg
def calldlOf (s : State) (a : Nat) : Word := (agentAt s a).calldl.getD s.os.calldl

/-- A core writes MAXMSG for every tile, a tile's strand for its own (log 34). -/
def setMaxmsg (s : State) (v : Word) : State :=
  if isCore s.env.agent then mapAgents { s with os := { s.os with maxmsg := v } } (fun _ x => { x with maxmsg := none })
  else modCurAgent s (fun x => { x with maxmsg := some v })
/-- The same for CALLDL. -/
def setCalldl (s : State) (v : Word) : State :=
  if isCore s.env.agent then mapAgents { s with os := { s.os with calldl := v } } (fun _ x => { x with calldl := none })
  else modCurAgent s (fun x => { x with calldl := some v })

/-! ### The hook on an output port (19 R425) -/

/-- ARMED of ERRINJ cleared (R425). -/
def disarmHook (s : State) : State := { s with rel := { s.rel with errinj := s.rel.errinj &&& ~~~((1 : Word) <<< (59 : Nat)) } }

/-- The armed hook is of KIND 1 or 2 and watches an output port of a mesh router. -/
def hookOn (s : State) (router port : Nat) : Bool :=
  let e := s.rel.errinj
  e.getLsbD 59 && (e.extractLsb' 60 4 == 1 || e.extractLsb' 60 4 == 2) &&
    physOf (e.extractLsb' 29 6).toNat (e.extractLsb' 24 5).toNat (e.extractLsb' 20 4).toNat == router && (e.extractLsb' 35 3).toNat == port

/-- n flits leave an output port of a mesh router, 0 N, 1 E, 2 S, 3 W, 4 the NI. A hook that watches it counts them; when the flit it alters is among them it is disarmed,
with its record, and the next switch has the flit again by an invisible retry (R425, R259). -/
def passFlits (s : State) (router port n : Nat) : State :=
  let e := s.rel.errinj
  if !hookOn s router port then s
  else if (e.extractLsb' 38 12).toNat < s.rel.errSkip + n then postUnit (disarmHook s) router 12 0 none 5 (e.extractLsb' 60 4).toNat 0 e 0 0
  else { s with rel := { s.rel with errSkip := s.rel.errSkip + n } }

/-- A header flit, and a payload flit for each eight elements (07 R214). -/
def Msg.flitCount (m : Msg) : Nat := 1 + (m.elems.length + 7) / 8

/-- A whole message moves to the next router on its way; one of the same source and destination sent earlier goes first (R257). -/
def hopMsg (s : State) (i : Nat) : State :=
  match s.net.msgs[i]? with
  | none => s
  | some m =>
    match hopOf m.hdr m.here m.dst with
    | none => s
    | some (port, next) =>
      let behind := (s.net.msgs.take i).any (fun q => q.src == m.src && q.dst == m.dst && q.here == m.here)
      if !m.whole || !m.hdr.ok || behind || !portFree s 0 m.here port next vcREQ then s
      else passFlits (noteServed { s with net := { s.net with msgs := s.net.msgs.set i { m with here := next } } } 0 m.here port vcREQ) m.here port m.flitCount

/-- A request for a vault moves to the next router on its way. -/
def hopReq (s : State) (i : Nat) : State :=
  match s.net.reqs[i]? with
  | none => s
  | some r =>
    match hopOf r.hdr r.here r.bound with
    | none => s
    | some (port, next) =>
      let behind := (s.net.reqs.take i).any (fun q => q.src == r.src && q.bound == r.bound && q.here == r.here)
      if !r.hdr.ok || behind || !portFree s 1 r.here port next vcREQ then s
      else noteServed { s with net := { s.net with reqs := s.net.reqs.set i { r with here := next } } } 1 r.here port vcREQ

/-- A response moves to the next router on its way back. -/
def hopResp (s : State) (i : Nat) : State :=
  match s.net.resps[i]? with
  | none => s
  | some r =>
    match hopOf r.hdr r.here r.src with
    | none => s
    | some (port, next) =>
      let behind := (s.net.resps.take i).any (fun q => q.src == r.src && q.bound == r.bound && q.here == r.here)
      if !r.hdr.ok || behind || !portFree s 1 r.here port next vcRSP then s
      else noteServed { s with net := { s.net with resps := s.net.resps.set i { r with here := next } } } 1 r.here port vcRSP

end Sys2Proof.Machine
end

