-- ==== Sys2Proof/Machine/Access.lean ====
section
/-!
DEFINITION. Memory as a strand reaches it: the address map (10 R273, R473), names (14 R344, R345), translation (15 R360 to R366), the checks of 04 R119,
accesses at their homes (10 R278), stream windows (06 R199), release and acquire (04 R125), and requests to other homes (09 R254).
-/

namespace Sys2Proof.Machine

/-! ### The address map -/

/-- A region of R273, or of the firmware map of R473. -/
inductive Region where
  | ls (off : Nat)
  | vault (off : Nat)
  | remLs (name off : Nat)
  | remVault (name off : Nat)
  | virt (va : Nat)
  | module (a : Nat)
  | unmapped
deriving DecidableEq, Repr

/-- The region an address lies in. -/
def regionOf (core : Bool) (a : Nat) : Region :=
  if core then (if inModule a then .module a else .unmapped)
  else if a < lsBytes then .ls a
  else if a < 0x800000 then .unmapped
  else if a < 0x1000000 then .vault (a - 0x800000)
  else if a < 2 ^ 45 then .unmapped
  else if a < 2 ^ 45 + 2 ^ 37 then .remLs (a / 2 ^ 23 % 2 ^ 14) (a % 2 ^ 23)
  else if a < 2 ^ 46 then .unmapped
  else if a < 2 ^ 46 + 2 ^ 37 then .remVault (a / 2 ^ 23 % 2 ^ 14) (a % 2 ^ 23)
  else if a < 2 ^ 48 then .unmapped
  else if a < 2 ^ 56 then .virt a
  else .unmapped

/-- A name in the rectangle of a region word (15 R349 word 2). -/
def inRegion (region : Word) (n : Nat) : Bool :=
  let col := n % 128
  let row := n / 128
  let c0 := (region.extractLsb' 21 7).toNat
  let r0 := (region.extractLsb' 14 7).toNat
  c0 ≤ col && col ≤ c0 + (region.extractLsb' 7 7).toNat && r0 ≤ row && row ≤ r0 + (region.extractLsb' 0 7).toNat

/-- The tile an entry of the name table points at, when the name is mapped (R344). -/
def entryPhys (e : BitVec 32) : Option Nat :=
  if e.getLsbD 31 then some (physOf (e.extractLsb' 15 6).toNat (e.extractLsb' 10 5).toNat (e.extractLsb' 6 4).toNat) else none

/-- A name looked up in the NI of the strand's tile: the tile it names for the context, none when it is not mapped for it. A miss waits for a walk of
the name table (R345). -/
def resolveName (n : Nat) : Exec (Option Nat) := do
  let s ← getS
  let region := match (cur s).tag with
    | some t => (ctxAt s t.cx.toNat).region
    | none => 0
  if 9216 ≤ n ∨ ¬ inRegion region n then return none
  match (curAgent s).ni.names.find? (fun e => e.name == n) with
  | some e =>
    modS (fun s => modCurAgent s (fun x => { x with ni := { x.ni with names := e :: x.ni.names.filter (fun e => e.name != n) } }))
    return entryPhys e.entry
  | none =>
    waitWith .name (fun s => modCurAgent s (fun x => { x with ni := { x.ni with nwalks := if x.ni.nwalks.contains n then x.ni.nwalks else x.ni.nwalks ++ [n] } }))

/-! ### Translation -/

/-- log2 of the page of a leaf at level B to E (R360). -/
def pageBits (lv : Nat) : Nat := match lv with | 1 => 32 | 2 => 28 | 3 => 21 | _ => 16

/-- A cached translation covers an address of a context (R365). -/
def tlbMatch (t : Tag) (va : Nat) (e : TlbE) : Bool := e.tag == t && va / 2 ^ pageBits e.lv == e.vbase / 2 ^ pageBits e.lv

/-- Permission bits of a leaf (R361). -/
def leafR (l : Word) : Bool := l.getLsbD 1
def leafW (l : Word) : Bool := l.getLsbD 2
def leafX (l : Word) : Bool := l.getLsbD 3
def leafD (l : Word) : Bool := l.getLsbD 4
def leafH (l : Word) : Bool := l.getLsbD 6
def leafEnc (l : Word) : Bool := l.getLsbD 7
def leafA (l : Word) : Bool := l.getLsbD 8
def leafDirty (l : Word) : Bool := l.getLsbD 9

/-- A leaf permits an access, by the code of 19 R429 (R363). -/
def leafAllows (access : Nat) (w : Bool) (l : Word) : Bool :=
  match access with
  | 1 => leafR l
  | 2 => leafW l
  | 3 => leafR l && leafW l
  | 4 => leafX l
  | 5 => if w then leafW l else leafR l
  | 6 => if w then leafW l else leafR l
  | _ => leafR l

/-- The key an address has under a leaf (R362). -/
def leafKey (e : TlbE) (va : Nat) : Nat :=
  let pb := pageBits e.lv
  let a := (e.leaf.extractLsb' 16 40).toNat * 2 ^ 16 / 2 ^ pb * 2 ^ pb + va % 2 ^ pb
  if leafH e.leaf then keyHost a else a

/-- The context a module frame is sealed to (18 R407). -/
def sealOf (s : State) (key : Nat) : Option Nat := if key < 2 ^ 43 then mget? s.trust.seals (key / 2 ^ 16) else none

/-- ENC needs frames sealed to the accessing context (R407). -/
def encOk (s : State) (t : Tag) (e : TlbE) (va : Nat) : Bool := !leafEnc e.leaf || sealOf s (leafKey e va) == some t.cx.toNat

/-- The translation an agent of a field holds: its micro-TLB, then the field's TLB. A permitted write through a leaf that is not DIRTY
walks again (R364). -/
def tlbFind (s : State) (a : Nat) (t : Tag) (va access : Nat) (w : Bool) : Option TlbE :=
  let ok := fun e => tlbMatch t va e && (!w || leafDirty e.leaf || !leafAllows access w e.leaf)
  match (agentAt s a).tlb.find? ok with
  | some e => some e
  | none => (mget [] s.net.fieldTlb (tileField a)).find? ok

/-- A micro-TLB holds 32 entries, the newest first (R365). -/
def tlbInsert (n : Nat) (l : List TlbE) (e : TlbE) : List TlbE :=
  (e :: l.filter (fun x => !(x.tag == e.tag && x.lv == e.lv && x.vbase / 2 ^ pageBits x.lv == e.vbase / 2 ^ pageBits e.lv))).take n

/-- The field whose walkers serve a requester; the TQU's own readings go to field 0 (R365, log 32). -/
def walkField (s : State) : Requester → Nat
  | .strand a _ => tileField a
  | .copy a => tileField a
  | .window a => tileField a
  | .beacon g => (mget? s.light.groups g).elim 0 (fun e => e.beacon.toNat / 8)
  | .tqu _ => 0

/-- Distinct misses of a field that may be outstanding (R365). -/
def missCap : Nat := 64

/-- The field of a walk's requester can take its miss: it merges with one for its page, or there is room (R365). -/
def missRoom (s : State) (w : Walk) : Bool :=
  let pages := (s.net.walks.filter (fun x => walkField s x.who == walkField s w.who)).map (fun x => (x.tag, x.va / 2 ^ 16))
  pages.contains (w.tag, w.va / 2 ^ 16) || pages.eraseDups.length < missCap

/-- The walk of a requester begins where its field has room for the miss; it has one at a time, and the TQU has one for a page of a context. -/
def addWalk (w : Walk) (s : State) : State :=
  let old := fun (x : Walk) => x.who == w.who && (match w.who with | .tqu _ => x.va / 2 ^ 16 == w.va / 2 ^ 16 | _ => true)
  if !missRoom s w then s
  else
  { s with net := { s.net with walks := s.net.walks.filter (fun x => !old x) ++ [w] } }

/-- The current strand's translation of an address; none when the walk found no leaf and Chart gave none. A leaf that does not permit
the access is given for its permissions only. access is the code of 19 R429. -/
def translate (va access : Nat) (w quiet : Bool) : Exec (Option TlbE) := do
  let s ← getS
  let t := (cur s).tag.getD default
  let a := s.env.agent
  let who := Requester.strand a s.env.strand
  match s.net.walks.find? (fun x => x.failed && x.who == who && x.va / 2 ^ 16 == va / 2 ^ 16) with
  | some x => return x.denied.map (fun l => ⟨t, va / 2 ^ 16 * 2 ^ 16, 4, l⟩)
  | none =>
  match tlbFind s a t va access w with
  | some e =>
    modS (fun s => modCurAgent s (fun x => { x with tlb := tlbInsert 32 x.tlb e }))
    return some e
  | none =>
    if s.net.walks.any (fun x => !x.failed && x.who == who && x.va / 2 ^ 16 == va / 2 ^ 16) then waitFor .walk
    else waitWith .walk (addWalk ⟨who, t, va, access, w, false, none, false, quiet, none⟩)

/-! ### The checks of R119 -/

/-- What an access needs: R, W, the cause of steps 2 and 4, the code of 19 R429, bits added to TINFO, and whether a walk may call Chart. -/
structure Need where
  r : Bool
  w : Bool
  mapCause : Nat
  access : Nat
  extra : Nat
  quiet : Bool
deriving DecidableEq, Repr

def needLoad : Need := ⟨true, false, cLOAD, 1, 0, false⟩
def needStore : Need := ⟨false, true, cSTORE, 2, 0, false⟩
def needAtomic : Need := ⟨true, true, cSTORE, 3, 0, false⟩

/-- Where an access goes: the key of its home, whether that is the tile's own LS or vault, and the context VA. -/
structure Place where
  key : Nat
  own : Bool
  va  : Option Nat
deriving DecidableEq, Repr

/-- Steps 1 to 5 of R119 for n bytes aligned to al. -/
def checkAddr (nd : Need) (addr : Word) (al : Nat) : Exec Place := do
  let s ← getS
  let a := addr.toNat
  if a % al ≠ 0 then trapAt cMISALIGN addr (al + nd.extra)
  match regionOf (isCore s.env.agent) a with
  | .ls off => return ⟨keyLs s.env.agent off, true, none⟩
  | .vault off => return ⟨keyVault s.env.agent off, true, none⟩
  | .module k => return ⟨k, false, none⟩
  | .remLs _ _ | .unmapped => trapAt nd.mapCause addr (1 + nd.extra)
  | .remVault n off =>
    match ← resolveName n with
    | none => trapAt cNAME addr (n + nd.extra)
    | some p => return ⟨keyVault p off, p == s.env.agent, none⟩
  | .virt va =>
    match ← translate va nd.access nd.w nd.quiet with
    | none => trapAt nd.mapCause addr (2 + nd.extra)
    | some e =>
      let okEnc := encOk s ((cur s).tag.getD default) e va
      if nd.r && !(leafR e.leaf && okEnc) then trapAt cLOAD addr (3 + nd.extra)
      if nd.w && !(leafW e.leaf && okEnc) then trapAt cSTORE addr (3 + nd.extra)
      return ⟨leafKey e va, false, some va⟩

/-! ### Accesses at their homes -/

/-- The atomics of 04 R122 on n bytes; f is FN. -/
def amoNew (f n : Nat) (uns : Bool) (old s : Nat) (expected : Nat) : Nat :=
  let w := 8 * n
  match f with
  | 0 => (old + s) % 2 ^ w
  | 1 => if intOf (!uns) w s < intOf (!uns) w old then s else old
  | 2 => if intOf (!uns) w old < intOf (!uns) w s then s else old
  | 3 => old &&& s
  | 4 => old ||| s
  | 5 => old ^^^ s
  | 6 => s
  | 7 => if old = expected then s else old
  | _ => (roundTo fp32 0 false 0 (xadd 0 (Num.decode fp32 old) (Num.decode fp32 s)).val).1

/-- Outcome codes of a barrier update: 0 made, 1 BYTE_OVERFLOW, 2 OVER_ARRIVAL (06 R201, R203). -/
def barUpdate (m : Memory) (key : Nat) (arrive : Bool) (dbytes : Int) : Nat × Memory :=
  let w := readWord m key
  let arr := (w.extractLsb' 56 7).toNat
  let bal := intOf true 56 (w.toNat % 2 ^ 56) + dbytes
  if arrive && arr == 0 then (2, m)
  else
    let arr := if arrive then arr - 1 else arr
    if bal < -(2 ^ 55) ∨ bal > 2 ^ 55 - 1 then (1, m)
    else
      let done := arr == 0 && bal == 0
      let phase := if done then !w.getLsbD 63 else w.getLsbD 63
      let arr := if done then readNat m (key + 8) 1 % 128 else arr
      (0, writeWord m key (BitVec.ofNat 64 ((if phase then 2 ^ 63 else 0) + arr * 2 ^ 56 + bitsOf 56 bal)))

/-- Whether a requester with a tag reaches the plain text of a module frame (18 R402, R407, R408): its own sealed frames and every unsealed one. -/
def plainTo (s : State) (t : Option Tag) (key : Nat) : Bool :=
  match sealOf s key with
  | none => true
  | some c => t.map (·.cx.toNat) == some c

/-- The line of a sealed frame as it stands in the module: encrypted under its context's key (18 R408). -/
def sealedLine (s : State) (key : Nat) : Line :=
  let base := key / 64 * 64
  let c := (sealOf s key).getD 0
  Config.xtsSeal (mget 0 s.trust.memKeys c) base (BitVec.ofNat 512 (readNat s.mem base 64))

/-- The bytes another requester reads there: ciphertext for a context, zeros for a core (18 R402, R408). -/
def sealedRead (s : State) (t : Option Tag) (key n : Nat) : Nat :=
  match t with
  | some _ => (sealedLine s key).toNat / 2 ^ (8 * (key % 64)) % 2 ^ (8 * n)
  | none => 0

/-- One access performed at its home, whole and indivisible (10 R278, 04 R124, 06 R201). -/
def performAccess (s : State) (t : Option Tag) (x : Access) : State × Reply :=
  let bad := poisoned s.mem x.key x.n
  let open' := plainTo s t x.key
  match x.op with
  | .read =>
    let v := if open' then readNat s.mem x.key x.n else sealedRead s t x.key x.n
    (s, ⟨x.idx, BitVec.ofNat 64 v, bad, 0, x.key⟩)
  | .write => (if open' then setMem s (writeNat s.mem x.key x.n x.a.toNat) else s, ⟨x.idx, 0, false, 0, x.key⟩)
  | .amo f _ uns =>
    if bad then (s, ⟨x.idx, 0, true, 0, x.key⟩)
    else
      let old := if open' then readNat s.mem x.key x.n else sealedRead s t x.key x.n
      let new := amoNew f x.n uns old (x.a.toNat % 2 ^ (8 * x.n)) (x.b.toNat % 2 ^ (8 * x.n))
      (if open' then setMem s (writeNat s.mem x.key x.n new) else s, ⟨x.idx, BitVec.ofNat 64 old, false, 0, x.key⟩)
  | .barInit => (if open' then setMem s (writeWord (writeWord s.mem x.key x.a) (x.key + 8) x.b) else s, ⟨x.idx, 0, false, 0, x.key⟩)
  | .barUpd arrive =>
    if bad then (s, ⟨x.idx, 0, true, 0, x.key⟩)
    else
      let (c, m) := barUpdate (if open' then s.mem else ⟨[], []⟩) x.key arrive (intOf true 64 x.a.toNat)
      (if open' then setMem s m else s, ⟨x.idx, 0, false, c, x.key⟩)

/-! ### Requests (09 R254, 10 R278 to R280) -/

/-- The current strand's request. -/
def ownReq (s : State) (r : Req) : Bool := r.src == s.env.agent && r.strand == s.env.strand

/-- One LS or one vault: a single-home memory (10 R280). -/
def singleHome (key : Nat) : Bool := (tileOfKey key).isSome

/-- Two accesses share a byte. -/
def Access.meets (x y : Access) : Bool := x.key < y.key + y.n && y.key < x.key + x.n

/-- An access still to perform lies in the home of a key. -/
def Req.atHome (r : Req) (key : Nat) : Bool := r.todo.any (fun x => homeOf x.key == homeOf key)

/-- The current strand has an access under way to the LS or vault that holds a key (10 R280). -/
def homeBusy (s : State) (key : Nat) : Bool := s.net.reqs.any (fun r => ownReq s r && r.atHome key)

/-- The tile has a store under way to some of the n bytes from key on. -/
def storeUnderWay (s : State) (a key n : Nat) : Bool :=
  s.net.reqs.any (fun r => r.src == a && r.todo.any (fun x => x.op == .write && x.meets ⟨key, n, .read, 0, 0, 0⟩))

/-- Waits until the strand's own accesses to the LS or vault of a key have been performed. -/
def homeReady (key : Nat) : Exec Unit := do if homeBusy (← getS) key then waitFor .response else return ()

/-- An access joins those of its home. -/
def joinHome (x : Access) : List (List Access) → List (List Access)
  | [] => [[x]]
  | g :: gs => if g.head?.any (fun y => homeOf y.key == homeOf x.key) then (g ++ [x]) :: gs else g :: joinHome x gs

/-- Accesses by home, each home's in their order. -/
def byHome (l : List Access) : List (List Access) := l.foldl (fun gs x => joinHome x gs) []

/-- A request of the current strand for the accesses of one home. -/
def reqFor (s : State) (wants : Bool) (l : List Access) : Req :=
  let dst := (l.head?.bind (fun x => tileOfKey x.key)).getD s.env.agent
  ⟨s.env.agent, s.env.strand, (curAgent s).nextNo, (cur s).tag, l, [], wants, headerFor s s.env.agent dst vcREQ, s.env.agent, false⟩

/-- The current strand's accesses go to their homes, as one request to each (09 R254, 10 R280). -/
def sendReq (accs : List Access) (wants : Bool) (s : State) : State :=
  modCurAgent { s with net := { s.net with reqs := s.net.reqs ++ (byHome accs).map (reqFor s wants) } } (fun x => { x with nextNo := x.nextNo + 1 })

/-- The reply an element of the waiting instruction already has. -/
def replyFor (s : State) (i : Nat) : Option Reply := ((cur s).reply.getD []).find? (fun r => r.idx == i)

/-! ### Windows (06 R195, R199) -/

/-- The VA of line j of a window. -/
def lineAddr (w : Window) (j : Nat) : Nat := (w.base.toNat + j * w.stride.toNat) % 2 ^ 64

/-- The lowest-numbered window with a held line that covers the whole access. -/
def findLine (x : Agent) (va n : Nat) : Option (Nat × Window × WLine) :=
  x.cp.wins.findSome? (fun p =>
    (p.2.lines.find? (fun l => lineAddr p.2 l.idx ≤ va && va + n ≤ lineAddr p.2 l.idx + 64)).map (fun l => (p.1, p.2, l)))

/-- A line of a window replaced. -/
def putLine (x : Agent) (w : Nat) (l : WLine) : Agent :=
  match mget? x.cp.wins w with
  | none => x
  | some v => { x with cp := { x.cp with wins := mput x.cp.wins w { v with lines := v.lines.map (fun k => if k.idx = l.idx then l else k) } } }

/-- n bytes at offset off of a line. -/
def lineNat (d : Line) (off n : Nat) : Nat := d.toNat / 2 ^ (8 * off) % 2 ^ (8 * n)

/-- The line with n bytes at offset off replaced. -/
def lineSet (d : Line) (off n v : Nat) : Line :=
  let mask : Line := BitVec.ofNat 512 ((2 ^ (8 * n) - 1) * 2 ^ (8 * off))
  (d &&& ~~~mask) ||| BitVec.ofNat 512 (v % 2 ^ (8 * n) * 2 ^ (8 * off))

/-- The mask of bytes off to off + n - 1. -/
def byteMask (off n : Nat) : BitVec 64 := BitVec.ofNat 64 ((2 ^ n - 1) * 2 ^ off)

/-- Bytes of a line taken from another where a mask says so. -/
def mergeLine (mask : BitVec 64) (a b : Line) : Line :=
  BitVec.ofNat 512 ((List.range 64).foldl (fun acc i => acc + lineNat (if mask.getLsbD i then a else b) i 1 * 2 ^ (8 * i)) 0)

/-- The poison marks of the 8 words of a line at a key. -/
def linePoison (m : Memory) (key : Nat) : BitVec 8 :=
  BitVec.ofNat 8 ((List.range 8).foldl (fun acc i => if poisonedAt m (key + 8 * i) then acc + 2 ^ i else acc) 0)

/-- A line read from its home: data and marks; its dirty bytes stay (R199, 19 R417). -/
def refillLine (s : State) (t : Option Tag) (key : Nat) (l : WLine) : WLine :=
  let home := if plainTo s t key then BitVec.ofNat 512 (readNat s.mem key 64) else sealedLine s key
  { l with st := .valid, data := mergeLine l.dirty l.data home, poison := linePoison s.mem key ||| (if l.dirty = 0 then 0 else l.poison) }

/-- The dirty bytes of a line written at its home, their marks with them; the line is clean afterwards (10 R278, 19 R417). -/
def writeBackLine (s : State) (t : Option Tag) (key : Nat) (l : WLine) : Memory × WLine :=
  if !plainTo s t key then (s.mem, { l with dirty := 0 })
  else
    let m := (List.range 64).foldl (fun m i => if l.dirty.getLsbD i then writeByte m (key + i) (BitVec.ofNat 8 (lineNat l.data i 1)) else m) s.mem
    let whole := fun i => lineNat (BitVec.ofNat 512 l.dirty.toNat) i 1 = 255
    let m := (List.range 8).foldl (fun m i => if whole i then clearPoison m (key + 8 * i) 8 else m) m
    let m := (List.range 8).foldl (fun m i => if l.poison.getLsbD i ∧ lineNat (BitVec.ofNat 512 l.dirty.toNat) i 1 ≠ 0 then markPoison m (key + 8 * i) else m) m
    (m, { l with dirty := 0 })

/-! ### The strand's stream: SBAR, release -/

/-- What SBAR recorded has been performed (04 R126). -/
def sbarDone (s : State) : Bool :=
  let t := cur s
  let x := curAgent s
  let k := s.env.strand
  t.eng.sbarCp.all (fun c => !((strandOf x c.1).eng.cpq.any (·.no == c.2)) && !(x.cp.table.any (fun r => r.cmd.strand == c.1 && r.cmd.no == c.2 && !r.finished))) &&
  t.eng.sbarMx.all (fun n => !(t.eng.mxq.any (·.no == n)) && !(x.mx.runs.any (fun r => r.cmd.strand == k && r.cmd.no == n && r.phase != .finished)))

/-- A memory access of the strand waits behind what SBAR recorded; then the record is spent (R126). -/
def behindSbar : Exec Unit := do
  let s ← getS
  if (cur s).eng.sbarCp = [] ∧ (cur s).eng.sbarMx = [] then return ()
  if sbarDone s then
    modS (fun s => modCur s (fun t => { t with eng := { t.eng with sbarCp := [], sbarMx := [] } }))
  else waitFor .engine

/-- Every line of the tile's windows with dirty bytes, as (window, line, VA). -/
def dirtyLines (x : Agent) : List (Nat × WLine × Nat) :=
  x.cp.wins.flatMap (fun p => (p.2.lines.filter (fun l => l.dirty != 0)).map (fun l => (p.1, l, lineAddr p.2 l.idx)))

/-- Where a dirty line goes: its key, or the TINFO of R119 that its write-back fails with. -/
def writeBackKey (va : Nat) : Exec (Nat ⊕ Nat) := do
  match ← translate va 6 true false with
  | none => return .inr 2
  | some e =>
    let s ← getS
    if leafW e.leaf && encOk s ((cur s).tag.getD default) e va then return .inl (leafKey e va) else return .inr 3

/-- The lines whose place is known, written back. -/
def writeBackMany (ls : List (Nat × WLine × Nat × (Nat ⊕ Nat))) (s : State) : State :=
  ls.foldl (fun s q =>
    match q.2.2.2 with
    | .inl key => let (m, l) := writeBackLine s (cur s).tag key q.2.1; modCurAgent (setMem s m) (fun x => putLine x q.1 l)
    | .inr _ => s) s

/-- A request that every agent of a scope sees as performed. At tile scope this holds of one for another tile's vault: requests of one tile reach it in their order, and the
tile reads it no other way (09 R257, 10 R276, R281, log 6). -/
def seenAt (s : State) (scope : Nat) (r : Req) : Bool :=
  scope == 0 && r.todo.all (fun x => singleHome x.key && tileOfKey x.key != some s.env.agent)

/-- Every access of the current strand has been performed for the agents of a scope. -/
def performedAt (s : State) (scope : Nat) : Bool := s.net.reqs.all (fun r => !ownReq s r || seenAt s scope r)

/-- A release at a scope (R125, R283, 20 R475): the strand's earlier accesses have been performed, those of SBAR with them (R284), and at wafer and system scope
the tile's windows have written their dirty bytes back; the strand is WAITING while they do. A write-back that fails traps with STORE_FAULT, and the
others stand. -/
def release (scope : Nat) : Exec Unit := do
  let s ← getS
  if !performedAt s scope then waitFor .response
  behindSbar
  if 2 ≤ scope then
    let ls ← (dirtyLines (curAgent s)).mapM (fun q => do return (q.1, q.2.1, q.2.2, ← writeBackKey q.2.2))
    match ls.findSome? (fun q => match q.2.2.2 with | .inr c => some (q.2.2.1, c) | .inl _ => none) with
    | none => if ls = [] then return () else waitWith .response (writeBackMany ls)
    | some (va, c) => fun _ => .error (.trap ⟨cSTORE, some (BitVec.ofNat 64 va), BitVec.ofNat 64 c, none, 0, writeBackMany ls, false⟩)
  else return ()

/-! ### Loads and stores of elements -/

/-- Held bytes of the invocation over the bytes of the home (11 R298). -/
def heldNat (held : List (Nat × Byte)) (m : Memory) (key n : Nat) : Nat :=
  leNat ((List.range n).map (fun i =>
    match held.reverse.find? (fun h => h.1 == key + i) with
    | some h => h.2
    | none => readByte m (key + i)))

/-- The marks that move with the held stores of the invocation (19 R417). -/
def heldMarks (x : Agent) : List Nat := match x.rx.chain with | some c => (match c.inv with | some i => i.marks | none => []) | none => []

/-- A byte read is poisoned: a held one by the mark that moves with it, another by its home's. -/
def heldPoison (held : List (Nat × Byte)) (marks : List Nat) (m : Memory) (key n : Nat) : Bool :=
  if held = [] then poisoned m key n
  else (List.range n).any (fun i => if held.any (fun h => h.1 == key + i) then marks.contains ((key + i) / 8) else poisonedAt m (key + i))

/-- One element read where the tile itself can: from a reply, its own memory, or a window line; none when the home must be asked. The mark that it
consumes is the second part. plain is an access of ORD 0 (R120). -/
def readHere (nd : Need) (i : Nat) (addr : Word) (p : Place) (n : Nat) (plain : Bool) : Exec (Option (Nat × Bool)) := do
  let s ← getS
  let x := curAgent s
  match replyFor s i with
  | some r => return some (r.val.toNat, r.poison)
  | none =>
    let held := if inEpilogue s s.env.agent s.env.strand then x.rx.held else []
    if p.own then
      homeReady p.key
      return some (heldNat held s.mem p.key n, heldPoison held (heldMarks x) s.mem p.key n)
    else
      match p.va with
      | some va =>
        if !plain then return none
        match findLine x va n with
        | none => return none
        | some (w, win, l) =>
          let off := va - lineAddr win l.idx
          match l.st with
          | .filling => waitFor .engine
          | .faulted => trapAt nd.mapCause addr (l.code + nd.extra)
          | _ =>
            if (l.st = .refill ∨ win.dir = 1) ∧ storeUnderWay s s.env.agent (p.key - off) 64 then waitFor .response
            let l := if l.st = .refill ∨ win.dir = 1 then refillLine s (cur s).tag (p.key - off) l else l
            modS (fun s => modCurAgent s (fun x => putLine x w l))
            let bad := (List.range n).any (fun j => l.poison.getLsbD ((off + j) / 8))
            return some (lineNat l.data off n, bad)
      | none => return if (held.any (fun h => p.key ≤ h.1 && h.1 < p.key + n)) then some (heldNat held s.mem p.key n, heldPoison held (heldMarks x) s.mem p.key n) else none

/-- A computation with its trap, if it has one, as its result; a trap leaves the state as it was. -/
def tried {α : Type} (x : Exec α) : Exec (Trap ⊕ α) := fun s =>
  match x s with
  | .ok (a, t) => .ok (.inr a, t)
  | .error (.trap t) => .ok (.inl t, s)
  | .error (.wait c f) => .error (.wait c f)

/-- The elements of a load, each checked and read, in ascending index up to the first that fails: index, place, and value (none where the home must be
asked), with the trap of the one that fails (R119, 05 R160). -/
def tryElems (n al : Nat) (plain : Bool) (extra : Nat → Nat) (fn : Nat) : List (Nat × Word) → Exec (List (Nat × Place × Option Nat) × Option Trap)
  | [] => return ([], none)
  | (i, a) :: rest => do
    let nd := { needLoad with extra := extra i }
    let r ← tried (do
      let p ← checkAddr nd a al
      return (p, ← readHere nd i a p n plain))
    match r with
    | .inl t => return ([], some t)
    | .inr (p, some (_, true)) =>
      return ([], some ⟨cPOISON, some a, BitVec.ofNat 64 (extra i), none, 0, fun s => postPoison s s.env.agent (cur s).tag 0 p.key fn, false⟩)
    | .inr (p, v) =>
      let (l, t) ← tryElems n al plain extra fn rest
      return ((i, p, v.map (·.1)) :: l, t)

/-- The elements of one load; each is (index, address). extra gives the TINFO bits of an element. The homes are asked first for the elements before one
that fails, since a poisoned one among them fails before it. -/
def loadElems (els : List (Nat × Word)) (n al : Nat) (plain : Bool) (extra : Nat → Nat) (fn : Nat) : Exec (List (Nat × Nat)) := do
  behindSbar
  let (l, t) ← tryElems n al plain extra fn els
  match l.filter (fun q => q.2.2.isNone) with
  | [] =>
    match t with
    | some t => fun _ => .error (.trap t)
    | none => return l.map (fun q => (q.1, q.2.2.getD 0))
  | need => waitWith .response (fun s => sendReq (need.map (fun q => ⟨q.2.1.key, n, .read, 0, 0, q.1⟩)) true s)

/-- The most a chain's invocation may hold: 80 KiB (11 R299). -/
def holdBytes : Nat := 80 * 1024

/-- A store of the current epilogue is held (11 R298, R299). -/
def holdStore (key n v : Nat) : Exec Unit := do
  let s ← getS
  if holdBytes < (curAgent s).rx.held.length + n then
    fun _ => .error (.trap ⟨cBLOCK, none, 0, none, 0, id, true⟩)
  else
    modS (fun s => modCurAgent s (fun x => { x with rx := { x.rx with
      held := x.rx.held ++ (natBytes n v).zipIdx.map (fun p => (key + p.2, p.1))
      chain := x.rx.chain.map (fun c => { c with inv := c.inv.map (fun i =>
        { i with marks := i.marks.filter (fun w => !(key ≤ 8 * w && 8 * w + 8 ≤ key + n)) }) }) } }))

/-- One element of a store: held in an epilogue, or kept in a window line; otherwise the access for its home (10 R278). The tile's own LS and vault are homes like every
other: the store is performed there after the instruction has retired (log 6). -/
def storeHere (nd : Need) (i : Nat) (addr : Word) (p : Place) (n v : Nat) (plain : Bool) : Exec (Option Access) := do
  let s ← getS
  let x := curAgent s
  let acc : Access := ⟨p.key, n, .write, BitVec.ofNat 64 v, 0, i⟩
  if inEpilogue s s.env.agent s.env.strand then
    holdStore p.key n v
    return none
  else
    match p.va with
    | none => return some acc
    | some va =>
      if !plain then return some acc
      match findLine x va n with
      | none => return some acc
      | some (w, win, l) =>
        let off := va - lineAddr win l.idx
        match l.st with
        | .filling => waitFor .engine
        | .faulted => trapAt cSTORE addr (l.code + nd.extra)
        | _ =>
          let whole : BitVec 8 := BitVec.ofNat 8 ((List.range 8).foldl (fun acc j => if off ≤ 8 * j ∧ 8 * j + 8 ≤ off + n then acc + 2 ^ j else acc) 0)
          let l' := { l with data := lineSet l.data off n v, poison := l.poison &&& ~~~whole }
          if win.dir = 0 then
            modS (fun s => modCurAgent s (fun x => putLine x w l'))
            return some acc
          else
            modS (fun s => modCurAgent s (fun x => putLine x w { l' with dirty := l.dirty ||| byteMask off n, home := p.key - off }))
            return none

/-- Where a store of an epilogue may go: LS and vaults, not module or host memory, whose pages are not walked (11 R298). -/
def epilogueTarget (nd : Need) (addr : Word) : Exec Unit := do
  let s ← getS
  if inEpilogue s s.env.agent s.env.strand then
    match regionOf (isCore s.env.agent) addr.toNat with
    | .virt _ => trapAt cSTORE addr (1 + nd.extra)
    | _ => return ()
  else return ()

/-- The check of a store's element (R119). -/
def checkStore (nd : Need) (addr : Word) (al : Nat) : Exec Place := do
  if addr.toNat % al = 0 then epilogueTarget nd addr
  checkAddr nd addr al

/-- The places of a store's elements, (index, address, value), all checked before any byte is written. -/
def checkStores (els : List (Nat × Word × Nat)) (al : Nat) (extra : Nat → Nat) : Exec (List ((Nat × Word × Nat) × Place)) :=
  els.mapM (fun e => do return (e, ← checkStore { needStore with extra := extra e.1 } e.2.1 al))

/-- The elements of a store performed, in ascending index at each home. -/
def putStores (ps : List ((Nat × Word × Nat) × Place)) (n : Nat) (plain : Bool) (extra : Nat → Nat) : Exec Unit := do
  behindSbar
  let accs ← ps.mapM (fun q => storeHere { needStore with extra := extra q.1.1 } q.1.1 q.1.2.1 q.2 n q.1.2.2 plain)
  match accs.filterMap id with
  | [] => return ()
  | l => modS (sendReq l false)

/-- The elements of one store: checked, then released where the order says so (rel), then performed. -/
def storeElems (rel : Exec Unit) (els : List (Nat × Word × Nat)) (n al : Nat) (plain : Bool) (extra : Nat → Nat) : Exec Unit := do
  let ps ← checkStores els al extra
  rel
  putStores ps n plain extra

/-- An operation that is made once: when its reply has come, the waiting instruction goes on with it (R103). -/
def onceAtHome (x : Exec Reply) : Exec Reply := do
  match replyFor (← getS) 0 with
  | some r => return r
  | none => x

/-- An indivisible operation at the home of an address already checked: immediate in the own memory, by request elsewhere. -/
def atHome (p : Place) (acc : Access) : Exec Reply := do
  if p.own then
    homeReady p.key
    let (s', r) := performAccess (← getS) (cur (← getS)).tag acc
    modS (fun _ => s')
    return r
  else waitWith .response (sendReq [acc] true)

/-- A reply with a poison mark traps (R119 step 6, 19 R418). -/
def notPoisoned (addr : Word) (fn : Nat) (r : Reply) : Exec Unit :=
  if r.poison then
    fun _ => .error (.trap ⟨cPOISON, some addr, 0, none, 0, fun s => postPoison s s.env.agent (cur s).tag 0 r.key fn, false⟩)
  else pure ()

end Sys2Proof.Machine
end

