-- ==== Sys2Proof/Machine/Operands.lean ====
section
/-!
DEFINITION. The operand forms: guards (01 R27, R28), predicates (R26), registers and queue ports (R21 to R25), effective addresses (03 R87),
posted faults (06 R168, 07 R205).
-/

namespace Sys2Proof.Machine

/-! ### Predicates and guards -/

/-- P[i]; p0 reads 64 (R26). -/
def predOf (t : Strand) (p : PReg) : Nat := if p = 0 then 64 else (mget 0 t.preds p.toNat).toNat

/-- P[i] := n, limited to 64; p0 is never written (R26). -/
def setPred (t : Strand) (p : PReg) (n : Nat) : Strand :=
  if p = 0 then t else { t with preds := mput t.preds p.toNat (BitVec.ofNat 7 (min n 64)) }

/-- Executes() (R27, 03 R87). -/
def executes (t : Strand) (g : Guard) : Bool := if g.pn = 0 then predOf t g.pg != 0 else predOf t g.pg == 0

/-- Element e of E is active under a guard (R28). -/
def activeAt (t : Strand) (g : Guard) (n e : Nat) : Bool :=
  let c := min (predOf t g.pg) n
  if g.pn = 0 then e < c else c ≤ e && e < n

/-- The active elements, ascending (R28). -/
def actives (t : Strand) (g : Guard) (n : Nat) : List Nat := (List.range n).filter (activeAt t g n)

/-! ### Registers -/

/-- Pool entry of register f of a strand (R21). -/
def poolIndex (t : Strand) (f : Nat) : Nat := t.base.toNat + f
/-- G[f] of strand k of an agent. -/
def regOf (x : Agent) (k f : Nat) : Word := mget 0 x.pool (poolIndex (strandOf x k) f)
/-- G[f] of a strand. -/
def regAt (s : State) (a k f : Nat) : Word := regOf (agentAt s a) k f
/-- G[f] := v. -/
def setReg (s : State) (a k f : Nat) (v : Word) : State :=
  modAgent s a (fun x => { x with pool := mput x.pool (poolIndex (strandOf x k) f) v })
/-- G[f] of the current strand. -/
def curReg (s : State) (f : Nat) : Word := regAt s s.env.agent s.env.strand f
/-- G[f] := v in the current strand. -/
def setCurReg (s : State) (f : Nat) (v : Word) : State := setReg s s.env.agent s.env.strand f v

/-! ### Reduction calls as the ports see them (07 R220) -/

/-- TINFO of REDUCE_ABORT (07 R205). -/
def abortInfo (seq group reason : Nat) : Nat := seq % 2 ^ 32 * 2 ^ 32 + group % 512 * 2 ^ 16 + reason

/-- The tile's open call on a group. -/
def callOf (x : Agent) (group : Nat) : Option OpenCall := x.calls.find? (fun c => c.group == group)

/-- A call replaced. -/
def putCall (x : Agent) (c : OpenCall) : Agent := { x with calls := x.calls.map (fun d => if d.group = c.group then c else d) }

/-- A precise REDUCE_ABORT with the SEQ of the open call, 0 without one (07 R205). -/
def abortCall {α : Type} (group reason : Nat) : Exec α := fun s =>
  let seq := match callOf (curAgent s) group with | some c => c.seq.toNat | none => 0
  .error (.trap ⟨cREDUCE, some 0, BitVec.ofNat 64 (abortInfo seq group reason), none, 0, id, false⟩)

/-- The open call on a group that still owes elements, or NO_CALL (R220 step 1). -/
def owingCall (group : Nat) : Exec OpenCall := do
  match callOf (curAgent (← getS)) group with
  | some c => if c.given < c.len then return c else abortCall group 5
  | none => abortCall group 5

/-- Bytes of an element of a reduction TYPE (07 R218). -/
def typeBytes (ty : BitVec 4) : Nat := match ty.toNat with | 0 => 4 | 1 => 2 | 2 => 1 | 3 => 1 | 4 => 4 | 6 => 4 | _ => 8

/-- One value contributed to a call (R220). -/
def contribute (c : OpenCall) (v : Word) : Exec Unit :=
  modS (fun s => modCurAgent s (fun x => putCall x
    { c with given := c.given + 1, vals := c.vals ++ [⟨c.given, 1, none, BitVec.ofNat 64 (v.toNat % 2 ^ (8 * typeBytes c.ty)), s.env.strand⟩] }))

/-! ### Queue ports -/

/-- The binding of port n of a strand (01 R43). -/
def bindingOf (t : Strand) (n : Nat) : Binding := mget ⟨0, 0⟩ t.qb n

/-- A kind that is read: 1, 3, 5, 6, 7, 8 (R23). -/
def isSource (kind : Nat) : Bool := kind == 1 || kind == 3 || (5 ≤ kind && kind ≤ 8)

/-- QUEUE_UNBOUND for port n: bit 0 says that a sink was read or a source written (R25). -/
def unbound {α : Type} (n : Nat) (wrong : Bool) : Exec α := trapPc cQUEUE (BitVec.ofNat 64 (n * 2 + (if wrong then 1 else 0)))

/-- A receive channel, empty when not listed. -/
def chan0 : Channel := ⟨[], [], [], false⟩
def chanOf (x : Agent) (c : Nat) : Channel := mget chan0 x.ni.chans c

/-- Capacities of 07 R206. -/
def chanCap : Nat := 512
def resultCap : Nat := 256
def completionCap : Nat := 16
def headerCap : Nat := 8

/-- Elements of a released phase enter the channel as far as there is room (07 R216). -/
def admitDue (c : Channel) : Channel :=
  let n := chanCap - c.q.length
  { c with q := c.q ++ c.due.take n, due := c.due.drop n }

/-! ### Sequence numbers and the weight-header queue (07 R226, 08 R245, R252) -/

/-- Modulus of sequence numbers. -/
def seqMod : Nat := 2 ^ 24
/-- The number after s. -/
def seqNext (s : Nat) : Nat := (s + 1) % seqMod
/-- a - b modulo 2^24. -/
def seqSub (a b : Nat) : Nat := (a + seqMod - b % seqMod) % seqMod
/-- a comes before b. -/
def seqLt (a b : Nat) : Bool := a != b && seqSub b a < 2 ^ 23

/-- Two elements name one block: they agree in group, tag and sequence number. -/
def sameBlock (v w : Word) : Bool := v.extractLsb' 16 48 == w.extractLsb' 16 48

/-- An element enters the weight-header queue; one that names the same block, left from before a CXLOAD, gives it its place (log 103). -/
def enterHeader (q : List Word) (w : Word) : List Word := if q.any (sameBlock w) then q.map (fun v => if sameBlock w v then w else v) else q ++ [w]

/-- A block of the group of a slot, before it in sequence order, may still become an ordinary arrival ahead of it (R252). -/
def headerBehind (x : Agent) (sl : Slot) : Bool :=
  x.rx.slots.any (fun p => p.2.group == sl.group && seqLt p.2.seq sl.seq && (p.2.reading || p.2.use == .chain || p.2.due.isSome))

/-- The slot whose element may enter the queue next, and the element. -/
def headerReady (x : Agent) : Option (Nat × Word) :=
  x.rx.slots.findSome? (fun p => match p.2.due with | some w => if headerBehind x p.2 then none else some (p.1, w) | none => none)

/-- Elements enter the weight-header queue in the order of their blocks, as far as it has room. -/
def settleHeaders : Nat → Agent → Agent
  | 0, x => x
  | n + 1, x =>
    if headerCap ≤ x.ni.whq.length then x
    else
      match headerReady x with
      | none => x
      | some (i, w) => settleHeaders n { x with
          rx := { x.rx with slots := x.rx.slots.map (fun p => if p.1 = i then (p.1, { p.2 with due := none }) else p) }
          ni := { x.ni with whq := enterHeader x.ni.whq w } }

/-- Elements ready to pop at an endpoint (R24, 07 R206). -/
def endpoint (x : Agent) (k : Nat) (b : Binding) : List QElem :=
  let t := strandOf x k
  match b.kind.toNat with
  | 1 => (chanOf x b.target.toNat).q
  | 3 => mget [] x.ni.rqs b.target.toNat
  | 5 => t.eng.ccq
  | 6 => t.eng.mcq
  | 7 => x.ni.whq.map (fun w => ⟨w, none⟩)
  | 8 => t.eng.ceq
  | _ => []

/-- The endpoint without its first element. -/
def dropFirst (x : Agent) (k : Nat) (b : Binding) : Agent :=
  let t := strandOf x k
  match b.kind.toNat with
  | 1 => let c := chanOf x b.target.toNat; { x with ni := { x.ni with chans := mput x.ni.chans b.target.toNat (admitDue { c with q := c.q.tail }) } }
  | 3 => { x with ni := { x.ni with rqs := mmod [] x.ni.rqs b.target.toNat List.tail } }
  | 5 => { x with strands := mput x.strands k { t with eng := { t.eng with ccq := t.eng.ccq.tail } } }
  | 6 => { x with strands := mput x.strands k { t with eng := { t.eng with mcq := t.eng.mcq.tail } } }
  | 7 => settleHeaders 8 { x with ni := { x.ni with whq := x.ni.whq.tail } }
  | 8 => { x with strands := mput x.strands k { t with eng := { t.eng with ceq := t.eng.ceq.tail } } }
  | _ => x

/-- Port n pops one element (R24); the first element of a REL message acquires at its scope (07 R217). -/
def popPort (n : Nat) : Exec Word := do
  let s ← getS
  let b := bindingOf (cur s) n
  if !isSource b.kind.toNat then unbound n (b.kind != 0)
  match endpoint (curAgent s) s.env.strand b with
  | [] => waitFor .operand
  | e :: _ =>
    modS (fun s => modCurAgent s (fun x => dropFirst x s.env.strand b))
    match e.acq with
    | some sc => acquire sc.toNat
    | none => pure ()
    return e.val

/-- ReadReg (03 R87): a register, or the next element of a port. -/
def readReg (f : Reg) : Exec Word := if f.toNat < 56 then reads (fun s => curReg s f.toNat) else popPort (f.toNat - 56)

/-- The message of the current strand to a tile, before its elements (07 R214). -/
def newMsg (dst : Nat) (ch : BitVec 4) (bsp : Bool) (lvl : BitVec 2) (acq : Option (BitVec 2)) (s : State) : Msg :=
  { src := s.env.agent, strand := s.env.strand, dst := dst, tag := (cur s).tag.getD default, ch := ch, bsp := bsp, lvl := lvl, acq := acq,
    after := bsp && mget false (cur s).arrived lvl.toNat, elems := [], whole := false, hdr := headerFor s s.env.agent dst vcREQ, here := s.env.agent }

/-- Entries of the NI send buffer (07 R206). -/
def sendCap : Nat := 64
/-- Entries of a tile's send buffer that are free (R208). -/
def sendRoom (x : Agent) : Nat := sendCap - x.ni.sbuf.length
/-- Elements enter the send buffer of the current tile. -/
def bufferEls (es : List SendEl) (s : State) : State := modCurAgent s (fun x => { x with ni := { x.ni with sbuf := x.ni.sbuf ++ es } })

/-- The tile a name names for the current context, or NAME_UNMAPPED with the name in TADDR and TINFO (07 R213 step 3). -/
def destTile (v : Word) : Exec Nat := do
  if v.toNat ≥ 2 ^ 14 then trapAt cNAME v (v.toNat % 2 ^ 14)
  match ← resolveName v.toNat with
  | some p => return p
  | none => trapAt cNAME v v.toNat

/-- What a destination needs before the instruction does anything: a port must be a sink that can take an element (R24, R25, 07 R214, R220). -/
def checkDst (f : Reg) : Exec Unit := do
  if f.toNat < 56 then return ()
  let n := f.toNat - 56
  let b := bindingOf (cur (← getS)) n
  match b.kind.toNat with
  | 2 =>
    let _ ← destTile (b.target.setWidth 64)
    if sendRoom (curAgent (← getS)) = 0 then waitFor .sink
  | 4 => let _ ← owingCall b.target.toNat
  | k => unbound n (k != 0)

/-- WriteReg (03 R87): a register, or an element pushed to a port: a one-element message by the send buffer, or a contribution (07 R214, R220). -/
def writeReg (f : Reg) (v : Word) : Exec Unit := do
  if f.toNat < 56 then modS (fun s => setCurReg s f.toNat v)
  else
    let n := f.toNat - 56
    let b := bindingOf (cur (← getS)) n
    match b.kind.toNat with
    | 2 => let p ← destTile (b.target.setWidth 64); modS (fun s => bufferEls [⟨newMsg p (BitVec.ofNat 4 n) false 0 none s, v, true⟩] s)
    | 4 => let c ← owingCall b.target.toNat; contribute c v
    | k => unbound n (k != 0)

/-- A scalar instruction under its guard (R27): nothing when it does not execute; its destinations are checked before its effect, so that of two unbound ports
QUEUE_UNBOUND reports the destination (log 112). -/
def scalar (g : Guard) (dsts : List Reg) (x : Exec Ctl) : Exec Ctl := do
  if !executes (cur (← getS)) g then return .next
  dsts.forM checkDst
  x

/-! ### Addresses (03 R87) -/

/-- The base of a memory operand. -/
def baseOf (f : Reg) : Exec Word := if f = 63 then pure 0 else readReg f

/-- EffectiveAddress(). -/
def effectiveAddress (m : MemOp) : Exec Word := do
  let b ← baseOf m.base
  let x ← baseOf m.idx
  return b + x * BitVec.ofNat 64 (2 ^ m.scl.toNat) + m.disp.signExtend 64

/-! ### Posted faults (04 R103) -/

/-- ENGINE_FAULT, the posted fault of engines. -/
def Posted.isEngine (p : Posted) : Bool := p.cause == 0x0B

/-- The instruction classes at which a posted fault is raised: 0 MAJ 0x80 to 0x83, 1 MAJ 0xA1, 3 MAJ 0xA3, 4 EXIT (06 R168, 07 R205, 20 R440). -/
def raisedAt (p : Posted) (cls : Nat) : Bool :=
  if cls = 4 then true
  else match p.cause.toNat with
    | 0x0B => cls == 0 || (cls == 1 && p.info.extractLsb' 32 2 == 3)
    | 0x14 => cls == 3
    | _ => cls == 1

/-- A fault of the list that the class raises: of engine faults only the first posted is ever raised (R168). -/
def raisable (ps : List Posted) (cls : Nat) (p : Posted) : Bool := raisedAt p cls && (!p.isEngine || ps.find? Posted.isEngine == some p)

/-- The first posted fault that the class raises; engine faults posted after it are counted in MORE and go with it (06 R168, R169). An instruction that waits for the
rest of an effect it has begun raises none (R103). -/
def raisePosted (cls : Nat) : Exec Unit := do
  let t := cur (← getS)
  let ps := t.eng.posted
  if t.reply.isSome then return ()
  match ps.find? (raisable ps cls) with
  | none => return ()
  | some p =>
    let others := ps.erase p
    let rest := if p.isEngine then others.filter (fun q => !q.isEngine) else others
    let more := if p.isEngine then min 255 (others.length - rest.length) else 0
    fun _ => .error (.trap ⟨p.cause.toNat, some p.addr, p.info ||| BitVec.ofNat 64 (more * 2 ^ 56), none, 0,
      fun s => modCur s (fun t => { t with eng := { t.eng with posted := rest } }), false⟩)

/-- An engine, network or domain instruction: its guard, then faults posted to the strand, then its destinations and effect. -/
def engine (g : Guard) (cls : Nat) (dsts : List Reg) (x : Exec Ctl) : Exec Ctl := do
  if !executes (cur (← getS)) g then return .next
  raisePosted cls
  dsts.forM checkDst
  x

/-- Waits until a condition on the state holds. -/
def until' (c : WaitCause) (p : State → Bool) : Exec Unit := do
  if p (← getS) then return () else waitFor c

end Sys2Proof.Machine
end

