-- ==== Sys2Proof/Machine/Blocks.lean ====
section
/-!
DEFINITION. Weight blocks as a tile holds them: header fields (11 R289), receive slots, the weight-header queue (07 R226), and the credit of a
release (08 R245).
-/

namespace Sys2Proof.Machine

/-! ### Header (R289) -/

/-- Word i of a 64-byte header. -/
def hdrWord (h : Line) (i : Nat) : Word := h.extractLsb' (64 * i) 64
/-- n bits of word i from bit lo on. -/
def hdrField (h : Line) (i lo n : Nat) : Nat := (hdrWord h i).toNat / 2 ^ lo % 2 ^ n
def hMagic (h : Line) : Nat := hdrField h 0 48 16
def hVersion (h : Line) : Nat := hdrField h 0 40 8
def hOpc (h : Line) : Nat := hdrField h 0 34 6
def hFmt (h : Line) : Nat := hdrField h 0 30 4
def hGroup (h : Line) : Nat := hdrField h 0 22 8
def hTag (h : Line) : Nat := hdrField h 0 6 16
def hSucc (h : Line) : Word := hdrWord h 1
def hAlt (h : Line) : Word := hdrWord h 2
def hCsel (h : Line) : Nat := hdrField h 3 61 3
def hDidx (h : Line) : Nat := hdrField h 3 57 4
def hBank (h : Line) : Nat := hdrField h 3 55 2
def hZb (h : Line) : Bool := hdrField h 3 54 1 == 1
def hDa (h : Line) : Bool := hdrField h 3 53 1 == 1
def hKq (h : Line) : Nat := hdrField h 3 50 3
def hSc (h : Line) : Bool := hdrField h 3 49 1 == 1
def hPlen (h : Line) : Nat := hdrField h 3 32 17
def hScnt (h : Line) : Nat := hdrField h 3 16 16
def hCrc (h : Line) : Nat := hdrField h 4 32 32
def hDctl (h : Line) : Word := hdrWord h 5
def hDdst (h : Line) : Nat := hdrField h 6 42 22
def hDstride (h : Line) : Nat := hdrField h 6 26 16
def hEpilen (h : Line) : Nat := hdrField h 6 18 8
def hEpipc (h : Line) : Word := hdrWord h 7

/-- The block carries weights (R290). -/
def carriesWeights (h : Line) : Bool := hOpc h ≤ 3

/-- The weights of a block, in the layout of 06 R174; CE8 elements are E4M3 (R289). -/
def slotWeights (sl : Slot) : WBuf :=
  { wt := BitVec.ofNat 3 (if hFmt sl.hdr = 3 then 0 else hFmt sl.hdr), kq := BitVec.ofNat 3 (hKq sl.hdr),
    sc := if hSc sl.hdr then 1 else 0, data := sl.body }

/-- Size of a decoded block: weights, then scales. -/
def slotBytes (sl : Slot) : Nat :=
  if carriesWeights sl.hdr then 16 * (hKq sl.hdr + 1) * 128 + (if hSc sl.hdr then hScnt sl.hdr else 0) else 0

/-! ### Slots and releases -/

/-- A member's state for a group, before any block. -/
def member0 : Member := ⟨0, 0, [], []⟩
def memberOf (x : Agent) (g : Nat) : Member := mget member0 x.rx.members g
def setMember (x : Agent) (g : Nat) (m : Member) : Agent := { x with rx := { x.rx with members := mput x.rx.members g m } }

/-- Releases held back that follow the count now. -/
def admitEarly : Nat → Member → Member
  | 0, m => m
  | n + 1, m =>
    match m.early.find? (fun p => p.1 == m.rel) with
    | none => m
    | some p => admitEarly n { m with rel := seqNext m.rel, early := m.early.filter (fun q => q.1 != p.1), bits := m.bits ++ [p] }

/-- Condition bits a member keeps: more than the one before the last block sent is never asked for (11 R295). -/
def bitsKept : Nat := 8

/-- A member releases a block with a condition bit; a release before its turn is held, and one that the count has passed says nothing (R245, 11 R295, R303). -/
def creditRelease (x : Agent) (g seq : Nat) (bit : Bool) : Agent :=
  let m := memberOf x g
  if seqLt seq m.rel then x
  else
    let m := { m with early := m.early ++ [(seq, bit)] }
    let m := admitEarly m.early.length m
    setMember x g { m with bits := m.bits.drop (m.bits.length - bitsKept) }

/-- A receive slot freed; an element of it that has not entered the weight-header queue never does (log 103). -/
def freeSlot (x : Agent) (i : Nat) : Agent := settleHeaders 8 { x with rx := { x.rx with slots := mdel x.rx.slots i } }
/-- A receive slot changed. -/
def modSlot (x : Agent) (i : Nat) (f : Slot → Slot) : Agent :=
  match mget? x.rx.slots i with
  | none => x
  | some sl => { x with rx := { x.rx with slots := mput x.rx.slots i (f sl) } }

/-- The element of the weight-header queue for a slot (07 R226). -/
def headerElem (i : Nat) (sl : Slot) : Word :=
  BitVec.ofNat 64 (sl.group * 2 ^ 56 + hTag sl.hdr * 2 ^ 40 + sl.seq % seqMod * 2 ^ 16 + i)

/-- The block of slot i is an ordinary arrival: its element enters the weight-header queue in its turn (07 R226, 08 R252). -/
def pushHeader (x : Agent) (i : Nat) : Agent :=
  match mget? x.rx.slots i with
  | none => x
  | some sl => settleHeaders 8 (modSlot x i (fun _ => { sl with use := .ordinary, due := some (headerElem i sl) }))

end Sys2Proof.Machine
end

