-- ==== Sys2Proof/Machine/EngineOps.lean ====
section
/-!
DEFINITION. What the MXE, the CPE and the RDU share: posted faults (06 R168 to R170), names and barriers as engines reach them (R203),
and the end of a DRAINING strand (01 R37).
-/

namespace Sys2Proof.Machine

/-! ### Posted faults -/

/-- TINFO of an ENGINE_FAULT (R169), without MORE and SYNC. -/
def engineInfo (sub fn eng tag code : Nat) : Nat := sub * 2 ^ 52 + fn * 2 ^ 34 + eng * 2 ^ 32 + tag * 2 ^ 20 + code

/-- The state a strand is in, or returns to when its tile is stopped (15 R369). -/
def activeSt (t : Strand) : StrandSt := if t.st = .stopped then t.resume else t.st

/-- A fault posted to strand k: a DRAINING strand fails with it while its commands complete (04 R132); gone is what it is for one that has ended. -/
def postFault (s : State) (a k : Nat) (p : Posted) (gone : State → State) : State :=
  let t := strandAt s a k
  match activeSt t with
  | .failed => s
  | .draining =>
    modStrand (failStrand s a k 2 p.cause.toNat p.addr p.info) a k (fun u =>
      { u with eng := { u.eng with mxq := t.eng.mxq, cpq := t.eng.cpq, abandoned := t.eng.abandoned } })
  | .inactive => gone s
  | _ => modStrand s a k (fun u => { u with eng := { u.eng with posted := u.eng.posted ++ [p] } })

/-- A fault of a command posted to strand k; an INACTIVE strand fails with it (06 R180). -/
def postEngine (s : State) (a k : Nat) (info : Nat) (addr : Word) : State :=
  let w := BitVec.ofNat 64 info
  postFault s a k ⟨BitVec.ofNat 8 cENGINE, addr, w⟩ (fun s => failStrand s a k 4 cENGINE addr w)

/-- A command of strand k consumed poison: the strand fails (19 R418). -/
def poisonCommand (s : State) (a k unit key fn : Nat) : State :=
  let s := postPoison s a (strandAt s a k).tag unit key fn
  failStrand s a k 3 cPOISON (BitVec.ofNat 64 (addrOfKey key)) 0

/-- A DRAINING strand whose commands have all completed is INACTIVE (01 R37). -/
def settle (s : State) (a k : Nat) : State :=
  let x := agentAt s a
  let t := strandOf x k
  let left := t.eng.mxq != [] || t.eng.cpq != [] || x.cp.table.any (fun r => r.cmd.strand == k) ||
    x.mx.runs.any (fun r => r.fired.isNone && r.cmd.strand == k)
  if t.st = .draining ∧ !left then setStrand s a k { t with st := .inactive, mode := 0 } else s

/-- Everything strand k of a tile sent before its command number no has been performed: the push releases it (01 R35, 10 R285). -/
def storesDone (s : State) (a k no : Nat) : Bool := s.net.reqs.all (fun q => !(q.src == a && q.strand == k && q.no < no))

/-! ### Checkpoints (15 R353) -/

/-- Unit numbers: the routers' reduction units with the TQU, the beacons, the fields' TLBs with their walkers, the WMM controllers, the host ports as one (log 108), and
the Ulnenu edge die. A tile's NI is numbered as its tile. -/
def rduUnit : Nat := coreBase + 170
def beaconUnit (b : Nat) : Nat := coreBase + 100 + b
def fieldUnit (f : Nat) : Nat := coreBase + 200 + f
def wmmGate (m : Nat) : Nat := coreBase + 300 + m
def hostUnit : Nat := coreBase + 340
def edgeUnit : Nat := coreBase + 341

/-- The checkpoint at the home of an access: a tile's NI, a WMM controller or a host port. -/
def homeUnit (key : Nat) : Nat :=
  match tileOfKey key with
  | some a => a
  | none => if key < 2 ^ 60 then wmmGate (key / 2 ^ 38) else hostUnit

/-- The kill of context c that is under way has not reached checkpoint a. -/
def killPending (s : State) (a c : Nat) : Bool := s.os.ops.any (fun o => o.kind == .kill && o.cx == c && !o.reached.contains a)

/-- The incarnation of context c that checkpoint a last learned. -/
def learned (s : State) (a c : Nat) : BitVec 12 := (ctxAt s c).inc - (if killPending s a c then 1 else 0)

/-- A tag is stale at a checkpoint (R353); firmware traffic never is (R352). -/
def staleAt (s : State) (a : Nat) (t : Option Tag) : Bool := t.any (fun t => t.inc != learned s a t.cx.toNat)

/-! ### Frames to other wafers (18 R399, R401, R409) -/

/-- This wafer belongs to the convoy: it has formed, and no order has revoked the wafer (18 R407, R412). -/
def belongs (v : Convoy) : Bool := v.gen != 0 && !v.gone

/-- The convoy of a sealed context. -/
def convoyOf (s : State) (c : Nat) : Option Convoy :=
  if (ctxAt s c).sealed then s.trust.convoys.find? (fun v => v.id == mget 0 s.trust.cxConvoy c && !v.gone) else none

/-- The header of a frame: {CXID, INC, g, sender, receiver, kind} (R409). -/
def frameHeader (t : Tag) (gen sender receiver kind : Nat) : List Nat := [t.cx.toNat, t.inc.toNat, gen, sender, receiver, kind]

/-- The nonce of R409. -/
def frameNonce (gen sender no : Nat) : Nat := gen % 2 ^ 16 * 2 ^ 80 + sender % 64 * 2 ^ 74 + no % 2 ^ 64

/-- A frame handed to the links, unless it is stale at the edge die (15 R353); a sealed context's is authenticated and encrypted under its collective key (R409). -/
def sendFrame (s : State) (t : Tag) (dst kind : Nat) (body : List Byte) : State :=
  let me := Config.waferNumber.toNat
  if staleAt s edgeUnit (some t) then s
  else match convoyOf s t.cx.toNat with
  | none => { s with trust := { s.trust with out := s.trust.out ++ [⟨dst, t, 0, kind, 0, body, 0⟩] } }
  | some v =>
    let n := frameNonce v.gen me v.frames
    let (c, g) := Config.gcmSeal (Config.kmac v.secret v.gen v.id) n (frameHeader t v.gen me dst kind) body
    { s with trust := { s.trust with
        out := s.trust.out ++ [⟨dst, t, v.gen, kind, n, c, g⟩]
        convoys := s.trust.convoys.map (fun w => if w.id = v.id then { w with frames := w.frames + 1 } else w) } }

/-! ### Names and barriers -/

/-- The entry of the name table for a name (14 R344). -/
def nameEntry (s : State) (n : Nat) : BitVec 32 := BitVec.ofNat 32 (readNat s.mem ((s.os.nameroot.extractLsb' 6 50).toNat * 64 + 4 * n) 4)

/-- The tile a name names for a context, as an engine resolves it: from the NI's cache or the table (14 R344, R345). -/
def engineName (s : State) (a : Nat) (tag : Option Tag) (n : Nat) : Option Nat :=
  let region := match tag with
    | some t => (ctxAt s t.cx.toNat).region
    | none => 0
  if 9216 ≤ n ∨ ¬ inRegion region n then none
  else
    match (agentAt s a).ni.names.find? (fun e => e.name == n) with
    | some e => entryPhys e.entry
    | none => entryPhys (nameEntry s n)

/-- Where an engine finds a barrier, or the SUB of R170. -/
def barKey (s : State) (a : Nat) (tag : Option Tag) (w : Word) : Nat ⊕ Nat :=
  if w.toNat % 16 ≠ 0 then .inr 3
  else
    match regionOf (isCore a) w.toNat with
    | .ls off => .inl (keyLs a off)
    | .vault off => .inl (keyVault a off)
    | .module k => .inl k
    | .remVault n off => match engineName s a tag n with | some p => .inl (keyVault p off) | none => .inr 4
    | _ => .inr 3

/-- How an engine's barrier update ended. -/
inductive BarRes where
  | made
  | failed (sub : Nat)
  | poisoned (key : Nat)
deriving DecidableEq, Repr

/-- One barrier update by an engine of tile a (R201, R203). -/
def engineBar (s : State) (a : Nat) (tag : Option Tag) (w : Word) (arrive : Bool) (dbytes : Int) : State × BarRes :=
  match barKey s a tag w with
  | .inr sub => (s, .failed sub)
  | .inl key =>
    if poisoned s.mem key 16 then (s, .poisoned key)
    else
      let (c, m) := barUpdate s.mem key arrive dbytes
      if c = 0 then (setMem s m, .made) else (s, .failed 1)

end Sys2Proof.Machine
end

