-- ==== Sys2Proof/Machine/Flags.lean ====
section
/-!
DEFINITION. Floating-point flags, FP_TRAP and the draws of stochastic rounding (01 R42, 02 R52, 04 R111, 05 R138), shared by scalar and vector instructions.
-/

namespace Sys2Proof.Machine

/-- The effective rounding mode: DYN is FPCTL.MODE (R51). -/
def effMode (t : Strand) (rm : Nat) : Nat := if rm = 6 then (t.sys.fpctl.extractLsb' 0 3).toNat else rm

/-- The enabled traps in the order of the flags: FPCTL<8:4>. -/
def enabledTraps (t : Strand) : BitVec 5 := t.sys.fpctl.extractLsb' 4 5

/-- One draw of the strand's generator under SRD, none otherwise (R52). -/
def drawFor (mode : Nat) : Exec Nat := do
  if mode = 5 then
    modS (fun s => modCur s (fun t => { t with sys := { t.sys with seed := srdNext t.sys.seed } }))
    reads (fun s => srdBits (cur s).sys.seed)
  else return 0

/-- FPFLAGS := FPFLAGS OR fl; an enabled flag traps with FP_TRAP, and the flags and draws stay (R42, R52, R111, R138). -/
def raiseFlags (fl : BitVec 5) (elem : Nat) : Exec Unit := do
  let s ← getS
  let seed := (cur s).sys.seed
  let flags := (cur s).sys.fpflags ||| fl.setWidth 64
  if fl &&& enabledTraps (cur s) ≠ 0 then
    fun _ => .error (.trap ⟨cFP, none, BitVec.ofNat 64 (fl.toNat + elem * 64), none, 0,
      fun s => modCur s (fun t => { t with sys := { t.sys with fpflags := flags, seed := seed } }), false⟩)
  else modS (fun s => modCur s (fun t => { t with sys := { t.sys with fpflags := flags } }))

/-- The FP32 operand in the low 32 bits of a register (R111). -/
def fp32Of (w : Word) : Num := Num.decode fp32 (w.toNat % 2 ^ 32)

/-- An FP32 result rounded, its flags raised, zero-extended (R111). -/
def fp32Result (mode draw : Nat) (x : Exact) : Nat × BitVec 5 := let (r, fl) := roundTo fp32 mode false draw x.val; (r, fl ||| x.fl)

end Sys2Proof.Machine
end

