-- ==== Sys2Proof/Machine/Integer.lean ====
section
/-!
DEFINITION. Integer, address and constant instructions: MAJ 0x01, 0x21 and 0x22 (04 R105 to R110).
-/

namespace Sys2Proof.Machine

/-- A w-bit result extended to 64 bits by UNS (R105). -/
def extendRes (w32 uns : Bool) (r : Nat) : Word :=
  if w32 then (if uns then (BitVec.ofNat 32 r).setWidth 64 else (BitVec.ofNat 32 r).signExtend 64) else BitVec.ofNat 64 r

/-- The operand width (R105). -/
def aluWidth (w32 : Bool) : Nat := if w32 then 32 else 64

/-- Quotient of R107: all ones for b = 0, and -2^(w-1) for the one signed overflow (which wraps to itself). -/
def divRes (w : Nat) (signed : Bool) (a b : Nat) : Nat :=
  if b % 2 ^ w = 0 then 2 ^ w - 1 else bitsOf w ((intOf signed w a).tdiv (intOf signed w b))

/-- Remainder of R107. -/
def remRes (w : Nat) (signed : Bool) (a b : Nat) : Nat :=
  if b % 2 ^ w = 0 then a % 2 ^ w else bitsOf w ((intOf signed w a).tmod (intOf signed w b))

/-- Leading zero bits of a w-bit value: w when it is 0 (R106). -/
def clzOf (w a : Nat) : Nat := if a % 2 ^ w = 0 then w else w - 1 - Nat.log2 (a % 2 ^ w)

/-- Trailing zero bits of a w-bit value, counted up to w (R106). -/
def ctzOf : Nat → Nat → Nat
  | 0, _ => 0
  | w + 1, a => if a % 2 = 1 then 0 else 1 + ctzOf w (a / 2)

/-- Set bits among the low w (R106). -/
def popcOf : Nat → Nat → Nat
  | 0, _ => 0
  | w + 1, a => a % 2 + popcOf w (a / 2)

/-- The n bytes of a in reverse order (R106). -/
def bswapOf (n a : Nat) : Nat := leNat (natBytes n a).reverse

/-- Left rotation of w bits by n < w (R106). -/
def rotOf (w a n : Nat) : Nat := (a * 2 ^ n) % 2 ^ w + a % 2 ^ w / 2 ^ (w - n)

/-- An arithmetic shift right (R106). -/
def sarOf (w a n : Nat) : Nat := bitsOf w (intOf true w a / 2 ^ n)

/-- The results of FN 0 to 15 on w-bit operands (R106, R107); signed says how DIV, REM, MULH, MIN and MAX read them. -/
def aluOp (fn w : Nat) (signed : Bool) (a b : Nat) : Nat :=
  let n := b % w
  match fn with
  | 0 => (a + b) % 2 ^ w
  | 1 => bitsOf w ((a : Int) - b)
  | 2 => (a * b) % 2 ^ w
  | 3 => bitsOf w (intOf signed w a * intOf signed w b / 2 ^ w)
  | 4 => divRes w signed a b
  | 5 => remRes w signed a b
  | 6 => (a &&& b) % 2 ^ w
  | 7 => (a ||| b) % 2 ^ w
  | 8 => (a ^^^ b) % 2 ^ w
  | 9 => (a &&& (b ^^^ (2 ^ w - 1))) % 2 ^ w
  | 10 => a * 2 ^ n % 2 ^ w
  | 11 => a / 2 ^ n
  | 12 => sarOf w a n
  | 13 => rotOf w a n
  | 14 => if intOf signed w b < intOf signed w a then b else a
  | _ => if intOf signed w a < intOf signed w b then b else a

/-- FN 0 to 15 with register operands (R105). -/
def alu2 (fn : Nat) (g : Guard) (d a b : Reg) (w u : BitVec 1) (s : State) : Host.Outcome State Fault Refusal :=
  runWord s (scalar g [d] (do
    let x ← readReg a
    let y ← readReg b
    let n := aluWidth (w = 1)
    writeReg d (extendRes (w = 1) (u = 1) (aluOp fn n (u = 0) (x.toNat % 2 ^ n) (y.toNat % 2 ^ n)))
    return .next))

/-- FN 16 to 19: one operand (R106). -/
def alu1 (f : Nat → Nat → Nat) (g : Guard) (d a : Reg) (w u : BitVec 1) (s : State) : Host.Outcome State Fault Refusal :=
  runWord s (scalar g [d] (do
    let x ← readReg a
    let n := aluWidth (w = 1)
    writeReg d (extendRes (w = 1) (u = 1) (f n (x.toNat % 2 ^ n)))
    return .next))

/-- The immediate forms: 64 bits, signed operands (R89, R109). -/
def aluImm (fn : Nat) (g : Guard) (d a : Reg) (b : Word) (s : State) : Host.Outcome State Fault Refusal :=
  runWord s (scalar g [d] (do
    let x ← readReg a
    writeReg d (BitVec.ofNat 64 (aluOp fn 64 true x.toNat b.toNat))
    return .next))

/-- One result computed from D's sources and written (R104). -/
def put (g : Guard) (d : Reg) (x : Exec Word) (s : State) : Host.Outcome State Fault Refusal :=
  runWord s (scalar g [d] (do
    let v ← x
    writeReg d v
    return .next))

def execAdd (g : Guard) (d a b : Reg) (w u : BitVec 1) (s : State) : Host.Outcome State Fault Refusal := alu2 0 g d a b w u s
def execSub (g : Guard) (d a b : Reg) (w u : BitVec 1) (s : State) : Host.Outcome State Fault Refusal := alu2 1 g d a b w u s
def execMul (g : Guard) (d a b : Reg) (w u : BitVec 1) (s : State) : Host.Outcome State Fault Refusal := alu2 2 g d a b w u s
def execMulh (g : Guard) (d a b : Reg) (w u : BitVec 1) (s : State) : Host.Outcome State Fault Refusal := alu2 3 g d a b w u s
def execDiv (g : Guard) (d a b : Reg) (w u : BitVec 1) (s : State) : Host.Outcome State Fault Refusal := alu2 4 g d a b w u s
def execRem (g : Guard) (d a b : Reg) (w u : BitVec 1) (s : State) : Host.Outcome State Fault Refusal := alu2 5 g d a b w u s
def execAnd (g : Guard) (d a b : Reg) (w u : BitVec 1) (s : State) : Host.Outcome State Fault Refusal := alu2 6 g d a b w u s
def execOr (g : Guard) (d a b : Reg) (w u : BitVec 1) (s : State) : Host.Outcome State Fault Refusal := alu2 7 g d a b w u s
def execXor (g : Guard) (d a b : Reg) (w u : BitVec 1) (s : State) : Host.Outcome State Fault Refusal := alu2 8 g d a b w u s
def execAndn (g : Guard) (d a b : Reg) (w u : BitVec 1) (s : State) : Host.Outcome State Fault Refusal := alu2 9 g d a b w u s
def execShl (g : Guard) (d a b : Reg) (w u : BitVec 1) (s : State) : Host.Outcome State Fault Refusal := alu2 10 g d a b w u s
def execShr (g : Guard) (d a b : Reg) (w u : BitVec 1) (s : State) : Host.Outcome State Fault Refusal := alu2 11 g d a b w u s
def execSar (g : Guard) (d a b : Reg) (w u : BitVec 1) (s : State) : Host.Outcome State Fault Refusal := alu2 12 g d a b w u s
def execRot (g : Guard) (d a b : Reg) (w u : BitVec 1) (s : State) : Host.Outcome State Fault Refusal := alu2 13 g d a b w u s
def execMin (g : Guard) (d a b : Reg) (w u : BitVec 1) (s : State) : Host.Outcome State Fault Refusal := alu2 14 g d a b w u s
def execMax (g : Guard) (d a b : Reg) (w u : BitVec 1) (s : State) : Host.Outcome State Fault Refusal := alu2 15 g d a b w u s
def execClz (g : Guard) (d a : Reg) (w u : BitVec 1) (s : State) : Host.Outcome State Fault Refusal := alu1 clzOf g d a w u s
def execCtz (g : Guard) (d a : Reg) (w u : BitVec 1) (s : State) : Host.Outcome State Fault Refusal := alu1 ctzOf g d a w u s
def execPopc (g : Guard) (d a : Reg) (w u : BitVec 1) (s : State) : Host.Outcome State Fault Refusal := alu1 popcOf g d a w u s
def execBswap (g : Guard) (d a : Reg) (w u : BitVec 1) (s : State) : Host.Outcome State Fault Refusal :=
  alu1 (fun n v => bswapOf (n / 8) v) g d a w u s

/-- A field of n bits extended by UNS (R108). -/
def extField (n : Nat) (uns : Bool) (v : Nat) : Word := BitVec.ofNat 64 (if uns then v % 2 ^ n else bitsOf 64 (intOf true n v))

/-- EXT: A<LEN:0> extended (R108). -/
def execExt (g : Guard) (d a : Reg) (len : BitVec 6) (u : BitVec 1) (s : State) : Host.Outcome State Fault Refusal :=
  put g d (do return extField (len.toNat + 1) (u = 1) (← readReg a).toNat) s

/-- BFX: A<POS+LEN:POS> extended (R108). -/
def execBfx (g : Guard) (d a : Reg) (pos len : BitVec 6) (u : BitVec 1) (s : State) : Host.Outcome State Fault Refusal :=
  put g d (do return extField (len.toNat + 1) (u = 1) ((← readReg a).toNat / 2 ^ pos.toNat)) s

/-- BFI: B with bits POS+LEN:POS replaced by A<LEN:0> (R108). -/
def execBfi (g : Guard) (d a b : Reg) (pos len : BitVec 6) (s : State) : Host.Outcome State Fault Refusal :=
  put g d (do
    let x ← readReg a
    let y ← readReg b
    let mask : Word := BitVec.ofNat 64 ((2 ^ (len.toNat + 1) - 1) * 2 ^ pos.toNat)
    return (y &&& ~~~mask) ||| (BitVec.ofNat 64 (x.toNat * 2 ^ pos.toNat) &&& mask)) s

/-- SEL: A when C is not 0, else B; all three are read (R108). -/
def execSel (g : Guard) (d a b c : Reg) (s : State) : Host.Outcome State Fault Refusal :=
  put g d (do
    let x ← readReg a
    let y ← readReg b
    let z ← readReg c
    return if z ≠ 0 then x else y) s

/-- MOV (R108). -/
def execMov (g : Guard) (d a : Reg) (s : State) : Host.Outcome State Fault Refusal := put g d (readReg a) s

/-- COND on the low w bits (R84, R108). -/
def condHolds (c w : Nat) (a b : Word) : Bool :=
  icond c (intOf true w a.toNat) (intOf true w b.toNat) (intOf false w a.toNat) (intOf false w b.toNat)

/-- CMP: P[D] := COND(a, b) (R108). -/
def execCmp (g : Guard) (pd : PReg) (a b : Reg) (cond : BitVec 4) (w : BitVec 1) (s : State) : Host.Outcome State Fault Refusal :=
  runWord s (scalar g [] (do
    let x ← readReg a
    let y ← readReg b
    modS (fun s => modCur s (fun t => setPred t pd (if condHolds cond.toNat (aluWidth (w = 1)) x y then 1 else 0)))
    return .next))

/-- LEA: A + B × 2^POS (R108). -/
def execLea (g : Guard) (d a b : Reg) (pos : BitVec 2) (s : State) : Host.Outcome State Fault Refusal :=
  put g d (do
    let x ← readReg a
    let y ← readReg b
    return x + y * BitVec.ofNat 64 (2 ^ pos.toNat)) s

def execAddImm (g : Guard) (d a : Reg) (imm : BitVec 34) (s : State) : Host.Outcome State Fault Refusal := aluImm 0 g d a (imm.signExtend 64) s
def execSubImm (g : Guard) (d a : Reg) (imm : BitVec 34) (s : State) : Host.Outcome State Fault Refusal := aluImm 1 g d a (imm.signExtend 64) s
def execMulImm (g : Guard) (d a : Reg) (imm : BitVec 34) (s : State) : Host.Outcome State Fault Refusal := aluImm 2 g d a (imm.signExtend 64) s
def execMulhImm (g : Guard) (d a : Reg) (imm : BitVec 34) (s : State) : Host.Outcome State Fault Refusal := aluImm 3 g d a (imm.signExtend 64) s
def execDivImm (g : Guard) (d a : Reg) (imm : BitVec 34) (s : State) : Host.Outcome State Fault Refusal := aluImm 4 g d a (imm.signExtend 64) s
def execRemImm (g : Guard) (d a : Reg) (imm : BitVec 34) (s : State) : Host.Outcome State Fault Refusal := aluImm 5 g d a (imm.signExtend 64) s
def execAndImm (g : Guard) (d a : Reg) (imm : BitVec 34) (s : State) : Host.Outcome State Fault Refusal := aluImm 6 g d a (imm.signExtend 64) s
def execOrImm (g : Guard) (d a : Reg) (imm : BitVec 34) (s : State) : Host.Outcome State Fault Refusal := aluImm 7 g d a (imm.signExtend 64) s
def execXorImm (g : Guard) (d a : Reg) (imm : BitVec 34) (s : State) : Host.Outcome State Fault Refusal := aluImm 8 g d a (imm.signExtend 64) s
def execAndnImm (g : Guard) (d a : Reg) (imm : BitVec 34) (s : State) : Host.Outcome State Fault Refusal := aluImm 9 g d a (imm.signExtend 64) s
def execShlImm (g : Guard) (d a : Reg) (n : BitVec 6) (s : State) : Host.Outcome State Fault Refusal := aluImm 10 g d a (n.setWidth 64) s
def execShrImm (g : Guard) (d a : Reg) (n : BitVec 6) (s : State) : Host.Outcome State Fault Refusal := aluImm 11 g d a (n.setWidth 64) s
def execSarImm (g : Guard) (d a : Reg) (n : BitVec 6) (s : State) : Host.Outcome State Fault Refusal := aluImm 12 g d a (n.setWidth 64) s
def execRotImm (g : Guard) (d a : Reg) (n : BitVec 6) (s : State) : Host.Outcome State Fault Refusal := aluImm 13 g d a (n.setWidth 64) s
def execMinImm (g : Guard) (d a : Reg) (imm : BitVec 34) (s : State) : Host.Outcome State Fault Refusal := aluImm 14 g d a (imm.signExtend 64) s
def execMaxImm (g : Guard) (d a : Reg) (imm : BitVec 34) (s : State) : Host.Outcome State Fault Refusal := aluImm 15 g d a (imm.signExtend 64) s

/-- CMP with a signed 30-bit comparand (R109). -/
def execCmpImm (g : Guard) (pd : PReg) (a : Reg) (cond : BitVec 4) (imm : BitVec 30) (s : State) : Host.Outcome State Fault Refusal :=
  runWord s (scalar g [] (do
    let x ← readReg a
    modS (fun s => modCur s (fun t => setPred t pd (if condHolds cond.toNat 64 x (imm.signExtend 64) then 1 else 0)))
    return .next))

/-- The immediate LEA: A + b (R109). -/
def execLeaImm (g : Guard) (d a : Reg) (imm : BitVec 34) (s : State) : Host.Outcome State Fault Refusal :=
  put g d (do return (← readReg a) + imm.signExtend 64) s

/-- MOVI (R110). -/
def execMovi (g : Guard) (d : Reg) (imm : BitVec 34) (s : State) : Host.Outcome State Fault Refusal := put g d (pure (imm.signExtend 64)) s

/-- MOVHI: bits 63:34 from the immediate, bits 33:0 from A (R110). -/
def execMovhi (g : Guard) (d a : Reg) (imm : BitVec 30) (s : State) : Host.Outcome State Fault Refusal :=
  put g d (do return imm ++ (← readReg a).extractLsb' 0 34) s

end Sys2Proof.Machine
end

