-- ==== Sys2Proof/Machine/Memory.lean ====
section
/-!
DEFINITION. Loads, stores, atomics, FENCE and SBAR: MAJ 0x40 to 0x42 (04 R117 to R126).
-/

namespace Sys2Proof.Machine

/-- Bytes of a SIZE code (R83). -/
def sizeBytes (s : BitVec 3) : Nat := match s.toNat with | 0 => 1 | 1 => 2 | 2 => 4 | 3 => 8 | 4 => 1 | 5 => 2 | _ => 4

/-- A loaded value extended: signed for codes 4 to 6 (R118). -/
def loadExtend (s : BitVec 3) (v : Nat) : Word := if 4 ≤ s.toNat then BitVec.ofNat 64 (bitsOf 64 (intOf true (8 * sizeBytes s) v)) else BitVec.ofNat 64 v

/-- An acquire when the order has one (R120). -/
def acquireIf (b : Bool) (scope : BitVec 2) : Exec Unit := if b then acquire scope.toNat else pure ()
/-- A release when the order has one. -/
def releaseIf (b : Bool) (scope : BitVec 2) : Exec Unit := if b then release scope.toNat else pure ()

def execLd (g : Guard) (t : Reg) (size : BitVec 3) (o : Ord) (m : MemOp) (s : State) : Host.Outcome State Fault Refusal :=
  runWord s (scalar g [t] (do
    let addr ← effectiveAddress m
    let n := sizeBytes size
    let vs ← loadElems [(0, addr)] n n (o.ord = 0) (fun _ => 0) 0
    acquireIf (o.ord = 1) o.scope
    writeReg t (loadExtend size ((vs.head?.getD (0, 0)).2))
    return .next))

def execSt (g : Guard) (t : Reg) (size : BitVec 3) (o : Ord) (m : MemOp) (s : State) : Host.Outcome State Fault Refusal :=
  runWord s (scalar g [] (do
    let addr ← effectiveAddress m
    let v ← readReg t
    let n := sizeBytes size
    storeElems (releaseIf (o.ord = 2) o.scope) [(0, addr, v.toNat % 2 ^ (8 * n))] n n (o.ord = 0) (fun _ => 0)
    return .next))

/-- The alignment of a pair, checked once for both words (R119). -/
def pairAligned (addr : Word) : Exec Unit := if addr.toNat % 16 ≠ 0 then trapAt cMISALIGN addr 16 else pure ()

/-- The words of a pair. -/
def pairElems (addr : Word) : List (Nat × Word) := [(0, addr), (1, addr + 8)]

/-- A pair's faults name its address, whichever word they come from (R119). -/
def namingPair {α : Type} (addr : Word) (x : Exec α) : Exec α := fun s =>
  match x s with
  | .error (.trap t) => .error (.trap { t with addr := some addr })
  | r => r

def execLdp (g : Guard) (t : Reg) (o : Ord) (m : MemOp) (s : State) : Host.Outcome State Fault Refusal :=
  runWord s (scalar g [] (do
    let addr ← effectiveAddress m
    pairAligned addr
    let vs ← namingPair addr (loadElems (pairElems addr) 8 8 (o.ord = 0) (fun _ => 0) 2)
    acquireIf (o.ord = 1) o.scope
    modS (fun s => setCurReg (setCurReg s t.toNat (BitVec.ofNat 64 ((vs.head?.getD (0, 0)).2))) (t.toNat + 1)
      (BitVec.ofNat 64 ((vs.tail.head?.getD (0, 0)).2)))
    return .next))

def execStp (g : Guard) (t : Reg) (o : Ord) (m : MemOp) (s : State) : Host.Outcome State Fault Refusal :=
  runWord s (scalar g [] (do
    let addr ← effectiveAddress m
    pairAligned addr
    let s ← getS
    let ps ← namingPair addr (checkStores [(0, addr, (curReg s t.toNat).toNat), (1, addr + 8, (curReg s (t.toNat + 1)).toNat)] 8 (fun _ => 0))
    releaseIf (o.ord = 2) o.scope
    namingPair addr (putStores ps 8 (o.ord = 0) (fun _ => 0))
    return .next))

/-- Every atomic (R121 to R124): BASE, then IDX, then for AMOCAS T as expected value. -/
def atomic (f : Nat) (g : Guard) (t base idx : Reg) (size : BitVec 3) (o : Ord) (disp : BitVec 18) (uns : Bool) (s : State) :
    Host.Outcome State Fault Refusal :=
  runWord s (scalar g [t] (do
    let b ← baseOf base
    let src ← readReg idx
    let exp ← if f = 7 then readReg t else pure 0
    let addr := b + disp.signExtend 64
    let n := sizeBytes size
    let r ← onceAtHome (do
      let p ← checkAddr needAtomic addr n
      releaseIf (o.ord = 2 ∨ o.ord = 3) o.scope
      behindSbar
      atHome p ⟨p.key, n, .amo f size uns, src, exp, 0⟩)
    notPoisoned addr f r
    acquireIf (o.ord = 1 ∨ o.ord = 3) o.scope
    writeReg t (loadExtend size r.val.toNat)
    return .next))

/-- Unsigned comparison of AMOMIN and AMOMAX: SIZE 2, and SIZE 3 with SCL 1 (R122). -/
def amoUns (size : BitVec 3) (uns : BitVec 1) : Bool := size == 2 || (size == 3 && uns == 1)

def execAmoadd (g : Guard) (t base idx : Reg) (size : BitVec 3) (o : Ord) (disp : BitVec 18) (s : State) :
    Host.Outcome State Fault Refusal := atomic 0 g t base idx size o disp false s
def execAmomin (g : Guard) (t base idx : Reg) (uns : BitVec 1) (size : BitVec 3) (o : Ord) (disp : BitVec 18) (s : State) :
    Host.Outcome State Fault Refusal := atomic 1 g t base idx size o disp (amoUns size uns) s
def execAmomax (g : Guard) (t base idx : Reg) (uns : BitVec 1) (size : BitVec 3) (o : Ord) (disp : BitVec 18) (s : State) :
    Host.Outcome State Fault Refusal := atomic 2 g t base idx size o disp (amoUns size uns) s
def execAmoand (g : Guard) (t base idx : Reg) (size : BitVec 3) (o : Ord) (disp : BitVec 18) (s : State) :
    Host.Outcome State Fault Refusal := atomic 3 g t base idx size o disp false s
def execAmoor (g : Guard) (t base idx : Reg) (size : BitVec 3) (o : Ord) (disp : BitVec 18) (s : State) :
    Host.Outcome State Fault Refusal := atomic 4 g t base idx size o disp false s
def execAmoxor (g : Guard) (t base idx : Reg) (size : BitVec 3) (o : Ord) (disp : BitVec 18) (s : State) :
    Host.Outcome State Fault Refusal := atomic 5 g t base idx size o disp false s
def execAmoswp (g : Guard) (t base idx : Reg) (size : BitVec 3) (o : Ord) (disp : BitVec 18) (s : State) :
    Host.Outcome State Fault Refusal := atomic 6 g t base idx size o disp false s
def execAmocas (g : Guard) (t base idx : Reg) (size : BitVec 3) (o : Ord) (disp : BitVec 18) (s : State) :
    Host.Outcome State Fault Refusal := atomic 7 g t base idx size o disp false s
def execAmofadd (g : Guard) (t base idx : Reg) (o : Ord) (disp : BitVec 18) (s : State) :
    Host.Outcome State Fault Refusal := atomic 8 g t base idx 2 o disp false s

/-- The instruction cache of a tile without the lines of one context (03 R94). -/
def dropICache (tag : Option Tag) (x : Agent) : Agent := { x with icache := x.icache.filter (fun e => e.tag != tag) }

/-- FENCE (R125): REL then ACQ; an acquire also empties the context's lines of the instruction cache (03 R93, R94). -/
def execFence (g : Guard) (o : Ord) (s : State) : Host.Outcome State Fault Refusal :=
  runWord s (scalar g [] (do
    let rel := o.ord = 2 ∨ o.ord = 3
    let acq := o.ord = 1 ∨ o.ord = 3
    releaseIf rel o.scope
    acquireIf acq o.scope
    if acq then modS (fun s => modCurAgent s (dropICache (cur s).tag))
    return .next))

/-- A command that fills lines of window w or writes them back: WADV, WSYNC or WCLOSE. -/
def onWindow (w : Nat) (c : CpCmd) : Bool := 0x21 < c.fn.toNat && c.k == w

/-- The commands of the copy engine that pass a test and are not complete, those in the queues first: strand and number. -/
def pendingCp (x : Agent) (p : CpCmd → Bool) : List (Nat × Nat) :=
  ((x.strands.flatMap (fun q => q.2.eng.cpq) ++ (x.cp.table.filter (fun r => !r.finished)).map (·.cmd)).filter p).map (fun c => (c.strand, c.no))

/-- An MXE command that drains. -/
def MxOp.isDrain : MxOp → Bool
  | .drain .. => true
  | _ => false

/-- The drains a strand has pushed and that are not complete: numbers. -/
def pendingDrains (x : Agent) (k : Nat) : List Nat :=
  ((strandOf x k).eng.mxq.filter (·.op.isDrain)).map (·.no) ++
    (x.mx.runs.filter (fun r => r.cmd.strand == k && r.cmd.op.isDrain && r.phase != .finished)).map (·.cmd.no)

/-- SBAR records what the named streams have issued or been asked to issue (R126): of a window, the commands of any strand that fill its lines or write them back. -/
def execSbar (g : Guard) (mask : BitVec 18) (s : State) : Host.Outcome State Fault Refusal :=
  runWord s (scalar g [] (do
    modS (fun s =>
      let x := curAgent s
      let k := s.env.strand
      let wins := (List.range 16).flatMap (fun w => if mask.getLsbD w then pendingCp x (onWindow w) else [])
      modCur s (fun t => { t with eng := { t.eng with
        sbarCp := t.eng.sbarCp ++ wins ++ (if mask.getLsbD 16 then pendingCp x (fun c => c.strand == k) else [])
        sbarMx := t.eng.sbarMx ++ (if mask.getLsbD 17 then pendingDrains x k else []) } }))
    return .next))

end Sys2Proof.Machine
end

