-- ==== Sys2Proof/Machine/ScalarFp.lean ====
section
/-!
DEFINITION. Scalar FP32 (MAJ 0x03), predicates (MAJ 0x04) and indexed registers (MAJ 0x05): 04 R111 to R116.
-/

namespace Sys2Proof.Machine

/-- An FP32 operation that rounds: the operands are read, the draw taken, the flags raised, the result written zero-extended (R111). -/
def fpRound (g : Guard) (d : Reg) (rm : BitVec 3) (x : Nat → Exec Exact) (s : State) : Host.Outcome State Fault Refusal :=
  runWord s (scalar g [d] (do
    let mode ← reads (fun s => effMode (cur s) rm.toNat)
    let e ← x mode
    let draw ← drawFor mode
    let (r, fl) := fp32Result mode draw e
    raiseFlags fl 0
    writeReg d (BitVec.ofNat 64 r)
    return .next))

/-- Two FP32 operands. -/
def fpTwo (a b : Reg) (f : Num → Num → Exact) : Exec Exact := do
  let x ← readReg a
  let y ← readReg b
  return f (fp32Of x) (fp32Of y)

def execFadd (g : Guard) (d a b : Reg) (rm : BitVec 3) (s : State) : Host.Outcome State Fault Refusal :=
  fpRound g d rm (fun mode => fpTwo a b (xadd mode)) s
def execFsub (g : Guard) (d a b : Reg) (rm : BitVec 3) (s : State) : Host.Outcome State Fault Refusal :=
  fpRound g d rm (fun mode => fpTwo a b (fun x y => xadd mode x y.neg)) s
def execFmul (g : Guard) (d a b : Reg) (rm : BitVec 3) (s : State) : Host.Outcome State Fault Refusal :=
  fpRound g d rm (fun _ => fpTwo a b xmul) s
def execFfma (g : Guard) (d a b c : Reg) (rm : BitVec 3) (s : State) : Host.Outcome State Fault Refusal :=
  fpRound g d rm (fun mode => do
    let x ← readReg a
    let y ← readReg b
    let z ← readReg c
    return xfma mode (fp32Of x) (fp32Of y) (fp32Of z)) s
def execFdiv (g : Guard) (d a b : Reg) (rm : BitVec 3) (s : State) : Host.Outcome State Fault Refusal :=
  fpRound g d rm (fun _ => fpTwo a b xdiv) s
def execFsqrt (g : Guard) (d a : Reg) (rm : BitVec 3) (s : State) : Host.Outcome State Fault Refusal :=
  fpRound g d rm (fun _ => do return xsqrt (fp32Of (← readReg a))) s

/-- FMIN and FMAX: no rounding and no draw (R112). -/
def fpSelect (g : Guard) (d a b : Reg) (f : Num → Num → Exact) (s : State) : Host.Outcome State Fault Refusal :=
  runWord s (scalar g [d] (do
    let e ← fpTwo a b f
    let (r, fl) := fp32Result 0 0 e
    raiseFlags fl 0
    writeReg d (BitVec.ofNat 64 r)
    return .next))

def execFmin (g : Guard) (d a b : Reg) (s : State) : Host.Outcome State Fault Refusal := fpSelect g d a b xmin s
def execFmax (g : Guard) (d a b : Reg) (s : State) : Host.Outcome State Fault Refusal := fpSelect g d a b xmax s

/-- FCMP (R85, R112). -/
def execFcmp (g : Guard) (pd : PReg) (a b : Reg) (cond : BitVec 4) (s : State) : Host.Outcome State Fault Refusal :=
  runWord s (scalar g [] (do
    let x ← readReg a
    let y ← readReg b
    let m := fp32Of x
    let n := fp32Of y
    raiseFlags (nvIf (m.snan || n.snan)) 0
    modS (fun s => modCur s (fun t => setPred t pd (if fcond cond.toNat m n then 1 else 0)))
    return .next))

/-- A converted value as a register holds it (R113). -/
def cvtExtend (dt : BitVec 4) (w64 : Bool) (r : Nat) : Word :=
  if etFloat dt then BitVec.ofNat 64 r else BitVec.ofNat 64 (bitsOf 64 (intOf (etSigned dt) (cvtWidth dt w64) r))

/-- A conversion rounds unless it is from an integer to an integer type. -/
def cvtRounds (dt st : BitVec 4) : Bool := etFloat dt || etFloat st

/-- FCVT (R113, 02 R56). -/
def execFcvt (g : Guard) (d a : Reg) (rm : BitVec 3) (sat : BitVec 1) (dt st : BitVec 4) (w64 : BitVec 1) (s : State) :
    Host.Outcome State Fault Refusal :=
  runWord s (scalar g [d] (do
    let mode ← reads (fun s => effMode (cur s) rm.toNat)
    let x ← readReg a
    let draw ← if cvtRounds dt st then drawFor mode else pure 0
    let (r, fl) := convert dt st (w64 = 1) mode (sat = 1) draw (x.toNat % 2 ^ cvtWidth st (w64 = 1))
    raiseFlags fl 0
    writeReg d (cvtExtend dt (w64 = 1) r)
    return .next))

/-- The bit of FCLASS (R114). -/
def fclassOf (x : Num) : Nat :=
  let sub := fun (m : Nat) => m < 2 ^ 23
  match x with
  | .inf true => 0
  | .fin true m _ => if sub m then 2 else 1
  | .zero true => 3
  | .zero false => 4
  | .fin false m _ => if sub m then 5 else 6
  | .inf false => 7
  | .nan true => 8
  | .nan false => 9

/-- FCLASS (R114). -/
def execFclass (g : Guard) (d a : Reg) (s : State) : Host.Outcome State Fault Refusal :=
  put g d (do return BitVec.ofNat 64 (2 ^ fclassOf (fp32Of (← readReg a)))) s

/-! ### Predicates (R115) -/

/-- P[D] := n, from an instruction that names no scalar destination. -/
def putPred (g : Guard) (pd : PReg) (x : Exec Nat) (s : State) : Host.Outcome State Fault Refusal :=
  runWord s (scalar g [] (do
    let n ← x
    modS (fun s => modCur s (fun t => setPred t pd n))
    return .next))

def execPset (g : Guard) (pd : PReg) (count : BitVec 7) (s : State) : Host.Outcome State Fault Refusal := putPred g pd (pure count.toNat) s

/-- PLIM: min(64, max(0, a - b)), the difference exact. -/
def execPlim (g : Guard) (pd : PReg) (a b : Reg) (s : State) : Host.Outcome State Fault Refusal :=
  putPred g pd (do
    let x ← readReg a
    let y ← readReg b
    return (x.toInt - y.toInt).toNat) s

def execPmin (g : Guard) (pd pa pb : PReg) (s : State) : Host.Outcome State Fault Refusal :=
  putPred g pd (reads (fun s => min (predOf (cur s) pa) (predOf (cur s) pb))) s
def execPmax (g : Guard) (pd pa pb : PReg) (s : State) : Host.Outcome State Fault Refusal :=
  putPred g pd (reads (fun s => max (predOf (cur s) pa) (predOf (cur s) pb))) s
def execPrd (g : Guard) (d : Reg) (pa : PReg) (s : State) : Host.Outcome State Fault Refusal :=
  put g d (reads (fun s => BitVec.ofNat 64 (predOf (cur s) pa))) s

/-! ### Indexed registers (R116) -/

/-- The register that a GRD or GWR reaches, or REGBOUND. -/
def indexed (wr : Bool) (a : Word) (imm : BitVec 34) : Exec Nat := do
  let i : Int := a.toInt + imm.toInt
  let size := (cur (← getS)).size.toNat
  if i < 0 ∨ i ≥ size then trapAt cREGBOUND (BitVec.ofInt 64 i) (size + (if wr then 64 else 0))
  return i.toNat

def execGrd (g : Guard) (d a : Reg) (imm : BitVec 34) (s : State) : Host.Outcome State Fault Refusal :=
  put g d (do
    let i ← indexed false (← readReg a) imm
    reads (fun s => curReg s i)) s

/-- GWR: D names the source, read after A (R24). -/
def execGwr (g : Guard) (d a : Reg) (imm : BitVec 34) (s : State) : Host.Outcome State Fault Refusal :=
  runWord s (scalar g [] (do
    let x ← readReg a
    let v ← readReg d
    let i ← indexed true x imm
    modS (fun s => setCurReg s i v)
    return .next))

end Sys2Proof.Machine
end

