-- ==== Sys2Proof/Machine/Special.lean ====
section
/-!
DEFINITION. The special functions of 05 R144 and R145. Each is computed to 1024 fraction bits and handed to RoundToFormat with a last bit
that says the value is inexact; the arguments where f(a) is representable are taken apart first (log 10).
-/

namespace Sys2Proof.Machine

/-- Fraction bits of the fixed-point numbers here. -/
def fxBits : Nat := 1024

/-- 1 in fixed point. -/
def fxOne : Nat := 2 ^ fxBits

/-- Product of two fixed-point numbers. -/
def fxMul (a b : Nat) : Nat := a * b / 2 ^ fxBits

/-- sum of term / (2k+1) with term multiplied by zz at each step: z + z^3/3 + z^5/5 + ... -/
def atanhLoop : Nat → Nat → Nat → Nat → Nat → Nat
  | 0, _, _, _, acc => acc
  | n + 1, k, term, zz, acc => if term = 0 then acc else atanhLoop n (k + 2) (fxMul term zz) zz (acc + term / k)

/-- atanh of z for 0 ≤ z ≤ 1/3. -/
def fxAtanh (z : Nat) : Nat := atanhLoop 700 1 z (fxMul z z) 0

/-- ln 2 = 2 atanh(1/3). -/
def fxLn2 : Nat := 2 * fxAtanh (fxOne / 3)

/-- 1 + x + x^2/2! + ... -/
def expLoop : Nat → Nat → Nat → Nat → Nat → Nat
  | 0, _, _, _, acc => acc
  | n + 1, k, term, x, acc => if term = 0 then acc else expLoop n (k + 1) (fxMul term x / k) x (acc + term)

/-- e^x for 0 ≤ x < 1. -/
def fxExp (x : Nat) : Nat := expLoop 400 1 fxOne x 0

/-- A fixed-point value with the bit that says something lies below it. -/
def fxNum (neg : Bool) (v : Nat) (e : Int) : Num := .fin neg (2 * v + 1) (e - fxBits - 1)

/-- The fixed-point number of m * 2^e, for values below 2^64; what lies below the last bit is cut off. -/
def fxOf (m : Nat) (e : Int) : Nat :=
  let s := e + fxBits
  if 0 ≤ s then m * 2 ^ s.toNat else m / 2 ^ (-s).toNat

/-- 2^a (R144, R145). -/
def xexp2 (a : Num) : Exact :=
  match a with
  | .nan s => ⟨.nan false, nvIf s⟩
  | .inf false => ⟨.inf false, 0⟩
  | .inf true => ⟨.zero false, 0⟩
  | .zero _ => ⟨.fin false 1 0, 0⟩
  | .fin neg m e =>
    if (Nat.log2 m : Int) + e ≥ 12 then ⟨.fin false 3 (if neg then -5000 else 5000), 0⟩
    else if 0 ≤ e ∨ m % 2 ^ (-e).toNat = 0 then
      let i : Int := if 0 ≤ e then m * 2 ^ e.toNat else (m / 2 ^ (-e).toNat : Nat)
      ⟨.fin false 1 (if neg then -i else i), 0⟩
    else
      let fx := fxOf m e
      let i : Int := (fx / fxOne : Nat)
      let f := fx % fxOne
      -- for a negative argument -(i + f) = -(i + 1) + (1 - f)
      let (i', f') := if neg then (-(i + 1), fxOne - f) else (i, f)
      ⟨fxNum false (fxExp (fxMul f' fxLn2)) i', 0⟩

/-- log2 a (R144, R145). -/
def xlog2 (a : Num) : Exact :=
  match a with
  | .nan s => ⟨.nan false, nvIf s⟩
  | .zero _ => ⟨.inf true, fDZ⟩
  | .inf false => ⟨.inf false, 0⟩
  | .inf true => ⟨.nan false, fNV⟩
  | .fin true _ _ => ⟨.nan false, fNV⟩
  | .fin false m e =>
    let l := Nat.log2 m
    let i : Int := l + e
    if m = 2 ^ l then ⟨Num.ofInt false i 0, 0⟩
    else
      let z := (m - 2 ^ l) * fxOne / (m + 2 ^ l)
      let fr := 2 * fxAtanh z * fxOne / fxLn2
      let v : Int := i * fxOne + fr
      -- the last bit puts a negative value between its neighbours as well
      ⟨.fin (v < 0) (if v < 0 then 2 * v.natAbs - 1 else 2 * v.natAbs + 1) (-(fxBits : Int) - 1), 0⟩

/-- 1 / a (R144, R145). -/
def xrcp (a : Num) : Exact := xdiv (.fin false 1 0) a

/-- 1 / √a (R144, R145). -/
def xrsq (a : Num) : Exact :=
  match a with
  | .nan s => ⟨.nan false, nvIf s⟩
  | .zero n => ⟨.inf n, fDZ⟩
  | .inf false => ⟨.zero false, 0⟩
  | .inf true => ⟨.nan false, fNV⟩
  | .fin true _ _ => ⟨.nan false, fNV⟩
  | .fin false m e =>
    let odd := e % 2 = 1
    let n := if odd then 2 * m else m
    let ex : Int := if odd then e - 1 else e
    let t := 2 ^ 400
    let r := isqrt (t / n)
    ⟨.fin false (if r * r * n = t then 2 * r else 2 * r + 1) (-ex / 2 - 201), 0⟩

/-- e^x for x up to 2^9, as (fixed-point mantissa in [1, 2), power of two). -/
def fxExpBig (x : Nat) : Nat × Nat := let k := x / fxLn2; (fxExp (x - k * fxLn2), k)

/-- tanh a (R144, R145). -/
def xtanh (a : Num) : Exact :=
  match a with
  | .nan s => ⟨.nan false, nvIf s⟩
  | .zero n => ⟨.zero n, 0⟩
  | .inf n => ⟨.fin n 1 0, 0⟩
  | .fin neg m e =>
    if (Nat.log2 m : Int) + e ≥ 7 then ⟨.fin neg (2 ^ 200 - 1) (-200), 0⟩
    else
      let (y, k) := fxExpBig (2 * fxOf m e)
      let big := y * 2 ^ k
      ⟨fxNum neg ((big - fxOne) * fxOne / (big + fxOne)) 0, 0⟩

/-- x - x^3/3 + x^5/(2! 5) - ...: term carries (-1)^n x^(2n+1) / n!. -/
def erfLoop : Nat → Nat → Nat → Nat → Int → Int
  | 0, _, _, _, acc => acc
  | n + 1, k, term, xx, acc =>
    if term = 0 then acc
    else
      let c : Int := (term / (2 * k + 1) : Nat)
      erfLoop n (k + 1) (fxMul term xx / (k + 1)) xx (if k % 2 = 0 then acc + c else acc - c)

/-- The fixed-point 2/√π, from π by Machin's formula: 16 atan(1/5) - 4 atan(1/239). -/
def atanLoop : Nat → Nat → Nat → Nat → Int → Int
  | 0, _, _, _, acc => acc
  | n + 1, k, term, qq, acc =>
    if term = 0 then acc
    else atanLoop n (k + 1) (term / qq) qq (if k % 2 = 0 then acc + (term / (2 * k + 1) : Nat) else acc - (term / (2 * k + 1) : Nat))

/-- π in fixed point. -/
def fxPi : Nat := (16 * atanLoop 700 0 (fxOne / 5) 25 0 - 4 * atanLoop 700 0 (fxOne / 239) 57121 0).toNat

/-- 2/√π in fixed point. -/
def fxTwoOverRootPi : Nat := 2 * fxOne * fxOne / isqrt (fxPi * fxOne)

/-- erf a (R144, R145). -/
def xerf (a : Num) : Exact :=
  match a with
  | .nan s => ⟨.nan false, nvIf s⟩
  | .zero n => ⟨.zero n, 0⟩
  | .inf n => ⟨.fin n 1 0, 0⟩
  | .fin neg m e =>
    if (Nat.log2 m : Int) + e ≥ 3 then ⟨.fin neg (2 ^ 200 - 1) (-200), 0⟩
    else
      let x := fxOf m e
      let s := erfLoop 1500 0 x (fxMul x x) 0
      ⟨fxNum neg (fxMul s.toNat fxTwoOverRootPi) 0, 0⟩

end Sys2Proof.Machine
end

