-- ==== Sys2Proof/Machine/Vector.lean ====
section
/-!
DEFINITION. The vector column: MAJ 0x60 to 0x65 (05 R135 to R157).
-/

namespace Sys2Proof.Machine

/-! ### Registers, elements, delivery -/

/-- A vector register (01 R29). -/
def vregOf (t : Strand) (v : VReg) : Line := mget 0 t.vregs v.toNat
/-- A vector register written. -/
def setVreg (t : Strand) (v : VReg) (x : Line) : Strand := { t with vregs := mput t.vregs v.toNat x }
/-- Element e of w bits (R29). -/
def elemOf (w : Nat) (x : Line) (e : Nat) : Nat := lineNat x (w / 8 * e) (w / 8)
/-- Element e replaced. -/
def putElem (w : Nat) (x : Line) (e v : Nat) : Line := lineSet x (w / 8 * e) (w / 8) v
/-- Element e of register v of a strand. -/
def velem (t : Strand) (w : Nat) (v : VReg) (e : Nat) : Nat := elemOf w (vregOf t v) e

/-- The elements of a register replaced one after another. -/
def putElems (w : Nat) (x : Line) (rs : List (Nat × Nat)) : Line := rs.foldl (fun x r => putElem w x r.1 r.2) x

/-- Elements written to VD of the current strand; every other element keeps its value (R135). -/
def writeElems (vd : VReg) (w : Nat) (rs : List (Nat × Nat)) : Exec Unit :=
  modS (fun s => modCur s (fun t => setVreg t vd (putElems w (vregOf t vd) rs)))

/-- All flags of a list of results. -/
def flagsOf (rs : List (Nat × Nat × BitVec 5)) : BitVec 5 := rs.foldl (fun f r => f ||| r.2.2) 0

/-- Results with flags, delivered by R138: the flags first, then every element; index e goes to element off + e. at' is the index FP_TRAP reports
when it is not the first element with an enabled flag. -/
def deliver (vd : VReg) (w off : Nat) (rs : List (Nat × Nat × BitVec 5)) (at' : Option Nat) : Exec Unit := do
  let en ← reads (fun s => enabledTraps (cur s))
  let first := ((rs.find? (fun r => r.2.2 &&& en != 0)).map (·.1)).getD 0
  raiseFlags (flagsOf rs) (at'.getD first)
  writeElems vd w (rs.map (fun r => (off + r.1, r.2.1)))

/-- An element-wise instruction over n elements: f gives the result and flags of element e from the strand, the effective mode and the draw. -/
def elementwise (g : Guard) (vd : VReg) (w n off : Nat) (rm : BitVec 3) (draws : Bool) (f : Strand → Nat → Nat → Nat → Nat × BitVec 5)
    (s : State) : Host.Outcome State Fault Refusal :=
  runWord s (do
    let t ← reads cur
    let mode := effMode t rm.toNat
    let rs ← (actives t g n).mapM (fun e => do
      let d ← if draws then drawFor mode else pure 0
      return (e, f t mode d e))
    deliver vd w off rs none
    return .next)

/-- An element-wise instruction without flags. -/
def moveElems (g : Guard) (vd : VReg) (w n : Nat) (f : Strand → Nat → Nat) (s : State) : Host.Outcome State Fault Refusal :=
  runWord s (do
    let t ← reads cur
    writeElems vd w ((actives t g n).map (fun e => (e, f t e)))
    return .next)

/-- An exact result rounded to a format, with the flags of the operation itself (R138). -/
def rounded (f : Fmt) (mode : Nat) (sat : Bool) (d : Nat) (x : Exact) : Nat × BitVec 5 :=
  let (r, fl) := roundTo f mode sat d x.val
  (r, fl ||| x.fl)

/-! ### MAJ 0x60 (R142, R143) -/

/-- An element as a value of its floating-point type. -/
def vnum (t : Strand) (et : BitVec 4) (v : VReg) (e : Nat) : Num := Num.decode (fmtOf et) (velem t (etWidth et) v e)
/-- An element as an integer of its type. -/
def vint (t : Strand) (et : BitVec 4) (v : VReg) (e : Nat) : Int := intOf (etSigned et) (etWidth et) (velem t (etWidth et) v e)

/-- VADD to VFMS: exact floating-point or integer results, delivered by R138 and R139. -/
def arith (g : Guard) (vd va vb vc : VReg) (et : BitVec 4) (rm : BitVec 3) (sat : BitVec 1) (fl : Nat → Num → Num → Num → Exact)
    (it : Int → Int → Int → Int) (s : State) : Host.Outcome State Fault Refusal :=
  elementwise g vd (etWidth et) (etCount et) 0 rm (etFloat et) (fun t mode d e =>
    if etFloat et then rounded (fmtOf et) mode (sat = 1) d (fl mode (vnum t et va e) (vnum t et vb e) (vnum t et vc e))
    else (deliverInt (etSigned et) (etWidth et) (sat = 1) (it (vint t et va e) (vint t et vb e) (vint t et vc e)), 0)) s

/-- VMIN, VMAX, VCLAMP: no rounding (R143). -/
def pick (g : Guard) (vd va vb vc : VReg) (et : BitVec 4) (fl : Num → Num → Num → Exact) (it : Int → Int → Int → Int) (s : State) :
    Host.Outcome State Fault Refusal :=
  elementwise g vd (etWidth et) (etCount et) 0 0 false (fun t _ _ e =>
    if etFloat et then rounded (fmtOf et) 0 false 0 (fl (vnum t et va e) (vnum t et vb e) (vnum t et vc e))
    else (bitsOf (etWidth et) (it (vint t et va e) (vint t et vb e) (vint t et vc e)), 0)) s

/-- VABS, VNEG: of a floating-point operand that is not a NaN only the sign changes (R143). -/
def signOp (g : Guard) (vd va : VReg) (et : BitVec 4) (sat : BitVec 1) (fl : Num → Num) (it : Int → Int) (s : State) :
    Host.Outcome State Fault Refusal :=
  elementwise g vd (etWidth et) (etCount et) 0 0 false (fun t _ _ e =>
    if etFloat et then rounded (fmtOf et) 0 false 0 ⟨fl (vnum t et va e), nvIf (vnum t et va e).snan⟩
    else (deliverInt (etSigned et) (etWidth et) (sat = 1) (it (vint t et va e)), 0)) s

def execVadd (g : Guard) (vd va vb : VReg) (et : BitVec 4) (rm : BitVec 3) (sat : BitVec 1) (s : State) : Host.Outcome State Fault Refusal :=
  arith g vd va vb vb et rm sat (fun m a b _ => xadd m a b) (fun a b _ => a + b) s
def execVsub (g : Guard) (vd va vb : VReg) (et : BitVec 4) (rm : BitVec 3) (sat : BitVec 1) (s : State) : Host.Outcome State Fault Refusal :=
  arith g vd va vb vb et rm sat (fun m a b _ => xadd m a b.neg) (fun a b _ => a - b) s
def execVmul (g : Guard) (vd va vb : VReg) (et : BitVec 4) (rm : BitVec 3) (sat : BitVec 1) (s : State) : Host.Outcome State Fault Refusal :=
  arith g vd va vb vb et rm sat (fun _ a b _ => xmul a b) (fun a b _ => a * b) s
def execVfma (g : Guard) (vd va vb vc : VReg) (et : BitVec 4) (rm : BitVec 3) (sat : BitVec 1) (s : State) : Host.Outcome State Fault Refusal :=
  arith g vd va vb vc et rm sat (fun m a b c => xfma m a b c) (fun a b c => a * b + c) s
def execVfms (g : Guard) (vd va vb vc : VReg) (et : BitVec 4) (rm : BitVec 3) (sat : BitVec 1) (s : State) : Host.Outcome State Fault Refusal :=
  arith g vd va vb vc et rm sat (fun m a b c => xfma m a b c.neg) (fun a b c => a * b - c) s
def execVmin (g : Guard) (vd va vb : VReg) (et : BitVec 4) (s : State) : Host.Outcome State Fault Refusal :=
  pick g vd va vb vb et (fun a b _ => xmin a b) (fun a b _ => min a b) s
def execVmax (g : Guard) (vd va vb : VReg) (et : BitVec 4) (s : State) : Host.Outcome State Fault Refusal :=
  pick g vd va vb vb et (fun a b _ => xmax a b) (fun a b _ => max a b) s
def execVabs (g : Guard) (vd va : VReg) (et : BitVec 4) (sat : BitVec 1) (s : State) : Host.Outcome State Fault Refusal :=
  signOp g vd va et sat Num.abs (fun a => a.natAbs) s
def execVneg (g : Guard) (vd va : VReg) (et : BitVec 4) (sat : BitVec 1) (s : State) : Host.Outcome State Fault Refusal :=
  signOp g vd va et sat Num.neg (fun a => -a) s

/-- VMIN(VMAX(a, b), c) with the flags of both (R142). -/
def xclamp (a b c : Num) : Exact := let x := xmax a b; let y := xmin x.val c; ⟨y.val, x.fl ||| y.fl⟩

def execVclamp (g : Guard) (vd va vb vc : VReg) (et : BitVec 4) (s : State) : Host.Outcome State Fault Refusal :=
  pick g vd va vb vc et xclamp (fun a b c => min (max a b) c) s

/-! ### MAJ 0x61 (R144, R145) -/

/-- A special function of each active element. -/
def special (g : Guard) (vd va : VReg) (et : BitVec 4) (rm : BitVec 3) (f : Num → Exact) (s : State) : Host.Outcome State Fault Refusal :=
  elementwise g vd (etWidth et) (etCount et) 0 rm true (fun t mode d e => rounded (fmtOf et) mode false d (f (vnum t et va e))) s

def execVexp2 (g : Guard) (vd va : VReg) (et : BitVec 4) (rm : BitVec 3) (s : State) : Host.Outcome State Fault Refusal := special g vd va et rm xexp2 s
def execVlog2 (g : Guard) (vd va : VReg) (et : BitVec 4) (rm : BitVec 3) (s : State) : Host.Outcome State Fault Refusal := special g vd va et rm xlog2 s
def execVrcp (g : Guard) (vd va : VReg) (et : BitVec 4) (rm : BitVec 3) (s : State) : Host.Outcome State Fault Refusal := special g vd va et rm xrcp s
def execVrsq (g : Guard) (vd va : VReg) (et : BitVec 4) (rm : BitVec 3) (s : State) : Host.Outcome State Fault Refusal := special g vd va et rm xrsq s
def execVtanh (g : Guard) (vd va : VReg) (et : BitVec 4) (rm : BitVec 3) (s : State) : Host.Outcome State Fault Refusal := special g vd va et rm xtanh s
def execVerf (g : Guard) (vd va : VReg) (et : BitVec 4) (rm : BitVec 3) (s : State) : Host.Outcome State Fault Refusal := special g vd va et rm xerf s

/-! ### MAJ 0x62 (R146) -/

/-- A bit operation on w-bit elements. -/
def bitOp (g : Guard) (vd va vb : VReg) (et : BitVec 4) (f : Nat → Nat → Nat → Nat) (s : State) : Host.Outcome State Fault Refusal :=
  let w := etWidth et
  moveElems g vd w (etCount et) (fun t e => f w (velem t w va e) (velem t w vb e) % 2 ^ w) s

def execVand (g : Guard) (vd va vb : VReg) (et : BitVec 4) (s : State) : Host.Outcome State Fault Refusal := bitOp g vd va vb et (fun _ a b => a &&& b) s
def execVor (g : Guard) (vd va vb : VReg) (et : BitVec 4) (s : State) : Host.Outcome State Fault Refusal := bitOp g vd va vb et (fun _ a b => a ||| b) s
def execVxor (g : Guard) (vd va vb : VReg) (et : BitVec 4) (s : State) : Host.Outcome State Fault Refusal := bitOp g vd va vb et (fun _ a b => a ^^^ b) s
def execVnot (g : Guard) (vd va : VReg) (et : BitVec 4) (s : State) : Host.Outcome State Fault Refusal :=
  bitOp g vd va va et (fun w a _ => 2 ^ w - 1 - a) s

/-- The shift count: the immediate when bit 6 of IMM7 is 1, else the element of VB, modulo w. -/
def shiftCount (imm : BitVec 7) (w b : Nat) : Nat := (if imm.getLsbD 6 then imm.toNat % 64 else b) % w

def execVshl (g : Guard) (vd va vb : VReg) (et : BitVec 4) (imm : BitVec 7) (s : State) : Host.Outcome State Fault Refusal :=
  bitOp g vd va vb et (fun w a b => a * 2 ^ shiftCount imm w b) s
def execVshr (g : Guard) (vd va vb : VReg) (et : BitVec 4) (imm : BitVec 7) (s : State) : Host.Outcome State Fault Refusal :=
  bitOp g vd va vb et (fun w a b => a / 2 ^ shiftCount imm w b) s
def execVsar (g : Guard) (vd va vb : VReg) (et : BitVec 4) (imm : BitVec 7) (s : State) : Host.Outcome State Fault Refusal :=
  bitOp g vd va vb et (fun w a b => sarOf w a (shiftCount imm w b)) s
def execVmulh (g : Guard) (vd va vb : VReg) (et : BitVec 4) (s : State) : Host.Outcome State Fault Refusal :=
  bitOp g vd va vb et (fun w a b => bitsOf w (intOf (etSigned et) w a * intOf (etSigned et) w b / 2 ^ w)) s

/-! ### MAJ 0x63 (R147 to R150) -/

/-- Element e of two registers under a condition, with its flags (02 R49, 03 R84, R85). -/
def velemCond (t : Strand) (et cond : BitVec 4) (va vb : VReg) (e : Nat) : Bool × BitVec 5 :=
  if etFloat et then
    let a := vnum t et va e
    let b := vnum t et vb e
    (fcond cond.toNat a b, nvIf (a.snan || b.snan))
  else
    let w := etWidth et
    (condHolds cond.toNat w (BitVec.ofNat 64 (velem t w va e)) (BitVec.ofNat 64 (velem t w vb e)), 0)

/-- VCMP: the lowest element that fails, or the guard's count (R147). -/
def execVcmp (g : Guard) (pd : PReg) (va vb : VReg) (et cond : BitVec 4) (s : State) : Host.Outcome State Fault Refusal :=
  runWord s (do
    let t ← reads cur
    let c := min (predOf t g.pg) (etCount et)
    let rs := (List.range c).map (fun e => (e, velemCond t et cond va vb e))
    let first := ((rs.find? (fun r => r.2.2 &&& enabledTraps t != 0)).map (·.1)).getD 0
    raiseFlags (rs.foldl (fun f r => f ||| r.2.2) 0) first
    modS (fun s => modCur s (fun t => setPred t pd (((rs.find? (fun r => !r.2.1)).map (·.1)).getD c)))
    return .next)

def execVsel (g : Guard) (vd va vb : VReg) (et : BitVec 4) (x : PReg) (s : State) : Host.Outcome State Fault Refusal :=
  let w := etWidth et
  moveElems g vd w (etCount et) (fun t e => if e < predOf t x then velem t w va e else velem t w vb e) s

/-- VCVT: the indices of R149. -/
def execVcvt (g : Guard) (vd va : VReg) (et : BitVec 4) (rm : BitVec 3) (sat : BitVec 1) (part : BitVec 2) (st : BitVec 4) (s : State) :
    Host.Outcome State Fault Refusal :=
  let ws := etWidth st
  let wd := etWidth et
  let n := 512 / max ws wd
  let so := if ws < wd then part.toNat * n else 0
  let dofs := if wd < ws then part.toNat * n else 0
  elementwise g vd wd n dofs rm (cvtRounds et st) (fun t mode d e => convert et st false mode (sat = 1) d (velem t ws va (e + so))) s

def execVmov (g : Guard) (vd va : VReg) (et : BitVec 4) (s : State) : Host.Outcome State Fault Refusal :=
  let w := etWidth et
  moveElems g vd w (etCount et) (fun t e => velem t w va e) s

/-- VBCAST and VIOTA: G is read once, whatever is active (R135, 01 R24). -/
def fromReg (g : Guard) (vd : VReg) (gs : Reg) (et : BitVec 4) (f : Nat → Nat → Nat) (s : State) : Host.Outcome State Fault Refusal :=
  runWord s (do
    let v ← readReg gs
    let t ← reads cur
    writeElems vd (etWidth et) ((actives t g (etCount et)).map (fun e => (e, f v.toNat e)))
    return .next)

def execVbcast (g : Guard) (vd : VReg) (gs : Reg) (et : BitVec 4) (s : State) : Host.Outcome State Fault Refusal :=
  fromReg g vd gs et (fun v _ => v) s
def execViota (g : Guard) (vd : VReg) (gs : Reg) (et : BitVec 4) (s : State) : Host.Outcome State Fault Refusal :=
  fromReg g vd gs et (fun v e => v + e) s

/-- VEXT: nothing when element i is inactive (R148). -/
def execVext (g : Guard) (gd : Reg) (va : VReg) (et : BitVec 4) (i : BitVec 7) (s : State) : Host.Outcome State Fault Refusal :=
  runWord s (do
    let t ← reads cur
    if activeAt t g (etCount et) i.toNat then
      checkDst gd
      let w := etWidth et
      let v := velem t w va i.toNat
      writeReg gd (if 5 ≤ et.toNat ∧ et.toNat ≤ 7 then BitVec.ofNat 64 (bitsOf 64 (intOf true w v)) else BitVec.ofNat 64 v)
      return .next
    else return .next)

/-- VINS: G is read whether or not element i is active (R135, 01 R24). -/
def execVins (g : Guard) (vd : VReg) (gs : Reg) (et : BitVec 4) (i : BitVec 7) (s : State) : Host.Outcome State Fault Refusal :=
  runWord s (do
    let v ← readReg gs
    let t ← reads cur
    writeElems vd (etWidth et) (if activeAt t g (etCount et) i.toNat then [(i.toNat, v.toNat)] else [])
    return .next)

/-- VCOND: the condition bit of the tile while a chain owns its MXE (R150). -/
def execVcond (g : Guard) (x : PReg) (s : State) : Host.Outcome State Fault Refusal :=
  runWord s (scalar g [] (do
    modS (fun s => modCurAgent s (fun a =>
      if a.rx.chain.isSome then { a with rx := { a.rx with cond := predOf (cur s) x != 0 } } else a))
    return .next))

/-! ### MAJ 0x64 (R151 to R154) -/

/-- A move of 32-bit lanes: lane l of the result is the lane that src names, or 0 (R152). -/
def laneMove (g : Guard) (vd va : VReg) (et : BitVec 4) (src : Strand → Nat → Option Nat) (s : State) : Host.Outcome State Fault Refusal :=
  let w := etWidth et
  moveElems g vd w (etCount et) (fun t e =>
    let x := vregOf t va
    elemOf w (putElems 32 0 ((List.range 16).map (fun l => (l, match src t l with | some j => elemOf 32 x j | none => 0)))) e) s

def execVshup (g : Guard) (vd va : VReg) (et : BitVec 4) (skew : BitVec 5) (s : State) : Host.Outcome State Fault Refusal :=
  laneMove g vd va et (fun _ l => if skew.toNat ≤ l then some (l - skew.toNat) else none) s
def execVshdn (g : Guard) (vd va : VReg) (et : BitVec 4) (skew : BitVec 5) (s : State) : Host.Outcome State Fault Refusal :=
  laneMove g vd va et (fun _ l => let j := l + skew.toInt.natAbs; if j ≤ 15 then some j else none) s
def execVrot (g : Guard) (vd va : VReg) (et : BitVec 4) (skew : BitVec 5) (s : State) : Host.Outcome State Fault Refusal :=
  laneMove g vd va et (fun _ l => some (((l : Int) - skew.toInt) % 16).toNat) s
def execVperm (g : Guard) (vd va vb : VReg) (et : BitVec 4) (skew : BitVec 5) (s : State) : Host.Outcome State Fault Refusal :=
  laneMove g vd va et (fun t l => let j := elemOf 32 (vregOf t vb) l % 16; if j ≤ l + skew.toInt.natAbs then some j else none) s

/-- The exact sum of floating-point values under R66: a zero total is -0 only when every value was -0. -/
def xsum (xs : List Num) : Exact :=
  let pos := xs.contains (.inf false)
  let neg := xs.contains (.inf true)
  let sn := nvIf (xs.any Num.snan || (pos && neg))
  if xs.any Num.isNan || (pos && neg) then ⟨.nan false, sn⟩
  else if pos then ⟨.inf false, 0⟩
  else if neg then ⟨.inf true, 0⟩
  else
    let k := xs.foldl (fun k x => min k x.exp) 0
    ⟨Num.ofInt (xs != [] && xs.all (fun x => x == .zero true)) (xs.foldl (fun a x => a + x.toIntAt k) 0) k, 0⟩

/-- The exact combination of floating-point values by the operator of R153, with its identity for none; NV for any signalling NaN. -/
def combineNum (op : Nat) (xs : List Num) : Exact :=
  match op with
  | 0 => xsum xs
  | 1 => ⟨(xs.foldl (fun a x => xmin a x |>.val) (.inf false)), nvIf (xs.any Num.snan)⟩
  | _ => ⟨(xs.foldl (fun a x => xmax a x |>.val) (.inf true)), nvIf (xs.any Num.snan)⟩

/-- The combination of integer elements by the operator of R153, with its identity for none. -/
def combineInt (op : Nat) (et : BitVec 4) (sat : Bool) (xs : List Nat) : Nat :=
  let w := etWidth et
  let sg := etSigned et
  let vs := xs.map (intOf sg w)
  match op with
  | 0 => deliverInt sg w sat (vs.foldl (· + ·) 0)
  | 1 => bitsOf w (vs.foldl min (intMax sg w))
  | 2 => bitsOf w (vs.foldl max (intMin sg w))
  | 3 => xs.foldl (· &&& ·) (2 ^ w - 1)
  | 4 => xs.foldl (· ||| ·) 0
  | _ => xs.foldl (· ^^^ ·) 0

/-- The combination of raw elements, rounded once. -/
def combine (op : Nat) (et : BitVec 4) (mode : Nat) (sat : Bool) (d : Nat) (xs : List Nat) : Nat × BitVec 5 :=
  if etFloat et then rounded (fmtOf et) (if op = 0 then mode else 0) sat d (combineNum op (xs.map (Num.decode (fmtOf et))))
  else (combineInt op et sat xs, 0)

/-- VSCAN: each active element becomes the combination of the active elements up to it (R153). -/
def execVscan (g : Guard) (vd va : VReg) (et : BitVec 4) (rm : BitVec 3) (sat : BitVec 1) (op : BitVec 7) (s : State) :
    Host.Outcome State Fault Refusal :=
  let w := etWidth et
  elementwise g vd w (etCount et) 0 rm (etFloat et && op == 0) (fun t mode d e =>
    combine op.toNat et mode (sat = 1) d (((actives t g (etCount et)).filter (· ≤ e)).map (velem t w va))) s

/-- The lowest active element that holds a signalling NaN. -/
def firstSnan (t : Strand) (et : BitVec 4) (va : VReg) (es : List Nat) : Option Nat := es.find? (fun e => etFloat et && (vnum t et va e).snan)

/-- VRED: element E - 1 becomes the combination of every active element; under SRD the first of its draws rounds (R153). -/
def execVred (g : Guard) (vd va : VReg) (et : BitVec 4) (rm : BitVec 3) (sat : BitVec 1) (op : BitVec 7) (s : State) :
    Host.Outcome State Fault Refusal :=
  runWord s (do
    let t ← reads cur
    let w := etWidth et
    let last := etCount et - 1
    let mode := effMode t rm.toNat
    let es := actives t g (etCount et)
    let ds ← if etFloat et && op == 0 then es.mapM (fun _ => drawFor mode) else pure []
    let r := combine op.toNat et mode (sat = 1) (ds.head?.getD 0) (es.map (velem t w va))
    deliver vd w 0 [(last, r)] (some ((firstSnan t et va es).getD last))
    return .next)

/-- The greatest of the elements and the lowest index that holds it: (index, raw element, value) (02 R59). -/
def maxIdxNum (xs : List (Nat × Nat × Num)) : Option (Nat × Nat × Num) :=
  xs.foldl (fun b x => match b with | none => some x | some y => if numLt true y.2.2 x.2.2 then some x else some y) none

/-- VMAXI's value and index (R154, 02 R59). -/
def vmaxiOf (t : Strand) (et : BitVec 4) (va : VReg) (es : List Nat) : Nat × Nat :=
  let w := etWidth et
  if etFloat et then
    match es.find? (fun e => (vnum t et va e).isNan) with
    | some e => ((fmtOf et).nan, e)
    | none =>
      match maxIdxNum (es.map (fun e => (e, velem t w va e, vnum t et va e))) with
      | some (e, raw, _) => (raw, e)
      | none => ((roundTo (fmtOf et) 0 false 0 (.inf true)).1, etCount et)
  else
    match es.foldl (fun (b : Option (Nat × Int)) e => match b with
      | none => some (e, vint t et va e)
      | some y => if y.2 < vint t et va e then some (e, vint t et va e) else some y) none with
    | some (e, v) => (bitsOf w v, e)
    | none => (bitsOf w (intMin (etSigned et) w), etCount et)

/-- VMAXI (R154). -/
def execVmaxi (g : Guard) (vd va : VReg) (gi : Reg) (et : BitVec 4) (s : State) : Host.Outcome State Fault Refusal :=
  runWord s (do
    checkDst gi
    let t ← reads cur
    let es := actives t g (etCount et)
    let sn := firstSnan t et va es
    let (v, i) := vmaxiOf t et va es
    deliver vd (etWidth et) 0 [(etCount et - 1, v, nvIf sn.isSome)] sn
    writeReg gi (BitVec.ofNat 64 i)
    return .next)

/-! ### MAJ 0x65 (R155 to R157) -/

/-- The wide type of a narrow one (R155). -/
def wideOf (et : BitVec 4) : BitVec 4 := match et.toNat with | 1 | 2 => 0 | 3 | 4 => 1 | 6 | 9 => 5 | _ => 6

def execVpack (g : Guard) (vd va vb : VReg) (et : BitVec 4) (rm : BitVec 3) (sat : BitVec 1) (s : State) : Host.Outcome State Fault Refusal :=
  let ww := etWidth (wideOf et)
  let n := 512 / ww
  elementwise g vd (etWidth et) (2 * n) 0 rm (etFloat et) (fun t mode d e =>
    convert et (wideOf et) false mode (sat = 1) d (if e < n then velem t ww va e else velem t ww vb (e - n))) s

def execVunpk (g : Guard) (vd va : VReg) (et : BitVec 4) (h : BitVec 1) (s : State) : Host.Outcome State Fault Refusal :=
  let ww := etWidth (wideOf et)
  let n := 512 / ww
  elementwise g vd ww n 0 0 false (fun t _ _ e => convert (wideOf et) et false 0 false 0 (velem t (etWidth et) va (h.toNat * n + e))) s

/-- VSCALE; a scale of 0xFF gives NaNs without rounding, so without a draw (R156, 02 R52). -/
def execVscale (g : Guard) (vd va : VReg) (gs : Reg) (et : BitVec 4) (rm : BitVec 3) (sat inv : BitVec 1) (s : State) :
    Host.Outcome State Fault Refusal :=
  runWord s (do
    let k ← readReg gs
    let t ← reads cur
    let mode := effMode t rm.toNat
    let rs ← (actives t g (etCount et)).mapM (fun e =>
      match scaleExp k.toNat with
      | none => return (e, (fmtOf et).nan, 0)
      | some x => do
        let d ← drawFor mode
        let a := vnum t et va e
        return (e, rounded (fmtOf et) mode (sat = 1) d ⟨a.scale (if inv = 1 then -x else x), nvIf a.snan⟩))
    deliver vd (etWidth et) 0 rs none
    return .next)

/-- floor(log2 |x|) of a finite value that is not 0. -/
def Num.log2 : Num → Option Int
  | .fin _ m e => some ((Nat.log2 m : Int) + e)
  | _ => none

/-- The scale exponent of an MXFP8 block (R157): none when it holds a NaN or an infinity. -/
def blockScale (emax : Int) (xs : List Num) : Option Int :=
  if xs.any (fun x => x.isNan || x.isInf) then none
  else
    match xs.filterMap Num.log2 with
    | [] => some (-127)
    | l :: ls => some (max (-127) (min 127 (ls.foldl max l - emax)))

/-- VQNT: 32 BF16 elements become one MXFP8 block (R157). -/
def execVqnt (g : Guard) (vd va : VReg) (gs : Reg) (et : BitVec 4) (rm : BitVec 3) (h : BitVec 1) (s : State) : Host.Outcome State Fault Refusal :=
  runWord s (do
    checkDst gs
    let t ← reads cur
    let mode := effMode t rm.toNat
    let es := actives t g 32
    let sc := blockScale (if et = 3 then 8 else 15) (es.map (vnum t 1 va))
    let rs ← es.mapM (fun e =>
      let a := vnum t 1 va e
      match sc with
      | none => return (e, (fmtOf et).nan, nvIf a.snan)
      | some x => do
        let d ← drawFor mode
        return (e, roundTo (fmtOf et) mode true d (a.scale (-x))))
    deliver vd 8 (32 * h.toNat) rs none
    writeReg gs (BitVec.ofInt 64 (match sc with | none => 255 | some x => x + 127))
    return .next)

end Sys2Proof.Machine
end

