-- ==== Sys2Proof/Machine/Mxe.lean ====
section
/-!
DEFINITION. The matrix engine: banks, exact and BF16 accumulation (02 R60 to R65), passes (06 R176), drains (R181, R182), triggers (R180), the current of the
array (R183), perturbation (R185, 19 R421, R424), and the order in which it serves its work (01 R36, 06 R171).
-/

namespace Sys2Proof.Machine

/-! ### Banks -/

/-- The element MXZERO leaves (R62). -/
def elem0 : Elem := ⟨0, false, false, false, false⟩
/-- The empty state (R62): NEGZ in an EXACT bank, FP32 -0 in a FLOAT bank. -/
def emptyElem (float : Bool) : Elem := if float then ⟨0x80000000, false, false, false, false⟩ else ⟨0, false, false, false, true⟩
/-- A bank as dispatch leaves it (R171). -/
def bank0 : Bank := ⟨false, 0, false, false, 0, 0, elem0, [], []⟩
def bankOf (x : Agent) (b : Nat) : Bank := mget bank0 x.mx.banks b
def setBank (x : Agent) (b : Nat) (v : Bank) : Agent := { x with mx := { x.mx with banks := mput x.mx.banks b v } }
/-- Element (m, n) has index 128 m + n (R171). -/
def bankElem (bk : Bank) (i : Nat) : Elem := mget bk.bg bk.elems i
/-- Every element zeroed in one of the two ways of R62; the sticky flags are cleared (R62, R187). -/
def zeroBank (empty : Bool) (bk : Bank) : Bank :=
  { bk with inexact := false, sat := false, dflags := 0, bg := if empty then emptyElem bk.float else elem0, elems := [], poison := [] }
/-- MXCFG (R172). -/
def cfgBank (f : BitVec 9) (float : Bool) : Bank := { bank0 with float := float, f := f }

/-! ### Terms and groups -/

/-- One term of a x w times 2^s enters an exact element (R61 steps 1 to 5); s is none where a scale is a NaN. The two Bools gather ACC_INEXACT and
ACC_SAT. -/
def addTerm (f : Int) (s : Option Int) (a w : Num) (r : Elem × Bool × Bool) : Elem × Bool × Bool :=
  let (e, nx, sat) := r
  match s with
  | none => ({ e with nan := true, negz := false }, nx, sat)
  | some s =>
    match (xmul a w).val with
    | .nan _ => ({ e with nan := true, negz := false }, nx, sat)
    | .inf true => ({ e with ninf := true, negz := false }, nx, sat)
    | .inf false => ({ e with pinf := true, negz := false }, nx, sat)
    | .zero true => (e, nx, sat)
    | .zero false => ({ e with negz := false }, nx, sat)
    | .fin n m x =>
      let (k, i) := roundAt 0 n 0 m (x + s) (f - 18)
      let v : Int := e.v.toInt + (if n then -(k : Int) else k)
      let lim := max (-(2 ^ 95)) (min (2 ^ 95 - 1) v)
      ({ e with v := BitVec.ofInt 96 lim, negz := false }, nx || i, sat || lim != v)

/-- One group of products enters a FLOAT element (R65). -/
def addGroup (ps : List Num) (r : Elem × Bool × Bool) : Elem × Bool × Bool :=
  let (e, nx, sat) := r
  let (t, f1) := roundTo fp32 0 false 0 (xsum ps).val
  let (v, f2) := roundTo fp32 0 false 0 (xadd 0 (Num.decode fp32 (e.v.toNat % 2 ^ 32)) (Num.decode fp32 t)).val
  let fl := f1 ||| f2
  ({ e with v := BitVec.ofNat 96 v }, nx || fl &&& fNX != 0, sat || fl &&& fOF != 0)

/-! ### Passes (R175, R176) -/

/-- The operands of a pass beside its weights. -/
structure PassArgs where
  addr   : Nat
  stride : Nat
  mhalf  : Bool
  at'    : BitVec 2
  asc    : Bool
  zf     : Bool
  n      : Nat
deriving DecidableEq, Repr

/-- K, M and element size of weights (R174). -/
def wbufK (w : WBuf) : Nat := 16 * (w.kq.toNat + 1)
def wbufM (w : WBuf) : Nat := if w.wt = 2 then 64 else 128
def wbufSize (w : WBuf) : Nat := if w.wt = 2 then 2 else 1
/-- Bytes of weights and scales in LS (R174). -/
def wbufBytes (w : WBuf) : Nat := wbufK w * wbufM w * wbufSize w + (if w.sc = 1 then wbufM w * wbufK w / 32 else 0)

/-- The format of WT and AT. -/
def mxFmt (t : Nat) : Fmt := match t with | 0 => e4m3 | 1 => e5m2 | _ => bf16

/-- W[k][m]. -/
def weightAt (w : WBuf) (k m : Nat) : Num :=
  let a := (k * wbufM w + m) * wbufSize w
  Num.decode (mxFmt w.wt.toNat) ((mget 0 w.data a).toNat + (if w.wt = 2 then 256 * (mget 0 w.data (a + 1)).toNat else 0))

/-- Scale[m][g], as an exponent; 0 without scales, none for a NaN. -/
def weightScale (w : WBuf) (m g : Nat) : Option Int :=
  if w.sc = 1 then scaleExp (mget 0 w.data (wbufK w * wbufM w + m * (wbufK w / 32) + g)).toNat else some 0

/-- Element size of AT. -/
def actSize (at' : BitVec 2) : Nat := if at' = 2 then 2 else 1
/-- Bytes of one token. -/
def tokenBytes (w : WBuf) (o : PassArgs) : Nat := wbufK w * actSize o.at' + (if o.asc then wbufK w / 32 else 0)

/-- The fault of a pass when it executes, as the CODE of R170 (R174, R175): 5 MODE, 3 OPERAND. -/
def passFault (bk : Bank) (w : Option WBuf) (o : PassArgs) : Option Nat :=
  match w with
  | none => some 3
  | some w =>
    let fp8 := w.wt != 2
    if (o.at' != 2) != fp8 ∨ bk.float == fp8 then some 5
    else if (o.asc ∧ wbufK w % 32 ≠ 0) ∨ o.addr % actSize o.at' ≠ 0 ∨ o.stride % actSize o.at' ≠ 0 ∨ o.stride < tokenBytes w o ∨
      lsBytes < o.addr + (o.n - 1) * o.stride + tokenBytes w o then some 3
    else none

/-- Activation k of the token at address row. -/
def actAt (m : Memory) (p : Nat) (o : PassArgs) (row k : Nat) : Num :=
  Num.decode (mxFmt o.at'.toNat) (readNat m (keyLs p (row + k * actSize o.at')) (actSize o.at'))

/-- The scale of rows 32g to 32g + 31 of the token at address row. -/
def actScale (m : Memory) (p : Nat) (w : WBuf) (o : PassArgs) (row g : Nat) : Option Int :=
  if o.asc then scaleExp (readNat m (keyLs p (row + wbufK w + g)) 1) else some 0

/-- The sum of two scale exponents (R61). -/
def addScales (a b : Option Int) : Option Int := match a, b with | some x, some y => some (x + y) | _, _ => none

/-- What a pass makes of the element of weight column m and the token at row. -/
def passElem (mem : Memory) (p : Nat) (bk : Bank) (w : WBuf) (o : PassArgs) (row m : Nat) (r : Elem × Bool × Bool) : Elem × Bool × Bool :=
  if bk.float then
    (List.range (wbufK w / 16)).foldl (fun r g =>
      addGroup ((List.range 16).map (fun j => (xmul (actAt mem p o row (16 * g + j)) (weightAt w (16 * g + j) m)).val)) r) r
  else
    (List.range (wbufK w)).foldl (fun r k =>
      addTerm bk.f.toInt (addScales (actScale mem p w o row (k / 32)) (weightScale w m (k / 32))) (actAt mem p o row k) (weightAt w k m) r) r

/-- The elements a pass updates: token, weight column, element index. -/
def passElems (w : WBuf) (o : PassArgs) : List (Nat × Nat × Nat) :=
  (List.range o.n).flatMap (fun n => (List.range (wbufM w)).map (fun m => (n, m, 128 * (if o.mhalf then 64 + m else m) + n)))

/-- The stores of a tile to its own LS that are under way, in their order. -/
def lsStores (s : State) (a : Nat) : List Access :=
  (s.net.reqs.filter (fun r => r.src == a)).flatMap (fun r => r.todo.filter (fun x => x.op == .write && keyLs a 0 ≤ x.key && x.key < keyLs a lsBytes))

/-- LS as a pass reads it while some stores are under way: each may or may not be there when the pass reads its bytes, as a free choice (10 R279, R282, 13 R317, R319;
log 5, log 6). -/
def passMemory (s : State) (a : Nat) : State × Memory :=
  (lsStores s a).foldl (fun p x =>
    let (b, s) := freshBit p.1
    (s, if b then writeNat p.2 x.key x.n x.a.toNat else p.2)) (s, s.mem)

/-- A pass over a bank (R176), its passes counted for R421. -/
def runPass (mem : Memory) (p : Nat) (bk : Bank) (w : WBuf) (o : PassArgs) : Bank :=
  let bk := if o.zf then zeroBank true bk else bk
  let bk := (passElems w o).foldl (fun b q =>
    let (e, nx, sat) := passElem mem p b w o (o.addr + q.1 * o.stride) q.2.1 (bankElem b q.2.2, b.inexact, b.sat)
    { b with elems := mput b.elems q.2.2 e, inexact := nx, sat := sat }) bk
  { bk with passes := (bk.passes + 1) % 64 }

/-- A poisoned word that the pass would consume: of its activations or of the elements it updates (19 R418). -/
def passPoison (mem : Memory) (p : Nat) (b : Nat) (bk : Bank) (w : WBuf) (o : PassArgs) : Option Nat :=
  let act := (List.range o.n).findSome? (fun n =>
    (mem.poison.find? (fun v => let k := keyLs p (o.addr + n * o.stride); k / 8 ≤ v && v ≤ (k + tokenBytes w o - 1) / 8)).map (8 * ·))
  match act with
  | some k => some k
  | none => if o.zf then none else ((passElems w o).find? (fun q => bk.poison.contains q.2.2)).map (fun q => keyBank p b q.2.2)

/-- Flags, rows and columns of a pending perturbation that the pass meets. -/
def pertMeets (w : WBuf) (o : PassArgs) (t : Pert) : Bool :=
  (let lo := if o.mhalf then 64 else 0; lo ≤ t.m.toNat && t.m.toNat < lo + wbufM w) && t.n.toNat < o.n

/-- A pending perturbation of a bank takes effect (R185, R424): in EXACT mode and in the shadow set of R421 the checks fail and the pass is run again
clean, with a record; otherwise the raw bits change unreported. A pass that does not update the element leaves the perturbation pending (log 113). -/
def applyPert (s : State) (a b : Nat) (tag : Option Tag) (old new : Bank) (w : WBuf) (o : PassArgs) : State × Bank :=
  match mget? (agentAt s a).mx.pert b with
  | none => (s, new)
  | some t =>
    if !pertMeets w o t then (s, new)
    else
      let s := modAgent s a (fun x => { x with mx := { x.mx with pert := mdel x.mx.pert b } })
      let info := BitVec.ofNat 64 (b * 256 + t.n.toNat)
      if !new.float then (postUnit s a 5 0 tag 1 3 0 info 0 0, new)
      else if (t.n.toNat + 64 - old.passes) % 64 = 0 then (postUnit s a 7 0 tag 1 0 0 info 0 0, new)
      else
        let i := 128 * t.m.toNat + t.n.toNat
        let e := bankElem new i
        let v := (e.v.toNat + t.val.toNat) % 2 ^ 32
        (s, { new with elems := mput new.elems i { e with v := BitVec.ofNat 96 v } })

/-- The pass is made on the bank (R176, R185). -/
def makePass (s : State) (a b : Nat) (tag : Option Tag) (w : WBuf) (o : PassArgs) : State :=
  let (s, mem) := passMemory s a
  let old := bankOf (agentAt s a) b
  let (s, new) := applyPert s a b tag old (runPass mem a old w o) w o
  modAgent s a (fun x => setBank x b new)

/-! ### Drains (R64, R181, R182) -/

/-- Bytes of an element of FMT. -/
def drainSize (fmt : Nat) : Nat := match fmt with | 0 => 4 | 1 => 2 | 2 => 2 | 3 => 1 | 4 => 1 | _ => 16
/-- The format of FMT. -/
def drainFmt (fmt : Nat) : Fmt := match fmt with | 0 => fp32 | 1 => bf16 | 2 => fp16 | 3 => e4m3 | _ => e5m2

/-- Fields of the drain control word (R181). -/
def dcFmt (c : Word) : Nat := (c.extractLsb' 0 3).toNat
def dcRm (c : Word) : Nat := (c.extractLsb' 3 3).toNat
def dcSat (c : Word) : Bool := c.getLsbD 6
def dcZafter (c : Word) : Bool := c.getLsbD 7
def dcRow0 (c : Word) : Nat := (c.extractLsb' 8 7).toNat
def dcRows (c : Word) : Nat := (c.extractLsb' 16 7).toNat + 1
def dcCols (c : Word) : Nat := (c.extractLsb' 24 7).toNat + 1
def dcOscale (c : Word) : Nat := (c.extractLsb' 32 8).toNat

/-- The push checks of a drain (R181). -/
def drainBad (ctl : Word) (addr stride : Nat) : Bool :=
  let sz := drainSize (dcFmt ctl)
  ctl.extractLsb' 40 24 != 0 || ctl.getLsbD 31 || ctl.getLsbD 23 || ctl.getLsbD 15 || dcOscale ctl == 255 || dcRm ctl == 7 || 5 < dcFmt ctl ||
    128 < dcRow0 ctl + dcRows ctl || (dcFmt ctl == 5 && (dcOscale ctl != 127 || dcRm ctl != 0 || dcSat ctl)) ||
    addr % sz != 0 || stride % sz != 0 || stride < dcRows ctl * sz || lsBytes < addr + (dcCols ctl - 1) * stride + dcRows ctl * sz

/-- The exact value of an element times 2^(127 - OSCALE) (R64, R182). -/
def drainNum (bk : Bank) (e : Elem) (osc : Nat) : Num :=
  let sh : Int := 127 - (osc : Int)
  if bk.float then (Num.decode fp32 (e.v.toNat % 2 ^ 32)).scale sh
  else if e.nan || (e.pinf && e.ninf) then .nan false
  else if e.pinf then .inf false
  else if e.ninf then .inf true
  else Num.ofInt e.negz e.v.toInt (bk.f.toInt - 18 + sh)

/-- The 16 bytes of RAW (R182), as a number. -/
def drainRaw (bk : Bank) (e : Elem) : Nat :=
  if bk.float then e.v.toNat % 2 ^ 32
  else
    let b := fun (x : Bool) (k : Nat) => if x then 2 ^ k else 0
    e.v.toNat + (b e.nan 0 + b e.pinf 1 + b e.ninf 2 + b e.negz 3) * 2 ^ 96 + residueOf e.v.toInt * 2 ^ 104

/-- An element as a drain writes it: the number of its bytes, and its flags (R182, R56). -/
def drainElem (bk : Bank) (e : Elem) (ctl : Word) (rm draw : Nat) : Nat × BitVec 5 :=
  if dcFmt ctl = 5 then (drainRaw bk e, 0)
  else
    let x := drainNum bk e (dcOscale ctl)
    let (r, fl) := roundTo (drainFmt (dcFmt ctl)) rm (dcSat ctl) draw x
    (r, fl ||| nvIf x.snan)

/-- The elements of a drain in row-major order, as (index in the bank, address): R182. -/
def drainElems (ctl : Word) (addr stride : Nat) : List (Nat × Nat) :=
  (List.range (dcRows ctl)).flatMap (fun r => (List.range (dcCols ctl)).map (fun n =>
    (128 * (dcRow0 ctl + r) + n, addr + n * stride + r * drainSize (dcFmt ctl))))

/-- Some elements drained: bytes by address, flags, the generator afterwards; the last part says which elements are poisoned. -/
def drainSome (bk : Bank) (ctl : Word) (rm : Nat) : List (Nat × Nat) → Word → List (Nat × Nat × Bool) × BitVec 5 × Word
  | [], seed => ([], 0, seed)
  | (i, a) :: rest, seed =>
    let seed := if rm = 5 ∧ dcFmt ctl ≠ 5 then srdNext seed else seed
    let (v, fl) := drainElem bk (bankElem bk i) ctl rm (srdBits seed)
    let (l, f2, seed) := drainSome bk ctl rm rest seed
    ((a, v, bk.poison.contains i) :: l, fl ||| f2, seed)

/-- Drained elements written to LS; the mark of a poisoned element moves with it (19 R417). -/
def putDrained (m : Memory) (p size : Nat) (l : List (Nat × Nat × Bool)) : Memory :=
  l.foldl (fun m q =>
    let m := writeNat m (keyLs p q.1) size q.2.1
    if q.2.2 then (List.range ((size + 7) / 8)).foldl (fun m j => markPoison m (keyLs p (q.1 + 8 * j))) m else m) m

/-! ### The runs of the MXE -/

def modMx (s : State) (a : Nat) (f : Mxe → Mxe) : State := modAgent s a (fun x => { x with mx := f x.mx })

/-- The first run for which f holds, changed. -/
def modFirst {α : Type} (f : α → Bool) (g : α → α) : List α → List α
  | [] => []
  | x :: t => if f x then g x :: t else x :: modFirst f g t

/-- The first run for which f holds, removed. -/
def dropRun (f : MxRun → Bool) (s : State) (a : Nat) : State := modMx s a (fun m => { m with runs := m.runs.eraseP f })

/-- The run occupies the array or drains. -/
def runBusy (r : MxRun) : Bool := r.phase == .ramping || r.phase == .running
/-- The command is a pass. -/
def MxOp.isPass : MxOp → Bool
  | .pass .. => true
  | _ => false

/-- The operands of a pass command. -/
def passArgs : MxOp → PassArgs
  | .pass addr stride mhalf at' asc zf nm1 _ _ => ⟨addr.toNat, stride.toNat, mhalf = 1, at', asc = 1, zf = 1, nm1.toNat + 1⟩
  | _ => ⟨0, 0, false, 0, false, false, 0⟩
/-- The bank a command names. -/
def opBank : MxOp → Nat
  | .cfg _ _ b => b.toNat
  | .zero b => b.toNat
  | .pass _ _ _ _ _ _ _ _ b => b.toNat
  | .drain _ _ _ b _ _ _ => b.toNat
  | .pert b _ _ _ => b.toNat
  | _ => 0
/-- The buffer a pass command names. -/
def opBuf : MxOp → Nat
  | .pass _ _ _ _ _ _ _ b _ => b.toNat
  | _ => 0

/-- A strand's tag. -/
def tagOf (s : State) (a k : Nat) : Option Tag := (strandAt s a k).tag

/-- The weights a run reads: its buffer's, or its block's. -/
def runWeights (x : Agent) (r : MxRun) : Option WBuf :=
  match r.fired with
  | none => mget? x.mx.wbufs (opBuf r.cmd.op)
  | some f => (mget? x.rx.slots f.rslot).map slotWeights

/-- The current of the array follows when nothing holds it WARM (R183). -/
def coolDown (s : State) (a : Nat) : State :=
  modMx s a (fun m => if m.arr = .warm ∧ m.decl = 0 ∧ ¬ m.runs.any (fun r => (runBusy r || r.phase == .waiting) && r.cmd.op.isPass) ∧
    ¬ (agentAt s a).rx.chain.any (fun c => c.inv.any (·.ramp)) then { m with arr := .rampDown } else m)

/-- Fields of the trigger word and the descriptor (R178, R179). -/
def twGroup (w : Word) : Nat := (w.extractLsb' 0 8).toNat
def twTag (w : Word) : Nat := (w.extractLsb' 8 16).toNat
def twNext (w : Word) : Bool := w.getLsbD 24
def twBank (w : Word) : BitVec 2 := w.extractLsb' 25 2
def twZfirst (w : Word) : Bool := w.getLsbD 27
def twRelease (w : Word) : Bool := w.getLsbD 28
def twReport (w : Word) : Bool := w.getLsbD 30

/-- The pass of a descriptor with a bank and ZFIRST (R179, R180). -/
def descPass (d : Word) (zf : Bool) (bank : BitVec 2) : MxOp :=
  .pass (d.extractLsb' 0 22 |>.setWidth 64) (d.extractLsb' 22 16 |>.setWidth 64) (d.extractLsb' 48 1) (d.extractLsb' 45 2) (d.extractLsb' 47 1)
    (if zf then 1 else 0) (d.extractLsb' 38 7) 0 bank

/-- The pass that an armed trigger fires. -/
def trigPass (t : Trigger) : MxOp := descPass t.desc (twZfirst t.word) (twBank t.word)

/-- The block of a fired pass is no longer read: it is released, or an ordinary arrival, or the chain's that took it meanwhile (08 R251, 07 R227, 11 R293). -/
def leaveBlock (release : Bool) (f : Fired) (x : Agent) : Agent :=
  if (mget? x.rx.slots f.rslot).any (fun sl => sl.use == .chain) then modSlot x f.rslot (fun sl => { sl with reading := false })
  else if release || (mget? x.rx.slots f.rslot).any (·.freeAfter) then creditRelease (freeSlot x f.rslot) f.group f.seq false
  else pushHeader (modSlot x f.rslot (fun sl => { sl with reading := false })) f.rslot

/-- What a fired pass does when it stops on a fault: the slot that fired it disarms, and its block is an ordinary arrival (R180, log 14). -/
def unfire (s : State) (a : Nat) (r : MxRun) (f : Fired) : State :=
  let s := modMx s a (fun m =>
    if (mget? m.trig f.slot).any (fun t => t.strand == r.cmd.strand && trigPass t == r.cmd.op) then { m with trig := mdel m.trig f.slot } else m)
  modAgent s a (leaveBlock false f)

/-- The number FN or the trigger slot of a run's faults, and ENG (R169). -/
def runFn (r : MxRun) : Nat × Nat := match r.fired with | none => (3, 0) | some f => (f.slot, 2)

/-- A run ends without its effect: a pushed one waits for its completion, a fired one is gone. -/
def endRun (s : State) (a : Nat) (r : MxRun) : State :=
  match r.fired with
  | none => modMx s a (fun m => { m with runs := modFirst (· == r) (fun r => { r with phase := .finished }) m.runs })
  | some f => dropRun (· == r) (unfire s a r f) a

/-- A pass begins: its faults are posted, poison is consumed, or its effect is made and it occupies the array (R175 to R177, R183, R184, 19 R418). -/
def beginPass (s : State) (a : Nat) (r : MxRun) : State :=
  let x := agentAt s a
  let o := passArgs r.cmd.op
  let b := opBank r.cmd.op
  let w := runWeights x r
  let (fn, eng) := runFn r
  match w, passFault (bankOf x b) w o with
  | some w, none =>
    match passPoison s.mem a b (bankOf x b) w o with
    | some k => endRun (poisonCommand s a r.cmd.strand 1 k fn) a r
    | none =>
      let s := makePass s a b (tagOf s a r.cmd.strand) w o
      modMx s a (fun m => { m with runs := modFirst (· == r) (fun r => { r with phase := .running }) m.runs })
  | _, c => endRun (postEngine s a r.cmd.strand (engineInfo 0 fn eng 0 (c.getD 3)) 0) a r

/-- A pass reaches the array: it begins in a WARM array, and waits for the ramp-up otherwise (R183). The faults of R175 are found first. -/
def servePass (s : State) (a : Nat) (r : MxRun) : State :=
  let x := agentAt s a
  match passFault (bankOf x (opBank r.cmd.op)) (runWeights x r) (passArgs r.cmd.op) with
  | some _ => beginPass s a r
  | none =>
    let s := modMx s a (fun m => { m with decl := m.decl - 1 })
    if x.mx.arr = .warm then beginPass s a r
    else modMx s a (fun m => { m with arr := .rampUp, runs := modFirst (· == r) (fun r => { r with phase := .ramping }) m.runs })

/-- A served command takes effect (R172 to R185). -/
def serveCmd (s : State) (a : Nat) (c : MxCmd) : State :=
  let done : MxRun := ⟨c, none, .finished, 0, 0, 0⟩
  let add := fun (s : State) (r : MxRun) => modMx s a (fun m => { m with runs := m.runs ++ [r] })
  match c.op with
  | .cfg f mode b => add (modAgent s a (fun x => setBank x b.toNat (cfgBank f (mode = 1)))) done
  | .zero b => add (modAgent s a (fun x => setBank x b.toNat (zeroBank false (bankOf x b.toNat)))) done
  | .ldw addr sc kq wt buf =>
    let w : WBuf := ⟨wt, kq, sc, []⟩
    let n := wbufBytes w
    if poisoned s.mem (keyLs a addr.toNat) n then
      add (poisonCommand s a c.strand 1 (keyLs a addr.toNat) 2) done
    else
      let data := (readBytes s.mem (keyLs a addr.toNat) n).zipIdx.map (fun p => (p.2, p.1))
      add (modMx s a (fun m => { m with wbufs := mput m.wbufs buf.toNat { w with data := data } })) done
  | .pass .. => let r : MxRun := { done with phase := .ramping }; servePass (add s r) a r
  | .arm slot word desc => add (modMx s a (fun m => { m with trig := mput m.trig slot.toNat ⟨word, desc, (word.extractLsb' 32 16).toNat, c.strand⟩ })) done
  | .disarm slot => add (modMx s a (fun m => { m with trig := mdel m.trig slot.toNat })) done
  | .drain _ _ _ _ _ seed _ => add s { done with phase := .running, seed := seed }
  | .ramp n =>
    let s := modMx s a (fun m => { m with decl := n.toNat, arr := if n ≠ 0 ∧ (m.arr = .cold ∨ m.arr = .rampDown) then .rampUp else m.arr })
    coolDown (add s done) a
  | .pert b m n val => add (modMx s a (fun x => { x with pert := mput x.pert b.toNat ⟨m, n, val⟩ })) done

/-- The MXE of a tile can serve its strand queues: it is idle, no fired pass is waiting, and no chain owns it (01 R36, 06 R171). -/
def mxFree (x : Agent) : Bool :=
  !x.stopped && x.rx.chain.isNone && !x.mx.runs.any (fun r => runBusy r || r.phase == .waiting)

/-- The next strand after the one served last whose queue is not empty (01 R36). -/
def nextQueue (last : Nat) (f : Nat → Bool) : Option Nat := ((List.range 8).map (fun i => (last + 1 + i) % 8)).find? f

/-- The MXE serves its queues as far as it can (01 R36). Each strand has at most two commands waiting; one whose push has not released its stores yet holds the MXE. -/
def serveMxe : Nat → State → Nat → State
  | 0, s, _ => s
  | n + 1, s, a =>
    let x := agentAt s a
    if !mxFree x then s
    else
      match nextQueue x.mx.last (fun k => (strandOf x k).eng.mxq != []) with
      | none => s
      | some k =>
        match (strandOf x k).eng.mxq with
        | [] => s
        | c :: rest =>
          if !storesDone s a k c.no then s
          else
          let s := modStrand s a k (fun t => { t with eng := { t.eng with mxq := rest } })
          serveMxe n (serveCmd (modMx s a (fun m => { m with last := k })) a c) a

/-- The MXE looks for work. -/
def kickMxe (s : State) (a : Nat) : State := serveMxe 16 s a

/-! ### Triggers (R180) -/

/-- The push checks of MXARM and of the descriptors of a chain (R179, 11 R301): k is the depth that the extent is checked for. -/
def descBad (d : Word) (k : Nat) : Bool :=
  let at' := d.extractLsb' 45 2
  let asc := d.getLsbD 47
  let sz := actSize at'
  let base := (d.extractLsb' 0 22).toNat
  let stride := (d.extractLsb' 22 16).toNat
  let n := (d.extractLsb' 38 7).toNat + 1
  d.extractLsb' 49 15 != 0 || at' == 3 || (d.getLsbD 48 && at' != 2) || (asc && at' == 2) || base % sz != 0 || stride % sz != 0 ||
    lsBytes < base + (n - 1) * stride + k * sz + (if asc then k / 32 else 0)

/-- A trigger that a block matches. -/
def trigMatches (sl : Slot) (t : Trigger) : Bool := twGroup t.word == sl.group && (twNext t.word || twTag t.word == hTag sl.hdr)

/-- A landed block is offered to the armed slots in ascending order; the first match fires one pass (R180, 08 R244, R251). Tells whether it fired. -/
def offerBlock (s : State) (a i : Nat) : State × Bool :=
  let x := agentAt s a
  match mget? x.rx.slots i with
  | none => (s, false)
  | some sl =>
    if sl.faulted || !carriesWeights sl.hdr then (s, false)
    else
      match x.mx.trig.find? (fun p => trigMatches sl p.2) with
      | none => (s, false)
      | some (j, t) =>
        let f : Fired := ⟨j, t.word, t.desc, i, sl.group, sl.seq, BitVec.ofNat 16 (hTag sl.hdr), twReport t.word, twRelease t.word⟩
        let r : MxRun := ⟨⟨trigPass t, t.strand, 0⟩, some f, .waiting, 0, 0, 0⟩
        let s := modMx s a (fun m => { m with
          runs := m.runs ++ [r]
          trig := if t.left = 1 then mdel m.trig j else mput m.trig j { t with left := t.left - 1 } })
        (modAgent s a (fun x => modSlot x i (fun sl => { sl with use := if f.release then .trigger else .ordinary, reading := true })), true)

/-! ### Steps of the MXE -/

/-- The element of a fired pass with REPORT (07 R210). -/
def reportElem (f : Fired) : Word := BitVec.ofNat 64 (2 ^ 48 + f.slot * 2 ^ 45 + f.btag.toNat * 2 ^ 24 + f.seq % seqMod)

/-- An element in strand k's matrix completion queue. -/
def pushMcq (s : State) (a k : Nat) (w : Word) : State := modStrand s a k (fun t => { t with eng := { t.eng with mcq := t.eng.mcq ++ [⟨w, none⟩] } })
/-- The matrix completion queue of strand k has room. -/
def mcqRoom (s : State) (a k : Nat) : Bool := (strandAt s a k).eng.mcq.length < completionCap

/-- The fired pass next to serve: none while the array is occupied or an invocation of a chain is in progress (R171, 11 R297). -/
def nextFired (x : Agent) : Option MxRun :=
  if x.stopped || x.mx.runs.any runBusy || x.rx.chain.any (fun c => c.inv.isSome) then none
  else x.mx.runs.find? (fun r => r.phase == .waiting)

/-- TRIGGERED_PASS: the MXE takes the oldest arrival that fired a trigger (R171, R180). -/
def execTriggeredPass (agent : Nat) (s : State) : Host.Outcome State Fault Refusal :=
  match nextFired (agentAt s agent) with
  | none => .next s
  | some r => .next (kickMxe (servePass s agent r) agent)

/-- RAMP_UP_END: the array is WARM, and the pass that waited begins (R183). -/
def execRampUpEnd (agent : Nat) (s : State) : Host.Outcome State Fault Refusal :=
  let x := agentAt s agent
  if x.mx.arr ≠ .rampUp then .next s
  else
    let s := modMx s agent (fun m => { m with arr := .warm })
    match x.mx.runs.find? (fun r => r.phase == .ramping) with
    | some r => .next (kickMxe (beginPass s agent r) agent)
    | none => .next (coolDown s agent)

/-- RAMP_DOWN_END: the array is COLD (R183). -/
def execRampDownEnd (agent : Nat) (s : State) : Host.Outcome State Fault Refusal :=
  .next (modMx s agent (fun m => if m.arr = .rampDown then { m with arr := .cold } else m))

/-- RAMP_GAP_EXPIRY: a gap of more than 256 tc ends a declaration (R183). -/
def execRampGapExpiry (agent : Nat) (s : State) : Host.Outcome State Fault Refusal :=
  let x := agentAt s agent
  if x.mx.arr = .warm ∧ x.mx.decl ≠ 0 ∧ ¬ x.mx.runs.any (fun r => runBusy r && r.cmd.op.isPass) then
    .next (modMx s agent (fun m => { m with decl := 0, arr := .rampDown }))
  else .next s

/-- PASS_END: the pass leaves the array and the next may start; its elements do not hold their results yet (R177, R183). -/
def execPassEnd (agent : Nat) (s : State) : Host.Outcome State Fault Refusal :=
  match (agentAt s agent).mx.runs.find? (fun r => r.phase == .running && r.cmd.op.isPass) with
  | none => .next s
  | some r =>
    let s := modMx s agent (fun m => { m with runs := modFirst (· == r) (fun r => { r with phase := .holding }) m.runs })
    let s := match r.fired with | some f => modAgent s agent (leaveBlock f.release f) | none => s
    let s := match nextFired (agentAt s agent) with | some f => servePass s agent f | none => s
    .next (coolDown (kickMxe s agent) agent)

/-- PASS_RESULT_HELD: every element of the oldest pass out of the array holds its result (R177). A fired pass with REPORT waits for room in the queue. -/
def execPassResultHeld (agent run : Nat) (s : State) : Host.Outcome State Fault Refusal :=
  match ((agentAt s agent).mx.runs.filter (fun r => r.phase == .holding))[run]? with
  | none => .next s
  | some r =>
    match r.fired with
    | none => .next (modMx s agent (fun m => { m with runs := modFirst (· == r) (fun r => { r with phase := .finished }) m.runs }))
    | some f =>
      if f.report && !mcqRoom s agent r.cmd.strand then .next s
      else
        let s := if f.report then pushMcq s agent r.cmd.strand (reportElem f) else s
        .next (dropRun (· == r) s agent)

/-- A drain may read its bank: every earlier pass on it holds its result (R182). -/
def drainReady (x : Agent) (r : MxRun) : Bool :=
  !(x.mx.runs.takeWhile (· != r)).any (fun q => q.phase == .holding && opBank q.cmd.op == opBank r.cmd.op)

/-- The drain in progress that can make a step. -/
def drainRun (x : Agent) : Option MxRun :=
  match x.mx.runs.find? (fun r => r.phase == .running && r.cmd.op.isDrain) with
  | some r => if drainReady x r then some r else none
  | none => none

/-- The drain makes its next step of 64 elements (R182): elements are written, flags go to the bank, the barrier is updated; after the last, ZAFTER. -/
def drainOne (s : State) (a : Nat) (r : MxRun) : State :=
  match r.cmd.op with
  | .drain addr stride ctl bank rm _ dn =>
    let x := agentAt s a
    let bk := bankOf x bank.toNat
    let all := drainElems ctl addr.toNat stride.toNat
    let now := (all.drop r.pos).take 64
    let (out, fl, seed) := drainSome bk ctl rm.toNat now r.seed
    let size := drainSize (dcFmt ctl)
    let s := setMem s (putDrained s.mem a size out)
    let s := modAgent s a (fun x => setBank x bank.toNat { bk with dflags := bk.dflags ||| fl })
    let last := all.length ≤ r.pos + 64
    let set := fun (s : State) (p : RunPhase) => modMx s a (fun m => { m with
      runs := modFirst (· == r) (fun r => { r with phase := p, pos := r.pos + now.length, flags := r.flags ||| fl, seed := seed }) m.runs })
    let stop := fun (s : State) => modMx s a (fun m => { m with runs := modFirst (· == r) (fun r => { r with phase := .finished }) m.runs })
    let go := fun (s : State) =>
      let s := set s (if last then .finished else .running)
      if last && dcZafter ctl then modAgent s a (fun x => setBank x bank.toNat (zeroBank false (bankOf x bank.toNat))) else s
    match dn.bar with
    | none => go s
    | some w =>
      match engineBar s a (tagOf s a r.cmd.strand) w false (-((now.length * size : Nat) : Int)) with
      | (s, .made) => go s
      | (s, .failed sub) => stop (postEngine s a r.cmd.strand (engineInfo sub 6 0 dn.tag.toNat 4) w)
      | (s, .poisoned k) => stop (poisonCommand s a r.cmd.strand 1 k 6)
  | _ => s

/-- DRAIN_STEP (R182). -/
def execDrainStep (agent : Nat) (s : State) : Host.Outcome State Fault Refusal :=
  match drainRun (agentAt s agent) with
  | none => .next s
  | some r => .next (kickMxe (drainOne s agent r) agent)

/-- The completion element of a drain, when it has made its last step (07 R210); one that stopped on a fault pushes none (R168). -/
def drainElement (r : MxRun) : Option Word :=
  match r.cmd.op with
  | .drain addr stride ctl _ _ _ dn =>
    if dn.q && (drainElems ctl addr.toNat stride.toNat).length ≤ r.pos then some (BitVec.ofNat 64 (dn.tag.toNat * 2 ^ 52 + r.flags.toNat * 2 ^ 40)) else none
  | _ => none

/-- The oldest of a strand's MXE commands, when it can complete: done, with room for its element (R166, R167). -/
def mxCompletable (s : State) (a k : Nat) : Option MxRun :=
  match (agentAt s a).mx.runs.find? (fun r => r.fired.isNone && r.cmd.strand == k) with
  | none => none
  | some r => if r.phase = .finished ∧ (drainElement r = none ∨ mcqRoom s a k) then some r else none

/-- The MXE command of a strand completes: its element is pushed, and a DRAINING strand may become INACTIVE (R167, 01 R37). -/
def completeMx (s : State) (a k : Nat) : State :=
  match mxCompletable s a k with
  | none => s
  | some r =>
    let s := match drainElement r with | some w => pushMcq s a k w | none => s
    settle (dropRun (· == r) s a) a k

end Sys2Proof.Machine
end

