-- ==== Sys2Proof/Machine/Network.lean ====
section
/-!
DEFINITION. Ports, mesh messages, bulk-synchronous domains and spawned strands: MAJ 0xA0 and 0xA3 (07 R204 to R217, R230 to R233), and the mesh's own steps: messages
landing, phases released, names walked, requests at their homes and responses (07 R214 to R216, 09 R254, 14 R342 to R345, 15 R353).
-/

namespace Sys2Proof.Machine

/-! ### Ports: MAJ 0xA0 -/

/-- QUEUE_UNBOUND of a target out of its range (R206). -/
def badTarget {α : Type} (n : Nat) : Exec α := trapPc cQUEUE (BitVec.ofNat 64 (16 + n * 2))

/-- The targets that a kind takes (R206). -/
def targetLimit (kind : Nat) : Nat := match kind with | 1 => 16 | 2 => 2 ^ 14 | 3 => 4 | _ => 512

/-- Another port bound to the same channel or result queue becomes unbound (R207). -/
def unbindOthers (b : Binding) (x : Agent) : Agent :=
  if b.kind = 1 ∨ b.kind = 3 then
    { x with strands := x.strands.map (fun p => (p.1, { p.2 with qb := p.2.qb.filter (fun q => q.2 != b) })) }
  else x

/-- QBIND (R206, R207). -/
def execQbind (g : Guard) (a : Reg) (kind : BitVec 4) (n : BitVec 3) (s : State) : Host.Outcome State Fault Refusal :=
  runWord s (scalar g [] (do
    let targeted := 1 ≤ kind.toNat && kind.toNat ≤ 4
    let v ← if targeted then readReg a else pure 0
    if targeted && targetLimit kind.toNat ≤ v.toNat then badTarget n.toNat
    let b : Binding := ⟨kind, v.setWidth 16⟩
    modS (fun s => modCurAgent s (fun x =>
      let x := unbindOthers b x
      let x := if kind = 1 then { x with ni := { x.ni with chans := mmod chan0 x.ni.chans v.toNat (fun c => { c with ovf := false }) } } else x
      let t := strandOf x s.env.strand
      { x with strands := mput x.strands s.env.strand { t with qb := if kind = 0 then mdel t.qb n.toNat else mput t.qb n.toNat b } }))
    return .next))

/-- COUNT of QSTAT (R208). -/
def portCount (x : Agent) (k : Nat) (b : Binding) : Nat :=
  match b.kind.toNat with
  | 2 => sendRoom x
  | 4 => match callOf x b.target.toNat with | some c => c.len - c.given | none => 0
  | 7 => min headerCap x.ni.whq.length
  | _ => (endpoint x k b).length

/-- QSTAT (R208). -/
def execQstat (g : Guard) (a : Reg) (n : BitVec 3) (s : State) : Host.Outcome State Fault Refusal :=
  runWord s (scalar g [a] (do
    let w ← reads (fun s =>
      let b := bindingOf (cur s) n.toNat
      let ovf := b.kind == 1 && (chanOf (curAgent s) b.target.toNat).ovf
      BitVec.ofNat 64 (b.kind.toNat * 2 ^ 28 + (if ovf then 2 ^ 16 else 0) + portCount (curAgent s) s.env.strand b))
    writeReg a w
    return .next))

/-- Elements in one message: MAXMSG flits, one of them the header, 8 elements to a flit (R214, 09 R255). -/
def elemsPerMsg (s : State) : Nat := 8 * ((maxmsgOf s s.env.agent).toNat % 128 - 1)

/-- The elements an instruction sends, as the strand holds them until they are in the send buffer: index, value, the destination, and in code whether a message ends
with it (R214). -/
def toSend (s : State) (dst : Nat) (elems : List Word) : List Reply :=
  let n := elemsPerMsg s
  elems.zipIdx.map (fun p => ⟨p.2, p.1, false, if (p.2 + 1) % n = 0 ∨ p.2 + 1 = elems.length then 1 else 0, dst⟩)

/-- An element as it enters the send buffer. -/
def sendEl (o : SendOp) (s : State) (r : Reply) : SendEl :=
  ⟨newMsg r.key o.ch (o.bsp = 1) o.lvl (if o.rel = 1 then some o.scope else none) s, r.val, r.code == 1⟩

/-- Elements are placed as room appears; the strand is WAITING until the last is in the buffer (R213). -/
def placeElems (o : SendOp) (l : List Reply) : Exec Ctl := do
  let n ← reads (fun s => sendRoom (curAgent s))
  let put := fun (s : State) => bufferEls ((l.take n).map (sendEl o s)) s
  if l.length ≤ n then
    modS put
    return .next
  else if n = 0 then waitFor .sink
  else waitWith .sink (fun s => modCur (put s) (fun t => { t with reply := some (l.drop n) }))

/-- The send of R212 to R217: a release first with REL, then the elements. -/
def sendElems (dst : Nat) (o : SendOp) (elems : List Word) : Exec Ctl := do
  releaseIf (o.rel = 1) o.scope
  placeElems o (toSend (← getS) dst elems)

/-- The words of a SND, read from the own LS in program order; a poisoned one traps (R213, 19 R418). -/
def sendWords (gb : Word) (n : Nat) : Exec (List Word) := do
  let key := keyLs (← getS).env.agent gb.toNat
  behindSbar
  homeReady key
  let s ← getS
  match (List.range n).find? (fun i => poisonedAt s.mem (key + 8 * i)) with
  | some i => notPoisoned (gb + BitVec.ofNat 64 (8 * i)) 2 ⟨0, 0, true, 0, key + 8 * i⟩
  | none => pure ()
  return (List.range n).map (fun i => readWord s.mem (key + 8 * i))

/-- SND (R212, R213). -/
def execSnd (g : Guard) (a b : Reg) (o : SendOp) (s : State) : Host.Outcome State Fault Refusal :=
  runWord s (scalar g [] (do
    let name ← readReg a
    let gb ← readReg b
    match (cur (← getS)).reply with
    | some l => placeElems o l
    | none =>
      let n := o.count.toNat
      if gb.toNat % 8 ≠ 0 then trapAt cMISALIGN gb 8
      if lsBytes < gb.toNat + 8 * n then trapAt cLOAD gb 1
      let p ← destTile name
      sendElems p o (← sendWords gb n)))

/-- SNDV (R212, R213). -/
def execSndv (g : Guard) (a : Reg) (vb : VReg) (o : SendOp) (s : State) : Host.Outcome State Fault Refusal :=
  runWord s (scalar g [] (do
    let name ← readReg a
    match (cur (← getS)).reply with
    | some l => placeElems o l
    | none =>
      let p ← destTile name
      let l ← reads (fun s => vregOf (cur s) vb)
      sendElems p o ((List.range o.count.toNat).map (fun i => l.extractLsb' (64 * i) 64))))

/-- The NI moves its oldest buffered element into the message it belongs to: the one that its strand is sending, or a new one (R213, R214). -/
def drainSend (s : State) (a : Nat) : State :=
  match (agentAt s a).ni.sbuf with
  | [] => s
  | e :: rest =>
    let s := modAgent s a (fun x => { x with ni := { x.ni with sbuf := rest } })
    let add := fun (m : Msg) => { m with elems := m.elems ++ [e.elem], whole := e.last }
    let mine := fun (m : Msg) => m.src == a && m.strand == e.msg.strand && !m.whole
    { s with net := { s.net with msgs := if s.net.msgs.any mine then modFirst mine add s.net.msgs else s.net.msgs ++ [add e.msg] } }

/-! ### Messages (R214 to R216) -/

/-- The task a tile runs. -/
def taskOf (s : State) (a : Nat) : Option Task := match (agentAt s a).task with | some i => taskAt s i | none => none

/-- The rectangle of a domain word holds a name (14 R342). -/
def domHas (d : Word) (n : Nat) : Bool :=
  let o := (d.extractLsb' 20 14).toNat
  o % 128 ≤ n % 128 && n % 128 ≤ o % 128 + (d.extractLsb' 41 7).toNat && o / 128 ≤ n / 128 && n / 128 ≤ o / 128 + (d.extractLsb' 34 7).toNat

/-- DOM of a level. -/
def domOf (t : Strand) (l : Nat) : Word := mget 0 t.dom l
/-- A member of its level-L domain (R342). -/
def isMember (t : Strand) (l : Nat) : Bool := (domOf t l).getLsbD 55

/-- What becomes of a message at its destination. -/
inductive Fate where
  | drop
  | hold
  | land (x : Agent)

/-- The fate of a message (R214 to R216, 15 R353). -/
def msgFate (s : State) (m : Msg) : Fate :=
  if staleAt s m.dst (some m.tag) then .drop
  else
    match taskOf s m.dst with
    | none => .drop
    | some t =>
      if t.tag ≠ m.tag then .drop
      else if t.st = .prefetch ∨ t.st = .placing then .hold
      else
        let x := agentAt s m.dst
        let c := chanOf x m.ch.toNat
        let es := m.elems.zipIdx.map (fun p => (⟨p.1, if p.2 = 0 then m.acq else none⟩ : QElem))
        let put := fun (c : Channel) => Fate.land { x with ni := { x.ni with chans := mput x.ni.chans m.ch.toNat c } }
        if m.bsp then
          let room := chanCap - (c.nxt.length + c.due.length)
          let src := strandAt s m.src m.strand
          let later := m.after && mget false src.arrived m.lvl.toNat && domHas (domOf src m.lvl.toNat) (nameOf s m.dst)
          put { c with nxt := c.nxt ++ (es.take room).map (fun e => ⟨m.lvl, later, e⟩), ovf := c.ovf || room < es.length }
        else if c.due = [] ∧ c.q.length + es.length ≤ chanCap then put { c with q := c.q ++ es }
        else .hold

/-- Message i can be taken: it is whole and at its destination, and no earlier one of its source to that destination is in the mesh (R214, 09 R257). -/
def msgReady (s : State) (i : Nat) : Option Msg :=
  match s.net.msgs[i]? with
  | none => none
  | some m => if !m.whole || m.here != m.dst || (s.net.msgs.take i).any (fun q => q.src == m.src && q.dst == m.dst) then none else some m

/-- MESSAGE_LANDING (R214 to R216). -/
def execMessageLanding (msg : Nat) (s : State) : Host.Outcome State Fault Refusal :=
  match msgReady s msg with
  | none => .next s
  | some m =>
    let gone := { s with net := { s.net with msgs := s.net.msgs.eraseIdx msg } }
    match msgFate s m with
    | .hold => .next s
    | .drop => .next (passFlits gone m.dst 4 m.flitCount)
    | .land x => .next (passFlits (setAgent gone m.dst x) m.dst 4 m.flitCount)

/-- NAME_WALK: a miss of the name cache is filled from the name table (14 R345). -/
def execNameWalk (agent name : Nat) (s : State) : Host.Outcome State Fault Refusal :=
  if (agentAt s agent).ni.nwalks.contains name then
    .next (modAgent s agent (fun x => { x with ni := { x.ni with
      nwalks := x.ni.nwalks.erase name
      names := (⟨name, nameEntry s name⟩ :: x.ni.names.filter (fun e => e.name != name)).take 64 } }))
  else .next s

/-! ### Domains: MAJ 0xA3 (R230, R231) -/

/-- Scope of a level (R230). -/
def levelScope (l : Nat) : Nat := match l with | 0 => 0 | 3 => 3 | _ => 1

/-- The tasks of a context that are members of an L3 phase that opens now (14 R343). -/
def phaseTasks (s : State) (c : Nat) : List Nat :=
  (s.os.tasks.filter (fun t => t.tag.cx.toNat == c && (t.st == .running || t.st == .preempted))).map (·.id)

/-- An L3 phase opens at the first arrival (14 R343, log 18). -/
def openPhase (s : State) (c : Nat) : State :=
  match mget? s.net.l3 c with
  | some _ => s
  | none => { s with net := { s.net with l3 := mput s.net.l3 c (phaseTasks s c) } }

/-- The current strand arrives at its phase at level l. -/
def arrive (l : Nat) (s : State) : State :=
  let s := modCur s (fun t => { t with arrived := mput t.arrived l true })
  if l = 3 then match (cur s).tag with | some t => openPhase s t.cx.toNat | none => s else s

/-- The current strand has an unreleased arrival at level l. -/
def unreleased (s : State) (l : Nat) : Bool := mget false (cur s).arrived l

/-- DARV (R230, R231). -/
def execDarv (g : Guard) (l : BitVec 2) (s : State) : Host.Outcome State Fault Refusal :=
  runWord s (engine g 3 [] (do
    if !isMember (cur (← getS)) l.toNat then return .next
    until' .domain (fun s => !unreleased s l.toNat)
    release (levelScope l.toNat)
    modS (arrive l.toNat)
    return .next))

/-- The strand waits for the release of its arrival; the empty reply says that it does. -/
def awaitRelease : Exec Ctl := waitWith .domain (fun s => modCur s (fun t => { t with reply := some [] }))

/-- DWAIT (R230, R231): without an unreleased arrival it completes at once and acquires nothing. -/
def execDwait (g : Guard) (l : BitVec 2) (s : State) : Host.Outcome State Fault Refusal :=
  runWord s (engine g 3 [] (do
    if !isMember (cur (← getS)) l.toNat then return .next
    if unreleased (← getS) l.toNat then awaitRelease
    else
      if (cur (← getS)).reply.isSome then acquire (levelScope l.toNat)
      return .next))

/-- DSYNC is DARV, then DWAIT (R230): the arrival is made once, and the strand waits for its release. The empty reply says that it has been made. -/
def execDsync (g : Guard) (l : BitVec 2) (s : State) : Host.Outcome State Fault Refusal :=
  runWord s (engine g 3 [] (do
    if !isMember (cur (← getS)) l.toNat then return .next
    until' .domain (fun s => !unreleased s l.toNat)
    if (cur (← getS)).reply.isSome then
      acquire (levelScope l.toNat)
      return .next
    release (levelScope l.toNat)
    waitWith .domain (fun s => modCur (arrive l.toNat s) (fun t => { t with reply := some [] }))))

/-- A strand that has exited counts as arriving at every later phase (R230). -/
def counted (t : Strand) (l : Nat) : Bool := mget false t.arrived l || t.st == .inactive || t.st == .draining || t.st == .failed

/-- The strands of one domain of level l: those of the strand's task in the same rectangle, or at L3 those of the tasks of the open phase (14 R342, R343). -/
def sameDomain (s : State) (t : Strand) (l : Nat) (x : Agent) (u : Strand) : Bool :=
  isMember u l &&
    (if l = 3 then
      match t.tag with
      | some tg => u.tag == some tg && (match u.task with | some i => (mget [] s.net.l3 tg.cx.toNat).contains i | none => false)
      | none => false
    else u.task == t.task && x.task == t.task && (domOf u l).extractLsb' 20 28 == (domOf t l).extractLsb' 20 28)

/-- The members of a domain, as (agent, strand). -/
def members (s : State) (t : Strand) (l : Nat) : List (Nat × Nat) :=
  s.agents.flatMap (fun p => (p.2.strands.filter (fun q => sameDomain s t l p.2 q.2)).map (fun q => (p.1, q.1)))

/-- The messages that have not landed: in the mesh, or in part in a send buffer. -/
def pendingMsgs (s : State) : List Msg := s.net.msgs ++ s.agents.flatMap (fun p => p.2.ni.sbuf.map (·.msg))

/-- A phase of level l can be released for the strand: every member counts as arrived, their BSP messages of the phase have landed, and no tile of theirs is
stopped (R230, R231, 15 R369). At L3 the other wafers must have arrived too. -/
def phaseReady (s : State) (a k l : Nat) (peers : Bool) : Bool :=
  let t := strandAt s a k
  let ms := members s t l
  mget false t.arrived l && ms.contains (a, k) && (l != 3 || peers || (domOf t 3).extractLsb' 14 6 == 0) &&
    ms.all (fun p => counted (strandAt s p.1 p.2) l && !(agentAt s p.1).stopped) &&
    !(pendingMsgs s).any (fun m => m.bsp && m.lvl.toNat == l && !m.after && ms.contains (m.src, m.strand))

/-- A release of level l at a channel: its elements of the level follow, as far as room allows (R216). -/
def releaseChannel (l : Nat) (c : Channel) : Channel :=
  let mine := c.nxt.filter (fun e => e.lvl.toNat == l && !e.later)
  let rest := (c.nxt.filter (fun e => !(e.lvl.toNat == l && !e.later))).map (fun e => if e.lvl.toNat = l then { e with later := false } else e)
  admitDue { c with nxt := rest, due := c.due ++ mine.map (·.elem) }

/-- A message of a member sent after its arrival belongs to the phase that opens now (R231). -/
def openMsg (level : Nat) (ms : List (Nat × Nat)) (m : Msg) : Msg :=
  if m.lvl.toNat = level ∧ ms.contains (m.src, m.strand) then { m with after := false } else m

/-- The phase of level l of a strand's domain is released at every member (R230, R216). -/
def releasePhase (s : State) (agent strand level : Nat) : State :=
  let t := strandAt s agent strand
  let ms := members s t level
  let s := mapAgents s (fun a x =>
    if ms.any (fun p => p.1 == a) then
      { x with
        ni := { x.ni with
          chans := x.ni.chans.map (fun p => (p.1, releaseChannel level p.2))
          sbuf := x.ni.sbuf.map (fun e => { e with msg := openMsg level ms e.msg }) }
        strands := x.strands.map (fun p => (p.1, if ms.contains (a, p.1) then { p.2 with arrived := mdel p.2.arrived level } else p.2)) }
    else x)
  let s := { s with net := { s.net with msgs := s.net.msgs.map (openMsg level ms) } }
  match level, t.tag with
  | 3, some tg =>
    let c := tg.cx.toNat
    let s := { s with net := { s.net with l3 := mdel s.net.l3 c } }
    if s.agents.any (fun p => p.2.strands.any (fun q => q.2.tag == some tg && mget false q.2.arrived 3)) then openPhase s c else s
  | _, _ => s

/-- A checkpoint withholds the release of the next L3 phase of every context (20 R446). -/
def withholds (s : State) (level : Nat) : Bool := level == 3 && 1 ≤ s.rel.ckpt.st.toNat && s.rel.ckpt.st.toNat ≤ 4

/-- PHASE_RELEASE: every member has arrived, and the phase is released, or withheld by a checkpoint (R230, 20 R446). -/
def execPhaseRelease (agent strand level : Nat) (peers : Bool) (s : State) : Host.Outcome State Fault Refusal :=
  if !phaseReady s agent strand level peers then .next s
  else if withholds s level then
    match (strandAt s agent strand).tag with
    | some t => .next { s with rel := { s.rel with ckpt := { s.rel.ckpt with withheld := insertNat s.rel.ckpt.withheld t.cx.toNat } } }
    | none => .next s
  else .next (releasePhase s agent strand level)

/-! ### Spawned strands (R232, R233) -/

/-- Two allocations overlap. -/
def allocMeets (t : Strand) (base size : Nat) : Bool := t.base.toNat < base + size && base < t.base.toNat + t.size.toNat

/-- Registers of an allocation cleared (01 R22). -/
def clearPool (x : Agent) (base size : Nat) : Agent := { x with pool := x.pool.filter (fun p => !(base ≤ p.1 && p.1 < base + size)) }

/-- SPAWN (R232). -/
def execSpawn (g : Guard) (a b c : Reg) (base8 : BitVec 6) (size8 k : BitVec 3) (s : State) : Host.Outcome State Fault Refusal :=
  runWord s (engine g 3 [] (do
    let pc ← readReg a
    let g0 ← readReg b
    let seed ← readReg c
    let k := k.toNat
    until' .other (fun s => (strandOf (curAgent s) k).st == .inactive)
    if pc.toNat % 8 ≠ 0 then trapAt cMISALIGN pc 8
    let base := 8 * base8.toNat
    let size := 8 * size8.toNat
    let x ← reads curAgent
    if 512 < base + size ∨ x.strands.any (fun p => p.2.st != .inactive && allocMeets p.2 base size) then
      trapAt cREGBOUND (BitVec.ofNat 64 base) (size + 128)
    release 0
    modS (fun s =>
      let me := cur s
      modCurAgent s (fun x =>
        let x := clearPool x base size
        let t : Strand := { strand0 with
          st := .ready, pc := pc, tag := me.tag, task := me.task, priv := me.priv, base := BitVec.ofNat 9 base, size := BitVec.ofNat 6 size, dom := me.dom,
          hasRun := true, sys := { sysRegs0 with seed := seed }, eng := { strandEng0 with abandoned := (strandOf x k).eng.abandoned } }
        { x with pool := mput x.pool base g0, strands := mput x.strands k t }))
    return .next))

/-- SWAIT (R233). -/
def execSwait (g : Guard) (k : BitVec 3) (s : State) : Host.Outcome State Fault Refusal :=
  runWord s (engine g 3 [] (do
    let s ← getS
    let t := strandOf (curAgent s) k.toNat
    if k.toNat = s.env.strand ∨ !t.hasRun then return .next
    until' .other (fun s => (strandOf (curAgent s) k.toNat).st == .inactive)
    acquire 3
    return .next))

/-! ### Requests and responses (09 R254, 10 R278, 15 R353) -/

/-- An earlier request q holds the access x of request r back: both of one strand to one LS or vault, or to one byte (R280, log 6), or both of one tile to another tile's vault
(09 R257, 10 R276). -/
def holdsBack (r q : Req) (x : Access) : Bool :=
  q.src == r.src &&
    ((q.strand == r.strand && q.todo.any (fun y => y.meets x)) || (singleHome x.key && q.atHome x.key && (q.strand == r.strand || tileOfKey x.key != some r.src)))

/-- Request i may perform its next access: it is at its home, and no earlier one holds it back. -/
def reqReady (s : State) (i : Nat) : Option Req :=
  match s.net.reqs[i]? with
  | none => none
  | some r =>
    match r.todo with
    | [] => some r
    | x :: _ => if r.here != r.bound || (s.net.reqs.take i).any (fun q => holdsBack r q x) then none else some r

/-- A request whose accesses are all made is answered: by a response on its way back, or not at all for stores in the tile's own memory; engines that wait for the strand's
stores go on (01 R35). -/
def answerReq (s : State) (i : Nat) (r : Req) : State :=
  let s := { s with net := { s.net with reqs := s.net.reqs.eraseIdx i } }
  if r.bound = r.src ∧ r.tile.isSome ∧ !r.wants then kickMxe s r.src
  else
    let back : Req := { r with hdr := headerFor s r.bound r.src vcRSP, here := r.bound }
    kickMxe { s with net := { s.net with resps := s.net.resps ++ [back] } } r.src

/-- An access goes to host memory: past the host port's checkpoint its transaction is outstanding on CXL (15 R357). -/
def throughPort (key : Nat) : Bool := homeUnit key == hostUnit

/-- REQUEST_AT_HOME: the next access of a request is performed, or the request is dropped at the checkpoint of its home as stale (10 R278, 15 R353). One to host memory
passes the checkpoint first and is performed later, whatever the checkpoint learns meanwhile (R358). -/
def execRequestAtHome (request : Nat) (s : State) : Host.Outcome State Fault Refusal :=
  match reqReady s request with
  | none => .next s
  | some r =>
    match r.todo with
    | [] => .next (answerReq s request r)
    | x :: rest =>
      if !r.past && staleAt s (homeUnit x.key) r.tag then .next { s with net := { s.net with reqs := s.net.reqs.eraseIdx request } }
      else if !r.past && throughPort x.key then .next { s with net := { s.net with reqs := s.net.reqs.set request { r with past := true } } }
      else
        let (s, rep) := performAccess s r.tag x
        let r := { r with todo := rest, res := r.res ++ [rep] }
        if rest = [] then .next (answerReq s request r) else .next { s with net := { s.net with reqs := s.net.reqs.set request r } }

/-- A WAITING strand becomes READY; one whose tile is stopped resumes so (01 R17). -/
def wakeStrand (t : Strand) : Strand :=
  if t.st = .waiting then { t with st := .ready, cause := none }
  else if t.st = .stopped ∧ t.resume = .waiting then { t with resume := .ready, cause := none }
  else t

/-- Another answer is on its way to a strand. -/
def moreComing (s : State) (a k : Nat) : Bool := (s.net.reqs ++ s.net.resps).any (fun r => r.wants && r.src == a && r.strand == k)

/-- RESPONSE_LANDING: a response reaches its tile, those of one home in order; the strand that waits for it goes on when it was the last (09 R254, R257). -/
def execResponseLanding (response : Nat) (s : State) : Host.Outcome State Fault Refusal :=
  match s.net.resps[response]? with
  | none => .next s
  | some r =>
    if staleAt s r.src r.tag || r.here != r.src || (s.net.resps.take response).any (fun q => q.src == r.src && q.bound == r.bound && q.bound != q.src) then .next s
    else
      let s := { s with net := { s.net with resps := s.net.resps.eraseIdx response } }
      if !r.wants then .next s
      else .next (modStrand s r.src r.strand (fun t =>
        let t := { t with reply := some (t.reply.getD [] ++ r.res) }
        if moreComing s r.src r.strand then t else wakeStrand t))

/-- ORPHAN: a stale response is dropped at the NI and counted (15 R353, R354). -/
def execOrphan (response : Nat) (s : State) : Host.Outcome State Fault Refusal :=
  match s.net.resps[response]? with
  | none => .next s
  | some r =>
    match r.tag with
    | none => .next s
    | some t =>
      if !staleAt s r.src r.tag then .next s
      else
        let s := { s with net := { s.net with resps := s.net.resps.eraseIdx response } }
        .next (modAgent s r.src (fun x => { x with ni := { x.ni with orphans := mmod 0 x.ni.orphans t.cx.toNat (fun n => min (n + 1) (2 ^ 48 - 1)) } }))

end Sys2Proof.Machine
end

