-- ==== Sys2Proof/Machine/Light.lean ====
section
/-!
DEFINITION. Weights in light: INJ, INJC and the slot instructions of MAJ 0xA2 (07 R224 to R227), the beacons (08 R242, R246, R249, R250), blocks that land
at their members (R243, R244, R247; CE8 of 02 R74 to R76; header checks of 11 R291), replay tokens and release credits (R245).
-/

namespace Sys2Proof.Machine

/-! ### The group table (08 R238, R239) -/

/-- An entry of a FREE group. -/
def group0 : Group :=
  { owner := ⟨0, 0⟩, st := 0, wm1 := 0, rtree := 0, beacon := 0, sibv := 0, sib := 0, mcount := 0, hues := 0, next := 0, rel := 0, replays := 0, overruns := 0,
    words := [], q := [], buf := [], bst := .idle, resend := none, token := none, sameAt := 0, sameN := 0, walker := none, marks := [] }
def groupAt (s : State) (g : Nat) : Group := mget group0 s.light.groups g
def modGroup (s : State) (g : Nat) (f : Group → Group) : State :=
  { s with light := { s.light with groups := mput s.light.groups g (f (groupAt s g)) } }

/-- Group states of R238. -/
def gACTIVE : BitVec 3 := 1
def gFROZEN : BitVec 3 := 2
def gFAILED : BitVec 3 := 3

/-- The window W. -/
def windowOf (g : Group) : Nat := g.wm1.toNat + 1
/-- NAME and RCV of a member word. -/
def mwName (w : BitVec 32) : Nat := (w.extractLsb' 0 14).toNat
def mwRcv (w : BitVec 32) : Nat := (w.extractLsb' 15 3).toNat
def mwTap (w : BitVec 32) : Nat := (w.extractLsb' 18 4).toNat
/-- The hues that carry a group, ascending. -/
def hueList (w : Word) : List Nat := (List.range 64).filter (fun i => w.getLsbD i)
/-- Names of the members, in bus order. -/
def memberNames (g : Group) : List Nat := (g.words.take g.mcount.toNat).map mwName
/-- The member tiles of a group. -/
def groupMembers (s : State) (g : Nat) : List Nat := (memberNames (groupAt s g)).filterMap (physOfName s)
/-- The receivers of the member with a name, one for each hue. -/
def memberRcvs (g : Group) (name : Nat) : List Nat := (g.words.filter (fun w => mwName w == name)).map mwRcv

/-- A receiver that delivers units: LOCKED or DRIFTING (19 R423). One that no event has touched is LOCKED. -/
def deliversUnits (x : Agent) (r : Nat) : Bool := match mget? x.rx.rcv r with | none => true | some v => v.st == .locked || v.st == .drifting

/-- The 64-byte units of a block: its header and its payload (08 R242). -/
def blockUnits (b : Block) : Nat := (64 + b.len + 63) / 64

/-- A member receives every unit of a block: unit u travels on the hue of ordinal u mod h, so only the first hues carry a short block. In pilot service blocks travel
over the mesh (08 R237, R242, 19 R423). -/
def receivesLight (s : State) (g a : Nat) (b : Block) : Bool :=
  s.boot.pilot || ((memberRcvs (groupAt s g) (nameOf s a)).take (blockUnits b)).all (deliversUnits (agentAt s a))

/-- A member receives a unit that every hue carries. -/
def receivesUnit (s : State) (g a : Nat) : Bool :=
  s.boot.pilot || (memberRcvs (groupAt s g) (nameOf s a)).any (deliversUnits (agentAt s a))

/-! ### Events for strands (07 R211) -/

/-- A control-event element for strand k of tile a, when it has room; one for a strand that has ended is discarded (11 R304). -/
def pushEvent (s : State) (a k : Nat) (w : Word) : Option State :=
  let t := strandAt s a k
  if t.st = .inactive ∨ t.st = .failed then some s
  else if t.eng.ceq.length < completionCap then some (modStrand s a k (fun t => { t with eng := { t.eng with ceq := t.eng.ceq ++ [⟨w, none⟩] } }))
  else none

/-- A request is refused with EVENT 2 and a DETAIL (07 R225). -/
def refuse (s : State) (r : LReq) (detail : Nat) : Option State :=
  if r.quiet then some s else pushEvent s r.agent r.strand (BitVec.ofNat 64 (2 * 2 ^ 56 + detail * 2 ^ 32 + r.grp.toNat % 256))

/-! ### INJ and INJC (07 R224) -/

/-- Entries of a beacon's request queue for a group. -/
def injectCap : Nat := 16

/-- Requests queued for a group, or on their way to it. -/
def injectCount (s : State) (g : Nat) : Nat := (groupAt s g).q.length + (s.light.pending.filter (fun r => r.grp.toNat % 256 == g)).length

/-- The effect of INJ and INJC. -/
def inject (a b : Reg) (chain : Bool) : Exec Ctl := do
  let ga ← readReg a
  let gb ← readReg b
  if ga.toNat % 64 ≠ 0 then trapAt cMISALIGN ga 64
  until' .other (fun s => injectCount s (gb.toNat % 256) < injectCap)
  release 2
  modS (fun s => { s with light := { s.light with pending := s.light.pending ++ [⟨ga, chain, gb, (cur s).tag, s.env.agent, s.env.strand, false, none⟩] } })
  return .next

def execInj (g : Guard) (a b : Reg) (s : State) : Host.Outcome State Fault Refusal := runWord s (scalar g [] (inject a b false))

def execInjc (g : Guard) (a b : Reg) (s : State) : Host.Outcome State Fault Refusal := runWord s (scalar g [] (inject a b true))

/-- A request may arrive: none of its strand to its group is before it (R252). -/
def requestReady (s : State) (i : Nat) : Option LReq :=
  match s.light.pending[i]? with
  | none => none
  | some r =>
    if (s.light.pending.take i).any (fun q => q.agent == r.agent && q.strand == r.strand && q.grp.toNat % 256 == r.grp.toNat % 256) then none else some r

/-- BEACON_REQUEST: a request is queued, or refused with DETAIL 1, 2 or 4; a stale one is dropped (07 R225, 15 R353). -/
def execBeaconRequest (request : Nat) (s : State) : Host.Outcome State Fault Refusal :=
  match requestReady s request with
  | none => .next s
  | some r =>
    let g := r.grp.toNat % 256
    let e := groupAt s g
    let gone := { s with light := { s.light with pending := s.light.pending.eraseIdx request } }
    let detail := if some e.owner ≠ r.tag then 1 else if e.st ≠ gACTIVE then 2 else if 256 ≤ r.grp.toNat then 4 else 0
    if staleAt s (beaconUnit e.beacon.toNat) r.tag then .next gone
    else if detail ≠ 0 then .next ((refuse gone r detail).getD s)
    else .next (modGroup gone g (fun e => { e with q := e.q ++ [r] }))

/-- A request that a group with SIBV = 1 has accepted is performed on group SIB too: an INJ with the block as it has been fetched, an INJC as a chain of the sibling's
own walk (08 R250, log 104). -/
def passToSibling (s : State) (g : Nat) (r : LReq) (b : Option Block) : State :=
  let e := groupAt s g
  if e.sibv = 1 ∧ (groupAt s e.sib.toNat).st = gACTIVE ∧ !r.quiet then
    modGroup s e.sib.toNat (fun e => { e with q := e.q ++ [{ r with quiet := true, block := b }] })
  else s

/-! ### What a beacon reads (11 R294, R300) -/

/-- How a beacon's look at an address ended. -/
inductive BeaconSees where
  | walk (s : State)
  | none
  | page (e : TlbE)

/-- The page of an address as the beacon of group g sees it; a walk is begun when its translation cache does not hold it (15 R365, R366). An
address outside the context's virtual memory has none (10 R273). -/
def beaconPage (s : State) (g va : Nat) (w : Bool) : BeaconSees :=
  let e := groupAt s g
  let who := Requester.beacon g
  if va < 2 ^ 48 ∨ 2 ^ 56 ≤ va then .none
  else if s.net.walks.any (fun x => x.failed && x.who == who && x.va / 2 ^ 16 == va / 2 ^ 16) then .none
  else
    match (mget [] s.light.beaconTlb e.beacon.toNat).find? (fun t => tlbMatch e.owner va t && (!w || leafDirty t.leaf || !leafW t.leaf)) with
    | some t => .page t
    | none => if s.net.walks.any (fun x => x.who == who && x.va / 2 ^ 16 == va / 2 ^ 16) then .walk s else .walk (addWalk ⟨who, e.owner, va, 5, w, false, none, false, false, none⟩ s)

/-- Failed walks of a beacon have been answered by its fault or refusal. -/
def dropBeaconWalks (s : State) (g : Nat) : State :=
  { s with net := { s.net with walks := s.net.walks.filter (fun w => !(w.failed && w.who == .beacon g)) } }

/-- n bytes at a key as a context reads them (18 R408). -/
def ctxBytes (s : State) (t : Tag) (key n : Nat) : List Byte :=
  if plainTo s (some t) key then readBytes s.mem key n
  else (List.range n).map (fun i => BitVec.ofNat 8 ((sealedLine s (key + i)).toNat / 2 ^ (8 * ((key + i) % 64))))

/-- A reading of memory by a beacon: the bytes, or a walk to wait for, or the REASON of R300 with the address. -/
inductive BeaconRead where
  | walk (s : State)
  | bad (reason va : Nat) (key : Nat)
  | bytes (b : List Byte)

/-- One piece that lies in one page of 64 KiB. -/
def beaconPiece (s : State) (g va n : Nat) : BeaconRead :=
  match beaconPage s g va false with
  | .walk s => .walk s
  | .none => .bad 1 va 0
  | .page e =>
    let o := (groupAt s g).owner
    let k := leafKey e va
    if !(leafR e.leaf && encOk s o e va) then .bad 1 va 0
    else if !leafD e.leaf then .bad 2 va 0
    else if poisoned s.mem k n then .bad 8 va k
    else .bytes (ctxBytes s o k n)

/-- n bytes from va on, page by page. -/
def beaconRead (s : State) (g : Nat) : Nat → Nat → Nat → BeaconRead
  | 0, _, _ => .bytes []
  | f + 1, va, n =>
    if n = 0 then .bytes []
    else
      let m := min n (2 ^ 16 - va % 2 ^ 16)
      match beaconPiece s g va m with
      | .bytes b => (match beaconRead s g f (va + m) (n - m) with | .bytes c => .bytes (b ++ c) | r => r)
      | r => r

/-- The line that 64 bytes make. -/
def lineOf (b : List Byte) : Line := BitVec.ofNat 512 (leNat b)
/-- Bytes as a sparse table: those that are not 0. -/
def bodyOf (b : List Byte) : SMap Byte := (b.zipIdx.filter (fun p => p.1 != 0)).map (fun p => (p.2, p.1))

/-- A fetched block, or why it was not fetched. -/
inductive Fetched where
  | walk (s : State)
  | bad (reason va : Nat) (key : Nat)
  | block (b : Block)

/-- The header rules of R300 that every block must keep: REASON 3 and 4. -/
def headerReason (h : Line) : Nat := if hMagic h ≠ 0xB10C ∨ hVersion h ≠ 1 then 3 else if 12 ≤ hOpc h ∨ 4 ≤ hFmt h then 4 else 0

/-- The header at va, checked. -/
def fetchHeader (s : State) (g : Nat) (va : Word) : Sum Line Fetched :=
  match beaconRead s g 1 va.toNat 64 with
  | .walk s => .inr (.walk s)
  | .bad r a k => .inr (.bad r a k)
  | .bytes b => let h := lineOf b; if headerReason h ≠ 0 then .inr (.bad (headerReason h) va.toNat 0) else .inl h

/-- The payload behind a header. -/
def fetchBody (s : State) (g : Nat) (va : Word) (h : Line) (inj : Option (Nat × Nat)) : Fetched :=
  match beaconRead s g 4 (va.toNat + 64) (hPlen h) with
  | .walk s => .walk s
  | .bad r a k => .bad r a k
  | .bytes b => .block ⟨(groupAt s g).next, va, h, bodyOf b, hPlen h, inj⟩

/-- A record of a beacon (19 R426, R429). -/
def postBeacon (s : State) (g kind cause detail : Nat) (addr info : Word) (seq : Nat) : State :=
  let e := groupAt s g
  postCore s (e.beacon.toNat / 8) (mkRec s kind cause (some e.owner) 0 0 7 detail addr info 0 seq g 0 0)

/-- Poison in a byte that a beacon reads is consumed there (19 R418). -/
def beaconPoison (s : State) (g reason key : Nat) : State :=
  if reason = 8 then postBeacon s g 3 cPOISON 1 (BitVec.ofNat 64 (addrOfKey key / 8 * 8)) 0 0 else s

/-! ### Sending (08 R242, R246) -/

/-- Light for every member. -/
def shine (s : State) (g : Nat) (p : Photon) : State :=
  { s with light := { s.light with flight := s.light.flight ++ (groupMembers s g).map (fun a => ⟨g, a, (groupAt s g).owner, p⟩) } }

/-- The window has room: NEXTSEQ < r + W. -/
def windowRoom (e : Group) : Bool := seqSub e.next e.rel < windowOf e

/-- A new block goes out as NEXTSEQ and stays in the replay buffer. -/
def sendBlock (s : State) (g : Nat) (b : Block) : State :=
  shine (modGroup s g (fun e => { e with next := seqNext e.next, buf := e.buf ++ [b], bst := .sending })) g (.block b)

/-- The head of a group's queue has been dealt with. -/
def popRequest (s : State) (g : Nat) : State := modGroup s g (fun e => { e with q := e.q.tail, bst := if e.q.tail = [] then .idle else e.bst })

/-- The DETAIL of R225 for a REASON of R300. -/
def injDetail (reason : Nat) : Nat := match reason with | 1 => 3 | 2 => 5 | 3 => 6 | 4 => 7 | r => r

/-- The head request is refused. -/
def refuseHead (s : State) (g : Nat) (r : LReq) (detail : Nat) : Option State := refuse (popRequest s g) r detail

/-- The blocks of a replay: the next one is resent (R246). -/
def resendBlock (s : State) (g at' : Nat) : State :=
  let e := groupAt s g
  let s := match e.buf.find? (fun b => b.seq == at') with | some b => shine s g (.block b) | none => s
  modGroup s g (fun e => if seqNext at' = e.next then { e with resend := none, bst := .idle } else { e with resend := some (seqNext at') })

/-- An INJ at the head of the queue: fetched whole and checked, then sent or refused (07 R225); a sibling sends the block it was given. -/
def serveInj (s : State) (g : Nat) (r : LReq) : State :=
  match r.block with
  | some b => popRequest (sendBlock s g { b with seq := (groupAt s g).next }) g
  | none =>
  let refused := fun (reason key : Nat) => (refuseHead (beaconPoison (dropBeaconWalks s g) g reason key) g r (injDetail reason)).getD s
  match fetchHeader s g r.va with
  | .inr (.walk s') => s'
  | .inr (.bad reason _ key) => refused reason key
  | .inr (.block _) => s
  | .inl h =>
    match fetchBody s g r.va h none with
    | .walk s' => s'
    | .bad reason _ key => refused reason key
    | .block b => passToSibling (popRequest (sendBlock s g b) g) g r (some b)

/-- What BEACON_SEND does where it is the group's turn: the next block of a replay, or of the INJ at the head of the queue; a FAILED group refuses what is queued (R242,
R246, R249). Nothing is sent while a wave or a service switch halts the wafer (20 R438). A chain that is ending holds its requests, and not its replays. -/
def beaconSends (s : State) (g : Nat) : State :=
  let e := groupAt s g
  if s.rel.wave.isSome then s
  else if e.st = gFAILED then
    match e.q with
    | [] => s
    | r :: _ => if e.walker.any (·.ending) then s else (refuseHead s g r 2).getD s
  else if e.st ≠ gACTIVE then s
  else
    match e.resend with
    | some a => resendBlock s g a
    | none =>
      match e.walker, e.q with
      | none, r :: _ =>
        if r.chain then s
        else if !windowRoom e then modGroup s g (fun e => { e with bst := .windowFull })
        else serveInj s g r
      | _, _ => s

/-! ### Decoding (02 R74 to R76, 08 R243, 11 R291) -/

/-- Code lengths of the exponents 0 to 15. -/
def ceLens (b : List Byte) : List Nat := (List.range 16).map (fun x => let v := (b.getD (x / 2) 0).toNat; if x % 2 = 0 then v / 16 else v % 16)

/-- The canonical codes as (length, code, exponent), in ascending length and exponent (R75). -/
def ceCodes (lens : List Nat) : List (Nat × Nat × Nat) :=
  let xs := (List.range 13).flatMap (fun l => if l = 0 then [] else (lens.zipIdx.filter (fun p => p.1 == l)).map (fun p => (l, p.2)))
  (xs.foldl (fun (acc : List (Nat × Nat × Nat) × Nat × Nat) p =>
    let code := acc.2.1 * 2 ^ (p.1 - acc.2.2)
    (acc.1 ++ [(p.1, code, p.2)], code + 1, p.1)) ([], 0, 0)).1

/-- One code from a stream of bits, as its exponent and what is left. -/
def ceNext (codes : List (Nat × Nat × Nat)) : Nat → Nat → Nat → List Bool → Option (Nat × List Bool)
  | 0, _, _, _ => none
  | _, _, _, [] => none
  | f + 1, l, c, b :: t =>
    let c := 2 * c + (if b then 1 else 0)
    match codes.find? (fun p => p.1 == l + 1 && p.2.1 == c) with
    | some p => some (p.2.2, t)
    | none => ceNext codes f (l + 1) c t

/-- n exponents, and what is left of the stream. -/
def ceTake (codes : List (Nat × Nat × Nat)) : Nat → List Bool → Option (List Nat × List Bool)
  | 0, bs => some ([], bs)
  | n + 1, bs =>
    match ceNext codes 12 0 0 bs with
    | none => none
    | some (x, rest) => (ceTake codes n rest).map (fun p => (x :: p.1, p.2))

/-- The bits of bytes, bit 7 first (R74). -/
def bitsMsb (bs : List Byte) : List Bool := bs.flatMap (fun b => (List.range 8).map (fun i => b.getLsbD (7 - i)))

/-- A CE8 payload of n elements: the elements and then the scales, none when the decoder faults (R76). -/
def decodeCe8 (p : List Byte) (n scnt : Nat) : Option (List Byte) :=
  let lens := ceLens p
  let sum := lens.foldl (fun acc l => if l = 0 then acc else acc + 2 ^ (12 - l)) 0
  let es := 8 + scnt
  let sm := p.length - n / 2
  if lens.any (fun l => 13 ≤ l) ∨ sum ≠ 2 ^ 12 ∨ p.length < es + n / 2 then none
  else
    match ceTake (ceCodes lens) n (bitsMsb ((p.drop es).take (sm - es))) with
    | none => none
    | some (xs, rest) =>
      if 7 < rest.length ∨ rest.any id then none
      else
        let sms := p.drop sm
        some (xs.zipIdx.map (fun x =>
          let v := (sms.getD (x.2 / 2) 0).toNat
          let nib := if x.2 % 2 = 0 then v / 16 else v % 16
          BitVec.ofNat 8 (nib / 8 * 128 + x.1 * 8 + nib % 8)) ++ (p.drop 8).take scnt)

/-- The payload of a block as a list. -/
def payload (b : Block) : List Byte := (List.range b.len).map (fun i => mget 0 b.body i)

/-- K and M of a block (R289). -/
def hK (h : Line) : Nat := 16 * (hKq h + 1)
def hM (h : Line) : Nat := if hFmt h = 2 then 64 else 128

/-- The header checks of a chain's member (11 R291). -/
def headerOk (h : Line) : Bool :=
  let scnt := if hSc h then hM h * hK h / 32 else 0
  let reserved := hdrField h 0 0 6 == 0 && hdrField h 3 0 16 == 0 && hdrField h 4 0 32 == 0 && hdrField h 6 0 18 == 0
  let body :=
    if carriesWeights h then
      (!hSc h || (hFmt h != 2 && hK h % 32 == 0)) && hScnt h == scnt &&
        (if hFmt h = 3 then 8 + scnt + hK h * hM h / 2 ≤ hPlen h else hPlen h == hK h * hM h * (if hFmt h = 2 then 2 else 1) + scnt)
    else hPlen h == 0 && !hSc h && hScnt h == 0
  reserved && body && (hEpilen h == 0 || hOpc h == 2 || hOpc h == 4)

/-- The CRC of a block agrees with its header (R243, R289). -/
def crcOk (b : Block) : Bool :=
  let h := natBytes 64 b.hdr.toNat
  crc32c (h.take 36 ++ [0, 0, 0, 0] ++ h.drop 40 ++ payload b) == hCrc b.hdr

/-- The decoded block for a receive slot (R243); a block of a chain that fails the header checks is not decoded. -/
def decodeBlock (g : Nat) (b : Block) (chain : Bool) : Slot :=
  let badHdr := chain && !headerOk b.hdr
  let n := hK b.hdr * hM b.hdr
  let (body, faulted) :=
    if badHdr ∨ !carriesWeights b.hdr then ([], false)
    else if hFmt b.hdr = 3 then (match decodeCe8 (payload b) n (hScnt b.hdr) with | some l => (bodyOf l, false) | none => ([], true))
    else (b.body, false)
  ⟨g, b.seq, b.va, b.hdr, body, b.len, faulted, badHdr, if chain then .chain else .ordinary, false, false, none, b.inj⟩

/-! ### Arrival at a member (R247) -/

/-- A replay token on its way to the beacon; routers keep the least of several (R247). -/
def addToken (s : State) (g : Nat) (t : BToken) : State :=
  modGroup s g (fun e => { e with token :=
    match e.token with
    | none => some t
    | some u => if u.seq = t.seq then some { u with counts := min u.counts t.counts, full := u.full || t.full } else if seqLt t.seq u.seq then some { t with full := u.full || t.full } else some { u with full := u.full || t.full } })

/-- A chain on the tile takes blocks of a group (11 R293, 07 R229). -/
def chainTakes (x : Agent) (g : Nat) : Bool := match x.rx.chain with | some c => c.group == g && !c.stop && c.leave.isNone | none => false

/-- A block of a chain has landed on its tile: the strand whose INJC walks it is known (07 R229). -/
def noteInj (x : Agent) (inj : Option (Nat × Nat)) : Agent :=
  { x with rx := { x.rx with chain := x.rx.chain.map (fun c => { c with inj := c.inj.or inj }) } }

/-- The lowest-numbered free receive slot. -/
def freeSlotOf (x : Agent) : Option Nat := (List.range 8).find? (fun i => (mget? x.rx.slots i).isNone)

/-- A decoded block in slot i: the chain's, a trigger's, or an ordinary arrival (R226, R244, R251). -/
def landBlock (s : State) (g a i : Nat) (b : Block) : State :=
  let chain := chainTakes (agentAt s a) g
  let s := modAgent s a (fun x => { x with rx := { x.rx with slots := mput x.rx.slots i (decodeBlock g b chain) } })
  let s := modAgent s a (fun x => setMember x g { memberOf x g with e := seqNext b.seq })
  if chain then modAgent s a (fun x => noteInj x b.inj)
  else
    let (s, fired) := offerBlock s a i
    if fired then s else modAgent s a (fun x => pushHeader x i)

/-- A block reaches a member (R247). -/
def receiveBlock (s : State) (g a : Nat) (b : Block) (bad : Bool) : State :=
  let x := agentAt s a
  if b.seq ≠ (memberOf x g).e then s
  else if bad ∨ !crcOk b then addToken s g ⟨b.seq, 0, false, (groupAt s g).owner⟩
  else
    match freeSlotOf x with
    | none => addToken s g ⟨b.seq, 0, true, (groupAt s g).owner⟩
    | some i => landBlock s g a i b

/-- The first light in flight to a member of a group. -/
def nextFlight (s : State) (g a : Nat) : Option Flight := s.light.flight.find? (fun f => f.group == g && f.agent == a)
/-- That light has arrived. -/
def popFlight (s : State) (g a : Nat) : State := { s with light := { s.light with flight := s.light.flight.eraseP (fun f => f.group == g && f.agent == a) } }

/-- A unit whose frame tag is no longer the group's owner, or names an incarnation the receivers know as dead (R242, 15 R353). -/
def staleLight (s : State) (g a : Nat) (f : Flight) : Bool := f.tag != (groupAt s g).owner || staleAt s a (some f.tag)

/-- BLOCK_ARRIVAL: bad says that the units fail the member's check (R243, R247). A receiver that is not locked drops every unit (19 R423), and so does a stopped tile
(15 R369). -/
def execBlockArrival (group agent : Nat) (bad : Bool) (s : State) : Host.Outcome State Fault Refusal :=
  match nextFlight s group agent with
  | none => .next s
  | some f =>
    match f.what with
    | .chainEnd .. => .next s
    | .block b =>
      let s' := popFlight s group agent
      let e := groupAt s group
      if (e.st ≠ gACTIVE ∧ e.st ≠ gFAILED) ∨ staleLight s group agent f ∨ !receivesLight s group agent b ∨ (agentAt s agent).stopped then .next s'
      else .next (receiveBlock s' group agent b bad)

/-- A replay in progress has still to send block s. -/
def replayCovers (e : Group) (s : Nat) : Bool := match e.resend with | some a => !seqLt s a | none => false

/-- REPLAY_TOKEN: the beacon resends from s; a token for the same s after the 16th replay there has been sent sets the group FAILED (R246, R249). A token for a block
that a replay in progress has still to send starts no other; a 17th for its s is taken when the 16th has been sent. -/
def execReplayToken (group : Nat) (s : State) : Host.Outcome State Fault Refusal :=
  let e := groupAt s group
  match e.token with
  | none => .next s
  | some t =>
    let n := seqSub e.next t.seq
    let run := if e.sameN ≠ 0 ∧ e.sameAt = t.seq then e.sameN else 0
    let failing := t.counts = 0 ∧ 16 ≤ run ∧ !replayCovers e t.seq
    let taken := modGroup s group (fun e => { e with token := none, overruns := if t.full then min 255 (e.overruns + 1) else e.overruns })
    if e.st ≠ gACTIVE ∨ n = 0 ∨ windowOf e < n ∨ t.tag ≠ e.owner then .next taken
    else if replayCovers e t.seq then .next (modGroup taken group (fun e => { e with replays := if t.counts ≤ 1 then min 255 (e.replays + 1) else e.replays }))
    else if failing ∧ e.resend.isSome then .next s
    else
      let s := taken
      if failing then
        let s := postBeacon s group 8 0 0 0 (BitVec.ofNat 64 e.next) 0
        .next (modGroup s group (fun e => { e with st := gFAILED, resend := none, buf := [] }))
      else
        .next (modGroup s group (fun e => { e with
          resend := some t.seq, bst := .replay
          replays := if t.counts ≤ 1 then min 255 (e.replays + 1) else e.replays
          sameAt := if t.counts = 0 then t.seq else e.sameAt
          sameN := if t.counts = 0 then run + 1 else e.sameN }))

/-- The MIN of the members' release-through counts, seen from r. -/
def minRelease (s : State) (g : Nat) : Nat :=
  let r := (groupAt s g).rel
  match (groupMembers s g).map (fun a => seqSub (memberOf (agentAt s a) g).rel r) with
  | [] => 0
  | d :: t => (t.foldl min d) % 2 ^ 23

/-- RELEASE_CREDIT: the combined counts raise RELSEQ, and the replay buffer loses what is below it (R245, R246). -/
def execReleaseCredit (group : Nat) (s : State) : Host.Outcome State Fault Refusal :=
  let e := groupAt s group
  let d := minRelease s group
  if e.st ≠ gACTIVE ∨ d = 0 then .next s
  else
    let r := (e.rel + d) % seqMod
    .next (modGroup s group (fun e => { e with rel := r, buf := e.buf.filter (fun b => !seqLt b.seq r), bst := if e.bst = .windowFull then .idle else e.bst }))

/-! ### Slot instructions (07 R227) -/

/-- The slot a register names, or BLOCK_FAULT. -/
def slotNumber (gb : Word) : Exec Nat := do
  if 8 ≤ gb.toNat then trapAt cBLOCK gb (2 ^ 10 + gb.toNat % 8)
  return gb.toNat

/-- The block of a slot that holds an ordinary arrival, or BLOCK_FAULT. -/
def ordinaryBlock (i : Nat) : Exec Slot := do
  match mget? (curAgent (← getS)).rx.slots i with
  | none => trapPc cBLOCK (BitVec.ofNat 64 (2 ^ 8 + i))
  | some sl => if sl.use = .ordinary then return sl else trapPc cBLOCK (BitVec.ofNat 64 (2 ^ 8 + i))

/-- WBHDR. -/
def execWbhdr (g : Guard) (va : VReg) (b : Reg) (s : State) : Host.Outcome State Fault Refusal :=
  runWord s (scalar g [] (do
    let gb ← readReg b
    let i ← slotNumber gb
    let sl ← ordinaryBlock i
    modS (fun s => modCur s (fun t => { t with vregs := mput t.vregs va.toNat sl.hdr }))
    return .next))

/-- WBPOP: plain stores of the decoded payload, weights then scales, behind the strand's earlier accesses to the LS (10 R280). -/
def execWbpop (g : Guard) (a b : Reg) (s : State) : Host.Outcome State Fault Refusal :=
  runWord s (scalar g [] (do
    let ga ← readReg a
    let gb ← readReg b
    let i ← slotNumber gb
    let sl ← ordinaryBlock i
    if sl.faulted then trapPc cBLOCK (BitVec.ofNat 64 (2 ^ 9 + i))
    if ga.toNat % 64 ≠ 0 then trapAt cMISALIGN ga 64
    let n := slotBytes sl
    if lsBytes < ga.toNat + n then trapAt cSTORE ga 1
    behindSbar
    homeReady (keyLs s.env.agent ga.toNat)
    modS (fun s => setMem s (writeBytes s.mem (keyLs s.env.agent ga.toNat) ((List.range n).map (fun j => mget 0 sl.body j))))
    return .next))

/-- WBREL. -/
def execWbrel (g : Guard) (b : Reg) (s : State) : Host.Outcome State Fault Refusal :=
  runWord s (scalar g [] (do
    let gb ← readReg b
    let i ← slotNumber gb
    match mget? (curAgent (← getS)).rx.slots i with
    | none => return .next
    | some sl =>
      if sl.use ≠ .ordinary then return .next
      if sl.reading then modS (fun s => modCurAgent s (fun x => modSlot x i (fun sl => { sl with freeAfter := true })))
      else modS (fun s => modCurAgent s (fun x => creditRelease (freeSlot x i) sl.group sl.seq false))
      return .next))

end Sys2Proof.Machine
end

