-- ==== Sys2Proof/Machine/Chains.lean ====
section
/-!
DEFINITION. Weight-driven execution (11 R293 to R305): WDRIVE and WDSTOP (07 R228, R229), the walk of a chain at its beacon, block invocations at the
members, and the ways a chain ends.
-/

namespace Sys2Proof.Machine

/-! ### WDRIVE and WDSTOP -/

def modChain (x : Agent) (f : Chain → Chain) : Agent := { x with rx := { x.rx with chain := x.rx.chain.map f } }

/-- A landed block that a WDRIVE of group g takes: its element has not been popped, or a pass of a trigger with RELEASE = 0 still reads it (R293). -/
def takenByDrive (x : Agent) (g i : Nat) (sl : Slot) : Bool :=
  sl.group == g && sl.use == .ordinary && !sl.freeAfter && (sl.reading || sl.due.isSome || x.ni.whq.contains (headerElem i sl))

/-- The blocks a WDRIVE finds landed are the chain's, checked as its members check them, and their elements are withdrawn (R291, R293). -/
def takeLanded (x : Agent) (g : Nat) : Agent :=
  let gone := x.rx.slots.filter (fun p => takenByDrive x g p.1 p.2)
  settleHeaders 8 { x with
    rx := { x.rx with slots := x.rx.slots.map (fun p =>
      if takenByDrive x g p.1 p.2 then (p.1, { p.2 with use := .chain, badHdr := !headerOk p.2.hdr, due := none }) else p) }
    ni := { x.ni with whq := x.ni.whq.filter (fun w => !gone.any (fun p => headerElem p.1 p.2 == w)) } }

/-- The strand whose INJC sent the landed blocks that a chain takes, where there is one (07 R229). -/
def landedInj (x : Agent) (g : Nat) : Option (Nat × Nat) := x.rx.slots.findSome? (fun p => if takenByDrive x g p.1 p.2 then p.2.inj else none)

/-- WDRIVE (R228). -/
def execWdrive (g : Guard) (a b c : Reg) (s : State) : Host.Outcome State Fault Refusal :=
  runWord s (scalar g [] (do
    let gb ← readReg b
    let gc ← readReg c
    let group := gb.toNat % 256
    if 256 ≤ gb.toNat then trapAt cDRIVE gb (chainInfo 0 group 23 0 false false).toNat
    if gc.toNat % 128 ≠ 0 then trapAt cMISALIGN gc 128
    if lsBytes < gc.toNat + 128 then trapAt cLOAD gc 1
    until' .other (fun s => (curAgent s).rx.chain.isNone)
    modS (fun s => modCur s (fun t => { t with st := .parked, cause := none, reply := none, word := none, lastBranch := none, mode := 1, pc := t.pc + 8 }))
    modS (fun s =>
      let k := s.env.strand
      let pc := (cur s).pc
      modCurAgent s (fun x =>
        let inj := landedInj x group
        let x := takeLanded x group
        { x with rx := { x.rx with chain := some ⟨group, k, a, pc, gc, 0, none, false, 0, none, none, inj⟩, cond := false, held := [] } }))
    return .keep))

/-- WDSTOP (R229). -/
def execWdstop (g : Guard) (s : State) : Host.Outcome State Fault Refusal :=
  runWord s (scalar g [] (do
    modS (fun s => modCurAgent s (fun x => modChain x (fun c => { c with stop := true })))
    return .next))

/-! ### Chain ends at the beacon (R303) -/

/-- The cause of a REASON of R300. -/
def beaconCause (reason : Nat) : Nat := if reason = 8 then cPOISON else cDRIVE

/-- The walker of a chain that is no longer walked. -/
def walker0 (t : Tag) : Walker := ⟨0, [], 0, t, none, none, false, []⟩

/-- The beacon stops its walk and sends the chain-end unit: REASON, the block's VA, SEQ and the cause for a beacon-side fault (R303 step 2). A MARK at or above
SEQ marks nothing. A replay goes on, since members still complete the blocks below SEQ. -/
def startEnd (s : State) (g reason : Nat) (va : Word) (seq cause : Nat) : State :=
  let e := groupAt s g
  let s := modGroup s g (fun e => { e with
    walker := some { (e.walker.getD (walker0 e.owner)) with branch := none, ending := true, confirm := groupMembers s g }
    marks := e.marks.filter (fun m => seqLt m.seq seq) })
  shine s g (.chainEnd reason va seq e.next cause)

/-- A beacon-side chain fault: SEQ is NEXTSEQ (R300, R303 step 1). -/
def beaconFault (s : State) (g reason : Nat) (va : Word) (key : Nat) : State :=
  let s := beaconPoison (dropBeaconWalks s g) g reason key
  startEnd s g reason va (groupAt s g).next (beaconCause reason)

/-! ### The walk (R294) -/

/-- An INJC at the head of the queue begins its chain, or is refused with DETAIL 3 where ga has no page with R (07 R225); a sibling group begins it too (08 R250). -/
def beginChain (s : State) (g : Nat) (r : LReq) : State :=
  let refused := (refuseHead (dropBeaconWalks s g) g r 3).getD s
  match beaconPage s g r.va.toNat false with
  | .walk s' => s'
  | .none => refused
  | .page t =>
    if leafR t.leaf && encOk s (groupAt s g).owner t r.va.toNat then
      passToSibling (modGroup (popRequest s g) g (fun e => { e with
        walker := some { (walker0 (r.tag.getD e.owner)) with va := r.va, inj := if r.quiet then none else some (r.agent, r.strand) } })) g r none
    else refused

/-- An address that a chain may go on at. -/
def goodSucc (va : Word) : Bool := va != 0 && va.toNat % 64 == 0

/-- What a header says of the walk: the REASON of its fault, or the next VA and the link stack; none of both where a condition or END decides (R294, R300). -/
def walkNext (h : Line) (links : List Word) : Sum Nat (Option (Word × List Word)) :=
  let go := fun (va : Word) (l : List Word) => if goodSucc va then Sum.inr (some (va, l)) else Sum.inl 5
  match hOpc h with
  | 5 => if 4 ≤ hCsel h then .inl 4 else .inr none
  | 6 => if links.length = 4 then .inl 6 else go (hSucc h) (hAlt h :: links)
  | 7 => (match links with | [] => .inl 7 | v :: l => go v l)
  | 10 => .inr none
  | _ => go (hSucc h) links

/-- The beacon's check of the address of a MARK (R296). -/
def markPlace (s : State) (g : Nat) (alt : Word) : BeaconSees :=
  if alt.toNat % 8 ≠ 0 then .none
  else
    match beaconPage s g alt.toNat true with
    | .page t => if leafW t.leaf && encOk s (groupAt s g).owner t alt.toNat then .page t else .none
    | r => r

/-- The block count of R296: 24 bits, saturating. -/
def countMax : Nat := 2 ^ 24 - 1

/-- A block of the chain goes out, and the walker moves on (R294, R296). -/
def sendChained (s : State) (g : Nat) (w : Walker) (b : Block) (nxt : Option (Word × List Word)) : State :=
  let n := min countMax (w.count + 1)
  let s := sendBlock s g b
  let w := { w with count := n }
  modGroup s g (fun e =>
    match hOpc b.hdr, nxt with
    | 10, _ => { e with walker := none, bst := .idle }
    | 9, some (va, l) =>
      { e with
        walker := some { w with va := va, links := l }
        marks := e.marks ++ [⟨b.seq, b.va, hAlt b.hdr, BitVec.ofNat 64 (hTag b.hdr * 2 ^ 48 + b.seq * 2 ^ 24 + n)⟩] }
    | _, some (va, l) => { e with walker := some { w with va := va, links := l } }
    | _, none => { e with walker := some { w with branch := some (b.seq, b.hdr) } })

/-- The block at the walker's VA is fetched, checked and sent; a SYNC waits until r = NEXTSEQ (R294, R296, R300). No block goes out for a header that breaks a
rule of R300, its successor included. -/
def walkBlock (s : State) (g : Nat) (w : Walker) : State :=
  let e := groupAt s g
  match fetchHeader s g w.va with
  | .inr (.walk s') => s'
  | .inr (.bad reason _ key) => beaconFault s g reason w.va key
  | .inr (.block _) => s
  | .inl h =>
    if hOpc h = 8 ∧ e.rel ≠ e.next then s
    else
      let mark := if hOpc h = 9 then markPlace s g (hAlt h) else .page ⟨e.owner, 0, 0, 0⟩
      match mark, walkNext h w.links, fetchBody s g w.va h w.inj with
      | .walk s', _, _ => s'
      | .none, _, _ => beaconFault s g 1 w.va 0
      | _, .inl reason, _ => beaconFault s g reason w.va 0
      | _, _, .walk s' => s'
      | _, _, .bad reason _ key => beaconFault s g reason w.va key
      | _, .inr nxt, .block b => sendChained s g w b nxt

/-- What CHAIN_WALK does where it is the group's turn: the beacon begins a chain, or sends its next block (R294). -/
def chainWalks (s : State) (g : Nat) : State :=
  let e := groupAt s g
  if s.rel.wave.isSome then s
  else
    match e.walker with
    | none => (match e.q with | r :: _ => if e.st = gACTIVE ∧ r.chain ∧ e.resend.isNone then beginChain s g r else s | [] => s)
    | some w =>
      if w.ending then s
      else if e.st = gFAILED then beaconFault s g 9 w.va 0
      else if e.st ≠ gACTIVE ∨ e.resend.isSome ∨ w.branch.isSome then s
      else if !windowRoom e then modGroup s g (fun e => { e with bst := .windowFull })
      else walkBlock s g w

/-! ### The turns of a beacon (08 R242) -/

/-- A block of the group goes out between two states: a new one, or one of a replay. -/
def blockOut (s t : State) (g : Nat) : Bool := (groupAt s g).next != (groupAt t g).next || ((groupAt s g).resend.isSome && (groupAt s g).resend != (groupAt t g).resend)

/-- The group has a block to send now: one that has no request, waits for its window, a walk, a condition or a SYNC's members, is skipped. -/
def hasBlock (s : State) (g : Nat) : Bool := blockOut s (beaconSends s g) g || blockOut s (chainWalks s g) g

/-- The groups of a beacon from the one after the group it served last. -/
def beaconGroups (s : State) (b : Nat) : List Nat :=
  let gs := (s.light.groups.filter (fun p => p.2.beacon.toNat == b)).map (·.1)
  let last := mget 255 s.light.served b
  gs.filter (fun g => last < g) ++ gs.filter (fun g => g ≤ last)

/-- A step of a beacon for one of its groups: a block goes out only in the group's turn, round-robin over those that have one to send (R242). -/
def beaconTurn (s t : State) (g : Nat) : State :=
  let b := (groupAt s g).beacon.toNat
  if !blockOut s t g then t
  else if (beaconGroups s b).find? (hasBlock s) ≠ some g then s
  else { t with light := { t.light with served := mput t.light.served b g } }

/-- BEACON_SEND (R242, R246, R249). -/
def execBeaconSend (group : Nat) (s : State) : Host.Outcome State Fault Refusal := .next (beaconTurn s (beaconSends s group) group)

/-- CHAIN_WALK (R294). -/
def execChainWalk (group : Nat) (s : State) : Host.Outcome State Fault Refusal := .next (beaconTurn s (chainWalks s group) group)

/-- The pair (OR, AND) of the members' condition bits of block seq (R295). -/
def condPair (s : State) (g seq : Nat) : Bool × Bool :=
  let bits := (groupMembers s g).map (fun a => (memberOf (agentAt s a) g).bits.any (fun p => p.1 == seq && p.2))
  (bits.any id, bits.all id)

/-- CSEL applied to a pair (R289, R295). -/
def condSelect (csel : Nat) (p : Bool × Bool) : Bool := match csel with | 0 => p.1 | 1 => p.2 | 2 => !p.1 | _ => !p.2

/-- BRANCH_CONDITION: every member has released block s - 1, and the BRANCH at s chooses its successor (R295). -/
def execBranchCondition (group : Nat) (s : State) : Host.Outcome State Fault Refusal :=
  let e := groupAt s group
  match e.walker with
  | none => .next s
  | some w =>
    match w.branch with
    | none => .next s
    | some (sq, h) =>
      if e.st ≠ gACTIVE ∨ w.ending ∨ seqLt e.rel sq then .next s
      else
        let pair := if w.count = 1 then (false, false) else condPair s group (seqSub sq 1)
        let va := if condSelect (hCsel h) pair then hAlt h else hSucc h
        if goodSucc va then .next (modGroup s group (fun e => { e with walker := some { w with va := va, branch := none } }))
        else .next (beaconFault s group 5 w.va 0)

/-- MARK_WRITE: r has passed the number of a MARK; its word is written, or the chain takes a fault where its address has lost its page (R296). -/
def execMarkWrite (group : Nat) (s : State) : Host.Outcome State Fault Refusal :=
  let e := groupAt s group
  match e.marks with
  | [] => .next s
  | m :: rest =>
    if !seqLt m.seq e.rel then .next s
    else
      let gone := fun (s : State) => modGroup s group (fun e => { e with marks := rest })
      match markPlace s group m.addr with
      | .walk s' => .next s'
      | .none => .next (if e.walker.any (·.ending) then dropBeaconWalks (gone s) group else beaconFault (gone s) group 1 m.va 0)
      | .page t =>
        let k := leafKey t m.addr.toNat
        .next (gone (if plainTo s (some e.owner) k then setMem s (writeWord s.mem k m.word) else s))

/-! ### An invocation (R297) -/

/-- The descriptor's own rules (06 R179), its extent apart. -/
def descForm (d : Word) : Bool := d.extractLsb' 49 15 == 0 && d.extractLsb' 45 2 != 3 && !(d.getLsbD 48 && d.extractLsb' 45 2 != 2) && !(d.getLsbD 47 && d.extractLsb' 45 2 == 2)

/-- MBAND, NTOK, KGRP and IVV of R301. -/
def placeInfo (band tok kgrp : Nat) : Nat := band % 4 * 2 ^ 12 + tok % 128 * 2 ^ 5 + kgrp % 8 * 4 + 2

/-- Where in the pass a poisoned word is: token and group of 16 k of an activation or scale, token and band of an element. -/
def poisonPlace (a b : Nat) (w : WBuf) (o : PassArgs) (key : Nat) : Nat :=
  if 2 ^ 63 ≤ key then
    let i := (key - keyBank a b 0) / 8
    placeInfo (i / 128 / 32) (i % 128) 0
  else
    let tok := (List.range o.n).find? (fun n => let k := keyLs a (o.addr + n * o.stride); k / 8 ≤ key / 8 && key / 8 ≤ (k + tokenBytes w o - 1) / 8)
    let n := tok.getD 0
    let off := max key (keyLs a (o.addr + n * o.stride)) - keyLs a (o.addr + n * o.stride)
    placeInfo 0 n (if off < wbufK w * actSize o.at' then off / actSize o.at' / 16 else 2 * (off - wbufK w * actSize o.at'))

/-- The pass of an invocation meets a perturbation that its checks find: token and row (06 R185, 19 R420, R421). -/
def passMismatch (x : Agent) (b : Nat) (w : WBuf) (o : PassArgs) : Option Pert :=
  match mget? x.mx.pert b with
  | none => none
  | some t =>
    let bk := bankOf x b
    if pertMeets w o t && (!bk.float || (t.n.toNat + 64 - bk.passes) % 64 == 0) then some t else none

/-- A mismatch discards the invocation (R302): a record, the slot freed, and a replay token for the block; the fourth failure ends the chain. Later blocks of the chain
on this tile come again behind the replay. The condition bit of the discarded invocation goes with it. -/
def redoBlock (s : State) (a : Nat) (c : Chain) (i : Nat) (sl : Slot) (b : Nat) (t : Pert) : State :=
  let s := modMx s a (fun m => { m with pert := mdel m.pert b })
  let s := postUnit s a 5 0 (tagOf s a c.strand) 1 5 sl.va (BitVec.ofNat 64 (b * 256 + t.n.toNat)) sl.seq sl.group
  if 3 ≤ c.fails then memberFault s a 20 cRESIDUE none 0 (placeInfo (t.m.toNat / 32) t.n.toNat 0)
  else
    let s := modAgent s a (fun x =>
      let x := freeSlot x i
      let x := { x with rx := { x.rx with slots := x.rx.slots.filter (fun p => !(p.2.use == .chain && p.2.group == sl.group)), held := [], cond := false } }
      let x := modChain x (fun c => { c with inv := none, fails := c.fails + 1 })
      setMember x sl.group { memberOf x sl.group with e := sl.seq })
    addToken s sl.group ⟨sl.seq, 0, false, (groupAt s sl.group).owner⟩

/-- Held stores performed in program order: words that they cover whole lose their marks, and the marks that moved with them arrive (R297 step 7, 19 R417). -/
def performHeld (m : Memory) (held : List (Nat × Byte)) (marks : List Nat) : Memory :=
  let m := held.foldl (fun m h => writeByte m h.1 h.2) m
  let whole := fun (w : Nat) => (List.range 8).all (fun i => held.any (fun h => h.1 == 8 * w + i))
  let m := { m with poison := m.poison.filter (fun w => !whole w) }
  marks.foldl (fun m w => markPoison m (8 * w)) m

/-- Commit: the held stores are performed, the slot freed and its release credited with the condition bit; after END the tile leaves (R297 step 7). -/
def commitBlock (s : State) (a : Nat) : State :=
  let x := agentAt s a
  match x.rx.chain with
  | none => s
  | some c =>
    match c.inv with
    | none => s
    | some i =>
      match mget? x.rx.slots i.slot with
      | none => s
      | some sl =>
        let s := setMem s (performHeld s.mem x.rx.held i.marks)
        let s := modStrand s a c.strand (fun t => { t with st := .parked, cause := none, reply := none, word := none, lastBranch := none, epiLeft := 0, epiIdx := 0 })
        modAgent s a (fun x =>
          let x := creditRelease (freeSlot x i.slot) sl.group sl.seq x.rx.cond
          let x := { x with rx := { x.rx with held := [], cond := false } }
          modChain x (fun c => { c with
            inv := none, blocks := min countMax (c.blocks + 1), fails := 0, inj := sl.inj
            leave := if hOpc sl.hdr = 10 then some ⟨0, none⟩ else c.leave }))

/-- Bytes held for LS offset off on. -/
def holdLs (s : State) (a off : Nat) (bs : List Byte) : State :=
  modAgent s a (fun x => { x with rx := { x.rx with held := x.rx.held ++ bs.zipIdx.map (fun p => (keyLs a (off + p.2), p.1)) } })

/-- Step 5: the drain, with its writes held (R297). The state, or the REASON of its fault. -/
def holdDrain (s : State) (a : Nat) (c : Chain) (h : Line) : Sum State Nat :=
  let ctl := hDctl h
  if drainBad ctl (hDdst h) (hDstride h) then .inr 18
  else
    let elems := drainElems ctl (hDdst h) (hDstride h)
    let size := drainSize (dcFmt ctl)
    if holdBytes < (agentAt s a).rx.held.length + elems.length * size then .inr 19
    else
      let rm := effMode (strandAt s a c.strand) (dcRm ctl)
      let seed := if rm = 5 then srdNext (strandAt s a c.strand).sys.seed else (strandAt s a c.strand).sys.seed
      let s := modStrand s a c.strand (fun t => { t with sys := { t.sys with seed := seed } })
      let b := hBank h
      let bk := bankOf (agentAt s a) b
      let (out, fl, _) := drainSome bk ctl rm elems (BitVec.ofNat 64 (srdBits seed))
      let s := out.foldl (fun s q => holdLs s a q.1 (natBytes size q.2.1)) s
      let marks := out.flatMap (fun q => if q.2.2 then (List.range ((size + 7) / 8)).map (fun j => keyLs a (q.1 + 8 * j) / 8) else [])
      .inl (modAgent s a (fun x =>
        let x := modChain x (fun c => { c with inv := c.inv.map (fun i => { i with marks := i.marks ++ marks }) })
        let bk := { bankOf x b with dflags := bk.dflags ||| fl }
        setBank x b (if dcZafter ctl then zeroBank false bk else bk)))

/-- Steps 5 to 7 for the invocation in progress (R297). -/
def afterPass (s : State) (a : Nat) (c : Chain) (h : Line) : State :=
  let drained := if hOpc h = 2 ∨ ((hOpc h = 0 ∨ hOpc h = 1 ∨ hOpc h = 4) ∧ hDa h) then holdDrain s a c h else .inl s
  match drained with
  | .inr reason => memberFault s a reason cBLOCK none 0 0
  | .inl s =>
    let s := if hOpc h = 8 then modAgent s a (acquireAgent 2) else s
    if hOpc h ≠ 2 ∧ hOpc h ≠ 4 ∨ hEpilen h = 0 then commitBlock s a
    else
      let s := modAgent s a (fun x => modChain x (fun c => { c with inv := c.inv.map (fun i => { i with epi := true }) }))
      modStrand s a c.strand (fun t => { t with
        st := .ready, cause := none, reply := none, word := none, lastBranch := none, yielded := false, pc := hEpipc h &&& ~~~7, epiLeft := hEpilen h, epiIdx := 0 })

/-- Steps 1 to 4 (R297): the descriptor is read for every opcode; then zero, pass or load, and what follows. -/
def invoke (s : State) (a : Nat) (c : Chain) (i : Nat) (sl : Slot) : State :=
  let h := sl.hdr
  let fault := fun (s : State) (reason cause place : Nat) => memberFault s a reason cause none 0 place
  let dk := keyLs a (c.table.toNat + 8 * hDidx h)
  let d := readWord s.mem dk
  let unit := tagOf s a c.strand
  if sl.badHdr then fault s 17 cBLOCK 0
  else if sl.faulted then fault s 16 cBLOCK 0
  else if poisonedAt s.mem dk then fault (postPoison s a unit 1 dk 0) 21 cPOISON 0
  else if !carriesWeights h then afterPass s a c h
  else if !descForm d then fault s 18 cBLOCK 0
  else if hOpc h = 3 then
    let base := (d.extractLsb' 0 22).toNat
    let n := slotBytes sl
    if lsBytes < base + n then fault s 18 cBLOCK 0
    else commitBlock (holdLs s a base ((List.range n).map (fun j => mget 0 sl.body j))) a
  else
    let b := hBank h
    let w := slotWeights sl
    let zero := hOpc h = 1 || hZb h
    let o := passArgs (descPass d zero (BitVec.ofNat 2 b))
    let s := if zero then modAgent s a (fun x => setBank x b (zeroBank false (bankOf x b))) else s
    let x := agentAt s a
    if (passFault (bankOf x b) (some w) o).isSome then fault s 18 cBLOCK 0
    else if x.mx.arr ≠ .warm then
      modAgent s a (fun x => modChain { x with mx := { x.mx with arr := .rampUp } } (fun c => { c with inv := c.inv.map (fun v => { v with ramp := true }) }))
    else
      match passPoison s.mem a b (bankOf x b) w o with
      | some k => fault (postPoison s a unit 1 k 0) 21 cPOISON (poisonPlace a b w o k)
      | none =>
        let s := modMx s a (fun m => { m with decl := m.decl - 1 })
        match passMismatch (agentAt s a) b w o with
        | some t => redoBlock s a c i sl b t
        | none =>
          let s := makePass s a b unit w o
          let s := modAgent s a (fun x => modChain x (fun c => { c with inv := c.inv.map (fun v => { v with bankw := true, ramp := false }) }))
          coolDown (afterPass s a c h) a

/-- The landed block of the chain that comes next in sequence order (R297). -/
def nextBlock (x : Agent) (c : Chain) : Option (Nat × Slot) :=
  (x.rx.slots.filter (fun p => p.2.use == .chain && p.2.group == c.group)).foldl (fun (acc : Option (Nat × Slot)) p =>
    match acc with
    | none => some p
    | some q => if seqLt p.2.seq q.2.seq then some p else acc) none

/-- A chain may start an invocation, or go on with one that waited for the array: the MXE has finished its work, and the tile's task has not failed (R297 step 1, 07 R228,
14 R340). -/
def mayInvoke (x : Agent) (failed : Bool) (c : Chain) : Bool :=
  !x.stopped && !failed && c.leave.isNone && c.stopTok.isNone && x.mx.runs.all (fun r => r.phase == .finished) &&
    (match c.inv with | none => !c.stop | some i => i.ramp && x.mx.arr == .warm)

/-- BLOCK_INVOCATION: the next block of the tile's chain runs, up to its commit or the start of its epilogue (R297). -/
def execBlockInvocation (agent : Nat) (s : State) : Host.Outcome State Fault Refusal :=
  let x := agentAt s agent
  match x.rx.chain with
  | none => .next s
  | some c =>
    if !mayInvoke x ((taskOf s agent).any (·.retire.isSome)) c then .next s
    else
      match c.inv with
      | some v => (match mget? x.rx.slots v.slot with | some sl => .next (invoke s agent c v.slot sl) | none => .next s)
      | none =>
        match nextBlock x c with
        | none => .next s
        | some (i, sl) =>
          if sl.reading then .next s
          else
            let c := { c with inv := some ⟨i, sl.seq, false, false, false, []⟩ }
            .next (invoke (modAgent s agent (fun x => modChain x (fun _ => c))) agent c i sl)

/-- EPILOGUE_END: the last word of the epilogue has retired; the strand is PARKED again and the invocation commits (R298). -/
def execEpilogueEnd (agent : Nat) (s : State) : Host.Outcome State Fault Refusal :=
  match (agentAt s agent).rx.chain with
  | none => .next s
  | some c =>
    let t := strandAt s agent c.strand
    if inEpilogue s agent c.strand ∧ t.epiLeft = 0 ∧ t.st = .ready ∧
      ¬ s.net.reqs.any (fun r => r.src == agent && r.strand == c.strand) then .next (commitBlock s agent)
    else .next s

/-! ### The end of a chain (R303) -/

/-- Chain-stop tokens of the members of a group: SEQ and fault. -/
def stopTokens (s : State) (g : Nat) : List (Nat × Posted) :=
  (groupMembers s g).filterMap (fun a => match (agentAt s a).rx.chain with | some c => if c.group = g ∧ c.leave.isNone then c.stopTok else none | none => none)

/-- CHAIN_STOP_TOKEN: the token of a faulting member reaches the beacon; routers keep the least SEQ (R303 steps 1 and 2). -/
def execChainStopToken (group : Nat) (s : State) : Host.Outcome State Fault Refusal :=
  let e := groupAt s group
  if (e.st ≠ gACTIVE ∧ e.st ≠ gFAILED) ∨ e.walker.any (·.ending) then .next s
  else
    match stopTokens s group with
    | [] => .next s
    | t :: rest =>
      let (sq, f) := rest.foldl (fun m u => if seqLt u.1 m.1 then u else m) t
      .next (startEnd s group (f.info.extractLsb' 24 8).toNat f.addr sq f.cause.toNat)

/-- A member still has blocks below SEQ to receive: the beacon replays them while the group has not FAILED (R303 step 3, 08 R252). -/
def blocksBelow (s : State) (g a seq : Nat) : Bool := (groupAt s g).st == gACTIVE && seqLt (memberOf (agentAt s a) g).e seq

/-- A member of a chain still has work below SEQ (R303 step 3). -/
def workBelow (x : Agent) (g seq : Nat) : Bool :=
  match x.rx.chain with
  | none => false
  | some c =>
    c.group == g && c.stopTok.isNone && c.leave.isNone && !(c.stop && c.inv.isNone) &&
      (c.inv.any (fun i => seqLt i.seq seq) || (!c.stop && x.rx.slots.any (fun p => p.2.use == .chain && p.2.group == g && seqLt p.2.seq seq)))

/-- The landed blocks of a group at or above SEQ are discarded, with what stood for them in the queues, and the member's counts become NEXTSEQ (R303 step 3). -/
def dropBlocks (x : Agent) (g seq next : Nat) : Agent :=
  let doomed := fun (sl : Slot) => sl.group == g && !seqLt sl.seq seq
  let gone := x.rx.slots.filter (fun p => doomed p.2)
  let x := settleHeaders 8 { x with
    rx := { x.rx with slots := x.rx.slots.filter (fun p => !doomed p.2) }
    ni := { x.ni with whq := x.ni.whq.filter (fun w => !gone.any (fun p => headerElem p.1 p.2 == w)) }
    mx := { x.mx with runs := x.mx.runs.filter (fun r => !(r.phase == .waiting && r.fired.any (fun f => gone.any (fun p => p.1 == f.rslot)))) } }
  setMember x g { memberOf x g with e := next, rel := next, early := [], bits := [] }

/-- The chain leaves a member on the chain-end unit: with its own fault, or with the beacon's (R303 step 4). An invocation at or above SEQ is discarded. -/
def endMember (s : State) (g a reason : Nat) (va : Word) (seq cause : Nat) : State :=
  let w := (groupAt s g).walker
  match (agentAt s a).rx.chain with
  | none => s
  | some c =>
    if c.group ≠ g ∨ c.leave.isSome then s
    else
      let f := match c.stopTok with
        | some t => some t.2
        | none => if reason < 16 then some ⟨BitVec.ofNat 8 cause, va, chainInfo seq g reason 0 false true⟩ else none
      let s := modStrand s a c.strand (fun t => { t with st := if t.st = .stopped then t.st else .parked, cause := none, reply := none, word := none, epiLeft := 0, epiIdx := 0 })
      modAgent s a (fun x => modChain { x with rx := { x.rx with held := [], cond := false } } (fun c => { c with
        inv := none, leave := some ⟨2, f⟩, inj := c.inj.or (w.bind (·.inj)) }))

/-- A member has confirmed; after the last, r and the members stand at NEXTSEQ and the next request is served (R303 steps 2 and 3). -/
def confirmEnd (s : State) (g a : Nat) : State :=
  modGroup s g (fun e =>
    match e.walker with
    | none => e
    | some w =>
      let left := w.confirm.erase a
      if left = [] then { e with walker := none, rel := e.next, buf := [], token := none, resend := none, bst := .idle }
      else { e with walker := some { w with confirm := left } })

/-- The unit is not confirmed: the beacon sends it again, behind what else is on its way to the member (R303 step 2). -/
def sendUnitAgain (s : State) (g a : Nat) (f : Flight) : State :=
  let s := popFlight s g a
  { s with light := { s.light with flight := s.light.flight ++ [f] } }

/-- CHAIN_END_UNIT: the unit reaches a member, and is confirmed once the member has completed its invocations below SEQ (R303). -/
def execChainEndUnit (group agent : Nat) (s : State) : Host.Outcome State Fault Refusal :=
  match nextFlight s group agent with
  | none => .next s
  | some f =>
    match f.what with
    | .block _ => .next s
    | .chainEnd reason va seq next cause =>
      let x := agentAt s agent
      if staleLight s group agent f then .next (popFlight s group agent)
      else if !receivesUnit s group agent ∨ x.stopped ∨ workBelow x group seq ∨ blocksBelow s group agent seq then .next (sendUnitAgain s group agent f)
      else
        let s := endMember (popFlight s group agent) group agent reason va seq cause
        .next (confirmEnd (modAgent s agent (fun x => dropBlocks x group seq next)) group agent)

/-- The blocks that the tile leaves in their slots are ordinary arrivals, in sequence order (07 R229, R293). -/
def returnBlocks (c : Chain) : Nat → Agent → Agent
  | 0, x => x
  | n + 1, x => match nextBlock x c with | none => x | some (i, _) => returnBlocks c n (pushHeader x i)

/-- How the chain leaves the tile now, if it does (07 R228, R229). -/
def leaving (c : Chain) : Option Leave :=
  match c.leave with
  | some l => some l
  | none => if c.stop && c.inv.isNone && c.stopTok.isNone then some ⟨1, none⟩ else none

/-- CHAIN_LEAVE: the strand is READY behind its WDRIVE with the status word, and takes the fault's trap; the MXE serves its queues again (07 R228, R229). -/
def execChainLeave (agent : Nat) (s : State) : Host.Outcome State Fault Refusal :=
  let x := agentAt s agent
  match x.rx.chain with
  | none => .next s
  | some c =>
    if x.stopped then .next s
    else
      match leaving c with
      | none => .next s
      | some l =>
        let told := match c.inj with
          | some (a, k) => if a = agent then pushEvent s a k (BitVec.ofNat 64 (3 * 2 ^ 56 + l.reason * 2 ^ 32 + c.group)) else some s
          | none => some s
        match told with
        | none => .next s
        | some s =>
          let s := modAgent s agent (fun x =>
            let x := returnBlocks c 8 x
            { x with rx := { x.rx with chain := none, held := [], cond := false } })
          let s := modStrand s agent c.strand (fun t => { t with
            st := .ready, cause := none, reply := none, word := none, lastBranch := none, mode := 0, pc := c.pc, epiLeft := 0, epiIdx := 0 })
          let s := setReg s agent c.strand c.dest.toNat (BitVec.ofNat 64 (c.blocks * 2 ^ 8 + l.reason))
          let s := match l.fault with
            | some f => trapEntry s agent c.strand f.cause.toNat c.pc f.addr f.info 0
            | none => s
          .next (kickMxe s agent)

end Sys2Proof.Machine
end

