-- ==== Sys2Proof/Machine/Cpe.lean ====
section
/-!
DEFINITION. The copy engine with its corner turn (06 R188 to R194), stream windows (R195 to R199), and their completion (R166 to R168). A copy lands in pieces
of 256 bytes of its issue order (15 R372, log 15).
-/

namespace Sys2Proof.Machine

/-! ### Where a copy's addresses lead -/

/-- What an engine finds at an address: a key of memory, a peer wafer's vault, a fault with the SUB of R170, or a translation that must be walked. -/
inductive Found where
  | key (k : Nat)
  | peer (w off : Nat)
  | bad (sub : Nat)
  | walk (va : Nat)
deriving DecidableEq, Repr

/-- A name of a peer address: a wafer other than this one (18 R401). -/
def peerWafer (n : Nat) : Option Nat :=
  if 0x3F00 ≤ n ∧ n < 0x3F40 ∧ n - 0x3F00 ≠ Config.waferNumber.toNat then some (n - 0x3F00) else none

/-- The context's ring is configured (18 R400). -/
def ringValid (s : State) (c : Nat) : Bool := (mget 0 s.trust.ulring c).getLsbD 63

/-- The failed walk of a tile's copy engine for a page of an address. -/
def copyWalkFailed (s : State) (a : Nat) (va : Nat) : Option Walk :=
  s.net.walks.find? (fun x => x.failed && x.who == .copy a && x.va / 2 ^ 16 == va / 2 ^ 16)

/-- An address as the copy engine of tile a reaches it for a context; w says that it is written (R188, R170, 18 R401). -/
def copyAddr (s : State) (a : Nat) (tag : Option Tag) (w : Bool) (addr : Word) : Found :=
  let n := addr.toNat
  match regionOf (isCore a) n with
  | .ls off => .key (keyLs a off)
  | .vault off => .key (keyVault a off)
  | .module k => .key k
  | .remLs name off =>
    if lsBytes ≤ off then .bad 1
    else match engineName s a tag name with | some p => .key (keyLs p off) | none => .bad 4
  | .remVault name off =>
    match peerWafer name, tag with
    | some v, some t => if w ∧ ringValid s t.cx.toNat then .peer v off else .bad 4
    | _, _ => match engineName s a tag name with | some p => .key (keyVault p off) | none => .bad 4
  | .virt va =>
    let t := tag.getD default
    match copyWalkFailed s a va with
    | some x => .bad (if x.denied.isSome then 3 else 2)
    | none =>
      match tlbFind s a t va 6 w with
      | none => .walk va
      | some e =>
        let ok := (if w then leafW e.leaf else leafR e.leaf) && encOk s t e va
        if ok then .key (leafKey e va) else .bad 3
  | .unmapped => .bad 1

/-- The engine's walk begins, unless it has one under way (15 R366). -/
def copyWalk (s : State) (a : Nat) (tag : Option Tag) (va : Nat) (w : Bool) : State :=
  if s.net.walks.any (fun x => !x.failed && x.who == .copy a) then s
  else addWalk ⟨.copy a, tag.getD default, va, 6, w, false, none, false, false, none⟩ s

/-- The engine of a tile has no walk under way. -/
def copyWalking (s : State) (a : Nat) : Bool := s.net.walks.any (fun x => !x.failed && x.who == .copy a)

/-! ### The bytes of a copy in issue order (R190, R192, 15 R372) -/

/-- Bytes of a copy. -/
def cpBytes (c : CpCmd) : Nat :=
  match c.fn.toNat with
  | 1 => (c.c.extractLsb' 0 32).toNat * (c.c.extractLsb' 32 32).toNat
  | 2 => (c.c1.extractLsb' 0 32).toNat * (c.c1.extractLsb' 32 16).toNat
  | 3 => (c.c1.extractLsb' 0 32).toNat * (c.c1.extractLsb' 32 16).toNat
  | _ => c.c.toNat

/-- Bytes of one element of CPYG and CPYS. -/
def cpElem (c : CpCmd) : Nat := (c.c1.extractLsb' 32 16).toNat
/-- Count of elements of CPYG and CPYS. -/
def cpCount (c : CpCmd) : Nat := (c.c1.extractLsb' 0 32).toNat

/-- A signed 32-bit field as an address offset. -/
def off32 (v : BitVec 32) : Word := v.signExtend 64
/-- A number as an address offset. -/
def offNat (n : Nat) : Word := BitVec.ofNat 64 n

/-- The destination offset of source byte t under the corner turn (R192). -/
def cornerOff (ct : CtSlot) (t : Nat) : Word :=
  let z := 2 ^ ct.esz.toNat
  let i := t / z
  let i0 := i % ct.c0.toNat
  let i1 := i / ct.c0.toNat % ct.c1.toNat
  let i2 := i / (ct.c0.toNat * ct.c1.toNat)
  offNat i0 * off32 ct.s0 + offNat i1 * off32 ct.s1 + offNat i2 * off32 ct.s2 + offNat (t % z)

/-- Address of source byte t. -/
def cpSrc (c : CpCmd) (idx : List Nat) (t : Nat) : Word :=
  match c.fn.toNat with
  | 1 => let rb := (c.c.extractLsb' 0 32).toNat; c.b + offNat (t / rb) * off32 (c.c1.extractLsb' 32 32) + offNat (t % rb)
  | 2 => let e := cpElem c; c.b + offNat (idx.getD (t / e) 0) * offNat e + offNat (t % e)
  | _ => c.b + offNat t

/-- Address of destination byte t. -/
def cpDst (c : CpCmd) (idx : List Nat) (t : Nat) : Word :=
  match c.fn.toNat with
  | 0 => match c.ct with | none => c.a + offNat t | some ct => c.a + cornerOff ct t
  | 1 => let rb := (c.c.extractLsb' 0 32).toNat; c.a + offNat (t / rb) * off32 (c.c1.extractLsb' 0 32) + offNat (t % rb)
  | 3 => let e := cpElem c; c.a + offNat (idx.getD (t / e) 0) * offNat e + offNat (t % e)
  | _ => c.a + offNat t

/-- Bytes of a piece: 256; all of a CPYM whose pieces would part an aligned word of a replica, which is one write (R191, log 15). -/
def pieceBytes (c : CpCmd) : Nat := if c.fn = 5 ∧ c.a.toNat % 8 ≠ 0 then max 256 (cpBytes c) else 256
/-- The pieces of a copy. -/
def cpPieces (c : CpCmd) : Nat := (cpBytes c + pieceBytes c - 1) / pieceBytes c
/-- The bytes of piece i, by their place in issue order. -/
def pieceRange (c : CpCmd) (i : Nat) : List Nat := (List.range (min (pieceBytes c) (cpBytes c - pieceBytes c * i))).map (pieceBytes c * i + ·)

/-- The pieces of CPY2D, CPYS and a corner turn land in issue order, since they may write one byte twice (R189, R190). -/
def inOrder (c : CpCmd) : Bool := c.fn == 1 || c.fn == 3 || c.ct.isSome

/-- Where the bytes of an address lie: context memory, or LS and vaults. One byte has addresses of one kind only (10 R273, R274). -/
def inContext (w : Word) : Bool := 2 ^ 48 ≤ w.toNat

/-- A copy some source byte of which may be one of its destination bytes; it reads its source whole first (R189). -/
def mayOverlap (c : CpCmd) (idx : List Nat) : Bool :=
  let ts := List.range (cpBytes c)
  let kinds := fun (f : CpCmd → List Nat → Nat → Word) => [true, false].filter (fun b => ts.any (fun t => inContext (f c idx t) == b))
  c.fn != 4 && (kinds cpSrc).any (fun b => if c.fn = 5 then b == false else (kinds cpDst).contains b)

/-! ### The copy table -/

def modCp (s : State) (a : Nat) (f : Cpe → Cpe) : State := modAgent s a (fun x => { x with cp := f x.cp })

/-- The entry of a command changed. -/
def modEntry (s : State) (a : Nat) (r : CpRun) (f : CpRun → CpRun) : State :=
  modCp s a (fun c => { c with table := modFirst (fun q => q.cmd.strand == r.cmd.strand && q.cmd.no == r.cmd.no) f c.table })

/-- What CPSTAT shows of a command (R193). -/
def modStat (s : State) (a : Nat) (c : CpCmd) (f : CopyStat → CopyStat) : State :=
  modStrand s a c.strand (fun t => { t with eng := { t.eng with copies := modFirst (fun q => q.no == c.no) f t.eng.copies } })

/-- The entries before one. -/
def earlierRuns (x : Agent) (r : CpRun) : List CpRun := x.cp.table.takeWhile (· != r)

/-- A command that moves bytes: MAJ 0x81; the others act on windows. -/
def CpRun.copies (r : CpRun) : Bool := r.cmd.fn.toNat ≤ 5

/-- The commands of one strand are one stream; window commands of every strand act in service order (R189, R195). -/
def sameStream (q r : CpRun) : Bool := q.cmd.strand == r.cmd.strand || (!q.copies && !r.copies)

/-- The engine may act on the entry: it is not done, and everything its strand sent before the push has been performed (01 R35). -/
def entryActive (s : State) (a : Nat) (r : CpRun) : Bool := !r.finished && storesDone s a r.cmd.strand r.cmd.no

/-- Piece i may land now, as far as its own copy goes. While a tile is stopped only pieces below one that has landed do (15 R369). -/
def pieceReady (s : State) (a : Nat) (r : CpRun) (i : Nat) : Bool :=
  r.copies && entryActive s a r && i < cpPieces r.cmd && !r.landed.contains i && !r.away.any (·.1 == i) && !copyWalking s a &&
    (!inOrder r.cmd || i == r.landed.length) && (!(agentAt s a).stopped || r.landed.any (i < ·))

/-- A byte as a requester of a context sees it (18 R402, R408). -/
def seeByte (s : State) (tag : Option Tag) (k : Nat) : Byte :=
  if plainTo s tag k then readByte s.mem k else BitVec.ofNat 8 (sealedRead s tag k 1)

/-- Copied bytes written: (key, byte, whether its source word was poisoned). A word written whole loses its mark first (19 R417). -/
def putCopied (m : Memory) (l : List (Nat × Byte × Bool)) : Memory :=
  let m := l.foldl (fun m q => writeByte m q.1 q.2.1) m
  let ks := l.map (·.1)
  let m := ks.foldl (fun m k => if k % 8 == 0 && (List.range 8).all (fun j => ks.contains (k + j)) then clearPoison m k 8 else m) m
  l.foldl (fun m q => if q.2.2 then markPoison m q.1 else m) m

/-- An entry whose command has stopped. -/
def endEntry (q : CpRun) : CpRun := { q with finished := true, faulted := true, pend := [], away := [] }

/-- A command of the engine stops on a fault (R168, R170): posted, its failed walk answered, its entry finished. -/
def cpFault (s : State) (a : Nat) (r : CpRun) (code sub : Nat) (addr : Word) : State :=
  let s := { s with net := { s.net with walks := s.net.walks.filter (fun x => !(x.failed && x.who == .copy a)) } }
  let s := postEngine s a r.cmd.strand (engineInfo sub r.cmd.fn.toNat 1 r.cmd.dn.tag.toNat code) addr
  let s := modStat s a r.cmd (fun c => { c with st := 4, code := BitVec.ofNat 8 code })
  modEntry s a r endEntry

/-- A command consumed poison: its strand fails, and it stops (19 R418). -/
def cpPoison (s : State) (a : Nat) (r : CpRun) (key : Nat) : State := modEntry (poisonCommand s a r.cmd.strand 2 key r.cmd.fn.toNat) a r endEntry

/-- The barrier of a command updated for bytes landed; a fault stops the command (R201, R203). -/
def cpBarrier (s : State) (a : Nat) (r : CpRun) (arrive : Bool) (bytes : Nat) : State × Bool :=
  match r.cmd.dn.bar with
  | none => (s, true)
  | some w =>
    match engineBar s a (tagOf s a r.cmd.strand) w arrive (-(bytes : Int)) with
    | (s, .made) => (s, true)
    | (s, .failed sub) => (cpFault s a r 4 sub w, false)
    | (s, .poisoned k) => (cpPoison s a r k, false)

/-! ### Lists -/

/-- Indices of CPYG and CPYS, or names of CPYM: LS address, count and bytes of each. -/
def listOf (c : CpCmd) : Option (Nat × Nat × Nat) :=
  match c.fn.toNat with
  | 2 => some (c.c.toNat, cpCount c, 4)
  | 3 => some (c.c.toNat, cpCount c, 4)
  | 5 => some (c.c1.toNat, c.k, 2)
  | _ => none

/-- The list is read when the command executes (R163, R191); one not aligned as R190 states posts OPERAND, since R190 does not check that at push. none: the command has
stopped. -/
def readList (s : State) (a : Nat) (r : CpRun) : State × Option (List Nat) :=
  match r.list with
  | some l => (s, some l)
  | none =>
    match listOf r.cmd with
    | none => (s, some [])
    | some (at', n, z) =>
      if at' % z ≠ 0 then (cpFault s a r 3 0 0, none)
      else if poisoned s.mem (keyLs a at') (n * z) then (cpPoison s a r (keyLs a at'), none)
      else
        let l := (List.range n).map (fun i => readNat s.mem (keyLs a (at' + z * i)) z)
        if r.cmd.fn = 5 ∧ l.any (fun v => 2 ^ 14 ≤ v) then (cpFault s a r 3 0 0, none)
        else (modEntry s a r (fun q => { q with list := some l }), some l)

/-! ### A piece lands -/

/-- The first address of a list that is not there, with its code. -/
def firstProblem (l : List (Nat × Word × Found)) : Option (Nat × Word × Found) :=
  l.find? (fun q => match q.2.2 with | .key _ => false | .peer _ _ => false | _ => true)

/-- Reads one source byte: its value and its mark. -/
def srcByte (s : State) (a : Nat) (r : CpRun) (idx : List Nat) (t : Nat) : Byte × Bool :=
  if r.cmd.fn = 4 then (r.cmd.b.extractLsb' (8 * (t % 8)) 8, false)
  else
    match r.snap with
    | some (d, ps) => (mget 0 d t, ps.contains t)
    | none =>
      let tag := tagOf s a r.cmd.strand
      match copyAddr s a tag false (cpSrc r.cmd idx t) with
      | .key k => (seeByte s tag k, poisonedAt s.mem k)
      | _ => (0, false)

/-- The source addresses of some bytes, as READ. -/
def srcChecks (s : State) (a : Nat) (r : CpRun) (idx : List Nat) (ts : List Nat) : List (Nat × Word × Found) :=
  if r.cmd.fn = 4 ∨ r.snap.isSome then []
  else ts.map (fun t => let w := cpSrc r.cmd idx t; (1, w, copyAddr s a (tagOf s a r.cmd.strand) false w))

/-- The destinations of byte t: one, or one in each replica of CPYM (R191). -/
def dstFound (s : State) (a : Nat) (r : CpRun) (idx : List Nat) (t : Nat) : List (Word × Found) :=
  let tag := tagOf s a r.cmd.strand
  if r.cmd.fn = 5 then
    idx.map (fun n => (r.cmd.a + offNat t, match engineName s a tag n with | some p => .key (keyVault p (r.cmd.a.toNat + t)) | none => .bad 4))
  else
    let w := cpDst r.cmd idx t
    [(w, match copyAddr s a tag true w with
      | .peer v o => if r.cmd.fn = 0 ∨ r.cmd.fn = 1 ∨ r.cmd.fn = 4 then .peer v o else .bad 4
      | f => f)]

/-- The wafer and offset that a barrier register names in peer form (18 R401). -/
def peerBar (r : CpRun) (v : Nat) : Option Nat :=
  match r.cmd.dn.bar with
  | none => none
  | some w => match regionOf false w.toNat with | .remVault n off => if peerWafer n = some v then some off else none | _ => none

/-- Bytes for one peer grouped by unbroken offsets. -/
def peerRuns : List (Nat × Nat × Byte) → List (Nat × Nat × List Byte)
  | [] => []
  | (w, o, b) :: t =>
    match peerRuns t with
    | (w', o', bs) :: rest => if w = w' ∧ o + 1 = o' then (w, o, b :: bs) :: rest else (w, o, [b]) :: (w', o', bs) :: rest
    | [] => [(w, o, [b])]

/-- The body of a peer copy's frame: the name, the offset, the barrier's offset plus 1 or 0, the copy's number and its piece, the data (log 16). -/
def peerBody (name off : Nat) (bar : Option Nat) (no piece : Nat) (data : List Byte) : List Byte :=
  natBytes 2 name ++ natBytes 3 off ++ natBytes 3 (match bar with | some b => b + 1 | none => 0) ++ natBytes 8 no ++ natBytes 4 piece ++ data

/-- The piece's bytes for memory of this wafer are written. -/
def writePiece (s : State) (a : Nat) (r : CpRun) (out : List (Found × Byte × Bool)) : State :=
  let tag := tagOf s a r.cmd.strand
  setMem s (putCopied s.mem (out.filterMap (fun q => match q.1 with | .key k => if plainTo s tag k then some (k, q.2.1, q.2.2) else none | _ => none)))

/-- A piece for a peer wafer leaves in frames; it has landed when every one is answered (18 R401). -/
def sendPiece (s : State) (a : Nat) (r : CpRun) (i : Nat) (out : List (Found × Byte × Bool)) : State :=
  let tag := (tagOf s a r.cmd.strand).getD default
  let there := peerRuns (out.filterMap (fun q => match q.1 with | .peer w o => some (w, o, q.2.1) | _ => none))
  let s := there.foldl (fun s p => sendFrame s tag p.1 1 (peerBody (nameOf s a) p.2.1 (peerBar r p.1) r.cmd.no i p.2.2)) s
  modEntry s a r (fun q => { q with away := q.away ++ [(i, there.length)] })

/-- The elements of CPYG that have landed whole with the pieces given. -/
def elemLanded (c : CpCmd) (landed : List Nat) (j : Nat) : Bool :=
  let e := cpElem c
  let z := pieceBytes c
  (List.range ((j * e + e - 1) / z + 1 - j * e / z)).all (fun i => landed.contains (j * e / z + i))

/-- Elements 0 to j of CPYG that follow what has been counted. -/
def landedFrom (c : CpCmd) (landed : List Nat) : Nat → Nat → List Nat
  | 0, _ => []
  | n + 1, j => if elemLanded c landed j then j :: landedFrom c landed n (j + 1) else []

/-- The queue elements that a piece of CPYG makes due (R190): in ascending j, or with ARR as they land. -/
def dueElems (r : CpRun) (i : Nat) (landed : List Nat) : List Nat :=
  if r.cmd.fn ≠ 2 ∨ r.cmd.dn.q = false then []
  else if r.cmd.arr then
    let e := cpElem r.cmd
    let lo := pieceBytes r.cmd * i / e
    let hi := (min (cpBytes r.cmd) (pieceBytes r.cmd * (i + 1)) - 1) / e
    ((List.range (hi + 1 - lo)).map (lo + ·)).filter (elemLanded r.cmd landed)
  else landedFrom r.cmd landed (cpCount r.cmd - r.pos) r.pos

/-- An element in strand k's copy completion queue: an acquire of what its command wrote (R167, 07 R209). -/
def pushCcq (s : State) (a k : Nat) (w : Word) : State := modStrand s a k (fun t => { t with eng := { t.eng with ccq := t.eng.ccq ++ [⟨w, none⟩] } })
/-- Room in that queue. -/
def ccqRoom (s : State) (a k : Nat) : Nat := completionCap - (strandAt s a k).eng.ccq.length

/-- The entry is the oldest of its strand's. -/
def oldestRun (x : Agent) (r : CpRun) : Bool := (earlierRuns x r).all (fun q => q.cmd.strand != r.cmd.strand)

/-- Elements of CPYG that may be pushed: those that are due, but for the one that would complete the command before an earlier one is complete (R167, R190). -/
def pushable (x : Agent) (r : CpRun) : List Nat := if r.finished && !oldestRun x r then r.pend.dropLast else r.pend

/-- Elements of CPYG that are due enter the queue as far as there is room. -/
def pushDue (s : State) (a : Nat) (r : CpRun) : State :=
  let n := min (ccqRoom s a r.cmd.strand) (pushable (agentAt s a) r).length
  let s := (r.pend.take n).foldl (fun s j => pushCcq s a r.cmd.strand (BitVec.ofNat 64 (r.cmd.dn.tag.toNat * 2 ^ 52 + 2 * 2 ^ 48 + j))) s
  modEntry s a r (fun q => { q with pend := q.pend.drop n })

/-- What a landing leaves in the table and in CPSTAT; the last one finishes the copy. -/
def landedPiece (s : State) (a : Nat) (r : CpRun) (i bytes : Nat) : State :=
  let landed := insertNat r.landed i
  let due := dueElems r i landed
  let r' := { r with landed := landed, bytes := r.bytes + bytes, pos := r.pos + (if r.cmd.arr then 0 else due.length), pend := r.pend ++ due,
                     finished := landed.length == cpPieces r.cmd }
  let s := modStat s a r.cmd (fun c => { c with landed := r'.bytes })
  pushDue (modEntry s a r (fun _ => r')) a r'

/-- The addresses a piece reads (1) and writes (2). -/
def pieceChecks (s : State) (a : Nat) (r : CpRun) (idx : List Nat) (ts : List Nat) : List (Nat × Word × Found) :=
  ts.flatMap (fun t => srcChecks s a r idx [t] ++ (dstFound s a r idx t).map (fun q => (2, q.1, q.2)))

/-- What a copy has still to write; none where an address of it is not known yet, or its list has not been read. -/
def leftToWrite (s : State) (a : Nat) (q : CpRun) : Option (List Nat) :=
  if (listOf q.cmd).isSome ∧ q.list.isNone then none
  else
    let ts := ((List.range (cpPieces q.cmd)).filter (fun i => !q.landed.contains i)).flatMap (pieceRange q.cmd)
    let fs := ts.flatMap (fun t => (dstFound s a q (q.list.getD []) t).map (·.2))
    if fs.any (fun f => match f with | .walk _ => true | _ => false) then none
    else some (fs.filterMap (fun f => match f with | .key k => some k | _ => none))

/-- The keys of some addresses, and whether one is of module or host memory. -/
def keysOf (l : List (Nat × Word × Found)) : List Nat := l.filterMap (fun q => match q.2.2 with | .key k => some k | _ => none)

/-- A copy earlier in the stream holds bytes back: it has still to write one of them (R189). A window command holds back every byte of module and host memory. -/
def heldBy (s : State) (a : Nat) (q : CpRun) (keys : List Nat) : Bool :=
  if q.finished then false
  else if !q.copies then keys.any (fun k => k < 2 ^ 61)
  else match leftToWrite s a q with | none => true | some l => keys.any (fun k => l.contains k)

/-- Bytes that a command of the copy engine touches now are held back: by an earlier command of its stream, or, in another tile's vault, by an older request of the tile on
its way there (R189, 09 R257). -/
def heldBack (s : State) (a : Nat) (r : CpRun) (keys : List Nat) : Bool :=
  (earlierRuns (agentAt s a) r).any (fun q => sameStream q r && heldBy s a q keys) ||
    s.net.reqs.any (fun q => q.src == a && q.no < r.cmd.no && keys.any (fun k => singleHome k && tileOfKey k != some a && q.atHome k))

/-- Piece i lands: it is read where it stands now or from the bytes taken before, written, and accounted to the barrier (R189 to R191, R201). -/
def landPiece (s : State) (a : Nat) (r : CpRun) (idx : List Nat) (i : Nat) : State :=
  let ts := pieceRange r.cmd i
  let checks := pieceChecks s a r idx ts
  match firstProblem checks with
  | some (code, _, .walk va) => copyWalk s a (tagOf s a r.cmd.strand) va (code == 2)
  | some (code, w, .bad sub) => cpFault s a r code sub w
  | _ =>
    if heldBack s a r (keysOf checks) then s
    else
    let out := ts.flatMap (fun t => let v := srcByte s a r idx t; (dstFound s a r idx t).map (fun q => (q.2, v.1, v.2)))
    let peers := out.filterMap (fun q => match q.1 with | .peer w _ => some w | _ => none)
    match peers with
    | w :: _ =>
      if r.cmd.dn.bar.isSome ∧ (peerBar r w).isNone then cpFault s a r 3 0 0
      else sendPiece (modEntry s a r (fun _ => r)) a r i out
    | [] =>
      match cpBarrier (writePiece s a r out) a r false out.length with
      | (s, true) => landedPiece s a r i out.length
      | (s, false) => s

/-- A peer wafer answers one frame of a piece: the piece has landed with the last one, and a fault stops the copy (18 R401, 06 R203). The address of a fault is the
destination's for code 2 and the barrier's for code 4; 255 says that the barrier was poisoned (log 16). -/
def peerAnswer (s : State) (a : Nat) (r : CpRun) (i code sub : Nat) : State :=
  let bar := r.cmd.dn.bar.getD 0
  let z := (pieceRange r.cmd i).length
  if r.finished then s
  else if code = 255 then modEntry (failStrand s a r.cmd.strand 3 cPOISON bar 0) a r endEntry
  else if code ≠ 0 then cpFault s a r code sub (if code = 4 then bar else cpDst r.cmd [] ((pieceRange r.cmd i).headD 0))
  else
    match r.away.find? (·.1 == i) with
    | none => s
    | some (_, n) =>
      let r' := { r with away := r.away.filter (·.1 != i) ++ (if n ≤ 1 then [] else [(i, n - 1)]) }
      let s := modEntry s a r (fun _ => r')
      if n ≤ 1 then landedPiece s a r' i z else s

/-- A copy whose source may share bytes with its destination takes its source whole before its first piece lands (R189). -/
def takeSource (s : State) (a : Nat) (r : CpRun) (idx : List Nat) : State × Option CpRun :=
  if r.snap.isSome || !mayOverlap r.cmd idx then (s, some r)
  else
    let ts := List.range (cpBytes r.cmd)
    let checks := srcChecks s a r idx ts
    match firstProblem checks with
    | some (_, _, .walk va) => (copyWalk s a (tagOf s a r.cmd.strand) va false, none)
    | some (code, w, .bad sub) => (cpFault s a r code sub w, none)
    | _ =>
      if heldBack s a r (keysOf checks) then (s, none)
      else
        let bs := ts.map (fun t => (t, srcByte s a r idx t))
        let r' := { r with snap := some (bs.map (fun q => (q.1, q.2.1)), (bs.filter (fun q => q.2.2)).map (·.1)) }
        (modEntry s a r (fun _ => r'), some r')

/-- The bytes of the list a command reads from LS. -/
def listKeys (a : Nat) (c : CpCmd) : List Nat := match listOf c with | none => [] | some (at', n, z) => (List.range (n * z)).map (fun i => keyLs a (at' + i))

/-- A length that disagrees with the corner-turn shape (R192). -/
def shapeBad (c : CpCmd) : Bool :=
  match c.ct with
  | none => false
  | some ct => c.c.toNat != ct.c0.toNat * ct.c1.toNat * ct.c2.toNat * 2 ^ ct.esz.toNat

/-- COPY_LANDING: piece of an entry of the copy table lands (R188, R189, R201). -/
def execCopyLanding (agent entry piece : Nat) (s : State) : Host.Outcome State Fault Refusal :=
  match (agentAt s agent).cp.table[entry]? with
  | none => .next s
  | some r =>
    if !pieceReady s agent r piece then .next s
    else if shapeBad r.cmd then .next (cpFault s agent r 8 0 0)
    else if r.list.isNone && heldBack s agent r (listKeys agent r.cmd) then .next s
    else
      match readList s agent r with
      | (s, none) => .next s
      | (s, some idx) =>
        let r := { r with list := if (listOf r.cmd).isSome then some idx else r.list }
        match takeSource s agent r idx with
        | (s, none) => .next s
        | (s, some r) => .next (landPiece s agent r idx piece)

/-! ### Acceptance (R36, R188) -/

/-- Entries of the copy table. -/
def tableCap : Nat := 1024

/-- A command enters the copy table; a copy of length 0 is done at once (R190). -/
def acceptCp (s : State) (a : Nat) (c : CpCmd) : State :=
  let s := modCp s a (fun x => { x with table := x.table ++ [⟨c, [], 0, none, none, 0, [], [], c.fn.toNat ≤ 5 && cpBytes c == 0, false⟩] })
  modStat s a c (fun q => { q with st := 2 })

/-- The CPE serves its queues while its table has room (01 R36, R188). -/
def serveCpe : Nat → State → Nat → State
  | 0, s, _ => s
  | n + 1, s, a =>
    let x := agentAt s a
    if x.stopped ∨ tableCap ≤ x.cp.table.length then s
    else
      match nextQueue x.cp.last (fun k => (strandOf x k).eng.cpq != []) with
      | none => s
      | some k =>
        match (strandOf x k).eng.cpq with
        | [] => s
        | c :: rest =>
          let s := modStrand s a k (fun t => { t with eng := { t.eng with cpq := rest } })
          serveCpe n (acceptCp (modCp s a (fun x => { x with last := k })) a c) a

/-- The CPE looks for work. -/
def kickCpe (s : State) (a : Nat) : State := serveCpe 16 s a

/-! ### Windows (R195 to R199) -/

/-- A window's capacity in lines. -/
def winCap (w : Window) : Nat := w.size * 64
def setWin (s : State) (a w : Nat) (v : Window) : State := modCp s a (fun c => { c with wins := mput c.wins w v })

/-- A line written back by the engine: the state with the line clean, or where it stops. -/
inductive Back where
  | done (s : State)
  | walk (va : Nat)
  | failed (sub : Nat) (addr : Word)

/-- The dirty bytes of a line of window w go home (R198). -/
def backLine (s : State) (a w : Nat) (v : Window) (l : WLine) : Back :=
  if l.dirty = 0 then .done s
  else
    let addr := BitVec.ofNat 64 (lineAddr v l.idx)
    match copyAddr s a (some v.tag) true addr with
    | .key k => let (m, l') := writeBackLine s (some v.tag) k l; .done (modAgent (setMem s m) a (fun x => putLine x w l'))
    | .walk va => .walk va
    | .bad sub => .failed sub addr
    | .peer _ _ => .failed 4 addr

/-- A held line of a window. -/
def heldLine (v : Window) (i : Nat) : Option WLine := v.lines.find? (fun l => l.idx == i)

/-- Some lines written back in order, each dropped afterwards when drop is set; the tail follows. -/
def backLines (a w : Nat) (drop : Bool) : List Nat → State → State × Option (Found × Word)
  | [], s => (s, none)
  | i :: rest, s =>
    match mget? (agentAt s a).cp.wins w with
    | none => (s, none)
    | some v =>
      let go := fun (s : State) =>
        let s := if drop then modCp s a (fun c => { c with wins := mmod v c.wins w (fun v => { v with lines := v.lines.filter (fun l => l.idx != i), tail := i + 1 }) }) else s
        backLines a w drop rest s
      match heldLine v i with
      | none => go s
      | some l =>
        match backLine s a w v l with
        | .done s => go s
        | .walk va => (s, some (.walk va, BitVec.ofNat 64 (lineAddr v i)))
        | .failed sub addr => (s, some (.bad sub, addr))

/-- HEAD follows the line that has been filled. -/
def raiseHead (s : State) (a w : Nat) (l : WLine) : State := modCp s a (fun c => { c with wins := c.wins.map (fun p => if p.1 = w then (p.1, { p.2 with head := l.idx + 1 }) else p) })

/-- WADV lands the fill of the line it has allocated, and HEAD increases (R197). -/
def fillLine (s : State) (a : Nat) (r : CpRun) (v : Window) (l : WLine) : State :=
  let addr := BitVec.ofNat 64 (lineAddr v l.idx)
  match copyAddr s a (some v.tag) false addr with
  | .walk va => copyWalk s a (some v.tag) va false
  | .key k =>
    let s := raiseHead (modAgent s a (fun x => putLine x r.cmd.k (refillLine s (some v.tag) k l))) a r.cmd.k l
    match cpBarrier s a r false 64 with
    | (s, true) => modEntry s a r (fun q => { q with pos := q.pos + 1, bytes := q.bytes + 64, finished := q.pos + 1 == r.cmd.a.toNat })
    | (s, false) => s
  | .bad sub => cpFault (raiseHead (modAgent s a (fun x => putLine x r.cmd.k { l with st := .faulted, code := sub })) a r.cmd.k l) a r 1 sub addr
  | .peer _ _ => cpFault (raiseHead (modAgent s a (fun x => putLine x r.cmd.k { l with st := .faulted, code := 4 })) a r.cmd.k l) a r 1 4 addr

/-- WADV takes its next line: the oldest goes when the window is full, then the line is allocated (R197). -/
def allocLine (s : State) (a : Nat) (r : CpRun) (v : Window) : State :=
  let evict := if v.head - v.tail = winCap v then backLines a r.cmd.k true [v.tail] s else (s, none)
  match evict with
  | (s, some (.walk va, _)) => copyWalk s a (some v.tag) va true
  | (s, some (.bad sub, addr)) => cpFault s a r 2 sub addr
  | (s, some (_, addr)) => cpFault s a r 2 1 addr
  | (s, none) =>
    let st : LineSt := if v.dir = 1 then .valid else .filling
    let s := modCp s a (fun c => { c with wins := mmod v c.wins r.cmd.k (fun v => { v with head := if v.dir = 1 then v.head + 1 else v.head, lines := v.lines ++ [⟨v.head, st, 0, 0, 0, 0, 0⟩] }) })
    if v.dir = 1 then modEntry s a r (fun q => { q with pos := q.pos + 1, finished := q.pos + 1 == r.cmd.a.toNat }) else s

/-- A window command may act: every earlier one of the tile is done, and every earlier copy of its strand that has still to write module or host memory (R189, R195). -/
def windowTurn (s : State) (a : Nat) (r : CpRun) : Bool :=
  entryActive s a r && (earlierRuns (agentAt s a) r).all (fun q => !sameStream q r || q.finished ||
    (q.copies && (match leftToWrite s a q with | none => false | some l => l.all (2 ^ 61 ≤ ·))))

/-- A WADV may act. -/
def fillReady (s : State) (a : Nat) (r : CpRun) : Bool :=
  r.cmd.fn == 0x22 && windowTurn s a r && !copyWalking s a && !(agentAt s a).stopped

/-- WINDOW_FILL: the next act of a WADV (R197). -/
def execWindowFill (agent entry : Nat) (s : State) : Host.Outcome State Fault Refusal :=
  match (agentAt s agent).cp.table[entry]? with
  | none => .next s
  | some r =>
    if !fillReady s agent r then .next s
    else
      match mget? (agentAt s agent).cp.wins r.cmd.k with
      | none => .next (cpFault s agent r 6 2 0)
      | some v =>
        if r.cmd.a.toNat = 0 ∨ winCap v < r.cmd.a.toNat then .next (cpFault s agent r 3 0 0)
        else
          match v.lines.find? (fun l => l.st == .filling) with
          | some l => .next (fillLine s agent r v l)
          | none => .next (allocLine s agent r v)

/-- The store range of a window overlaps a range (R195). -/
def rangesMeet (v : Window) (soff size : Nat) : Bool := soff < v.soff + v.size && v.soff < soff + size

/-- WOPEN takes effect (R196). -/
def openWindow (s : State) (a : Nat) (r : CpRun) : State :=
  let wins := (agentAt s a).cp.wins
  let size := (r.cmd.b.extractLsb' 0 8).toNat
  let soff := (r.cmd.b.extractLsb' 8 8).toNat
  if (mget? wins r.cmd.k).isSome then cpFault s a r 6 1 0
  else if wins.any (fun p => rangesMeet p.2 soff size) then cpFault s a r 6 3 0
  else
    let s := setWin s a r.cmd.k ⟨r.cmd.a, r.cmd.c, soff, size, r.cmd.b.extractLsb' 16 2, 0, 0, [], (tagOf s a r.cmd.strand).getD default⟩
    modEntry s a r (fun q => { q with finished := true })

/-- WSYNC and WCLOSE take effect (R198): lines are written back and dropped, and with BAR one arrival is made. -/
def syncWindow (s : State) (a : Nat) (r : CpRun) (close : Bool) : State :=
  match mget? (agentAt s a).cp.wins r.cmd.k with
  | none => cpFault s a r 6 2 0
  | some v =>
    let n := min r.cmd.a.toNat (v.head - v.tail)
    let drop := !close && n != 0
    let lines := if drop then (List.range n).map (v.tail + ·) else (List.range (v.head - v.tail)).map (v.tail + ·)
    let bytes := ((v.lines.filter (fun l => lines.contains l.idx)).map (fun l => popcOf 64 l.dirty.toNat)).sum
    match backLines a r.cmd.k drop lines s with
    | (_, some (.walk va, _)) => copyWalk s a (some v.tag) va true
    | (s, some (.bad sub, addr)) => cpFault s a r 2 sub addr
    | (s, some (_, addr)) => cpFault s a r 2 1 addr
    | (s, none) =>
      let s := if close then modCp s a (fun c => { c with wins := mdel c.wins r.cmd.k }) else s
      match cpBarrier s a r true 0 with
      | (s, true) => modEntry s a r (fun q => { q with bytes := bytes, finished := true })
      | (s, false) => s

/-- A window command that acts when it comes to its completion. -/
def windowReady (s : State) (a : Nat) (r : CpRun) : Bool :=
  (r.cmd.fn == 0x21 || r.cmd.fn == 0x23 || r.cmd.fn == 0x24) && windowTurn s a r && !copyWalking s a && !(agentAt s a).stopped

/-! ### Completion (R166 to R168) -/

/-- CMD of a completion element (07 R209): FN, and 9 to 11 for WADV, WSYNC, WCLOSE. -/
def cmdCode (fn : Nat) : Nat := if fn = 0x22 then 9 else if fn = 0x23 then 10 else if fn = 0x24 then 11 else fn

/-- The element pushed at completion: none without Q, for CPYG, or after a fault. -/
def copyElement (r : CpRun) : Option Word :=
  if r.cmd.dn.q && r.cmd.fn != 2 && !r.faulted then
    some (BitVec.ofNat 64 (r.cmd.dn.tag.toNat * 2 ^ 52 + cmdCode r.cmd.fn.toNat * 2 ^ 48 + r.bytes % 2 ^ 40))
  else none

/-- An entry has something to do for its completion: to leave the table when it is its strand's oldest, to push elements, or to act on a window. Elements wait for room in
their queue, also those of a DRAINING strand, whose queue no instruction empties any more (R166, 01 R37, log 99). -/
def completes (s : State) (a : Nat) (r : CpRun) : Bool :=
  let x := agentAt s a
  if r.pend != [] then pushable x r != [] && 0 < ccqRoom s a r.cmd.strand
  else if r.finished then oldestRun x r && (copyElement r == none || 0 < ccqRoom s a r.cmd.strand)
  else windowReady s a r

/-- What COMMAND_COMPLETION can do for a strand: the first of its CPE commands that has something to do (R167). -/
def cpCompletable (s : State) (a k : Nat) : Option CpRun := (agentAt s a).cp.table.find? (fun r => r.cmd.strand == k && completes s a r)

/-- The command leaves the table. -/
def leaveTable (s : State) (a : Nat) (r : CpRun) : State :=
  let s := match copyElement r with | some w => pushCcq s a r.cmd.strand w | none => s
  let s := if r.faulted then s else modStat s a r.cmd (fun c => { c with st := 3 })
  let s := modCp s a (fun c => { c with table := c.table.eraseP (fun q => q.cmd.strand == r.cmd.strand && q.cmd.no == r.cmd.no) })
  settle (kickCpe s a) a r.cmd.strand

/-- The CPE command of a strand completes, acts as a window command, or pushes elements that were waiting for room. -/
def completeCp (s : State) (a k : Nat) : State :=
  match cpCompletable s a k with
  | none => s
  | some r =>
    if r.pend ≠ [] then pushDue s a r
    else if r.finished then leaveTable s a r
    else if r.cmd.fn = 0x21 then openWindow s a r
    else syncWindow s a r (r.cmd.fn = 0x24)

/-- COMMAND_COMPLETION: the oldest command that a strand gave an engine completes, or elements of a CPYG are pushed (R167, R190). -/
def execCommandCompletion (agent strand : Nat) (cpe : Bool) (s : State) : Host.Outcome State Fault Refusal :=
  .next (if cpe then completeCp s agent strand else completeMx s agent strand)

end Sys2Proof.Machine
end

