-- ==== Sys2Proof/Machine/Engines.lean ====
section
/-!
DEFINITION. Matrix, copy, window and barrier instructions: MAJ 0x80 to 0x83 (06 R163 to R203). A command is pushed with the values of its registers; what it does
when its engine serves it stands in Mxe.lean and Cpe.lean.
-/

namespace Sys2Proof.Machine

/-- Entries of a strand's queue for an engine (01 R34). -/
def queueCap : Nat := 2

/-- A check at the push failed: ENGINE_FAULT with SYNC (R165, R169). -/
def syncFault {α : Type} (fn eng : Nat) (tag : BitVec 12) (code : Nat) : Exec α := trapAt cENGINE 0 (2 ^ 40 + engineInfo 0 fn eng tag.toNat code)

/-- A command for the MXE, once its queue has room (01 R34, R35); bad is the push check that failed, as a CODE. -/
def pushMx (fn : Nat) (tag : BitVec 12) (bad : Option Nat) (op : MxOp) : Exec Ctl := do
  match bad with
  | some c => syncFault fn 0 tag c
  | none =>
    modS (fun s =>
      let n := (curAgent s).nextNo
      let s := modCur s (fun t => { t with eng := { t.eng with mxq := t.eng.mxq ++ [⟨op, s.env.strand, n⟩] } })
      kickMxe (modCurAgent s (fun x => { x with nextNo := n + 1 })) s.env.agent)
    return .next

/-- Waits for room in the MXE queue. The push is a release of the strand's stores before it: the command waits for them (R35, 10 R285), and the strand does not. -/
def mxRoom : Exec Unit := until' .engine (fun s => (cur s).eng.mxq.length < queueCap)
/-- Waits for room in the CPE queue. -/
def cpRoom : Exec Unit := until' .engine (fun s => (cur s).eng.cpq.length < queueCap)

/-- The commands of a strand that its MXE has not completed (R186, R187). -/
def mxPending (x : Agent) (k : Nat) : Nat :=
  (strandOf x k).eng.mxq.length + (x.mx.runs.filter (fun r => r.fired.isNone && r.cmd.strand == k)).length
/-- The commands of a strand that its CPE has not completed (R194). -/
def cpPending (x : Agent) (k : Nat) : Nat := (strandOf x k).eng.cpq.length + (x.cp.table.filter (fun r => r.cmd.strand == k)).length

/-- The completion specifier with the barrier address of the push (R166); BR is read last (R163). -/
def doneOf (cs : Compl) : Exec Done := do
  let bar ← if cs.bar = 1 then (do return some (← readReg cs.br)) else pure none
  return ⟨bar, cs.q = 1, cs.tag⟩

/-! ### MAJ 0x80 -/

def execMxcfg (g : Guard) (f : BitVec 9) (mode bank : BitVec 2) (s : State) : Host.Outcome State Fault Refusal :=
  runWord s (engine g 0 [] (do mxRoom; pushMx 0 0 none (.cfg f mode bank)))

def execMxzero (g : Guard) (bank : BitVec 2) (s : State) : Host.Outcome State Fault Refusal :=
  runWord s (engine g 0 [] (do mxRoom; pushMx 1 0 none (.zero bank)))

/-- MXLDW: its extent is checked at the push (R174). -/
def execMxldw (g : Guard) (a : Reg) (sc : BitVec 1) (kq wt : BitVec 3) (buf : BitVec 1) (s : State) : Host.Outcome State Fault Refusal :=
  runWord s (engine g 0 [] (do
    mxRoom
    let v ← readReg a
    let w : WBuf := ⟨wt, kq, sc, []⟩
    let bad := v.toNat % wbufSize w ≠ 0 ∨ lsBytes < v.toNat + wbufBytes w
    pushMx 2 0 (if bad then some 3 else none) (.ldw v sc kq wt buf)))

/-- MXPASS: its faults are posted when it executes (R175). -/
def execMxpass (g : Guard) (a b : Reg) (mhalf : BitVec 1) (at' : BitVec 2) (asc zf : BitVec 1) (nm1 : BitVec 7) (buf : BitVec 1) (bank : BitVec 2)
    (s : State) : Host.Outcome State Fault Refusal :=
  runWord s (engine g 0 [] (do
    mxRoom
    let x ← readReg a
    let y ← readReg b
    pushMx 3 0 none (.pass x y mhalf at' asc zf nm1 buf bank)))

/-- MXARM (R178, R179). -/
def execMxarm (g : Guard) (a b : Reg) (slot : BitVec 3) (s : State) : Host.Outcome State Fault Refusal :=
  runWord s (engine g 0 [] (do
    mxRoom
    let w ← readReg a
    let d ← readReg b
    let bad := w.extractLsb' 48 16 ≠ 0 ∨ w.getLsbD 31 ∨ w.getLsbD 29 ∨ descBad d 128
    pushMx 4 0 (if bad then some 3 else none) (.arm slot w d)))

def execMxdisarm (g : Guard) (slot : BitVec 3) (s : State) : Host.Outcome State Fault Refusal :=
  runWord s (engine g 0 [] (do mxRoom; pushMx 5 0 none (.disarm slot)))

/-- MXDRAIN: DYN is resolved and the draw of SRD taken at the push (R181, 02 R53). -/
def execMxdrain (g : Guard) (a b c : Reg) (cs : Compl) (bank : BitVec 2) (s : State) : Host.Outcome State Fault Refusal :=
  runWord s (engine g 0 [] (do
    mxRoom
    let x ← readReg a
    let y ← readReg b
    let ctl ← readReg c
    let dn ← doneOf cs
    if drainBad ctl x.toNat y.toNat then syncFault 6 0 cs.tag 3
    let mode ← reads (fun s => effMode (cur s) (dcRm ctl))
    let draw ← drawFor mode
    pushMx 6 cs.tag none (.drain x y ctl bank (BitVec.ofNat 3 mode) (BitVec.ofNat 64 draw) dn)))

def execMxramp (g : Guard) (n : BitVec 16) (s : State) : Host.Outcome State Fault Refusal :=
  runWord s (engine g 0 [] (do mxRoom; pushMx 7 0 none (.ramp n)))

/-- MXWAIT (R186). -/
def execMxwait (g : Guard) (n : BitVec 8) (s : State) : Host.Outcome State Fault Refusal :=
  runWord s (engine g 0 [] (do
    until' .engine (fun s => mxPending (curAgent s) s.env.strand ≤ n.toNat)
    return .next))

/-- Word i of the entry of context c in the context table (15 R349). -/
def ctxWord (s : State) (c i : Nat) : Word := readWord s.mem ((s.os.cxtab.extractLsb' 12 44).toNat * 4096 + 64 * c + 8 * i)

/-- PERTURB of the strand's context (15 R349, R350). -/
def mayPerturb (s : State) : Bool :=
  match (cur s).tag with
  | none => false
  | some t => (ctxWord s t.cx.toNat 1).getLsbD 0

/-- MXPERT (R185). -/
def execMxpert (g : Guard) (a : Reg) (n m : BitVec 7) (bank : BitVec 2) (s : State) : Host.Outcome State Fault Refusal :=
  runWord s (engine g 0 [] (do
    mxRoom
    let v ← readReg a
    let ok ← reads mayPerturb
    pushMx 9 0 (if ok then none else some 7) (.pert bank m n v)))

/-- The mask of armed trigger slots. -/
def armedMask (x : Agent) : Nat := (List.range 8).foldl (fun acc i => if (mget? x.mx.trig i).isSome then acc + 2 ^ i else acc) 0

/-- The word MXSTAT gives (R187). -/
def mxstatWord (x : Agent) (k b : Nat) : Word :=
  let bk := bankOf x b
  BitVec.ofNat 64 (armedMask x * 2 ^ 56 + mxPending x k % 256 * 2 ^ 48 + bk.f.toNat * 2 ^ 32 + (if bk.float then 2 ^ 12 else 0) +
    bk.dflags.toNat * 2 ^ 4 + (if bk.sat then 2 else 0) + (if bk.inexact then 1 else 0))

/-- MXSTAT (R187). -/
def execMxstat (g : Guard) (a : Reg) (bank : BitVec 2) (s : State) : Host.Outcome State Fault Refusal :=
  runWord s (engine g 0 [a] (do
    writeReg a (← reads (fun s => mxstatWord (curAgent s) s.env.strand bank.toNat))
    return .next))

/-! ### MAJ 0x81 -/

/-- The commands CPSTAT remembers: the last 64 (R193). -/
def statCap : Nat := 64

/-- A command for the CPE (01 R34, R35): its push checks first, then the queue and CPSTAT. -/
def pushCp (c : CpCmd) (bad : Bool) : Exec Ctl := do
  if bad then syncFault c.fn.toNat 1 c.dn.tag 3
  modS (fun s =>
    let n := (curAgent s).nextNo
    let s := modCurAgent s (fun x => { x with nextNo := n + 1 })
    let s := modCur s (fun t =>
      let c := { c with strand := s.env.strand, no := n }
      let stats := if c.fn.toNat ≤ 5 then (⟨c.no, c.dn.tag, 1, 0, 0⟩ :: t.eng.copies).take statCap else t.eng.copies
      { t with eng := { t.eng with cpq := t.eng.cpq ++ [c], copies := stats } })
    kickCpe s s.env.agent)
  return .next

/-- A command with its operands; the strand and number are filled in at the push. -/
def cpCmd (fn : Nat) (a b c c1 : Word) (ct : Option CtSlot) (arr : Bool) (k : Nat) (dn : Done) : CpCmd :=
  ⟨BitVec.ofNat 6 fn, a, b, c, c1, ct, arr, k, dn, 0, 0⟩

/-- Lengths stay below 2^40 (R190). -/
def lenLimit : Nat := 2 ^ 40

/-- A corner-turn slot that no CTCFG has filled (R192). -/
def ct0 : CtSlot := ⟨0, 0, 0, 0, 0, 0, 0⟩

/-- CPY, through the corner turn when CT is set (R190, R192). -/
def execCpy (g : Guard) (a b c : Reg) (cs : Compl) (ctslot ct : BitVec 1) (s : State) : Host.Outcome State Fault Refusal :=
  runWord s (engine g 0 [] (do
    cpRoom
    let x ← readReg a
    let y ← readReg b
    let n ← readReg c
    let dn ← doneOf cs
    let slot ← reads (fun s => if ct = 1 then some (mget ct0 (cur s).eng.ct ctslot.toNat) else none)
    pushCp (cpCmd 0 x y n 0 slot false 0 dn) (lenLimit ≤ n.toNat)))

/-- The register pair of C (R163). -/
def pairOf (c : Reg) : Exec (Word × Word) := reads (fun s => (curReg s c.toNat, curReg s (c.toNat + 1)))

/-- CPY2D (R190). -/
def execCpy2d (g : Guard) (a b c : Reg) (cs : Compl) (s : State) : Host.Outcome State Fault Refusal :=
  runWord s (engine g 0 [] (do
    cpRoom
    let x ← readReg a
    let y ← readReg b
    let (n, n1) ← pairOf c
    let dn ← doneOf cs
    let cmd := cpCmd 1 x y n n1 none false 0 dn
    pushCp cmd (lenLimit ≤ cpBytes cmd)))

/-- The push checks of CPYG and CPYS (R190). -/
def gatherBad (c : CpCmd) : Bool :=
  cpElem c == 0 || c.c1.extractLsb' 48 16 != 0 || (c.arr && !c.dn.q) || lsBytes < c.c.toNat + 4 * cpCount c

/-- CPYG (R190). -/
def execCpyg (g : Guard) (a b c : Reg) (cs : Compl) (arr : BitVec 1) (s : State) : Host.Outcome State Fault Refusal :=
  runWord s (engine g 0 [] (do
    cpRoom
    let x ← readReg a
    let y ← readReg b
    let (n, n1) ← pairOf c
    let dn ← doneOf cs
    let cmd := cpCmd 2 x y n n1 none (arr = 1) 0 dn
    pushCp cmd (gatherBad cmd)))

/-- CPYS (R190). -/
def execCpys (g : Guard) (a b c : Reg) (cs : Compl) (s : State) : Host.Outcome State Fault Refusal :=
  runWord s (engine g 0 [] (do
    cpRoom
    let x ← readReg a
    let y ← readReg b
    let (n, n1) ← pairOf c
    let dn ← doneOf cs
    let cmd := cpCmd 3 x y n n1 none false 0 dn
    pushCp cmd (gatherBad cmd)))

/-- CPYF (R190). -/
def execCpyf (g : Guard) (a b c : Reg) (cs : Compl) (s : State) : Host.Outcome State Fault Refusal :=
  runWord s (engine g 0 [] (do
    cpRoom
    let x ← readReg a
    let y ← readReg b
    let n ← readReg c
    let dn ← doneOf cs
    pushCp (cpCmd 4 x y n 0 none false 0 dn) (lenLimit ≤ n.toNat)))

/-- CPYM (R191). -/
def execCpym (g : Guard) (a b c : Reg) (cs : Compl) (km1 : BitVec 4) (s : State) : Host.Outcome State Fault Refusal :=
  runWord s (engine g 0 [] (do
    cpRoom
    let x ← readReg a
    let y ← readReg b
    let (n, l) ← pairOf c
    let dn ← doneOf cs
    let k := km1.toNat + 1
    pushCp (cpCmd 5 x y n l none false k dn) (vaultBytes < x.toNat + n.toNat || l.toNat % 2 != 0 || lsBytes < l.toNat + 2 * k)))

/-- CPSTAT: the youngest command with the tag (R193). -/
def execCpstat (g : Guard) (a : Reg) (tag : BitVec 12) (s : State) : Host.Outcome State Fault Refusal :=
  runWord s (engine g 0 [a] (do
    let w ← reads (fun s =>
      match (cur s).eng.copies.find? (fun c => c.tag == tag) with
      | none => 0
      | some c => BitVec.ofNat 64 (c.st.toNat * 2 ^ 61 + c.code.toNat * 2 ^ 40 + c.landed % 2 ^ 40))
    writeReg a w
    return .next))

/-- CPWAIT (R194). -/
def execCpwait (g : Guard) (n : BitVec 10) (s : State) : Host.Outcome State Fault Refusal :=
  runWord s (engine g 0 [] (do
    until' .engine (fun s => cpPending (curAgent s) s.env.strand ≤ n.toNat)
    return .next))

/-! ### MAJ 0x82 -/

/-- CTCFG fills a slot of the strand (R192). -/
def execCtcfg (g : Guard) (a b c : Reg) (slot : BitVec 1) (s : State) : Host.Outcome State Fault Refusal :=
  runWord s (engine g 0 [] (do
    let x ← readReg a
    let y ← readReg b
    let z ← readReg c
    let ct : CtSlot := ⟨x.extractLsb' 0 16, x.extractLsb' 16 16, x.extractLsb' 32 16, x.extractLsb' 48 2, y.extractLsb' 0 32, y.extractLsb' 32 32, z.extractLsb' 0 32⟩
    if ct.c0 = 0 ∨ ct.c1 = 0 ∨ ct.c2 = 0 ∨ x.extractLsb' 50 14 ≠ 0 ∨ z.extractLsb' 32 32 ≠ 0 then syncFault 0x20 1 0 3
    modS (fun s => modCur s (fun t => { t with eng := { t.eng with ct := mput t.eng.ct slot.toNat ct } }))
    return .next))

/-- The push checks of WOPEN (R196). -/
def wopenBad (base ctl stride : Word) : Bool :=
  let size := (ctl.extractLsb' 0 8).toNat
  let soff := (ctl.extractLsb' 8 8).toNat
  ctl.extractLsb' 18 46 != 0 || ctl.extractLsb' 16 2 == 3 || size == 0 || 192 < soff + size || base.toNat < 2 ^ 48 || 2 ^ 56 ≤ base.toNat ||
    base.toNat % 64 != 0 || stride.toNat % 64 != 0 || stride.toInt.natAbs < 64

/-- WOPEN (R196). -/
def execWopen (g : Guard) (a b c : Reg) (w : BitVec 4) (s : State) : Host.Outcome State Fault Refusal :=
  runWord s (engine g 0 [] (do
    cpRoom
    let x ← readReg a
    let y ← readReg b
    let z ← readReg c
    pushCp (cpCmd 0x21 x y z 0 none false w.toNat ⟨none, false, 0⟩) (wopenBad x y z)))

/-- WADV (R197). -/
def execWadv (g : Guard) (a : Reg) (cs : Compl) (w : BitVec 4) (s : State) : Host.Outcome State Fault Refusal :=
  runWord s (engine g 0 [] (do
    cpRoom
    let x ← readReg a
    let dn ← doneOf cs
    pushCp (cpCmd 0x22 x 0 0 0 none false w.toNat dn) false))

/-- WSYNC (R198). -/
def execWsync (g : Guard) (a : Reg) (cs : Compl) (w : BitVec 4) (s : State) : Host.Outcome State Fault Refusal :=
  runWord s (engine g 0 [] (do
    cpRoom
    let x ← readReg a
    let dn ← doneOf cs
    pushCp (cpCmd 0x23 x 0 0 0 none false w.toNat dn) false))

/-- WCLOSE (R198). -/
def execWclose (g : Guard) (cs : Compl) (w : BitVec 4) (s : State) : Host.Outcome State Fault Refusal :=
  runWord s (engine g 0 [] (do
    cpRoom
    let dn ← doneOf cs
    pushCp (cpCmd 0x24 0 0 0 0 none false w.toNat dn) false))

/-! ### MAJ 0x83 -/

/-- The place of a barrier (R203). Outside the firmware map a core's access fails with the code of 10 R473, not that of R203 (log 95). -/
def barPlace (ga : Word) (load : Bool) : Exec Place := do
  if ga.toNat % 16 ≠ 0 then trapAt cMISALIGN ga 16
  let s ← getS
  match regionOf (isCore s.env.agent) ga.toNat with
  | .ls off => return ⟨keyLs s.env.agent off, true, none⟩
  | .vault off => return ⟨keyVault s.env.agent off, true, none⟩
  | .module k => return ⟨k, false, none⟩
  | .remVault n off =>
    match ← resolveName n with
    | some p => return ⟨keyVault p off, p == s.env.agent, none⟩
    | none => trapAt cNAME ga n
  | _ => trapAt (if load then cLOAD else cSTORE) ga (if isCore s.env.agent then 1 else 4)

/-- BINIT: one 16-byte write (R202). -/
def execBinit (g : Guard) (a : Reg) (p1 : BitVec 1) (count : BitVec 7) (s : State) : Host.Outcome State Fault Refusal :=
  runWord s (engine g 0 [] (do
    let ga ← readReg a
    let p ← barPlace ga false
    behindSbar
    modS (sendReq [⟨p.key, 16, .barInit, BitVec.ofNat 64 (p1.toNat * 2 ^ 63 + count.toNat * 2 ^ 56), count.setWidth 64, 0⟩] false)
    return .next))

/-- A barrier updated at its home, once; its faults are precise (R201, R203). before is what a release waits for. -/
def updateBar (fn : Nat) (ga : Word) (arrive : Bool) (dbytes : Word) (before : Exec Unit) : Exec Unit := do
  let r ← onceAtHome (do
    let p ← barPlace ga false
    behindSbar
    before
    atHome p ⟨p.key, 16, .barUpd arrive, dbytes, 0, 0⟩)
  notPoisoned ga fn r
  if r.code ≠ 0 then trapAt cBARRIER ga r.code

/-- BEXP (R202). -/
def execBexp (g : Guard) (a b : Reg) (s : State) : Host.Outcome State Fault Refusal :=
  runWord s (engine g 0 [] (do
    let ga ← readReg a
    let v ← readReg b
    updateBar 1 ga false v (pure ())
    return .next))

/-- BARV: a release, then one arrival (R202). -/
def execBarv (g : Guard) (a b : Reg) (scope : BitVec 2) (exp : BitVec 1) (s : State) : Host.Outcome State Fault Refusal :=
  runWord s (engine g 0 [] (do
    let ga ← readReg a
    let v ← if exp = 1 then readReg b else pure 0
    updateBar 2 ga true v (release scope.toNat)
    return .next))

/-- Word 0 of a barrier as the current strand sees it (10 R473, 18 R402). -/
def barWord (s : State) (key : Nat) : Word :=
  BitVec.ofNat 64 (if plainTo s (cur s).tag key then readNat s.mem key 8 else sealedRead s (cur s).tag key 8)

/-- BWAIT: WAITING until the phase differs (R202). A poisoned mark on either word of the barrier is consumed (log 100). -/
def execBwait (g : Guard) (a b : Reg) (scope : BitVec 2) (s : State) : Host.Outcome State Fault Refusal :=
  runWord s (engine g 0 [] (do
    let ga ← readReg a
    let v ← readReg b
    let p ← barPlace ga true
    behindSbar
    homeReady p.key
    let bad ← reads (fun s => poisoned s.mem p.key 16)
    notPoisoned ga 3 ⟨0, 0, bad, 0, p.key⟩
    until' .barrier (fun s => (barWord s p.key).getLsbD 63 != v.getLsbD 0)
    acquire scope.toNat
    return .next))

/-- BTEST (R202): it reads word 0 alone, and consumes a mark on that word alone (log 100). -/
def execBtest (g : Guard) (pc : PReg) (a b : Reg) (scope : BitVec 2) (s : State) : Host.Outcome State Fault Refusal :=
  runWord s (engine g 0 [] (do
    let ga ← readReg a
    let v ← readReg b
    let r ← onceAtHome (do
      let p ← barPlace ga true
      behindSbar
      atHome p ⟨p.key, 8, .read, 0, 0, 0⟩)
    notPoisoned ga 4 r
    let passed := r.val.getLsbD 63 != v.getLsbD 0
    modS (fun s => modCur s (fun t => setPred t pc (if passed then 1 else 0)))
    acquireIf passed scope
    return .next))

end Sys2Proof.Machine
end

