-- ==== Sys2Proof/Machine/Reduce.lean ====
section
/-!
DEFINITION. Reduction calls: MAJ 0xA1 (07 R218 to R223) and the reduction units of the routers (09 R260 to R272, 02 R66 to R72): exact partials, admission, backups
and deadlines, one rounding at the root, completion tokens, replays, and the ring between wafers (18 R400).
-/

namespace Sys2Proof.Machine

/-! ### Tree entries (09 R260) -/

/-- n bits of a tree entry from bit lo on; word 1 begins at bit 64. -/
def teField (e : BitVec 128) (lo n : Nat) : Nat := (e.extractLsb' lo n).toNat
def teTag (e : BitVec 128) : Tag := ⟨e.extractLsb' 58 6, e.extractLsb' 46 12⟩
def teState (e : BitVec 128) : Nat := teField e 44 2
def teParent (e : BitVec 128) : Nat := teField e 41 3
/-- A child port: 0 N, 1 E, 2 S, 3 W, 4 the own tile. -/
def teHas (e : BitVec 128) (p : Nat) : Bool := e.getLsbD (36 + p)
def teOp (e : BitVec 128) : Nat := teField e 32 4
def teType (e : BitVec 128) : Nat := teField e 28 4
def teMirv (e : BitVec 128) : Bool := e.getLsbD 27
def teMgrp (e : BitVec 128) : Nat := teField e 18 9
def teRing (e : BitVec 128) : Bool := e.getLsbD 17
def teBkv (e : BitVec 128) : Bool := e.getLsbD 79
def teBkp (e : BitVec 128) : Nat := teField e 76 3
def teBkb (e : BitVec 128) : Nat := teField e 73 3
/-- The router is the root of its tree. -/
def teRoot (e : BitVec 128) : Bool := 5 ≤ teParent e
/-- Entry g of router r. -/
def treeAt (s : State) (r g : Nat) : BitVec 128 := mget 0 s.net.trees (r * 512 + g)
/-- The routers with an ACTIVE entry of tree g. -/
def treeRouters (s : State) (g : Nat) : List Nat :=
  s.net.trees.filterMap (fun p => if p.1 % 512 = g ∧ teState p.2 = 1 then some (p.1 / 512) else none)
/-- Its member tiles (R261). -/
def treeMembers (s : State) (g : Nat) : List Nat := (treeRouters s g).filter (fun r => teHas (treeAt s r g) 4)
/-- Its root router. -/
def treeRoot (s : State) (g : Nat) : Option Nat := (treeRouters s g).find? (fun r => teRoot (treeAt s r g))

/-! ### Ports (09 R260, 20 R433) -/

/-- A row of no dead positions. -/
def row0 : Row := ⟨0, 0⟩
/-- A position that is dead, or fused off. -/
def deadPos (s : State) (p : Nat) : Bool := (mget row0 s.rel.rows (p / 17)).dead.getLsbD (p % 17) || s.boot.fuses.off.contains p

/-- The position next to (col, row) of the wafer's grid of 136 columns and 72 rows, through a port. -/
def nextPos (port col row : Nat) : Option (Nat × Nat) :=
  match port with
  | 0 => if row = 0 then none else some (col, row - 1)
  | 1 => if col + 1 = 136 then none else some (col + 1, row)
  | 2 => if row + 1 = 72 then none else some (col, row + 1)
  | _ => if col = 0 then none else some (col - 1, row)

/-- The live position that a port leads to, past dead ones. -/
def portWalk (s : State) : Nat → Nat → Nat → Nat → Option Nat
  | 0, _, _, _ => none
  | n + 1, port, col, row =>
    match nextPos port col row with
    | none => none
    | some (c, r) =>
      let p := physOf (8 * (r / 12) + c / 17) (c % 17) (r % 12)
      if deadPos s p then portWalk s n port c r else some p

/-- The router on the other side of a port N, E, S or W of router p. -/
def neighbour (s : State) (p port : Nat) : Option Nat := portWalk s 136 port (17 * (tileField p % 8) + tileCol p) (12 * (tileField p / 8) + tileRow p)

/-! ### Exact partials (02 R66 to R71) -/

/-- A reduction type is floating-point: FP32, BF16, E4M3, E5M2. -/
def tyFloat (ty : BitVec 4) : Bool := ty.toNat < 4
def tyFmt (ty : BitVec 4) : Fmt := match ty.toNat with | 0 => fp32 | 1 => bf16 | 2 => e4m3 | _ => e5m2
def tySigned (ty : BitVec 4) : Bool := ty = 4 ∨ ty = 5
def tyWidth (ty : BitVec 4) : Nat := 8 * typeBytes ty

/-- The position of the lowest set bit, 0 for 0. -/
def lowBit : Nat → Nat → Nat
  | 0, _ => 0
  | f + 1, n => if n = 0 ∨ n % 2 = 1 then 0 else 1 + lowBit f (n / 2)

/-- A floating-point sum fits the window form: at most 112 bits from its lowest set bit, and that bit at most 188 (R67, R69, 09 R264). -/
def fitsWindow (num : Int) : Bool :=
  let b := lowBit 400 num.natAbs
  let w := num / 2 ^ b
  b ≤ 188 && decide (-(2 ^ 111) ≤ w) && decide (w < 2 ^ 111)

/-- A contribution as an exact value; idx is its index for MAXIDX (R59). One that the window form does not take travels in broad form from the start (R67, 09 R264). -/
def pvalOf (op ty : BitVec 4) (raw : Word) (idx : Nat) : PVal :=
  if tyFloat ty then
    let x := Num.decode (tyFmt ty) raw.toNat
    { nan := x.isNan, pinf := x = .inf false, ninf := x = .inf true, negz := x = .zero true, nv := x.snan, num := x.toIntAt (-149)
      raw := if x.isNan then BitVec.ofNat 64 (tyFmt ty).nan else raw, idx := idx, broad := op == 0 && !fitsWindow (x.toIntAt (-149)) }
  else ⟨false, false, false, false, false, if op = 0 then intOf (tySigned ty) (tyWidth ty) raw.toNat else 0, raw, idx, false⟩

/-- a lies below b in the order of R58, on values of a type. -/
def rawLt (ty : BitVec 4) (a b : Word) : Bool :=
  if tyFloat ty then numLt true (Num.decode (tyFmt ty) a.toNat) (Num.decode (tyFmt ty) b.toNat)
  else intOf (tySigned ty) (tyWidth ty) a.toNat < intOf (tySigned ty) (tyWidth ty) b.toNat

/-- Two partials combined (R66, R70, R71, R59). -/
def joinPVal (op ty : BitVec 4) (a b : PVal) : PVal :=
  let nv := a.nv || b.nv
  match op.toNat with
  | 0 =>
    let n := a.num + b.num
    { nan := a.nan || b.nan, pinf := a.pinf || b.pinf, ninf := a.ninf || b.ninf, negz := a.negz && b.negz, nv := nv, num := n, raw := 0, idx := 0
      broad := a.broad || b.broad || (tyFloat ty && !fitsWindow n) }
  | 1 => { (if a.nan then a else if b.nan then b else if rawLt ty b.raw a.raw then b else a) with nv := nv }
  | 2 => { (if a.nan then a else if b.nan then b else if rawLt ty a.raw b.raw then b else a) with nv := nv }
  | 3 =>
    { (if a.nan ∧ b.nan then (if b.idx < a.idx then b else a)
       else if a.nan then a
       else if b.nan then b
       else if rawLt ty a.raw b.raw then b
       else if rawLt ty b.raw a.raw then a
       else if b.idx < a.idx then b else a) with nv := nv }
  | 4 => { a with raw := a.raw &&& b.raw }
  | 5 => { a with raw := a.raw ||| b.raw }
  | _ => { a with raw := a.raw ^^^ b.raw }

/-- The total of some partials. -/
def joinAll (op ty : BitVec 4) : List PVal → PVal
  | [] => default
  | v :: t => t.foldl (joinPVal op ty) v

/-- The root's rounding of a position: its words, flags and the overflow of R70 (R66, R70, R71); a signalling NaN that MIN, MAX or MAXIDX read raises NV (R49, R58,
log 36). -/
def roundPVal (op ty : BitVec 4) (sat : Bool) (v : PVal) : List Word × BitVec 5 × Bool :=
  match op.toNat with
  | 0 =>
    if tyFloat ty then
      let both := v.pinf && v.ninf
      let x : Num := if v.nan ∨ both then .nan false else if v.pinf then .inf false else if v.ninf then .inf true else Num.ofInt v.negz v.num (-149)
      let (r, fl) := roundTo (tyFmt ty) 0 sat 0 x
      ([BitVec.ofNat 64 r], fl ||| nvIf (both || v.nv), false)
    else
      let w := tyWidth ty
      ([BitVec.ofNat 64 (bitsOf w v.num)], 0, v.num < intMin (tySigned ty) w || intMax (tySigned ty) w < v.num)
  | 3 => ([v.raw, BitVec.ofNat 64 v.idx], nvIf v.nv, false)
  | _ => ([v.raw], nvIf v.nv, false)

/-! ### Calls as the routers see them (09 R262 to R264) -/

/-- The call of group g at router r. -/
def rduOf (s : State) (r g : Nat) : Option RduCall := s.net.rdus.find? (fun c => c.router == r && c.group == g)
/-- The call put in the place of the one of its router and group. -/
def putRdu (s : State) (c : RduCall) : State :=
  { s with net := { s.net with rdus := s.net.rdus.filter (fun d => !(d.router == c.router && d.group == c.group)) ++ [c] } }

/-- The open call of a tile still sends packets: the tile is not stopped (15 R369), the completion token is not on its way, and no contribution was lost
(19 R418). -/
def offering (s : State) (a g : Nat) : Option OpenCall :=
  match callOf (agentAt s a) g with
  | none => none
  | some c => if (agentAt s a).stopped || c.missing || s.net.tokens.any (fun t => t.agent == a && t.group == g && t.seq == c.seq) then none else some c

/-- The first packet of a call that a child port has brought: KIND 1 and position 0 (R262, R263). -/
def isFirst (r g p : Nat) (k : Packet) : Bool := k.router == r && k.hdr.group.toNat == g && k.port == p && k.hdr.kind == 1 && k.hdr.pos == 0
def firstPacket (s : State) (r g p : Nat) : Option Packet := s.net.packets.find? (isFirst r g p)

/-- The child ports of an entry. -/
def childPorts (e : BitVec 128) : List Nat := (List.range 5).filter (teHas e)

/-- The ports a call takes, with the choice of a backup pair made (R267). -/
def usedPorts (e : BitVec 128) (backup : Option Bool) : List Nat :=
  match backup with
  | some true => (childPorts e).filter (· != teBkp e)
  | some false => (childPorts e).filter (· != teBkb e)
  | none => childPorts e

/-- The choice of R267 at admission: made already; or the primary when it is there within the deadline; or after it whichever of the two came first. -/
def chooseBackup (s : State) (r g : Nat) (e : BitVec 128) : Option Bool :=
  let c := rduOf s r g
  match c.bind (·.backup) with
  | some b => some b
  | none =>
    if c.any (fun c => 1 ≤ c.waited) then (s.net.packets.find? (fun k => isFirst r g (teBkp e) k || isFirst r g (teBkb e) k)).map (fun k => !isFirst r g (teBkp e) k)
    else if (firstPacket s r g (teBkp e)).isSome then some false
    else none

/-- Calls an RDU holds (R263). -/
def rduCap : Nat := 32

/-- ULRING of the context that owns a tree. -/
def ringOf (s : State) (g r : Nat) : Word := mget 0 s.trust.ulring (teTag (treeAt s r g)).cx.toNat

/-- Fields of ULRING (18 R400). -/
def urValid (w : Word) : Bool := w.getLsbD 63
def urRoot (w : Word) : Nat := (w.extractLsb' 51 6).toNat
def urNext (w : Word) : Nat := (w.extractLsb' 45 6).toNat
def urPrev (w : Word) : Nat := (w.extractLsb' 39 6).toNat
def urPos (w : Word) : Nat := (w.extractLsb' 26 6).toNat
/-- This wafer's number. -/
def thisWafer : Nat := Config.waferNumber.toNat

/-! ### Frames of a ring call (02 R68 to R72, 09 R272)

A frame body of this model names its call, then holds one part for each 32 positions (log 19): a compact block of R72, or the elements one by one in window
form (R69), broad form (R68), or value and index (R262). -/

/-- The value of a partial in units of 2^-149 of the broad scale; an integer has weight 1 (R69). -/
def broadUnits (ty : BitVec 4) (v : PVal) : Int := if tyFloat ty then v.num else v.num * 2 ^ 149

/-- CODE and INT of an element in a compact block, none when R72 does not take it. -/
def compactElem (base : Nat) (ty : BitVec 4) (v : PVal) : Option (Nat × Int) :=
  if v.nan ∨ (v.pinf ∧ v.ninf) then some (2, 0)
  else if v.pinf then some (3, 1)
  else if v.ninf then some (3, -1)
  else if v.negz then some (1, 0)
  else
    let n := broadUnits ty v
    if n % 2 ^ base ≠ 0 then none
    else
      let i := n / 2 ^ base
      if -(2 ^ 39) ≤ i ∧ i < 2 ^ 39 then some (0, i) else none

/-- A compact block of at most 32 elements, as a number of 1,360 bits (R72). -/
def compactBlock (base : Nat) (es : List (Nat × Int)) : Nat :=
  let ints := es.zipIdx.foldl (fun acc e => acc + bitsOf 40 e.1.2 * 2 ^ (40 * e.2)) 0
  let codes := es.zipIdx.foldl (fun acc e => acc + e.1.1 * 2 ^ (2 * e.2)) 0
  let sum := es.foldl (fun acc e => if e.1 = 0 then acc + e.2 else acc) (0 : Int)
  ints + codes * 2 ^ 1280 + residueOf sum * 2 ^ 1344 + base * 2 ^ 1351

/-- The four flags of the window and broad forms. -/
def pflags (v : PVal) : Nat := (if v.nan then 1 else 0) + (if v.pinf then 2 else 0) + (if v.ninf then 4 else 0) + (if v.negz then 8 else 0)

/-- A window-form element (R69). -/
def windowElem (ty : BitVec 4) (v : PVal) : Nat :=
  let n := broadUnits ty v
  let b := if tyFloat ty then lowBit 400 n.natAbs else 149
  bitsOf 112 (n / 2 ^ b) + (if n = 0 ∧ tyFloat ty then 0 else b) * 2 ^ 112 + pflags v * 2 ^ 121

/-- A broad-form element (R68). -/
def broadElem (ty : BitVec 4) (v : PVal) : Nat :=
  let n := broadUnits ty v
  n.natAbs + (if n < 0 then 2 ^ 300 else 0) + pflags v * 2 ^ 301 + residueOf n * 2 ^ 313

/-- The values of a partial cut into blocks of 32 (R272). -/
def ringBlocks (vals : List PVal) : List (List PVal) := chunks 32 vals.length vals

/-- A contribution to a hop has a set bit below the weight of INT bit 0, whatever NaN or infinity meets it (R72). -/
def belowBase (base : Nat) (ty : BitVec 4) (v : PVal) : Bool := decide (broadUnits ty v % 2 ^ base ≠ 0)

/-- Whether each block of a SUM has escalated: earlier on the ring, or because a sum of this hop or a contribution to it fails R72 (R272). The blocks of other operators are
never compact. -/
def escalated (base : Nat) (op ty : BitVec 4) (parts : List (List PVal)) (vals : List PVal) (esc : List Bool) : List Bool :=
  (ringBlocks vals).zipIdx.map (fun b => op == 0 && (esc.getD b.2 false || b.1.any (fun v => (compactElem base ty v).isNone) ||
    parts.any (fun l => ((ringBlocks l).getD b.2 []).any (belowBase base ty))))

/-- Mask of the elements that carry NV: a signalling NaN, or opposite infinities (log 19). -/
def nvMask (vs : List PVal) : Nat := vs.zipIdx.foldl (fun acc v => if v.1.nv || (v.1.pinf && v.1.ninf) then acc + 2 ^ v.2 else acc) 0

/-- The bytes of one block. -/
def blockBytes (base : Nat) (op ty : BitVec 4) (esc : Bool) (vs : List PVal) : List Byte :=
  natBytes 4 (nvMask vs) ++
  (if op ≠ 0 then natBytes 1 3 ++ vs.flatMap (fun v => natBytes 1 (pflags v) ++ natBytes 8 v.raw.toNat ++ natBytes 8 v.idx)
   else if !esc then natBytes 1 0 ++ natBytes 170 (compactBlock base (vs.map (fun v => (compactElem base ty v).getD (0, 0))))
   else natBytes 1 1 ++ vs.flatMap (fun v => if v.broad then natBytes 1 2 ++ natBytes 40 (broadElem ty v) else natBytes 1 1 ++ natBytes 16 (windowElem ty v)))

/-- The body of a partial on the ring: group, SEQ, ESCAPES, members so far, the wafer it is a backup of (255 none), ATT, and the blocks. -/
def ringBody (base att : Nat) (c : RduCall) (escapes before : Nat) (backup : Option Nat) (vals : List PVal) (esc : List Bool) : List Byte :=
  natBytes 2 c.group ++ natBytes 4 c.seq.toNat ++ natBytes 1 (min escapes 255) ++ natBytes 4 before ++ natBytes 1 (backup.getD 255) ++ natBytes 1 att ++
    natBytes 4 vals.length ++ (ringBlocks vals).zipIdx.flatMap (fun b => blockBytes base c.op c.ty (esc.getD b.2 false) b.1)

/-- Flags of an element back from its four bits. -/
def withFlags (f : Nat) (v : PVal) : PVal := { v with nan := f % 2 = 1, pinf := f / 2 % 2 = 1, ninf := f / 4 % 2 = 1, negz := f / 8 % 2 = 1 }

/-- The value of broad units as the type counts. -/
def fromUnits (ty : BitVec 4) (n : Int) : Int := if tyFloat ty then n else n / 2 ^ 149

/-- The value of CODE and INT (R72). -/
def readCode (base : Nat) (ty : BitVec 4) (e : Nat × Int) : PVal :=
  match e.1 with
  | 1 => { (default : PVal) with negz := true }
  | 2 => { (default : PVal) with nan := true }
  | 3 => if e.2 = 1 then { (default : PVal) with pinf := true } else { (default : PVal) with ninf := true }
  | _ => { (default : PVal) with num := fromUnits ty (e.2 * 2 ^ base) }

/-- The elements of a compact block, none when it breaks R72; INT of CODE 2, for which the rule has no value, must be 0 (log 110). -/
def readCompact (base : Nat) (ty : BitVec 4) (n w : Nat) : Option (List PVal) :=
  let es : List (Nat × Int) := (List.range n).map (fun i => (w / 2 ^ (1280 + 2 * i) % 4, intOf true 40 (w / 2 ^ (40 * i))))
  let ok := es.all (fun e => match e.1 with | 0 => true | 3 => e.2 == 1 || e.2 == -1 | _ => e.2 == 0)
  let sum := es.foldl (fun acc e => if e.1 = 0 then acc + e.2 else acc) (0 : Int)
  if !ok ∨ w / 2 ^ 1351 % 512 ≠ base ∨ w / 2 ^ 1344 % 128 % 127 ≠ residueOf sum then none
  else some (es.map (readCode base ty))

/-- A window-form element keeps R69: reserved bits 0; BASE at most 188 and WIN odd or 0 for a floating-point TYPE; BASE 149 and no flag for an integer one. -/
def windowOk (ty : BitVec 4) (w : Nat) : Bool :=
  let base := w / 2 ^ 112 % 512
  w / 2 ^ 125 == 0 &&
    (if tyFloat ty then decide (base ≤ 188) && (w % 2 == 1 || w % 2 ^ 112 == 0) else base == 149 && w / 2 ^ 121 % 16 == 0)

/-- One element in window or broad form, with the bytes it leaves. -/
def readElem (ty : BitVec 4) (bs : List Byte) : Option (PVal × List Byte) :=
  match bs with
  | [] => none
  | f :: t =>
    if f = 2 then
      let w := leNat (t.take 40)
      let n : Int := (w % 2 ^ 300 : Nat)
      let n := if w / 2 ^ 300 % 2 = 1 then -n else n
      if w / 2 ^ 313 % 128 % 127 ≠ residueOf n ∨ t.length < 40 then none
      else some ({ withFlags (w / 2 ^ 301) default with num := fromUnits ty n, broad := true }, t.drop 40)
    else
      let w := leNat (t.take 16)
      let n := intOf true 112 w * 2 ^ (w / 2 ^ 112 % 512)
      if t.length < 16 ∨ !windowOk ty w then none
      else some ({ withFlags (w / 2 ^ 121) default with num := fromUnits ty n }, t.drop 16)

/-- n elements one after another. -/
def readElems (op ty : BitVec 4) : Nat → List Byte → Option (List PVal × List Byte)
  | 0, bs => some ([], bs)
  | n + 1, bs =>
    let one : Option (PVal × List Byte) :=
      if op = 0 then readElem ty bs
      else if bs.length < 17 then none
      else some ({ withFlags (leNat (bs.take 1)) default with raw := BitVec.ofNat 64 (leNat ((bs.drop 1).take 8)), idx := leNat ((bs.drop 9).take 8) }, bs.drop 17)
    match one with
    | none => none
    | some (v, rest) => match readElems op ty n rest with | none => none | some (vs, rest) => some (v :: vs, rest)

/-- The blocks of a body, with their escalation marks. -/
def readBlocks (base : Nat) (op ty : BitVec 4) : Nat → Nat → List Byte → Option (List PVal × List Bool)
  | 0, _, _ => none
  | f + 1, n, bs =>
    if n = 0 then some ([], [])
    else
      let m := min n 32
      let mask := leNat (bs.take 4)
      let form := leNat ((bs.drop 4).take 1)
      let body := bs.drop 5
      let here : Option (List PVal × List Byte) :=
        if form = 0 then (readCompact base ty m (leNat (body.take 170))).map (fun vs => (vs, body.drop 170)) else readElems op ty m body
      match here with
      | none => none
      | some (vs, rest) =>
        match readBlocks base op ty f (n - m) rest with
        | none => none
        | some (more, esc) => some (vs.zipIdx.map (fun v => { v.1 with nv := mask / 2 ^ v.2 % 2 = 1 }) ++ more, (form = 1) :: esc)

/-! ### The end of a call -/

/-- A call's traces in the routers go: its packets and partials, its attempt, and its partials from other wafers. The routers keep its SEQ as completed (R263). -/
def clearCall (s : State) (g : Nat) (seq : BitVec 32) : State :=
  { s with net := { s.net with
      rdus := s.net.rdus.filter (fun c => c.group != g)
      packets := s.net.packets.filter (fun k => k.hdr.group.toNat != g)
      done := (treeRouters s g).foldl (fun m r => mmod [] m (r * 512 + g) (fun l => if l.contains seq then l else seq :: l)) s.net.done
      atts := mdel s.net.atts g
      ringIn := s.net.ringIn.filter (fun r => r.group != g) } }

/-- Tokens to every member of a group (R266); a member that has opened a call with another SEQ is told of its own. -/
def sendTokens (s : State) (g : Nat) (seq : BitVec 32) (abort status : Nat) (results : Nat → Option (List Word)) : State :=
  let ts := (treeMembers s g).filterMap (fun m =>
    let sq := match offering s m g with | some c => c.seq | none => seq
    if s.net.tokens.any (fun t => t.agent == m && t.group == g && t.seq == sq) then none
    else some (⟨teTag (treeAt s m g), m, g, sq, results m, status, abort, false, none⟩ : CallToken))
  { s with net := { s.net with tokens := s.net.tokens ++ ts } }

/-- SEQ of the call of a group that is under way: at a router, or where a member opened it. -/
def groupSeq (s : State) (g : Nat) : BitVec 32 :=
  match s.net.rdus.find? (fun c => c.group == g) with
  | some c => c.seq
  | none => match (treeMembers s g).findSome? (fun m => offering s m g) with | some c => c.seq | none => 0

/-- The call of group g ends unwritten on this wafer (R223, R263). -/
def endAbort (s : State) (g reason : Nat) : State :=
  let bk := if s.net.rdus.any (fun c => c.group == g && c.backup == some true) then 64 else 0
  clearCall (sendTokens s g (groupSeq s g) reason (reason * 2 ^ 16 + bk) (fun _ => none)) g (groupSeq s g)

/-- The call of group g ends unwritten; on the ring an abort goes to the next wafer (R272). from is the wafer that found it. -/
def abortGroup (s : State) (g reason from' : Nat) : State :=
  let seq := groupSeq s g
  let s' := endAbort s g reason
  match treeRoot s g with
  | none => s'
  | some r =>
    let w := ringOf s g r
    if teRing (treeAt s r g) ∧ urValid w ∧ urNext w ≠ from' then
      sendFrame s' (teTag (treeAt s r g)) (urNext w) 4 (natBytes 2 g ++ natBytes 4 seq.toNat ++ natBytes 1 reason ++ natBytes 1 from')
    else s'

/-- Words of results laid out as bytes of the type (07 R221). -/
def wordsBytes (op ty : BitVec 4) (ws : List Word) : List Byte := ws.flatMap (fun w => natBytes (if op = 3 then 8 else typeBytes ty) w.toNat)

/-- Results and status of a finished call: what the root's rounding gave (R266, 07 R222). -/
def roundCall (c : RduCall) (vals : List PVal) (escapes : Nat) (backup : Bool) : List Word × Nat :=
  let rs := vals.map (roundPVal c.op c.ty c.sat)
  let fl := rs.foldl (fun acc r => acc ||| r.2.1) (0 : BitVec 5)
  let iovf := rs.any (fun r => r.2.2)
  (rs.flatMap (·.1), min escapes 255 * 2 ^ 24 + (if iovf then 2 ^ 7 else 0) + (if backup then 2 ^ 6 else 0) + fl.toNat)

/-- Results go down the tree, and the tokens after them (R266). here: this wafer's root tile receives results without ALL. -/
def sendDown (s : State) (r g : Nat) (seq : BitVec 32) (all here : Bool) (res : List Word) (status : Nat) : State :=
  clearCall (sendTokens s g seq 0 status (fun m => if all ∨ (here ∧ m = r) then some res else none)) g seq

/-- A call finished at its root. On a ring, results and token go on to the next wafer. -/
def finishCall (s : State) (r g : Nat) (c : RduCall) (vals : List PVal) (escapes : Nat) (backup : Bool) : State :=
  let (res, status) := roundCall c vals escapes backup
  let e := treeAt s r g
  let s' := sendDown s r g c.seq c.all true res status
  if teRing e ∧ urNext c.ring ≠ thisWafer then
    sendFrame s' (teTag e) (urNext c.ring) 3
      (natBytes 2 g ++ natBytes 4 c.seq.toNat ++ natBytes 4 status ++ natBytes 1 (if c.all then 1 else 0) ++
        (if c.all then natBytes 4 res.length ++ res.flatMap (fun w => natBytes 8 w.toNat) else natBytes 4 0))
  else s'

/-! ### Replays (R270, R271) -/

/-- The attempt of a group's call. -/
def attemptOf (s : State) (g : Nat) : Attempt := mget ⟨0, 0⟩ s.net.atts g

/-- The attempt on this wafer ends: its partials and packets are discarded, and every member sends its retained contribution again under the next ATT. The choice of a
backup stands. -/
def restartHere (s : State) (g : Nat) (counts : Bool) : State :=
  let a := attemptOf s g
  let s := (treeMembers s g).foldl (fun s m => modAgent s m (fun x => match callOf x g with | some c => putCall x { c with sent := 0 } | none => x)) s
  { s with net := { s.net with
      rdus := s.net.rdus.filterMap (fun c =>
        if c.group ≠ g then some c else if c.backup = some true then some { c with admitted := false, out := [], fwd := 0, sent := false } else none)
      packets := s.net.packets.filter (fun k => k.hdr.group.toNat != g)
      ringIn := s.net.ringIn.filter (fun p => p.group != g)
      atts := mput s.net.atts g ⟨(a.att + 1) % 256, if counts then a.replays + 1 else a.replays⟩ } }

/-- On a ring, the wafers after this one end their attempts too; from is the wafer that ended it first (log 19: REASON 0 counts, 255 does not). -/
def passRestart (s : State) (g : Nat) (counts : Bool) (from' : Nat) : State :=
  match treeRoot s g with
  | none => s
  | some r =>
    let w := ringOf s g r
    if teRing (treeAt s r g) ∧ urValid w ∧ urNext w ≠ from' ∧ urNext w ≠ thisWafer then
      sendFrame s (teTag (treeAt s r g)) (urNext w) 4 (natBytes 2 g ++ natBytes 4 (groupSeq s g).toNat ++ natBytes 1 (if counts then 0 else 255) ++ natBytes 1 from')
    else s

/-- The call of a group starts again, on every wafer that it spans (R270). -/
def restartCall (s : State) (g : Nat) (counts : Bool) : State := passRestart (restartHere s g counts) g counts thisWafer

/-- A call of the group is under way. -/
def callActive (s : State) (g : Nat) : Bool :=
  s.net.rdus.any (fun c => c.group == g) || (treeMembers s g).any (fun m => (offering s m g).any (fun c => c.given != 0))

/-- The current attempt has sent something: two events that end one attempt are one replay (R271). -/
def attemptBegun (s : State) (g : Nat) : Bool :=
  s.net.rdus.any (fun c => c.group == g && (c.admitted || c.out != [])) || s.net.packets.any (fun k => k.hdr.group.toNat == g) ||
    (treeMembers s g).any (fun m => (offering s m g).any (fun c => c.sent != 0))

/-- Replays before a call ends with REPLAY_LIMIT (R270). -/
def replayLimit : Nat := 4

/-- A replay that counts; after four of one call the call ends (R270). -/
def replayCall (s : State) (g : Nat) : State :=
  if !callActive s g || !attemptBegun s g then s
  else if replayLimit ≤ (attemptOf s g).replays then abortGroup s g 7 thisWafer
  else restartCall s g true

/-! ### Packets (R262, R263) -/

/-- The header flit (R262). -/
def CallHdr.bits (h : CallHdr) : BitVec 512 :=
  BitVec.ofNat 512 (h.att.toNat * 2 ^ 108 + h.kind.toNat * 2 ^ 104 + (if h.sat then 2 ^ 103 else 0) + (if h.all then 2 ^ 102 else 0) + h.form.toNat * 2 ^ 100 +
    h.op.toNat * 2 ^ 96 + h.ty.toNat * 2 ^ 92 + h.pos.toNat * 2 ^ 72 + h.lm1.toNat * 2 ^ 52 + h.group.toNat * 2 ^ 43 + h.nel.toNat * 2 ^ 36 + h.seq.toNat)

/-- A payload flit of up to four quarters. -/
def flitOf (qs : List Nat) : BitVec 512 := BitVec.ofNat 512 (qs.zipIdx.foldl (fun acc q => acc + q.1 * 2 ^ (128 * q.2)) 0)

/-- An element in one quarter: window form, its own format, or value and index (R262). -/
def quarterOf (op ty : BitVec 4) (v : PVal) : Nat := if op = 0 then windowElem ty v else if op = 3 then v.raw.toNat + v.idx * 2 ^ 64 else v.raw.toNat

/-- The payload flits: four elements a flit, or three flits a broad element, in quarter 0 (R262). -/
def Packet.flits (k : Packet) : List (BitVec 512) :=
  if k.hdr.form = 1 then k.vals.flatMap (fun v => let w := broadElem k.hdr.ty v; [flitOf [w % 2 ^ 128], flitOf [w / 2 ^ 128 % 2 ^ 128], flitOf [w / 2 ^ 256]])
  else (chunks 4 k.vals.length (k.vals.map (quarterOf k.hdr.op k.hdr.ty))).map flitOf

/-- The residue of a quarter in the sideband: of the signed WIN for a window-form element, of the quarter itself for any other (R253). -/
def quarterResidue (window : Bool) (q : Nat) : Nat := residueOf (if window then intOf true 112 q else (q : Int))

/-- Most elements of a packet in a form (R262). -/
def packetMax (broad : Bool) : Nat := if broad then 5 else 64

/-- What a router's RDU accepts: KIND 1 to 4, FORM 0 to 2, the ROUTE of its tree, elements as NEL says, and each window-form element as R69 says (R258, R259, R262). -/
def packetOk (k : Packet) : Bool :=
  decide (1 ≤ k.hdr.kind.toNat) && decide (k.hdr.kind.toNat ≤ 4) && k.hdr.form != 3 && k.route == treeRoute k.hdr.group.toNat && k.vals.length == k.hdr.nel.toNat &&
    k.vals != [] && decide (k.vals.length ≤ packetMax (k.hdr.form == 1)) &&
    (k.hdr.op != 0 || k.hdr.form == 1 || k.vals.all (fun v => windowOk k.hdr.ty (windowElem k.hdr.ty v)))

/-- A residue failure in an RDU, or at a hop of the ring: its record, and the call replayed (R259, 19 R419). -/
def residueReplay (s : State) (r g : Nat) : State :=
  replayCall (postUnit s r 5 0 (some (teTag (treeAt s r g))) 4 2 0 0 (groupSeq s g).toNat g) g

/-- A packet reaches a router: a stale one, one of another attempt and one of a completed SEQ are discarded; the first of a call latches the deadline (R263, R268,
15 R353). -/
def receivePacket (s : State) (k : Packet) : State :=
  let g := k.hdr.group.toNat
  if staleAt s rduUnit (some k.tag) ∨ k.hdr.att.toNat ≠ (attemptOf s g).att ∨ (mget [] s.net.done (k.router * 512 + g)).contains k.hdr.seq then s
  else if !packetOk k then residueReplay s k.router g
  else
    let s := if (rduOf s k.router g).isSome then s
      else putRdu s ⟨k.router, g, k.tag, k.hdr.seq, k.hdr.op, k.hdr.ty, k.hdr.sat, k.hdr.all, k.hdr.lm1.toNat + 1, false, none, 0, ((calldlOf s k.router).extractLsb' 0 32).toNat, [], 0, 0, false⟩
    { s with net := { s.net with packets := s.net.packets ++ [k] } }

/-- The elements that the next packet takes: those of one form, as many as fit (R262). -/
def packetRun (vals : List PVal) : List PVal :=
  match vals with
  | [] => []
  | v :: _ => (vals.takeWhile (fun u => u.broad == v.broad)).take (packetMax v.broad)

/-- A packet of some elements from position pos on. -/
def makePacket (s : State) (tag : Tag) (r p g pos len : Nat) (seq : BitVec 32) (op ty : BitVec 4) (sat all : Bool) (vals : List PVal) : Packet :=
  ⟨tag, treeRoute g, r, p,
    ⟨BitVec.ofNat 8 (attemptOf s g).att, 1, sat, all, if vals.any (·.broad) then 1 else 0, op, ty, BitVec.ofNat 20 pos, BitVec.ofNat 20 (len - 1), BitVec.ofNat 9 g,
      BitVec.ofNat 7 vals.length, seq⟩, vals⟩

/-- A router sends the positions it has combined and not yet forwarded to its parent, in ascending order (R264). -/
def forwardPacket (s : State) (r g : Nat) : State :=
  let e := treeAt s r g
  match rduOf s r g, neighbour s r (teParent e) with
  | some c, some q =>
    let vals := packetRun (c.out.drop c.fwd)
    if !c.admitted ∨ teRoot e ∨ vals = [] then s
    else
      let s := putRdu s { c with fwd := c.fwd + vals.length }
      let k := makePacket s c.tag q ((teParent e + 2) % 4) g c.fwd c.len c.seq c.op c.ty c.sat c.all vals
      receivePacket (passFlits s r (teParent e) (1 + k.flits.length)) k
  | _, _ => s

/-! ### MAJ 0xA1 -/

/-- OP and TYPE that RDOPEN's registers may go with; the words themselves were checked at decode (07 R218). -/
def openBad (ga gb gc : Word) : Bool := 512 ≤ ga.toNat || 2 ^ 32 ≤ gb.toNat || gc = 0 || 2 ^ 20 < gc.toNat

/-- A precise REDUCE_ABORT with a SEQ. -/
def abortWith {α : Type} (seq group reason : Nat) : Exec α := trapAt cREDUCE 0 (abortInfo seq group reason)

/-- The tile's entry lists it, for the strand's context (R219). -/
def isTreeMember (s : State) (g : Nat) : Bool :=
  let e := treeAt s s.env.agent g
  teState e == 1 && some (teTag e) == (cur s).tag && teHas e 4

/-- Calls a tile holds open (R219). -/
def callCap : Nat := 8

/-- RDOPEN (07 R218, R219). -/
def execRdopen (g : Guard) (a b c : Reg) (base : BitVec 9) (all sat : BitVec 1) (ty op : BitVec 4) (s : State) : Host.Outcome State Fault Refusal :=
  runWord s (engine g 1 [] (do
    let ga ← readReg a
    let gb ← readReg b
    let gc ← readReg c
    if openBad ga gb gc then abortWith gb.toNat ga.toNat 4
    let grp := ga.toNat
    if !(← reads (fun s => isTreeMember s grp)) then abortWith gb.toNat grp 6
    until' .other (fun s => (callOf (curAgent s) grp).isNone && (curAgent s).calls.length < callCap)
    modS (fun s => modCurAgent s (fun x => { x with calls := x.calls ++
      [⟨grp, BitVec.ofNat 32 gb.toNat, op, ty, sat = 1, all = 1, base, gc.toNat, 0, [], none, s.env.strand, false, 0⟩] }))
    return .next))

/-- The group a register names (07 R218). -/
def groupOf (v : Word) : Nat := v.toNat % 512

/-- RDCS (07 R220). -/
def execRdcs (g : Guard) (a b : Reg) (s : State) : Host.Outcome State Fault Refusal :=
  runWord s (engine g 1 [] (do
    let ga ← readReg a
    let v ← readReg b
    let c ← owingCall (groupOf ga)
    contribute c v
    return .next))

/-- The key of n bytes in a tile's own LS or own vault, whole; the vault may be named by its remote form with the own name (07 R220, 10 R274). -/
def ownBuffer (s : State) (a addr n : Nat) : Option Nat :=
  match regionOf false addr with
  | .ls o => if o + n ≤ lsBytes then some (keyLs a o) else none
  | .vault o => if o + n ≤ vaultBytes then some (keyVault a o) else none
  | .remVault name o => if name = nameOf s a ∧ o + n ≤ vaultBytes then some (keyVault a o) else none
  | _ => none

/-- The key where a retained buffer begins. -/
def ownKey (s : State) (a : Nat) (addr : Word) : Nat := (ownBuffer s a addr.toNat 1).getD 0

/-- RDCB (07 R220). -/
def execRdcb (g : Guard) (a b c : Reg) (s : State) : Host.Outcome State Fault Refusal :=
  runWord s (engine g 1 [] (do
    let ga ← readReg a
    let gb ← readReg b
    let gc ← readReg c
    let call ← owingCall (groupOf ga)
    let w := typeBytes call.ty
    if gc = 0 ∨ call.len - call.given < gc.toNat then abortCall (groupOf ga) 4
    if gb.toNat % w ≠ 0 then trapAt cMISALIGN gb w
    if !(← reads (fun s => (ownBuffer s s.env.agent gb.toNat (gc.toNat * w)).isSome)) then trapAt cLOAD gb 1
    release 0
    modS (fun s => modCurAgent s (fun x => putCall x
      { call with given := call.given + gc.toNat, vals := call.vals ++ [⟨call.given, gc.toNat, some gb, 0, s.env.strand⟩] }))
    return .next))

/-- Whether a member tile receives the results of its call: the root, or every member with ALL (07 R221, 09 R272). -/
def receives (s : State) (a : Nat) (c : OpenCall) : Bool :=
  let e := treeAt s a c.group
  c.all || (teRoot e && (!teRing e || urRoot (ringOf s c.group a) == thisWafer))

/-- Bytes of one result element in LS. -/
def resultBytes (op ty : BitVec 4) : Nat := if op = 3 then 16 else typeBytes ty
/-- Offset of the status word behind the results. -/
def statusOff (c : OpenCall) : Nat := (c.len * resultBytes c.op c.ty + 7) / 8 * 8

/-- RDRES (07 R221, 17 R390): gb is not read at a member that receives no results. -/
def execRdres (g : Guard) (a b : Reg) (cs : Compl) (rq : BitVec 1) (s : State) : Host.Outcome State Fault Refusal :=
  runWord s (engine g 1 [] (do
    let ga ← readReg a
    let there ← reads (fun s => match callOf (curAgent s) (groupOf ga) with | some c => receives s s.env.agent c | none => true)
    let gb ← if there then readReg b else pure 0
    let dn ← doneOf cs
    match ← reads (fun s => callOf (curAgent s) (groupOf ga)) with
    | none => abortCall (groupOf ga) 5
    | some c =>
      if c.res.isSome then abortCall (groupOf ga) 5
      if there then
        if rq = 1 then
          if 4 ≤ gb.toNat then abortCall (groupOf ga) 4
        else
          if gb.toNat % 8 ≠ 0 then trapAt cMISALIGN gb 8
          if lsBytes < gb.toNat + statusOff c + 8 then trapAt cSTORE gb 1
      release 0
      modS (fun s => modCurAgent s (fun x => putCall x { c with res := some ⟨gb, rq = 1, dn, s.env.strand⟩ }))
      return .next))

/-! ### The routers -/

/-- The wafers that an order has revoked from the convoy of a context (18 R410). -/
def revokedOf (s : State) (c : Nat) : List Nat := match convoyOf s c with | some v => v.revoked | none => []

/-- The ring of a root still names a revoked wafer: no attempt starts before Chart has joined its neighbours (18 R410 step 5, R411). -/
def ringOvertaken (s : State) (r g : Nat) : Bool :=
  let w := ringOf s g r
  let rev := revokedOf s (teTag (treeAt s r g)).cx.toNat
  urValid w && (rev.contains (urRoot w) || rev.contains (urNext w) || rev.contains (urPrev w))

/-- A call as it is admitted on the fields of a first packet; a ring call keeps ULRING as it stands (18 R400). -/
def admittedCall (s : State) (r g : Nat) (k : Packet) (choice : Option Bool) : RduCall :=
  let old := rduOf s r g
  ⟨r, g, k.tag, k.hdr.seq, k.hdr.op, k.hdr.ty, k.hdr.sat, k.hdr.all, k.hdr.lm1.toNat + 1, true, choice, (old.map (·.waited)).getD 0, (old.map (·.dl)).getD 0, [], 0,
    if teRoot (treeAt s r g) then ringOf s g r else 0, false⟩

/-- CALL_ADMISSION: the first packet of every child port that counts has come; packets that disagree end the call (R263, R267). -/
def execCallAdmission (router group : Nat) (s : State) : Host.Outcome State Fault Refusal :=
  let e := treeAt s router group
  let old := rduOf s router group
  if teState e ≠ 1 ∨ (teRoot e ∧ teRing e ∧ ringOvertaken s router group) ∨ childPorts e = [] ∨ old.any (·.admitted) ∨ rduCap ≤ (s.net.rdus.filter (fun c => c.router == router && c.admitted)).length then .next s
  else
    let choice := if teBkv e then chooseBackup s router group e else none
    if teBkv e ∧ choice = none then .next s
    else
      let ps := (usedPorts e choice).map (firstPacket s router group)
      match ps.filterMap id with
      | [] => .next s
      | p :: rest =>
        if rest.length + 1 < ps.length then .next s
        else
          let same := fun (q : Packet) => q.hdr.seq == p.hdr.seq && q.hdr.op == p.hdr.op && q.hdr.ty == p.hdr.ty && q.hdr.lm1 == p.hdr.lm1 && q.hdr.sat == p.hdr.sat && q.hdr.all == p.hdr.all
          if !rest.all same ∨ p.hdr.op.toNat ≠ teOp e ∨ p.hdr.ty.toNat ≠ teType e then .next (abortGroup s group 1 thisWafer)
          else .next (putRdu s (admittedCall s router group p choice))

/-- What a member holds, or a child port has brought, for a position. -/
inductive PortVal where
  | none
  | val (v : PVal)
  | poisoned (key strand : Nat) (addr : Word)

/-- A member's rank by logical name (R265); the wafers before it on a ring are counted by the hops. -/
def rankOf (s : State) (a g : Nat) : Nat := ((treeMembers s g).filter (fun m => nameOf s m < nameOf s a)).length

/-- The contribution of member a for a position: the retained value, or the element of its buffer, decoded (R262). -/
def memberVal (s : State) (a g pos : Nat) (o : OpenCall) : PortVal :=
  match o.vals.find? (fun v => v.pos ≤ pos && pos < v.pos + v.n) with
  | none => .none
  | some v =>
    let idx := rankOf s a g * o.len + pos
    match v.addr with
    | none => .val (pvalOf o.op o.ty v.val idx)
    | some b =>
      let w := typeBytes o.ty
      let k := ownKey s a b + (pos - v.pos) * w
      if poisoned s.mem k w then .poisoned k v.strand b else .val (pvalOf o.op o.ty (BitVec.ofNat 64 (readNat s.mem k w)) idx)

/-- The value that child port p of a router has brought for a position (R264). -/
def portVal (s : State) (r g p pos : Nat) : Option PVal :=
  match s.net.packets.find? (fun k => k.router == r && k.hdr.group.toNat == g && k.port == p && k.hdr.pos.toNat ≤ pos && pos < k.hdr.pos.toNat + k.vals.length) with
  | none => none
  | some k => k.vals[pos - k.hdr.pos.toNat]?

/-- A contribution lost to poison: a record, the contributor's task ends FAILED, and the call goes on without it (19 R418). -/
def loseContribution (s : State) (r g key strand : Nat) (addr : Word) : State :=
  let s := postPoison s r (tagOf s r strand) 4 key 2
  let s := match (agentAt s r).task with | some i => failTask s i 6 cPOISON (nameOf s r) strand addr 0 | none => s
  modAgent s r (fun x => match callOf x g with | some c => putCall x { c with missing := true } | none => x)

/-- The contributions that a member can send next: those from its first unsent position on, up to one that it does not hold whole. -/
def memberRun (s : State) (a g : Nat) (o : OpenCall) : List PVal :=
  packetRun (((List.range (min 64 (o.given - o.sent))).map (fun i => memberVal s a g (o.sent + i) o)).map (fun v => match v with | .val v => some v | _ => none)
    |>.takeWhile (·.isSome) |>.filterMap id)

/-- A member's RDU sends its next packet to its router; a poisoned buffer loses the contribution (R262, 19 R418). -/
def contributePacket (s : State) (a g : Nat) : State :=
  match offering s a g with
  | none => s
  | some o =>
    if o.given ≤ o.sent then s
    else
      match memberVal s a g o.sent o with
      | .none => s
      | .poisoned k st b => loseContribution s a g k st b
      | .val _ =>
        let vals := memberRun s a g o
        let s := modAgent s a (fun x => putCall x { o with sent := o.sent + vals.length })
        receivePacket s (makePacket s (teTag (treeAt s a g)) a 4 g o.sent o.len o.seq o.op o.ty o.sat o.all vals)

/-- PARTIAL_COMBINE: a router combines its next position, once every port that counts has brought it (R264). -/
def execPartialCombine (router group pos : Nat) (s : State) : Host.Outcome State Fault Refusal :=
  match rduOf s router group with
  | none => .next s
  | some c =>
    if !c.admitted ∨ pos ≠ c.out.length ∨ c.len ≤ pos then .next s
    else
      let vs := (usedPorts (treeAt s router group) c.backup).map (fun p => portVal s router group p pos)
      let ok := vs.filterMap id
      if ok.length < vs.length then .next s
      else .next (putRdu s { c with out := c.out ++ [joinAll c.op c.ty ok] })

/-! ### Sampled verification (R269) -/

/-- A position is sampled. -/
def sampledAt (seq : BitVec 32) (p : Nat) : Bool := (seq * 0x9E3779B9 + BitVec.ofNat 32 p * 0x85EBCA6B).extractLsb' 24 8 == 0

/-- The mirror of a tree: an ACTIVE tree whose own MGRP names it back. -/
def mirrorOf (s : State) (g : Nat) : Option Nat :=
  match treeRoot s g with
  | none => none
  | some r =>
    let e := treeAt s r g
    if teMirv e && (treeRoot s (teMgrp e)).any (fun q => teMirv (treeAt s q (teMgrp e)) && teMgrp (treeAt s q (teMgrp e)) == g) then some (teMgrp e) else none

/-- The sum that tree m carries to router r for a position, of the contributions to group g; none while one of them is not at hand. Of a backup pair the primary is
taken. -/
def mirrorSum (s : State) (m g pos : Nat) (op ty : BitVec 4) : Nat → Nat → Option PVal
  | 0, _ => none
  | n + 1, r =>
    let e := treeAt s r m
    let vs := (usedPorts e (if teBkv e then some false else none)).map (fun p =>
      if p = 4 then (match offering s r g with | some o => (match memberVal s r g pos o with | .val v => some v | _ => none) | none => none)
      else match neighbour s r p with | some q => mirrorSum s m g pos op ty n q | none => none)
    if vs.all (·.isSome) then some (joinAll op ty (vs.filterMap id)) else none

/-- Two partials are one value, whatever form they travelled in. -/
def sameSum (a b : PVal) : Bool := { a with broad := false, nv := false } == { b with broad := false, nv := false }

/-- The first sampled position at which the sum of the mirror tree differs from the root's. -/
def sampleMismatch (s : State) (g : Nat) (c : RduCall) : Option Nat :=
  match mirrorOf s g with
  | none => none
  | some m =>
    match treeRoot s m with
    | none => none
    | some q => (List.range c.len).find? (fun p => sampledAt c.seq p &&
        (match mirrorSum s m g p c.op c.ty (treeRouters s m).length q, c.out[p]? with | some a, some b => !sameSum a b | _, _ => false))

/-- SAMPLE_MISMATCH: its record, and the call replayed (R269, R271). -/
def mismatchReplay (s : State) (r g pos : Nat) : State :=
  replayCall (postUnit s r 6 cSAMPLE (some (teTag (treeAt s r g))) 4 0 0 (BitVec.ofNat 64 pos) (groupSeq s g).toNat g) g

/-- A root that holds every position. -/
def rootReady (s : State) (r g : Nat) : Option RduCall :=
  match rduOf s r g with
  | none => none
  | some c => if c.admitted ∧ teRoot (treeAt s r g) ∧ c.len ≤ c.out.length ∧ !c.sent then some c else none

/-- BASE of a call: as the root's tile, or another member, gave it at RDOPEN (R272). -/
def baseOfCall (s : State) (r g : Nat) : Nat :=
  match (r :: treeMembers s g).findSome? (fun m => callOf (agentAt s m) g) with | some c => c.base.toNat | none => 0

/-- The partials of a wafer root go to the next wafer (R272). -/
def sendPartial (s : State) (r g : Nat) (c : RduCall) (escapes before : Nat) (vals : List PVal) (esc : List Bool) : State :=
  let s := putRdu s { c with sent := true }
  sendFrame s (teTag (treeAt s r g)) (urNext c.ring) 2 (ringBody (baseOfCall s r g) (attemptOf s g).att c escapes before none vals esc)

/-- ROOT_ROUNDING: the root of a call that stays on the wafer rounds each position and sends results and tokens down; the first wafer of a ring sends its
partials on (R266, R272). Sampled positions are compared first (R269). -/
def execRootRounding (router group : Nat) (s : State) : Host.Outcome State Fault Refusal :=
  match rootReady s router group with
  | none => .next s
  | some c =>
    match sampleMismatch s group c with
    | some p => .next (mismatchReplay s router group p)
    | none =>
      let bk := s.net.rdus.any (fun d => d.group == group && d.backup == some true)
      if !teRing (treeAt s router group) then .next (finishCall s router group c c.out 0 bk)
      else if !urValid c.ring ∨ urPos c.ring ≠ 0 then .next s
      else if urRoot c.ring = thisWafer then .next (finishCall s router group c c.out 0 bk)
      else
        let esc := escalated (baseOfCall s router group) c.op c.ty [c.out] c.out []
        .next (sendPartial s router group c (esc.filter id).length (treeMembers s group).length c.out esc)

/-- The index of MAXIDX counts the members of the wafers before (R265). -/
def shiftIdx (op : BitVec 4) (n : Nat) (v : PVal) : PVal := if op = 3 then { v with idx := v.idx + n } else v

/-- The partial a hop takes: the previous wafer's; its backup's once a deadline has passed, or where its key has been revoked (18 R400, R267). -/
def hopFrom (s : State) (r g : Nat) (c : RduCall) : Option RingIn :=
  let mine := fun (p : RingIn) => p.group == g && p.seq == c.seq
  let revoked := (revokedOf s (teTag (treeAt s r g)).cx.toNat).contains (urPrev c.ring)
  match s.net.ringIn.find? (fun p => mine p && p.backup == none && p.sender == urPrev c.ring && !revoked && c.backup != some true) with
  | some p => some p
  | none => if c.backup = some true ∨ 1 ≤ c.waited ∨ revoked then s.net.ringIn.find? (fun p => mine p && p.backup == some (urPrev c.ring)) else none

/-- RING_HOP: the hop adds its own partial to the one that came, and those of the backups of revoked wafers; the ring root rounds, the others forward (R272,
18 R411). -/
def execRingHop (group : Nat) (s : State) : Host.Outcome State Fault Refusal :=
  match treeRoot s group with
  | none => .next s
  | some r =>
    match rootReady s r group with
    | none => .next s
    | some c =>
      if !teRing (treeAt s r group) ∨ !urValid c.ring ∨ urPos c.ring = 0 then .next s
      else
        match hopFrom s r group c, sampleMismatch s group c with
        | none, _ => .next s
        | some _, some pos => .next (mismatchReplay s r group pos)
        | some p, none =>
          if p.vals.length ≠ c.len then .next s
          else
            let rev := revokedOf s (teTag (treeAt s r group)).cx.toNat
            let extra := s.net.ringIn.filter (fun q => q.group == group && q.seq == c.seq && q.vals.length == c.len && q != p &&
              (match q.backup with | some w => rev.contains w | none => false))
            let own := c.out.map (shiftIdx c.op (p.before * c.len))
            let vals := extra.foldl (fun acc q => List.zipWith (joinPVal c.op c.ty) acc q.vals) (List.zipWith (joinPVal c.op c.ty) p.vals own)
            let esc := escalated (baseOfCall s r group) c.op c.ty (p.vals :: own :: extra.map (·.vals)) vals p.esc
            let now := (esc.zipIdx.filter (fun b => b.1 && !p.esc.getD b.2 false)).length
            let escapes := min 255 (p.escapes + now)
            let bk := p.backup.isSome || extra != [] || s.net.rdus.any (fun d => d.group == group && d.backup == some true)
            let c := if p.backup.isSome then { c with backup := some true } else c
            if urRoot c.ring = thisWafer then .next (finishCall s r group c vals escapes bk)
            else .next (sendPartial s r group c escapes (p.before + (treeMembers s group).length) vals esc)

/-- What is left to do for a token: post its abort, deliver, complete (07 R221, R223). -/
def tokenCall (s : State) (t : CallToken) : Option OpenCall :=
  match callOf (agentAt s t.agent) t.group with
  | some c => if c.seq = t.seq then some c else none
  | none => none

/-- The abort of a call is posted to its opener (07 R205, 18 R411). -/
def postAbort (s : State) (a : Nat) (c : OpenCall) (reason : Nat) : State :=
  let p : Posted := ⟨BitVec.ofNat 8 (if reason = 8 then cKEY else cREDUCE), 0, BitVec.ofNat 64 (abortInfo c.seq.toNat c.group reason)⟩
  postFault s a c.opener p id

/-- The status word of R222. -/
def statusWord (c : OpenCall) (status : Nat) : Word := BitVec.ofNat 64 (c.seq.toNat * 2 ^ 32 + status)

/-- A token replaced. -/
def putToken (s : State) (t t' : CallToken) : State := { s with net := { s.net with tokens := s.net.tokens.map (fun u => if u = t then t' else u) } }

/-- The strand that an element of a call goes to is there to take it. -/
def takesEvents (t : Strand) : Bool := t.st != .inactive && t.st != .failed

/-- The call of a token is no longer open, and the tile is free for the next. -/
def endCall (s : State) (t : CallToken) (c : OpenCall) : State :=
  let s := { s with net := { s.net with tokens := s.net.tokens.filter (· != t) } }
  modAgent s t.agent (fun x => { x with calls := x.calls.filter (fun d => d.group != c.group) })

/-- A call completes: its barrier takes an arrival, its Q element is pushed, and the tile is free for the next (07 R221). -/
def completeCall (s : State) (t : CallToken) (c : OpenCall) (r : ResSpec) : State :=
  let s := endCall s t c
  let elem : Word := BitVec.ofNat 64 (2 ^ 56 + r.dn.tag.toNat * 2 ^ 44 + t.abort * 2 ^ 32 + c.seq.toNat)
  let push := fun (s : State) =>
    if r.dn.q ∧ takesEvents (strandAt s t.agent r.strand) then
      modStrand s t.agent r.strand (fun u => { u with eng := { u.eng with ceq := u.eng.ceq ++ [⟨elem, none⟩] } })
    else s
  match r.dn.bar with
  | none => push s
  | some w =>
    match engineBar s t.agent (tagOf s t.agent r.strand) w true 0 with
    | (s, .made) => push s
    | (s, .failed sub) => postEngine s t.agent r.strand (engineInfo sub 3 3 r.dn.tag.toNat 4) w
    | (s, .poisoned k) => poisonCommand s t.agent r.strand 4 k 3

/-- The control-event queue can take the element of a call (07 R211). -/
def eventRoom (s : State) (a : Nat) (r : ResSpec) : Bool :=
  !r.dn.q || !takesEvents (strandAt s a r.strand) || (strandAt s a r.strand).eng.ceq.length < completionCap

/-- Another call is filling the same result queue. -/
def queueTaken (s : State) (t : CallToken) (n : Nat) : Bool :=
  s.net.tokens.any (fun u => u != t && u.agent == t.agent && u.rest.isSome &&
    (match callOf (agentAt s u.agent) u.group with
     | some c => (match c.res with | some r => r.rq && r.dst.toNat == n | none => false)
     | none => false))

/-- COMPLETION_TOKEN: the token of a call at a member. Its abort is posted; once RDRES has said where, results and status are delivered, into a result queue as far
as it has room, and the call completes; at a member that receives no results it completes with the token (07 R221 to R223). -/
def execCompletionToken (agent group : Nat) (s : State) : Host.Outcome State Fault Refusal :=
  match s.net.tokens.find? (fun t => t.agent == agent && t.group == group && (tokenCall s t).isSome) with
  | none => .next s
  | some t =>
    match tokenCall s t with
    | none => .next s
    | some c =>
      if t.abort ≠ 0 ∧ !t.posted then .next (putToken (postAbort s agent c t.abort) t { t with posted := true })
      else
        match c.res with
        | none => .next (if receives s agent c then s else endCall s t c)
        | some r =>
          if !receives s agent c then (if eventRoom s agent r then .next (completeCall s t c r) else .next s)
          else
            let words := t.results.getD []
            if !r.rq then
              if !eventRoom s agent r then .next s
              else
                let m := writeBytes s.mem (keyLs agent r.dst.toNat) (wordsBytes c.op c.ty words)
                let m := writeWord m (keyLs agent (r.dst.toNat + statusOff c)) (statusWord c t.status)
                .next (completeCall (setMem s m) t c r)
            else
              let n := r.dst.toNat
              let left := t.rest.getD (words ++ [statusWord c t.status])
              let q := mget [] (agentAt s agent).ni.rqs n
              let room := resultCap - q.length
              if left = [] then (if eventRoom s agent r then .next (completeCall s t c r) else .next s)
              else if queueTaken s t n ∨ room = 0 then .next s
              else
                let s := modAgent s agent (fun x => { x with ni := { x.ni with rqs := mput x.ni.rqs n (q ++ (left.take room).map (fun w => ⟨w, none⟩)) } })
                .next (putToken s t { t with rest := some (left.drop room) })

/-! ### Deadlines and replays (R267, R268, R270) -/

/-- The call of a router has a deadline: CALLDL was not 0 when its first packet arrived (R268). -/
def hasDeadline (s : State) (r g : Nat) : Bool := (rduOf s r g).any (fun c => c.dl != 0)

/-- A deadline has passed at a router with a choice still open: the backup is taken, or the router waits once more, or the call ends (R267). -/
def expirePair (s : State) (g : Nat) (seen : Option RduCall) (backupHere : Bool) : State :=
  match seen with
  | none => s
  | some c =>
    if backupHere then putRdu s { c with backup := some true }
    else if c.waited = 0 then putRdu s { c with waited := 1 }
    else abortGroup s g 3 thisWafer

/-- A member's tile is stopped: what the calls of the group wait for comes when it goes on (15 R369). -/
def groupStopped (s : State) (g : Nat) : Bool := (treeMembers s g).any (fun m => (agentAt s m).stopped)

/-- A wafer root waits for the partial of the wafer before it. -/
def ringWaits (s : State) (r g : Nat) : Option RduCall :=
  match rootReady s r g with
  | none => none
  | some c => if teRing (treeAt s r g) ∧ urValid c.ring ∧ urPos c.ring ≠ 0 ∧ (hopFrom s r g c).isNone then some c else none

/-- CALLDL_EXPIRY: a router's deadline for a contribution has passed (R267, R268). -/
def execCalldlExpiry (router group : Nat) (s : State) : Host.Outcome State Fault Refusal :=
  let e := treeAt s router group
  if teState e ≠ 1 ∨ !hasDeadline s router group ∨ groupStopped s group then .next s
  else
    match ringWaits s router group with
    | some c => .next (expirePair s group (some c) (s.net.ringIn.any (fun p => p.group == group && p.seq == c.seq && p.backup == some (urPrev c.ring))))
    | none =>
      let call := rduOf s router group
      let admitted := call.any (·.admitted)
      let lost := fun (p : Nat) => p == 4 && (match callOf (agentAt s router) group with | some o => o.missing | none => false)
      let missing := fun (p : Nat) => if admitted then lost p else (firstPacket s router group p).isNone
      let used := usedPorts e (call.bind (·.backup))
      match used.filter missing with
      | [] => .next s
      | gone =>
        if !admitted ∧ (childPorts e).all (fun p => (firstPacket s router group p).isNone) then .next s
        else
          let pair := fun (p : Nat) => teBkv e && (p == teBkp e || p == teBkb e)
          if gone.any (fun p => !pair p) then .next (abortGroup s group 3 thisWafer)
          else if admitted then
            (if call.bind (·.backup) = some false ∧ (firstPacket s router group (teBkb e)).isSome then
              .next (restartCall (expirePair s group call true) group false)
             else .next (abortGroup s group 3 thisWafer))
          else if !missing (teBkp e) then .next s
          else .next (expirePair s group call (!missing (teBkb e)))

/-- CALL_REPLAY: an attempt failed outside what programs see: cause 0 a residue in an RDU, 1 a sampled position that differs, 2 poison in an RDU or a link (R269, R270,
19 R418, R419). -/
def execCallReplay (group cause pos : Nat) (s : State) : Host.Outcome State Fault Refusal :=
  match treeRoot s group with
  | none => .next s
  | some r =>
    if !attemptBegun s group ∨ (cause = 1 ∧ !((mirrorOf s group).isSome && sampledAt (groupSeq s group) pos)) then .next s
    else
      match cause with
      | 0 => .next (residueReplay s r group)
      | 1 => .next (mismatchReplay s r group pos)
      | _ => .next (replayCall (postUnit s r 3 cPOISON (some (teTag (treeAt s r group))) 4 2 0 0 (groupSeq s group).toNat group) group)

/-! ### Frames of ring calls that reach this wafer -/

/-- A partial from another wafer (kind 2): one of another attempt is discarded; one that breaks R72 or R69 counts as a residue failure, and the call is replayed (R270,
02 R72, 19 R419). -/
def ringPartial (s : State) (sender : Nat) (b : List Byte) : State :=
  let g := leNat (b.take 2)
  let bk := leNat ((b.drop 11).take 1)
  match treeRoot s g with
  | none => s
  | some r =>
    let e := treeAt s r g
    let ty := BitVec.ofNat 4 (teType e)
    let op := BitVec.ofNat 4 (teOp e)
    let base := baseOfCall s r g
    let n := leNat ((b.drop 13).take 4)
    if leNat ((b.drop 12).take 1) ≠ (attemptOf s g).att then s
    else
    match readBlocks base op ty (n / 32 + 2) n (b.drop 17) with
    | none => residueReplay s r g
    | some (vals, esc) =>
      let p : RingIn := ⟨teTag e, g, BitVec.ofNat 32 (leNat ((b.drop 2).take 4)), sender, if bk = 255 then none else some bk, leNat ((b.drop 6).take 1),
        leNat ((b.drop 7).take 4), vals, esc⟩
      { s with net := { s.net with ringIn := s.net.ringIn ++ [p] } }

/-- Results and token from the ring root (kind 3): down this wafer's tree, and on to the next wafer (R272). -/
def ringResult (s : State) (b : List Byte) : State :=
  let g := leNat (b.take 2)
  match treeRoot s g with
  | none => s
  | some r =>
    let e := treeAt s r g
    let w := ringOf s g r
    let n := leNat ((b.drop 11).take 4)
    let all := leNat ((b.drop 10).take 1) = 1
    let res := (List.range n).map (fun i => BitVec.ofNat 64 (leNat ((b.drop (15 + 8 * i)).take 8)))
    let s' := sendDown s r g (BitVec.ofNat 32 (leNat ((b.drop 2).take 4))) all false res (leNat ((b.drop 6).take 4))
    if urNext w = urRoot w ∨ urRoot w = thisWafer then s' else sendFrame s' (teTag e) (urNext w) 3 b

/-- An abort from another wafer (kind 4): of the call, or, with REASON 0 or 255, of its attempt (R270). -/
def ringAbort (s : State) (b : List Byte) : State :=
  let g := leNat (b.take 2)
  let from' := leNat ((b.drop 7).take 1)
  let reason := leNat ((b.drop 6).take 1)
  if from' = thisWafer then s
  else if reason = 0 ∨ reason = 255 then passRestart (restartHere s g (reason = 0)) g (reason = 0) from'
  else if !callActive s g then s
  else abortGroup s g reason from'

end Sys2Proof.Machine
end

