-- ==== Sys2Proof/Machine/System.lean ====
section
/-!
DEFINITION. System words that act on the strand, its core and the configuration: MFS, MTS and the registers they name (01 R38 to R43, 15 R348, 19 R425, R427,
20 R435, R441, R445, 18 R400, 21 R459), TOPO (14 R347), TRET (16 R383), the configuration space (R387, R388), SYSCALL (R380) and HALT (R385).
-/

namespace Sys2Proof.Machine

/-! ### Rows and tiles (20 R433, R437, R441) -/

/-- The number of the physical row (field, prow) of a tile. -/
def rowOf (p : Nat) : Nat := tileField p * 12 + tileRow p
def row0state : Row := ⟨0, 0⟩
def rowAt (s : State) (r : Nat) : Row := mget row0state s.rel.rows r
def modRow (s : State) (r : Nat) (f : Row → Row) : State := { s with rel := { s.rel with rows := mput s.rel.rows r (f (rowAt s r)) } }
/-- The 17 tiles of a row. -/
def rowTiles (r : Nat) : List Nat := (List.range 17).map (fun c => physOf (r / 12) c (r % 12))

/-- A wave begins on a row with a new dead set: hooks are disarmed and the row's staging buffers are empty (20 R438, R443). -/
def beginWave (s : State) (r : Nat) (dead : BitVec 17) : State :=
  let s := disarmHook s
  let s := mapAgents s (fun a x => if (rowTiles r).contains a then { x with cfg := { x.cfg with staged := [], ovf := false } } else x)
  { s with rel := { s.rel with wave := some ⟨r, dead, 1, [], [], [], [], false⟩, lastRow := r } }

/-- What is left of a dead tile until a wave moves its name: nothing of it acts (R433). -/
def deadAgent (x : Agent) : Agent := { agent0 with name := x.name, task := x.task, stopped := true }

/-- The position is dead, or declared dead. -/
def declaredDead (s : State) (p : Nat) : Bool := deadPos s p || (rowAt s (rowOf p)).pend.getLsbD (tileCol p)

/-- A tile is declared dead: a wave starts on its row, or the declaration is latched in PEND while one is in progress (R437). -/
def declareDead (s : State) (p : Nat) : State :=
  let r := rowOf p
  let bit : BitVec 17 := 1 <<< tileCol p
  let row := rowAt s r
  let dead := declaredDead s p || s.rel.wave.any (fun w => !w.switch && w.row == r && w.dead.getLsbD (tileCol p))
  let s := if dead then s else modAgent s p deadAgent
  if dead then s
  else if s.rel.wave.isNone then beginWave s r (row.dead ||| bit)
  else modRow s r (fun v => { v with pend := v.pend ||| bit })

/-! ### Registers -/

/-- Registers that MTS reads as read-only (R38, R39, R348, R445, R459). -/
def isReadOnly (n : Nat) : Bool := n < 7 || n == 0x27 || n == 0x28 || (0x30 ≤ n && n < 0x38) || (0x40 ≤ n && n < 0x44) || n == 0x60 || n == 0x101 || n == 0x2A1 || n == 0x2B0

/-- Assigned numbers. -/
def isAssigned (n : Nat) : Bool :=
  n < 7 || n == 0x10 || n == 0x11 || (0x20 ≤ n && n < 0x29) || (0x30 ≤ n && n < 0x38) || (0x40 ≤ n && n < 0x44) || n == 0x50 || n == 0x60 ||
    [0x100, 0x101, 0x102, 0x110, 0x120, 0x130, 0x140, 0x141, 0x280, 0x290, 0x291, 0x292, 0x2A0, 0x2A1, 0x2B0].contains n || (0x240 ≤ n && n < 0x280)

/-- The privilege an access needs (R38). -/
def sysPriv (n : Nat) (write : Bool) : Nat :=
  if 0x200 ≤ n ∧ n < 0x300 then 2
  else if 0x100 ≤ n ∧ n < 0x200 then (if write && [0x100, 0x102, 0x140, 0x141].contains n then 2 else 1)
  else 0

/-- ILLEGAL of MFS or MTS: FIELD 0 for the number, 34 for the value (R38). -/
def sysIllegal {α : Type} (field : Nat) : Exec α := trapPc cILLEGAL (BitVec.ofNat 64 (field * 2 ^ 10 + 6))

/-- The checks of R38, in its order. -/
def checkSys (n : Nat) (write : Bool) : Exec Unit := do
  let p := sysPriv n write
  if (cur (← getS)).priv.toNat < p then trapPc cPRIVILEGE (BitVec.ofNat 64 p)
  if !isAssigned n then sysIllegal 0
  if write && isReadOnly n then sysIllegal 0

/-- BOOTSTAT (21 R459). -/
def bootstat (s : State) : Word :=
  BitVec.ofNat 64 (s.boot.stage.toNat * 2 ^ 60 + s.boot.code.toNat * 2 ^ 56 + s.boot.fuses.svn % 2 ^ 8 * 2 ^ 48 + s.boot.fields.length % 64 * 2 ^ 42 +
    s.boot.lasers.toNat * 2 ^ 24 + min s.boot.tstage (2 ^ 24 - 1))

/-- REMAPSTAT (20 R441). -/
def remapstat (s : State) : Word :=
  let step := match s.rel.wave with | some w => if w.switch then 0 else w.step | none => 0
  BitVec.ofNat 64 ((if step = 0 then 0 else 2 ^ 63) + step * 2 ^ 59 + s.rel.lastRow / 12 * 2 ^ 53 + s.rel.lastRow % 12 * 2 ^ 49 + min s.rel.waves 65535 * 2 ^ 33)

/-- ROWSTATE of the row that ROWSEL names (20 R435). -/
def rowstate (s : State) : Word :=
  let r := (s.rel.rowsel.extractLsb' 4 6).toNat * 12 + (s.rel.rowsel.extractLsb' 0 4).toNat
  let v := rowAt s r
  BitVec.ofNat 64 (v.dead.toNat * 2 ^ 47 + v.pend.toNat * 2 ^ 30 + ((rowTiles r).filter (fun a => (agentAt s a).name.isSome)).length)

/-- The values of the strand-visible block (R39 to R43). -/
def strandReg (s : State) (n : Nat) : Word :=
  let t := cur s
  let a := s.env.agent
  if 0x30 ≤ n ∧ n < 0x38 then
    let b := bindingOf t (n - 0x30)
    BitVec.ofNat 64 (b.target.toNat * 2 ^ 16 + b.kind.toNat)
  else if 0x40 ≤ n ∧ n < 0x44 then domOf t (n - 0x40)
  else
    match n with
    | 0x00 => BitVec.ofNat 64 s.env.strand
    | 0x01 => BitVec.ofNat 64 (if isCore a then 0 else nameOf s a + tileField a * 2 ^ 14 + tileCol a * 2 ^ 20 + tileRow a * 2 ^ 25)
    | 0x02 => BitVec.ofNat 64 (match t.tag with | some g => g.cx.toNat | none => 0)
    | 0x03 => BitVec.ofNat 64 (match t.tag with | some g => g.inc.toNat | none => 0)
    | 0x04 => BitVec.ofNat 64 (t.base.toNat * 2 ^ 16 + t.size.toNat)
    | 0x05 => BitVec.ofNat 64 (t.mode.toNat * 4 + t.priv.toNat)
    | 0x06 => BitVec.ofNat 64 (s.env.tc - (curAgent s).cycle0)
    | 0x10 => t.sys.fpctl
    | 0x11 => t.sys.fpflags
    | 0x20 => t.sys.tvec
    | 0x21 => t.sys.tpc
    | 0x22 => t.sys.tcause
    | 0x23 => t.sys.taddr
    | 0x24 => t.sys.tinfo
    | 0x25 => t.sys.tprev
    | 0x26 => t.sys.tdepth
    | 0x27 => t.sys.tcause2
    | 0x28 => t.sys.taddr2
    | 0x50 => t.sys.seed
    | _ => BitVec.ofNat 64 (match t.tag with | some g => mget 0 (curAgent s).ni.orphans g.cx.toNat | none => 0)

/-- The values of the supervisor and configuration blocks. -/
def sysReg (s : State) (n : Nat) : Word :=
  if n < 0x100 then strandReg s n
  else if 0x240 ≤ n ∧ n < 0x280 then mget 0 s.trust.ulring (n - 0x240)
  else
    match n with
    | 0x100 => s.os.nameroot
    | 0x101 => (match (cur s).tag with | some g => (ctxAt s g.cx.toNat).ptroot &&& 0x00FFFFFFFFFF0000 | none => 0)
    | 0x102 => s.os.cxtab
    | 0x110 => maxmsgOf s s.env.agent
    | 0x120 => s.os.ageLimit
    | 0x130 => calldlOf s s.env.agent
    | 0x140 => (curAgent s).faultbox
    | 0x280 => s.rel.errinj
    | 0x290 => remapstat s
    | 0x291 => s.rel.rowsel
    | 0x292 => rowstate s
    | 0x2A0 => s.rel.ckpt.op.setWidth 64 <<< 62
    | 0x2A1 => BitVec.ofNat 64 (s.rel.ckpt.st.toNat * 2 ^ 56 + s.rel.ckpt.slot.toNat * 2 ^ 48 + s.rel.ckpt.gen % 2 ^ 48)
    | 0x2B0 => bootstat s
    | _ => 0

/-- Word 0 of a context entry (15 R349). -/
def ctxWord0 (c : Ctx) : Word :=
  let b := fun (x : Bool) (k : Nat) => if x then 2 ^ k else 0
  BitVec.ofNat 64 (c.st.toNat * 2 ^ 62 + b c.sealed 61 + c.inc.toNat * 2 ^ 48 + b c.ov1 47 + c.old1.toNat * 2 ^ 35 + b c.ov2 34 + c.old2.toNat * 2 ^ 22)

/-- The module address of word i of the entry of context c (15 R349). -/
def ctxWordKey (s : State) (c i : Nat) : Nat := (s.os.cxtab.extractLsb' 12 44).toNat * 4096 + 64 * c + 8 * i

/-- Lodestar rewrites the mirror of word 0 (15 R349). -/
def mirror (s : State) (c : Nat) : State := setMem s (writeWord s.mem (ctxWordKey s c 0) (ctxWord0 (ctxAt s c)))

/-- Chart's answer to a TRANSLATE record: the walk starts again, or has failed; a TOKEN that no walk has is ignored (15 R366, 19 R427). -/
def answerWalk (s : State) (token : Nat) (retry : Bool) : State :=
  { s with net := { s.net with walks := s.net.walks.map (fun w =>
      if w.chart && w.token == some token then (if retry then { w with chart := false, token := none } else { w with failed := true, chart := false, token := none }) else w) } }

/-- Lodestar approves a ring of a sealed context when every wafer it names is a member of the convoy that is not revoked (18 R400, R410). -/
def ringApproved (s : State) (c : Nat) (v : Word) : Bool :=
  if !(ctxAt s c).sealed then true
  else
    match convoyOf s c with
    | none => false
    | some y =>
      let ok := fun (w : Nat) => y.members.contains w && !y.revoked.contains w
      !v.getLsbD 63 || (ok (urRoot v) && ok (urNext v) && ok (urPrev v) && (!v.getLsbD 32 || ok (v.extractLsb' 33 6).toNat))

/-- The value limits of ERRINJ (19 R425). -/
def errinjBad (v : Word) : Bool :=
  let kind := (v.extractLsb' 60 4).toNat
  let port := (v.extractLsb' 35 3).toNat
  let lim := match kind with | 1 => 11 | 2 => 27 | 3 => 63 | _ => 511
  3 < kind || lim < (v.extractLsb' 50 9).toNat || 4 < port || (kind == 3 && port != 0) || 47 < (v.extractLsb' 29 6).toNat ||
    16 < (v.extractLsb' 24 5).toNat || 11 < (v.extractLsb' 20 4).toNat || v.extractLsb' 0 20 != 0

/-- CKPTCTL.OP written (20 R445 to R447): 1 arms a checkpoint, 2 begins a restore, which needs every context FREE and no wave. -/
def writeCkpt (s : State) (op : BitVec 2) : State :=
  let k := s.rel.ckpt
  let st := k.st.toNat
  let put := fun (k : Ckpt) => { s with rel := { s.rel with ckpt := k } }
  if (1 ≤ st ∧ st ≤ 4) ∨ st = 6 then s
  else
    match op.toNat with
    | 1 => put { k with op := op, st := 1, withheld := [], bad := false }
    | 2 => if s.os.ctxs.all (fun c => c.2.st == 0) && s.rel.wave.isNone then put { k with op := op, st := 6 } else put { k with op := 0, st := 7 }
    | _ => put { k with op := op }

/-- The current strand's system registers changed. -/
def setSys (f : SysRegs → SysRegs) : Exec Unit := modS (fun s => modCur s (fun t => { t with sys := f t.sys }))

/-- The strand-visible registers that MTS writes (R42, R379). -/
def writeStrandReg (n : Nat) (v : Word) : Exec Unit :=
  match n with
  | 0x10 => if 6 ≤ v.toNat % 8 then sysIllegal 34 else setSys (fun r => { r with fpctl := v &&& 0x1F7 })
  | 0x11 => setSys (fun r => { r with fpflags := v &&& 0x1F })
  | 0x20 => setSys (fun r => { r with tvec := v &&& ~~~7 })
  | 0x21 => setSys (fun r => { r with tpc := v &&& ~~~7 })
  | 0x22 => setSys (fun r => { r with tcause := v &&& 0xFF })
  | 0x23 => setSys (fun r => { r with taddr := v })
  | 0x24 => setSys (fun r => { r with tinfo := v })
  | 0x25 => setSys (fun r => { r with tprev := v })
  | 0x26 => setSys (fun r => { r with tdepth := v &&& 1 })
  | _ => setSys (fun r => { r with seed := v })

def modOs (f : Os → Os) : Exec Unit := modS (fun s => { s with os := f s.os })
def modRel (f : Rel → Rel) : Exec Unit := modS (fun s => { s with rel := f s.rel })

/-- The supervisor and configuration registers that MTS writes. -/
def writeSysReg (n : Nat) (v : Word) : Exec Unit :=
  if n < 0x100 then writeStrandReg n v
  else if 0x240 ≤ n ∧ n < 0x280 then
    modS (fun s => if ringApproved s (n - 0x240) v then { s with trust := { s.trust with ulring := mput s.trust.ulring (n - 0x240) (v &&& 0x81FFFFFFFC000000) } } else s)
  else
    match n with
    | 0x100 => modOs (fun o => { o with nameroot := v &&& 0x00FFFFFFFFFFFFC0 })
    | 0x102 => modS (fun s => (List.range 64).foldl mirror { s with os := { s.os with cxtab := v &&& 0x00FFFFFFFFFFF000 } })
    | 0x110 => if v.toNat % 128 < 2 ∨ 64 < v.toNat % 128 then sysIllegal 34 else modS (fun s => setMaxmsg s (v &&& 0x7F))
    | 0x120 => modOs (fun o => { o with ageLimit := v &&& 0xFFFFFFFF })
    | 0x130 => modS (fun s => setCalldl s (v &&& 0xFFFFFFFF))
    | 0x140 => modS (fun s => modCurAgent s (fun x => { x with faultbox := v &&& 0x00FFFFFFFFFFF00F }))
    | 0x141 =>
      let ans := (v.extractLsb' 62 2).toNat
      if ans = 0 ∨ ans = 3 then sysIllegal 34 else modS (fun s => answerWalk s (v.toNat % 2 ^ 32) (ans == 1))
    | 0x280 => if errinjBad v then sysIllegal 34 else modRel (fun r => { r with errinj := v, errSkip := 0 })
    | 0x290 => modS (fun s => if v.getLsbD 62 && s.os.ctxs.all (fun c => c.2.st == 0) then { s with rel := { s.rel with rebuild := true } } else s)
    | 0x291 => if v.extractLsb' 10 54 ≠ 0 ∨ 47 < (v.extractLsb' 4 6).toNat ∨ 11 < (v.extractLsb' 0 4).toNat then sysIllegal 34 else modRel (fun r => { r with rowsel := v })
    | 0x292 =>
      let kill := (v.extractLsb' 24 5).toNat
      if v.extractLsb' 5 19 ≠ 0 ∨ (v.getLsbD 29 ∧ 16 < kill) then sysIllegal 34
      else modS (fun s => if v.getLsbD 29 then declareDead s (physOf (s.rel.rowsel.extractLsb' 4 6).toNat kill (s.rel.rowsel.extractLsb' 0 4).toNat) else s)
    | 0x2A0 => if v.extractLsb' 62 2 = 3 then sysIllegal 34 else modS (fun s => writeCkpt s (v.extractLsb' 62 2))
    | _ => pure ()

/-- MTS of a register by number. -/
def moveToSys (g : Guard) (a : Reg) (n : Nat) : Exec Ctl :=
  scalar g [] (do
    let v ← readReg a
    checkSys n true
    writeSysReg n v
    return .next)

/-- MFS (R379). -/
def execMfs (g : Guard) (d : Reg) (num : BitVec 12) (s : State) : Host.Outcome State Fault Refusal :=
  runWord s (scalar g [d] (do
    checkSys num.toNat false
    writeReg d (← reads (fun s => sysReg s num.toNat))
    return .next))

/-- MTS (R379). -/
def execMts (g : Guard) (a : Reg) (num : BitVec 12) (s : State) : Host.Outcome State Fault Refusal := runWord s (moveToSys g a num.toNat)

/-- MTS to ERRINJ (19 R425). -/
def execErrinjWrite (g : Guard) (a : Reg) (s : State) : Host.Outcome State Fault Refusal := runWord s (moveToSys g a 0x280)
/-- MTS to FAULTANS (19 R427). -/
def execFaultansWrite (g : Guard) (a : Reg) (s : State) : Host.Outcome State Fault Refusal := runWord s (moveToSys g a 0x141)
/-- MTS to ROWSTATE (20 R435). -/
def execRowstateKill (g : Guard) (a : Reg) (s : State) : Host.Outcome State Fault Refusal := runWord s (moveToSys g a 0x292)
/-- MTS to REMAPSTAT (20 R441). -/
def execRemapstatRebuild (g : Guard) (a : Reg) (s : State) : Host.Outcome State Fault Refusal := runWord s (moveToSys g a 0x290)
/-- MTS to CKPTCTL with OP 1 (20 R445). -/
def execCkptCheckpoint (g : Guard) (a : Reg) (s : State) : Host.Outcome State Fault Refusal := runWord s (moveToSys g a 0x2A0)
/-- MTS to CKPTCTL with OP 2 (20 R447). -/
def execCkptRestore (g : Guard) (a : Reg) (s : State) : Host.Outcome State Fault Refusal := runWord s (moveToSys g a 0x2A0)

/-- Logical rows of a grade (00 R2). -/
def gradeRows (s : State) : Nat := if s.boot.fuses.grade = 1 then 70 else 72

/-- The topology words of 14 R347. -/
def topoWord (s : State) (w : Nat) : Word :=
  if w = 0 then
    BitVec.ofNat 64 ((if s.boot.pilot then 2 ^ 59 else 0) + s.boot.fuses.grade.toNat * 2 ^ 56 + s.rel.tiles * 2 ^ 42 + s.rel.lastrow * 2 ^ 34 + 128 * 2 ^ 26 +
      gradeRows s * 2 ^ 19)
  else BitVec.ofNat 64 (8 * 2 ^ 20 + 6 * 2 ^ 16 + 17 * 2 ^ 11 + 12 * 2 ^ 7 + 16)

/-- TOPO (R379). -/
def execTopo (g : Guard) (d : Reg) (w : BitVec 1) (s : State) : Host.Outcome State Fault Refusal :=
  runWord s (scalar g [d] (do
    writeReg d (← reads (fun s => topoWord s w.toNat))
    return .next))

/-- TRET: PC := TPC, and nothing else (R383). A fault at that address names the TRET in TPREV, as for a taken branch. -/
def execTret (g : Guard) (s : State) : Host.Outcome State Fault Refusal :=
  runWord s (scalar g [] (do return .jump (← reads (fun s => (cur s).sys.tpc))))

/-! ### The status word (R377) -/

/-- CODE and VALUE. -/
def sysStatus (code value : Nat) : Word := BitVec.ofNat 64 (code * 2 ^ 56 + value % 2 ^ 56)
def kOK := 0
def kFULL := 1
def kFROZEN := 2
def kSTATE := 3
def kOWNER := 4
def kCHECK := 5
def kAPPROVAL := 6
def kSAVE := 7
def kNOTFOUND := 8

/-- Earlier accesses of the strand have been performed (R378). -/
def streamDone : Exec Unit := do
  until' .response (fun s => performedAt s 3)
  behindSbar

/-- The operand of a word without one. -/
def noOperand : Exec Word := pure 0

/-- A word that has a status: rd reads its operand, a port popped once as the instruction retires (01 R24); then what it waits for has answered, or x runs it. -/
def answered (g : Guard) (d : Reg) (rd : Exec Word) (x : Word → Exec Word) : Exec Ctl :=
  scalar g [d] (do
    let ga ← rd
    streamDone
    match replyFor (← getS) 0 with
    | some r => writeReg d r.val
    | none => writeReg d (← x ga)
    return .next)

/-- The strand of an operation is answered with its status word. -/
def answerStrand (s : State) (a k : Nat) (w : Word) : State := modStrand s a k (fun t => { wakeStrand t with reply := some [⟨0, w, false, 0, 0⟩] })

/-! ### SYSCALL (R380) -/

/-- SYSCALL: a release at system scope, the request, and with its answer an acquire at system scope. -/
def execSyscall (g : Guard) (d a : Reg) (lode : BitVec 1) (svc : BitVec 16) (s : State) : Host.Outcome State Fault Refusal :=
  runWord s (scalar g [d] (do
    let v ← readReg a
    match replyFor (← getS) 0 with
    | some r =>
      behindSbar
      acquire 3
      writeReg d r.val
      return .next
    | none =>
      release 3
      waitWith .service (fun s =>
        if s.os.svc.any (fun r => r.agent == s.env.agent && r.strand == s.env.strand) then s
        else { s with os := { s.os with svc := s.os.svc ++ [⟨s.env.agent, s.env.strand, (cur s).tag, lode = 1, svc.toNat, v⟩] } })))

/-! ### HALT (R385) -/

/-- The ring header that FAULTBOX of a core names (19 R427, R428). -/
def ringBase (x : Agent) : Nat := (x.faultbox.extractLsb' 12 44).toNat * 4096

/-- The core's fault mailbox or the service mailbox holds an entry (19 R428, R385). -/
def mailboxFull (s : State) (a : Nat) : Bool :=
  let b := ringBase (agentAt s a)
  (5 < (agentAt s a).faultbox.toNat % 16 && (readWord s.mem (b + 0x40)).toNat < (readWord s.mem b).toNat) || s.os.svc.any (fun r => !r.lode)

/-- HALT. -/
def execHalt (g : Guard) (d : Reg) (us : BitVec 20) (s : State) : Host.Outcome State Fault Refusal :=
  runWord s (scalar g [d] (do
    streamDone
    let s ← getS
    let full := mailboxFull s s.env.agent
    match full, replyFor s 0 with
    | false, none => waitFor (if us = 0 then .service else .halt)
    | _, r =>
      writeReg d (sysStatus kOK ((if full then 1 else 0) + (if r.isSome then 2 else 0)))
      return .next))

/-- HALT_TIMEOUT: the timeout of a HALT expires (R385). -/
def execHaltTimeout (agent strand : Nat) (s : State) : Host.Outcome State Fault Refusal :=
  let t := strandAt s agent strand
  if t.st = .waiting ∧ t.cause = some .halt then .next (answerStrand s agent strand 0) else .next s

/-! ### The configuration space (R387, R388, 22 R463) -/

def recchkWord : Nat := 0x1FFF8
def cfgstatWord : Nat := 0x1FFF9

/-- The tile and word of a configuration address, or its fault; a tile of the row of a wave in progress waits (R387, 20 R438). -/
def cfgPlace (ga : Word) (cause : Nat) : Exec (Nat × Nat) := do
  let f := (ga.extractLsb' 26 6).toNat
  let c := (ga.extractLsb' 21 5).toNat
  let r := (ga.extractLsb' 17 4).toNat
  let w := ga.toNat % 2 ^ 17
  if ga.extractLsb' 32 32 ≠ 0 ∨ 47 < f ∨ 16 < c ∨ 11 < r ∨ (0x1FFEF < w ∧ w ≠ recchkWord ∧ w ≠ cfgstatWord) then trapAt cause ga 1
  let s ← getS
  let p := physOf f c r
  if s.boot.fuses.off.contains p then trapAt cause ga 7
  if s.rel.wave.any (fun v => !v.switch && v.row == rowOf p) then waitFor .service
  return (p, w)

/-- An applied word: PORTS reads 0xF until it is written (22 R463). -/
def cfgWord (x : Agent) (w : Nat) : Word := mget (if w = 1 then 0xF else 0) x.cfg.words w

/-- CFGSTAT (R388). -/
def cfgstat (x : Agent) : Word := BitVec.ofNat 64 (x.cfg.result.toNat * 2 ^ 56 + x.cfg.staged.length)

/-- Entries of a staging buffer. -/
def stagingCap : Nat := 4096

/-- A word staged at tile p: the hook of KIND 3 counts it, and flips a bit of one (R388, 19 R425). -/
def stageWord (s : State) (p w : Nat) (v : Word) : State :=
  let x := agentAt s p
  if stagingCap ≤ x.cfg.staged.length then setAgent s p { x with cfg := { x.cfg with ovf := true } }
  else
    let e := s.rel.errinj
    let mine := e.getLsbD 59 && e.extractLsb' 60 4 == 3 && physOf (e.extractLsb' 29 6).toNat (e.extractLsb' 24 5).toNat (e.extractLsb' 20 4).toNat == p
    let fires := mine && (e.extractLsb' 38 12).toNat ≤ s.rel.errSkip
    let v := if fires then v ^^^ ((1 : Word) <<< (e.extractLsb' 50 9).toNat) else v
    let s := setAgent s p { x with cfg := { x.cfg with staged := x.cfg.staged ++ [(w, v)] } }
    if fires then postUnit (disarmHook s) p 12 0 none 3 3 0 e 0 0
    else if mine then { s with rel := { s.rel with errSkip := s.rel.errSkip + 1 } } else s

/-- A task on the tile is RUNNING or PREEMPTED (R388). -/
def tileBusy (s : State) (p : Nat) : Bool := (taskOf s p).any (fun t => t.st == .running || t.st == .preempted)

/-- RECCHK: the buffer is checked, applied whole or not at all, and emptied (R388). -/
def recordCheck (s : State) (p : Nat) (v : Word) : State :=
  let x := agentAt s p
  let sum := crc32c (x.cfg.staged.flatMap (fun e => natBytes 8 e.2.toNat))
  let result : Nat :=
    if tileBusy s p then 4
    else if x.cfg.ovf then 3
    else if v.extractLsb' 13 19 ≠ 0 ∨ x.cfg.staged.length ≠ (v.extractLsb' 0 13).toNat ∨ sum ≠ (v.extractLsb' 32 32).toNat then 2
    else 1
  let words := if result = 1 then x.cfg.staged.foldl (fun m e => mput m e.1 e.2) x.cfg.words else x.cfg.words
  setAgent s p { x with cfg := ⟨words, [], false, BitVec.ofNat 8 result⟩ }

/-- A word written to the configuration space; a write of CFGSTAT changes nothing. -/
def writeCfg (ga v : Word) : Exec Unit := do
  let (p, w) ← cfgPlace ga cSTORE
  modS (fun s => if w = recchkWord then recordCheck s p v else if w = cfgstatWord then s else stageWord s p w v)

/-- CFGW (R387). -/
def execCfgw (g : Guard) (d a : Reg) (s : State) : Host.Outcome State Fault Refusal :=
  runWord s (scalar g [] (do
    let ga ← readReg a
    let v ← readReg d
    streamDone
    writeCfg ga v
    return .next))

/-- CFGW to RECCHK (R388). -/
def execRecchk (g : Guard) (d a : Reg) (s : State) : Host.Outcome State Fault Refusal :=
  runWord s (scalar g [] (do
    let ga ← readReg a
    let v ← readReg d
    streamDone
    writeCfg ga v
    return .next))

/-- CFGR (R387). -/
def execCfgr (g : Guard) (d a : Reg) (s : State) : Host.Outcome State Fault Refusal :=
  runWord s (scalar g [d] (do
    let ga ← readReg a
    streamDone
    let (p, w) ← cfgPlace ga cLOAD
    writeReg d (← reads (fun s => if w = recchkWord then 0 else if w = cfgstatWord then cfgstat (agentAt s p) else cfgWord (agentAt s p) w))
    return .next))

end Sys2Proof.Machine
end

