-- ==== Sys2Proof/Machine/Walks.lean ====
section
/-!
DEFINITION. Translation walks (15 R360 to R366) and the fault rings of the binnacle cores (19 R426 to R431).
-/

namespace Sys2Proof.Machine

/-! ### The walk of R362 -/

/-- How a walk ended; lv is 0 (A) to 4 (E), and entry the last word read; key is where a leaf, or a poisoned entry, stands. -/
inductive WalkEnd where
  | leaf (key lv : Nat) (entry : Word)
  | invalid (lv : Nat) (entry : Word)
  | malformed (lv : Nat) (entry : Word)
  | poisoned (key lv : Nat)
deriving DecidableEq, Repr

/-- Index(VA, lv) (R360). -/
def walkIndex (va lv : Nat) : Nat :=
  match lv with
  | 0 => va / 2 ^ 44 % 4096
  | 1 => va / 2 ^ 32 % 4096
  | 2 => va / 2 ^ 28 % 16
  | 3 => va / 2 ^ 21 % 128
  | _ => va / 2 ^ 16 % 32

/-- FRAME as an address. -/
def entryFrame (e : Word) : Nat := (e.extractLsb' 16 40).toNat * 2 ^ 16

/-- InMap(e): host memory, or a page wholly within one WMM (R362). -/
def inMap (e : Word) (lv : Nat) : Bool := leafH e || (inModule (entryFrame e) && inModule (entryFrame e + 2 ^ pageBits lv - 1))

/-- The loop of R362 from the table at t; a poisoned entry is consumed, with a malformed result (19 R418). -/
def walkFrom (m : Memory) (va : Nat) : Nat → Nat → Nat → WalkEnd
  | 0, _, lv => .malformed lv 0
  | f + 1, t, lv =>
    let key := t + 8 * walkIndex va lv
    let e := readWord m key
    if !inModule key then .malformed lv 0
    else if poisonedAt m key then .poisoned key lv
    else if !e.getLsbD 0 then .invalid lv e
    else if e.extractLsb' 56 8 ≠ 0 ∨ e.extractLsb' 10 6 ≠ 0 then .malformed lv e
    else if !e.getLsbD 5 then
      if lv = 4 ∨ e.extractLsb' 6 4 ≠ 0 ∨ e.extractLsb' 1 4 ≠ 0 then .malformed lv e else walkFrom m va f (entryFrame e) (lv + 1)
    else if lv = 0 ∨ entryFrame e % 2 ^ pageBits lv ≠ 0 ∨ !inMap e lv then .malformed lv e
    else .leaf key lv e

/-- The walk of an address of a context; PTROOT 0 ends it at once (R362). -/
def walkTable (s : State) (t : Tag) (va : Nat) : WalkEnd :=
  let root := ((ctxAt s t.cx.toNat).ptroot.extractLsb' 16 40).toNat * 2 ^ 16
  if root = 0 then .invalid 0 0 else walkFrom s.mem va 5 root 0

/-- A and DIRTY are set by an OR at the entry's home (R364). -/
def touchLeaf (s : State) (key : Nat) (e : Word) (w : Bool) : State × Word :=
  let e' := e ||| 0x100 ||| (if w then 0x200 else 0)
  if e' = e then (s, e) else (setMem s (writeWord s.mem key e'), e')

/-- A walk made at once by a unit that does not wait: the page, its bits set where the access is allowed. -/
def walkNow (s : State) (t : Tag) (va access : Nat) (w : Bool) : State × Option TlbE :=
  match walkTable s t va with
  | .leaf key lv e =>
    if leafAllows access w e then
      let (s, e) := touchLeaf s key e w
      (s, some ⟨t, va / 2 ^ pageBits lv * 2 ^ pageBits lv, lv, e⟩)
    else (s, some ⟨t, va / 2 ^ pageBits lv * 2 ^ pageBits lv, lv, e⟩)
  | _ => (s, none)

/-! ### Walkers (R365, R366) -/

/-- A translation enters the caches of its requester (R365). -/
def cacheLeaf (s : State) (who : Requester) (e : TlbE) : State :=
  let field := fun (s : State) => { s with net := { s.net with fieldTlb := mmod [] s.net.fieldTlb (walkField s who) (fun l => tlbInsert 2048 l e) } }
  let tile := fun (a : Nat) (s : State) => modAgent s a (fun x => { x with tlb := tlbInsert 32 x.tlb e })
  match who with
  | .strand a _ => tile a (field s)
  | .copy a => tile a (field s)
  | .window a => tile a (field s)
  | .beacon g => { s with light := { s.light with beaconTlb := mmod [] s.light.beaconTlb (groupAt s g).beacon.toNat (fun l => tlbInsert 64 l e) } }
  | .tqu _ => field s

/-- A record of the walkers of a requester's field: it names the field as its location (19 R426, R429, log 44). -/
def postWalker (s : State) (w : Walk) (r : Nat → Rec) : State := let f := walkField s w.who; postCore s (f % 8) (r (f * 512))

/-- A TRANSLATE record (19 R430). -/
def postTranslate (s : State) (w : Walk) (detail token lv : Nat) (last : Word) : State :=
  postWalker s w (fun loc => mkRec s 2 0 (some w.tag) 0 loc 12 detail (BitVec.ofNat 64 w.va) last token 0 0 w.access lv)

/-- A walker consumes a poisoned table entry: a POISON record with DETAIL 1 (19 R418). -/
def postEntry (s : State) (w : Walk) (key : Nat) : State :=
  postWalker s w (fun loc => mkRec s 3 cPOISON (some w.tag) 0 loc 12 1 (BitVec.ofNat 64 (addrOfKey key)) 0 0 0 0 0 0)

/-- A walk of the same page of the same context, in the same field, that waits for Chart (R365). -/
def sameMiss (s : State) (w x : Walk) : Bool := x.chart && x.tag == w.tag && x.va / 2 ^ 16 == w.va / 2 ^ 16 && walkField s x.who == walkField s w.who

/-- A walk that found no leaf: it fails at once where it never calls Chart, joins a request for its page, or asks Chart (R366, 05 R161, 14 R323). -/
def missWalk (s : State) (i : Nat) (w : Walk) (bad : Bool) (lv : Nat) (last : Word) : State :=
  let put := fun (s : State) (w : Walk) => { s with net := { s.net with walks := s.net.walks.set i w } }
  if w.quiet then put (if bad then postTranslate s w 3 0 lv last else s) { w with failed := true }
  else
    match s.net.walks.find? (sameMiss s w) with
    | some x => put s { w with chart := true, token := x.token }
    | none =>
      let n := s.net.token
      let s := postTranslate s w (if bad then 2 else 1) n lv last
      put { s with net := { s.net with token := (n + 1) % 2 ^ 32 } } { w with chart := true, token := some n }

/-- TRANSLATION_WALK: a walk ends with a leaf, or in a miss (R362 to R366). A translation cache holds only leaves whose A is 1, and a walk whose access the leaf
does not permit sets no A (R364, log 32). -/
def execTranslationWalk (walk : Nat) (s : State) : Host.Outcome State Fault Refusal :=
  match s.net.walks[walk]? with
  | none => .next s
  | some w =>
    let gone := { s with net := { s.net with walks := s.net.walks.eraseIdx walk } }
    if w.tag.inc ≠ (ctxAt s w.tag.cx.toNat).inc ∨ (ctxAt s w.tag.cx.toNat).st = 0 then .next gone
    else if w.chart ∨ w.failed then .next s
    else
      match walkTable s w.tag w.va with
      | .leaf key lv e =>
        let c := fun (s : State) (e : Word) => cacheLeaf s w.who ⟨w.tag, w.va / 2 ^ pageBits lv * 2 ^ pageBits lv, lv, e⟩
        if leafAllows w.access w.dirty e then (let (s', e) := touchLeaf gone key e w.dirty; .next (c s' e))
        else if leafA e then .next (c gone e)
        else .next { s with net := { s.net with walks := s.net.walks.set walk { w with failed := true, denied := some e } } }
      | .invalid lv e => .next (missWalk s walk w false lv e)
      | .malformed lv e => .next (missWalk s walk w true lv e)
      | .poisoned key lv => .next (missWalk (postEntry s w key) walk w true lv 0)

/-- TRANSLATION_TIMEOUT: 10 ms without an answer (R366). -/
def execTranslationTimeout (token : Nat) (s : State) : Host.Outcome State Fault Refusal := .next (answerWalk s token false)

/-! ### The fault rings (19 R426 to R431) -/

/-- Room in the ring of a core (R428). -/
def ringRoom (s : State) (c : Nat) : Bool :=
  let x := agentAt s (coreBase + c)
  let n := x.faultbox.toNat % 16
  let b := ringBase x
  5 < n && (readWord s.mem b).toNat - (readWord s.mem (b + 0x40)).toNat < 2 ^ n

/-- A record is written and then TAIL (R428). -/
def putRecord (s : State) (c : Nat) (r : Rec) : State :=
  let x := agentAt s (coreBase + c)
  let b := ringBase x
  let k := (readWord s.mem b).toNat
  let at' := b + 0x1000 + 64 * (k % 2 ^ (x.faultbox.toNat % 16))
  let m := ([r.w0, r.w1, r.w2, r.w3, r.w4, r.w5, 0, 0].zipIdx).foldl (fun m p => writeWord m (at' + 8 * p.2) p.1) s.mem
  setMem s (writeWord m b (BitVec.ofNat 64 (k + 1)))

/-- A record is dropped and counted in LOST, which stands in the ring header where there is a ring (R428). -/
def loseRecord (s : State) (c : Nat) : State :=
  let x := agentAt s (coreBase + c)
  let n := min (mget 0 s.rel.lostRecs c + 1) (2 ^ 64 - 1)
  let s := { s with rel := { s.rel with lostRecs := mput s.rel.lostRecs c n } }
  if 5 < x.faultbox.toNat % 16 then setMem s (writeWord s.mem (ringBase x + 0x48) (BitVec.ofNat 64 n)) else s

/-- The record is a TRANSLATE record. -/
def isTranslate (r : Rec) : Bool := r.w0.extractLsb' 56 8 == 2

/-- A record of a tile goes on to its core's queue, in posting order (R426). -/
def forwardRecord (s : State) (c : Nat) : State :=
  match s.agents.find? (fun p => recCore p.1 == c && !isCore p.1 && p.2.ni.fbox != []) with
  | none => s
  | some (a, x) =>
    match x.ni.fbox with
    | [] => s
    | r :: rest => postCore (setAgent s a { x with ni := { x.ni with fbox := rest } }) c r

/-- FAULT_RECORD: the next record at a core is posted, or lost where there is no room; a TRANSLATE record waits instead (R428). -/
def execFaultRecord (core : Nat) (s : State) : Host.Outcome State Fault Refusal :=
  let recs := mget [] s.rel.recs core
  let drop := fun (s : State) (l : List Rec) => { s with rel := { s.rel with recs := mput s.rel.recs core l } }
  if ringRoom s core then
    match recs with
    | [] => .next (forwardRecord s core)
    | r :: rest => .next (putRecord (drop s rest) core r)
  else
    match recs.find? (fun r => !isTranslate r) with
    | none => .next (forwardRecord s core)
    | some r => .next (loseRecord (drop s (recs.erase r)) core)

end Sys2Proof.Machine
end

