-- ==== Sys2Proof/Machine/Tqu.lean ====
section
/-!
DEFINITION. The task queue unit (14 R320 to R341): queues and their headers, the checks of a record, task images and footprints, dependences, retirement,
TQPUSH (16 R382) and the class S words of the queues (R385).
-/

namespace Sys2Proof.Machine

/-! ### What the TQU reads -/

/-- Why a reading of the TQU stops: a walk to wait for, or an address that cannot be read. -/
inductive TquStop where
  | walk (s : State)
  | bad (va : Nat)

/-- A reading of the TQU. -/
abbrev Tqu (α : Type) := ReaderT State (Except TquStop) α

/-- The page of an address of a context: cached, walked at once, or asked of Chart (R322, R326, R328, 15 R365). A leaf whose A is 0 has it set first, and the
reading is made again (R364). -/
def tquPage (t : Tag) (va access : Nat) (quiet : Bool) : Tqu TlbE := fun s =>
  let who := Requester.tqu t.cx.toNat
  if va < 2 ^ 48 ∨ 2 ^ 56 ≤ va ∨ s.net.walks.any (fun x => x.failed && x.who == who && x.va / 2 ^ 16 == va / 2 ^ 16) then .error (.bad va)
  else
    match (mget [] s.net.fieldTlb 0).find? (tlbMatch t va) with
    | some e => .ok e
    | none =>
      match walkTable s t va with
      | .leaf key lv e =>
        if leafA e ∨ !leafAllows access false e then .ok ⟨t, va / 2 ^ pageBits lv * 2 ^ pageBits lv, lv, e⟩
        else .error (.walk (touchLeaf s key e false).1)
      | _ =>
        if s.net.walks.any (fun x => x.who == who && x.va / 2 ^ 16 == va / 2 ^ 16) then .error (.walk s)
        else .error (.walk (addWalk ⟨who, t, va, access, false, false, none, false, quiet, none⟩ s))

/-- n bytes of a context, and whether a word of them is poisoned. -/
def tquRead (t : Tag) (access : Nat) (quiet : Bool) : Nat → Nat → Nat → Tqu (List Byte × Bool)
  | 0, _, _ => pure ([], false)
  | f + 1, va, n => do
    if n = 0 then return ([], false)
    let m := min n (2 ^ 16 - va % 2 ^ 16)
    let e ← tquPage t va access quiet
    let s ← read
    if !(leafR e.leaf && encOk s t e va) then throw (.bad va)
    let k := leafKey e va
    let (rest, p) ← tquRead t access quiet f (va + m) (n - m)
    return (ctxBytes s t k m ++ rest, p || poisoned s.mem k m)

/-- n bytes. -/
def tquBytes (t : Tag) (va n : Nat) : Tqu (List Byte × Bool) := tquRead t 1 false (n / 2 ^ 16 + 2) va n
/-- A word. -/
def tquWord (t : Tag) (va : Nat) : Tqu (Nat × Bool) := do
  let (b, p) ← tquBytes t va 8
  return (leNat b, p)

/-- A failed walk of the TQU for the page of va has been answered. -/
def dropTquWalk (s : State) (c va : Nat) : State :=
  { s with net := { s.net with walks := s.net.walks.filter (fun w => !(w.failed && w.who == .tqu c && w.va / 2 ^ 16 == va / 2 ^ 16)) } }

/-- Bytes written by the TQU where the page has W; false when it has not (R326). -/
def tquWrite (s : State) (t : Tag) (va : Nat) (bs : List Byte) : State × Bool :=
  match walkNow s t va 2 true with
  | (s', some e) =>
    if 2 ^ 48 ≤ va && va < 2 ^ 56 && leafW e.leaf && encOk s' t e va then
      (if plainTo s' (some t) (leafKey e va) then setMem s' (writeBytes s'.mem (leafKey e va) bs) else s', true)
    else (s, false)
  | (_, none) => (s, false)

/-- A poisoned word among n bytes that the TQU consumes is told (19 R418). -/
def tquPoison (s : State) (t : Tag) (va n : Nat) : State :=
  let key := fun (i : Nat) => match (tquPage t (va + 8 * i) 1 false).run s with | .ok e => some (leafKey e (va + 8 * i)) | .error _ => none
  match (List.range (n / 8)).findSome? (fun i => (key i).filter (poisonedAt s.mem)) with
  | some k => postCore s 0 (mkRec s 3 0x10 (some t) 0 0 9 1 (BitVec.ofNat 64 (addrOfKey k / 8 * 8)) 0 0 0 0 0 0)
  | none => s

/-- The walks that a reading added, and the bits it set, in another state. -/
def walkInto (s' s : State) : State := { s with mem := s'.mem, net := { s.net with walks := s'.net.walks } }

/-- A word written by the TQU. -/
def tquPut (s : State) (t : Tag) (va v : Nat) : State × Bool := tquWrite s t va (natBytes 8 v)

/-! ### Contexts and queues (R327, R328, 15 R350) -/

def queue0 : Queue := ⟨0, false, false, 0⟩
def queueAt (s : State) (c l : Nat) : Queue := mget queue0 s.os.queues (4 * c + l)
def setQueue (s : State) (c l : Nat) (q : Queue) : State := { s with os := { s.os with queues := mput s.os.queues (4 * c + l) q } }

/-- The tracked tasks of a context. -/
def tasksOf (s : State) (c : Nat) : List Task := s.os.tasks.filter (fun t => t.tag.cx.toNat == c)

/-- Region and QHDR are read while no task of the context is tracked (15 R350). -/
def refreshCtx (s : State) (c : Nat) : State :=
  if (ctxAt s c).st = 0 ∨ tasksOf s c ≠ [] then s
  else modCtx s c (fun v => { v with region := ctxWord s c 2 &&& 0xFFFFFFF, qhdr := ctxWord s c 4 &&& 0x01FFFFFFFFFFFE00 })

/-- The VA of the header of a queue. -/
def headerVa (s : State) (c l : Nat) : Nat := (ctxAt s c).qhdr.toNat + 128 * l

/-- TAIL, and the word that holds RING and LOG2N. -/
def readHeader (s : State) (c l : Nat) : Tqu (Nat × Nat) := do
  let va := headerVa s c l
  let (tail, _) ← tquWord (liveTag s c) va
  let (ring, _) ← tquWord (liveTag s c) (va + 0x48)
  return (tail, ring)

def ringVa (ring : Nat) : Nat := ring / 2 ^ 6 % 2 ^ 51 * 2 ^ 6
def ringLog (ring : Nat) : Nat := ring % 16

/-- The TQU's fields of a header are written into it (R327). -/
def writeHeader (s : State) (c l : Nat) : State :=
  let t := liveTag s c
  let va := headerVa s c l
  let q := queueAt s c l
  let (s, _) := tquPut s t (va + 0x40) q.head
  match (tquWord t (va + 0x48)).run s with
  | .ok (w, _) => (tquPut s t (va + 0x48) (w % 2 ^ 62 + (if q.frozen then 2 ^ 63 else 0) + (if q.fault then 2 ^ 62 else 0))).1
  | .error _ => s

/-- A QUEUE_FAULT record (19 R430). -/
def postQueue (s : State) (t : Tag) (detail addr tail : Nat) : State :=
  postCore s 0 (mkRec s 10 0 (some t) 0 0 9 detail (BitVec.ofNat 64 addr) (BitVec.ofNat 64 tail) 0 0 0 0 0)

/-- A queue becomes FROZEN. -/
def freezeQueue (s : State) (c l : Nat) (fault : Bool) : State :=
  let q := queueAt s c l
  writeHeader (setQueue s c l { q with frozen := true, fault := q.fault || fault }) c l

/-- FROZEN with FAULT, and the record that says why. -/
def faultQueue (s : State) (c l detail addr tail : Nat) : State := postQueue (freezeQueue s c l true) (liveTag s c) detail addr tail

/-! ### Records (R320, R321) -/

/-- n bits of word i of a record from bit lo on. -/
def recField (r : List Word) (i lo n : Nat) : Nat := (r.getD i 0).toNat / 2 ^ lo % 2 ^ n
def rPrio (r : List Word) : Nat := recField r 0 62 2
def rRepl (r : List Word) : Bool := recField r 0 61 1 == 1
def rDepc (r : List Word) : Bool := recField r 0 60 1 == 1
def rImage (r : List Word) : Nat := recField r 0 6 51 * 64
def rW (r : List Word) : Nat := recField r 1 57 7 + 1
def rH (r : List Word) : Nat := recField r 1 50 7 + 1
def rSmask (r : List Word) : Nat := recField r 1 42 8
/-- SIZE8 of strand k. -/
def rSize8 (r : List Word) (k : Nat) : Nat := recField r 1 (18 + 3 * k) 3
def rTaskIdx (r : List Word) : Nat := recField r 1 10 8
def rArgv (r : List Word) : Bool := recField r 1 9 1 == 1
def rArg (r : List Word) : Word := r.getD 2 0
/-- The required groups and trees. -/
def rGroups (r : List Word) : List Nat := [recField r 3 56 8, recField r 3 48 8].take (recField r 3 28 2)
def rTrees (r : List Word) : List Nat := [recField r 3 39 9, recField r 3 30 9].take (recField r 3 26 2)
def rGw (r : List Word) : Nat := recField r 3 19 7 + 1
def rGh (r : List Word) : Nat := recField r 3 12 7 + 1
def rSeed (r : List Word) : Nat := recField r 4 0 64
def rFoot (r : List Word) : Nat := recField r 5 6 51 * 64
def rNfoot (r : List Word) : Nat := recField r 5 0 4
def rCompl (r : List Word) : Nat := recField r 7 6 51 * 64
def rWdog (r : List Word) : Nat := recField r 7 0 6

/-- Bit k of SMASK. -/
def inSmask (r : List Word) (k : Nat) : Bool := rSmask r / 2 ^ k % 2 == 1

/-- The reserved fields of a record are 0, DEP has its form, and the counts are in range (R320, R321). -/
def recordClean (r : List Word) : Bool :=
  recField r 0 57 3 == 0 && recField r 0 0 6 == 0 && recField r 1 0 9 == 0 && recField r 3 0 12 == 0 && recField r 5 57 7 == 0 && recField r 5 4 2 == 0 &&
    recField r 6 57 7 == 0 && recField r 7 57 7 == 0 && recField r 3 28 2 != 3 && recField r 3 26 2 != 3 && rNfoot r ≤ 8 &&
    (if rDepc r then recField r 6 0 3 == 0 else recField r 6 3 2 == 0 && recField r 6 0 3 ≤ 4)

/-- The checks of R321 that the record alone decides. -/
def recordOk (r : List Word) (lvl : Nat) : Bool :=
  recordClean r && rH r ≤ 72 && rSmask r != 0 && rPrio r == lvl && rW r % rGw r == 0 && rH r % rGh r == 0 &&
    (List.range 8).all (fun k => (rSize8 r k != 0) == inSmask r k)

/-! ### Images (R338, 22 R464, R465) -/

/-- Rounded up to 16. -/
def pad16 (n : Nat) : Nat := (n + 15) / 16 * 16

/-- The 8-byte word at an offset of some bytes. -/
def wordAt (bs : List Byte) (off : Nat) : Nat := leNat ((bs.drop off).take 8)

/-- What the records of an image say so far. -/
structure ImageParts where
  secs  : List (Nat × Nat × Nat)
  fixes : List (Nat × Nat × Nat × Nat)
  tasks : List (Nat × Nat × Nat × Nat)   -- TASKIDX, strand, offset, SIZE8
  idxs  : List Nat
  count : Nat
deriving DecidableEq, Repr

/-- A fix word that its section can take (22 R465): no reserved bit, an aligned word inside, SSEL text or data. -/
def fixOk (nbytes f : Nat) : Bool := f / 2 ^ 38 == 0 && f / 2 ^ 35 % 4 < 2 && f % 2 ^ 32 % 8 == 0 && f % 2 ^ 32 + 8 ≤ nbytes

/-- The records of an image, from VA va on; none when the image fails (R338). A SECTION or TASK record whose reserved bits are not 0 is no record of R465 (log 33). -/
def imageRecords : Nat → Nat → List Byte → ImageParts → Option ImageParts
  | 0, _, bs, p => if bs = [] then some p else none
  | f + 1, va, bs, p =>
    if bs = [] then some p
    else
      let w0 := wordAt bs 0
      let w1 := wordAt bs 8
      let body := bs.drop 16
      let next := fun (n : Nat) (q : ImageParts) => if body.length < n then none else imageRecords f (va + 16 + n) (body.drop n) { q with count := p.count + 1 }
      match w0 / 2 ^ 60 with
      | 1 =>
        let n := w0 / 2 ^ 16 % 2 ^ 16
        let vals := (List.range n).flatMap (fun i => (body.drop (16 * i + 8)).take 8)
        if crc32c vals = w1 / 2 ^ 32 then next (16 * n) p else none
      | 2 =>
        let nb := w0 % 2 ^ 32
        let nf := w1 % 2 ^ 32
        let fixes := (List.range nf).map (fun i => wordAt body (pad16 nb + 8 * i))
        if w0 / 2 ^ 32 % 2 ^ 26 = 0 ∧ crc32c (body.take nb) = w1 / 2 ^ 32 ∧ fixes.all (fixOk nb) then
          let sect := w0 / 2 ^ 58 % 4
          next (pad16 nb + pad16 (8 * nf)) { p with
            secs := p.secs ++ [(sect, va + 16, nb)]
            fixes := p.fixes ++ fixes.map (fun f => (sect, va + 16 + f % 2 ^ 32, f, wordAt body (f % 2 ^ 32))) }
        else none
      | 3 =>
        let n := w0 % 2 ^ 8
        let idx := w0 / 2 ^ 32 % 2 ^ 8
        let strands := (List.range n).map (fun i =>
          let w := wordAt body (16 * i + 8)
          (idx, w % 8, wordAt body (16 * i), w / 2 ^ 8 % 8))
        if w0 / 2 ^ 40 % 2 ^ 20 = 0 ∧ w0 / 2 ^ 8 % 2 ^ 24 = 0 ∧ w1 % 2 ^ 32 = 0 ∧ 1 ≤ n ∧ n ≤ 8 ∧ crc32c (body.take (16 * n)) = w1 / 2 ^ 32 then
          next (16 * n) { p with tasks := p.tasks ++ strands, idxs := p.idxs ++ [idx] } else none
      | _ => none

/-- The header of an image: NREC, PATTERN and LENGTH; none when it fails R464. -/
def imageHeader (h : List Byte) : Option (Nat × BitVec 32 × Nat) :=
  let w0 := wordAt h 0
  let w1 := wordAt h 8
  let len := wordAt h 16
  if w0 % 2 ^ 48 = 2 ^ 32 + 0x4C494D47 ∧ w1 / 2 ^ 48 = 0 ∧ w1 / 2 ^ 32 ≠ 0 ∧ len % 16 = 0 ∧ (h.drop 24).all (· == 0) then some (w1 / 2 ^ 32, BitVec.ofNat 32 w1, len) else none

/-- An image that can be used: header, records, a text section, and sections that fit their memories. -/
def parseImage (va : Nat) (h body : List Byte) : Option (TaskImage × ImageParts) :=
  match imageHeader h with
  | none => none
  | some (nrec, pat, len) =>
    match imageRecords (nrec + 1) (va + 0x40) body ⟨[], [], [], [], 0⟩ with
    | none => none
    | some p =>
      if p.count = nrec ∧ p.secs.any (fun x => x.1 == 0) ∧ p.secs.all (fun x => (x.1 != 2 || x.2.2 ≤ lsBytes) && (x.1 != 3 || x.2.2 ≤ vaultBytes)) ∧
        p.fixes.all (fun x => x.2.2.1 / 2 ^ 34 % 2 == 0 || p.secs.any (fun y => y.1 == x.2.2.1 / 2 ^ 35 % 4)) then
        some (⟨pat, 0x40 + len, p.secs, p.fixes, []⟩, p)
      else none

/-- The footprint list: ranges in the own LS, apart from each other, 3 MiB together (R322). -/
def footOk (l : List (Nat × Nat × Nat × Nat)) : Bool :=
  l.all (fun e => 1 ≤ e.2.1 && e.2.2.1 + e.2.1 ≤ lsBytes) && (l.map (fun e => e.2.1)).sum ≤ lsBytes &&
    (l.zipIdx.all (fun p => (l.drop (p.2 + 1)).all (fun q => p.1.2.2.1 + p.1.2.1 ≤ q.2.2.1 || q.2.2.1 + q.2.1 ≤ p.1.2.2.1)))

/-- What becomes of a record that has been read: rejected with a REASON and TADDR, where unread is an address that could not be read, or tracked. -/
inductive Verdict where
  | reject (reason taddr unread : Nat)
  | track (image : TaskImage) (foot : List (Nat × Nat × Nat × Nat))

/-- A reading, with none where it cannot be made. -/
def tryRead {α : Type} (x : Tqu α) : Tqu (α ⊕ Nat) := fun s =>
  match x.run s with
  | .ok v => .ok (.inl v)
  | .error (.bad va) => .ok (.inr va)
  | .error e => .error e

/-- The checks of a record, its footprint list and its image (R321, R322, R338). -/
def judgeRecord (t : Tag) (r : List Word) (lvl : Nat) (poison : Bool) : Tqu Verdict := do
  if poison || !recordOk r lvl then return .reject 1 0 0
  match ← tryRead (tquBytes t (rFoot r) (16 * rNfoot r)) with
  | .inr va => return .reject 5 va va
  | .inl (fb, fp) =>
    let foot := (List.range (rNfoot r)).map (fun i =>
      let w := wordAt fb (16 * i + 8)
      (wordAt fb (16 * i), w / 2 ^ 42, w / 2 ^ 20 % 2 ^ 22, w % 2 ^ 20))
    if fp || !footOk foot then return .reject 1 0 0
    match ← tryRead (do
      let (h, _) ← tquBytes t (rImage r) 64
      let len := match imageHeader h with | some (_, _, len) => len | none => 0
      return (h, (← tquBytes t (rImage r + 0x40) len).1)) with
    | .inr va => return .reject 2 0 va
    | .inl (h, body) =>
      match parseImage (rImage r) h body with
      | none => return .reject 2 0 0
      | some (img, p) =>
        let mine := p.tasks.filter (fun x => x.1 == rTaskIdx r)
        if !p.idxs.contains (rTaskIdx r) then return .reject 1 0 0
        if mine.any (fun x => !inSmask r x.2.1 || rSize8 r x.2.1 < x.2.2.2) then return .reject 1 0 0
        if (List.range 8).any (fun k => inSmask r k && !mine.any (fun x => x.2.1 == k)) then return .reject 1 0 0
        return .track { img with starts := mine.map (fun x => (x.2.1, x.2.2.1)) } foot

/-! ### Dependences (R330) -/

/-- How a task stands to its predecessors: those outstanding, or failed, with an address that could not be read (else 0). -/
def readDeps (s : State) (t : Tag) (r : List Word) : Tqu (List Nat ⊕ Nat) := do
  let n := recField r 6 0 3
  let list := recField r 6 5 52 * 32
  match ← tryRead (tquBytes t list (8 * n)) with
  | .inr va => return if n = 0 then .inl [] else .inr va
  | .inl (bs, p) =>
    if p then return .inr 0
    let mut out : List Nat := []
    for i in List.range n do
      let va := wordAt bs (8 * i)
      match (tasksOf s t.cx.toNat).find? (fun u => rCompl u.record == va) with
      | some u => out := out ++ [u.id]
      | none =>
        match ← tryRead (tquWord t va) with
        | .inl (w, false) => if w / 2 ^ 56 ≠ 1 then return .inr 0
        | .inl _ => return .inr 0
        | .inr bad => return .inr bad
    return .inl out

/-! ### Tracking (R328, R330, R331) -/

/-- A new tracked task. -/
def newTask (s : State) (t : Tag) (lvl : Nat) (r : List Word) : Task :=
  { id := s.os.nextTask, tag := t, lvl := lvl, record := r, image := ⟨0, 0, [], [], []⟩, st := .waiting, order := s.os.nextTask, origin := 0, preds := [], counter := false,
    since := s.env.ns, foot := [], reason := 0, cause := 0, ftile := 0, fstr := 0, taddr := 0, tinfo := 0, landed := false, retire := none }

/-- A task enters the TQU's tracking. -/
def addTask (s : State) (t : Task) : State := { s with os := { s.os with tasks := s.os.tasks ++ [t], nextTask := s.os.nextTask + 1 } }

/-- Where a record's predecessors are read: the list, then the entries in its order. -/
def depRanges (t : Tag) (r : List Word) (s : State) : List (Nat × Nat) :=
  let list := recField r 6 5 52 * 32
  let n := recField r 6 0 3
  (list, 8 * n) :: (match (tquBytes t list (8 * n)).run s with | .ok (bs, false) => (List.range n).map (fun i => (wordAt bs (8 * i), 8)) | _ => [])

/-- The first poisoned word of some ranges is told. -/
def tellPoison (s : State) (t : Tag) : List (Nat × Nat) → State
  | [] => s
  | q :: l => let s' := tquPoison s t q.1 q.2; if s'.rel == s.rel then tellPoison s t l else s'

/-- A record that has been read is tracked: rejected, cancelled, waiting or queued (R321, R330 to R332); slot is where it lies. -/
def trackRecord (s : State) (t : Tag) (lvl : Nat) (r : List Word) (poison : Bool) (slot : Nat) : Tqu State := do
  let k := newTask s t lvl r
  match ← judgeRecord t r lvl poison with
  | .reject reason taddr unread =>
    let s := if poison then tquPoison s t slot 64 else if recordOk r lvl then tquPoison s t (rFoot r) (16 * rNfoot r) else s
    return addTask (dropTquWalk s t.cx.toNat unread) { k with reason := reason, taddr := BitVec.ofNat 64 taddr, retire := some .failed }
  | .track img foot =>
    let k := { k with image := img, foot := foot }
    if rDepc r then return addTask s { k with counter := true }
    match ← readDeps s t r with
    | .inr unread => return addTask (dropTquWalk (tellPoison s t (depRanges t r s)) t.cx.toNat unread) { k with reason := 8, retire := some .cancelled }
    | .inl l => return addTask s { k with preds := l, st := if l = [] then .queued else .waiting }

/-- Most tasks that a context has tracked. -/
def trackCap : Nat := 64

/-- A kill of the context, or its pre-emption, is in progress at the TQU. -/
def killing (s : State) (c : Nat) : Bool := s.os.ops.any (fun o => o.kind == .kill && o.cx == c)

/-- The TQU looks at TAIL and reads the next record (R328). -/
def readNext (s : State) (c l : Nat) : Tqu State := do
  let t := liveTag s c
  let q := queueAt s c l
  let (tail, ring) ← readHeader s c l
  let key := leafKey (← tquPage t (headerVa s c l) 1 false) (headerVa s c l)
  let s := if 2 ^ 60 ≤ key ∧ key < 2 ^ 61 then { s with trust := { s.trust with hostLines := insertNat s.trust.hostLines ((key - 2 ^ 60) / 64) } } else s
  let n := ringLog ring
  if 12 < n then return faultQueue s c l 3 (headerVa s c l) tail
  if tail < max q.last q.head ∨ q.head + 2 ^ n < tail then return faultQueue s c l 1 (headerVa s c l) tail
  let s := if q.last = tail then s else setQueue s c l { q with last := tail }
  if q.head = tail ∨ trackCap ≤ (tasksOf s c).length then return s
  match ← tryRead (tquBytes t (ringVa ring + 64 * (q.head % 2 ^ n)) 64) with
  | .inr va => return faultQueue (dropTquWalk s c va) c l 5 va tail
  | .inl (bs, poison) =>
    let r := (List.range 8).map (fun i => BitVec.ofNat 64 (wordAt bs (8 * i)))
    let took := fun (s : State) => writeHeader (setQueue s c l { queueAt s c l with head := q.head + 1 }) c l
    match ← tryRead (tquPage t (rCompl r) 2 false) with
    | .inr va => return faultQueue (took (dropTquWalk s c va)) c l 4 (rCompl r) tail
    | .inl e =>
      if !(leafR e.leaf && leafW e.leaf && encOk s t e (rCompl r)) then return faultQueue (took s) c l 4 (rCompl r) tail
      return took (← trackRecord s t l r poison (ringVa ring + 64 * (q.head % 2 ^ n)))

/-- TAIL_OBSERVED (R328): the TQU reads one record of a queue, or finds a fault of it. -/
def execTailObserved (cx lvl : Nat) (s : State) : Host.Outcome State Fault Refusal :=
  let s := refreshCtx s cx
  if (ctxAt s cx).st = 0 ∨ (queueAt s cx lvl).frozen ∨ killing s cx ∨ 4 ≤ lvl then .next s
  else
    match (readNext s cx lvl).run s with
    | .ok s' => .next s'
    | .error (.walk s') => .next s'
    | .error (.bad va) => .next (dropTquWalk s cx va)

/-- DEPENDENCE_COUNTER_ZERO: the TQU looks at the counter of a WAITING task (R331). -/
def execDependenceCounterZero (task : Nat) (s : State) : Host.Outcome State Fault Refusal :=
  match taskAt s task with
  | none => .next s
  | some t =>
    if t.st ≠ .waiting ∨ !t.counter ∨ t.retire.isSome then .next s
    else
      let cancel := fun (s : State) => modTask (dropTquWalk s t.tag.cx.toNat (recField t.record 6 3 54 * 8)) task (fun t => { t with retire := some .cancelled, reason := 8 })
      match (tquWord t.tag (recField t.record 6 3 54 * 8)).run s with
      | .ok (_, true) => .next (cancel (tquPoison s t.tag (recField t.record 6 3 54 * 8) 8))
      | .ok (0, false) => .next (modTask s task (fun t => { t with st := .queued, since := s.env.ns }))
      | .ok _ => .next s
      | .error (.walk s') => .next s'
      | .error (.bad _) => .next (cancel s)

/-! ### Retirement (R325, R326, R330, R340) -/

/-- The tiles of a placed task with their relative indices: (rel, name). -/
def taskNames (t : Task) : List (Nat × Nat) :=
  (List.range (rH t.record)).flatMap (fun dr => (List.range (rW t.record)).map (fun dc => (dr * rW t.record + dc, t.origin + 128 * dr + dc)))

/-- The tiles that hold a task. -/
def taskTiles (s : State) (i : Nat) : List Nat := (s.agents.filter (fun p => p.2.task == some i)).map (·.1)

/-- The dirty lines of a tile's windows: (window, tag, line, VA). -/
def tileDirty (x : Agent) : List (Nat × Tag × WLine × Nat) :=
  x.cp.wins.flatMap (fun p => (p.2.lines.filter (fun l => l.dirty != 0)).map (fun l => (p.1, p.2.tag, l, lineAddr p.2 l.idx)))

/-- A line leaves its window. -/
def dropLine (x : Agent) (w idx : Nat) : Agent :=
  match mget? x.cp.wins w with
  | none => x
  | some v => { x with cp := { x.cp with wins := mput x.cp.wins w { v with lines := v.lines.filter (fun l => l.idx != idx) } } }

/-- One dirty line written back and dropped, or dropped with its address and the TINFO of R119 that it failed with; where its page has no leaf the line stays, and Chart
is asked (15 R366). -/
def flushLine (s : State) (a w : Nat) (t : Tag) (l : WLine) (va : Nat) : State × Option (Nat × Nat) :=
  let drop := fun (s : State) => modAgent s a (fun x => dropLine x w l.idx)
  let mine := fun (x : Walk) => x.who == .window a && x.va / 2 ^ 16 == va / 2 ^ 16
  if s.net.walks.any (fun x => x.failed && mine x) then (drop s, some (va, 2))
  else
    match walkNow s t va 6 true with
    | (s', some e) =>
      if leafW e.leaf && encOk s' t e va then (drop (setMem s' (writeBackLine s' (some t) (leafKey e va) l).1), none) else (drop s, some (va, 3))
    | (_, none) => (if s.net.walks.any (fun x => x.who == .window a) then s else addWalk ⟨.window a, t, va, 6, true, false, none, false, false, none⟩ s, none)

/-- The dirty bytes of a tile's windows are written back as far as their pages are known; what fails is dropped, and the first failing address told (06 R198,
R475). -/
def flushWindows (s : State) (a : Nat) : State × Option (Nat × Nat) :=
  let (s, bad) := (tileDirty (agentAt s a)).foldl (fun acc q => let (s, b) := flushLine acc.1 a q.1 q.2.1 q.2.2.1 q.2.2.2; (s, acc.2 <|> b)) (s, none)
  ({ s with net := { s.net with walks := s.net.walks.filter (fun x => !(x.failed && x.who == .window a)) } }, bad)

/-- The dirty lines of a stopped or retiring tile are written back as far as their pages are known; the task of one that fails ends with REASON 12 (06 R475). -/
def flushTile (s : State) (a : Nat) : State :=
  let (s, bad) := flushWindows s a
  match bad, (agentAt s a).task with
  | some (va, code), some i => failTask s i 12 0 0 0 (BitVec.ofNat 64 va) (BitVec.ofNat 64 code)
  | _, _ => s

/-- What a tile gives up when its task retires: windows, triggers, the elements of its channels and queues (R131, R198, R215, R180). -/
def clearTile (x : Agent) : Agent :=
  { x with
    task := none
    strands := x.strands.map (fun p => (p.1, { p.2 with st := .inactive, cause := none, reply := none, word := none, mode := 0, arrived := [], qb := [] }))
    mx := { x.mx with trig := [], pert := [] }
    cp := { x.cp with wins := [] }
    ni := { x.ni with chans := [], rqs := [], whq := [] }
    rx := { x.rx with chain := none, held := [] } }

/-- STATUS of a final state. -/
def statusCode : TaskSt → Nat
  | .done => 1
  | .failed => 2
  | .cancelled => 3
  | .killed => 4
  | _ => 0

/-- Words 2 to 7 of the completion record, then word 0 (R324, R325). -/
def writeCompletion (s : State) (t : Task) (abandoned : Nat) : State :=
  let va := rCompl t.record
  let fin := t.retire.getD t.st
  let w0 := statusCode fin * 2 ^ 56 + t.reason * 2 ^ 48 + t.cause % 256 * 2 ^ 40 + min abandoned 65535 * 2 ^ 24
  let w2 := t.ftile % 2 ^ 14 * 2 ^ 18 + t.fstr % 8 * 2 ^ 15 + t.origin % 2 ^ 14
  let body := natBytes 8 w2 ++ natBytes 8 t.taddr.toNat ++ natBytes 8 t.tinfo.toNat ++ natBytes 24 0
  match tquWrite s t.tag (va + 16) body with
  | (s', true) => (tquPut s' t.tag va w0).1
  | (_, false) => postQueue (dropTquWalk s t.tag.cx.toNat va) t.tag 4 va 0

/-- The pages that the end of a task writes are known, or known not to be there: its completion record's and its queue header's (15 R366). -/
def endPages (s : State) (t : Task) : Tqu Unit := do
  let c := t.tag.cx.toNat
  let _ ← tryRead (tquPage (liveTag s c) (rCompl t.record) 2 false)
  let _ ← tryRead (tquPage (liveTag s c) (headerVa s c t.lvl) 2 false)

/-- x once those pages are known; until then the walk that is missing. -/
def withEndPages (s : State) (t : Task) (x : State) : State :=
  match (endPages s t).run s with
  | .error (.walk s') => s'
  | _ => x

/-- The dependents of a task that has retired: satisfied, or reached by its error token (R330, R340). -/
def tellDependents (s : State) (i : Nat) (done : Bool) : State :=
  { s with os := { s.os with tasks := s.os.tasks.map (fun u =>
      if u.retire.isSome ∨ !u.preds.contains i then u
      else if done then
        let l := u.preds.filter (· != i)
        { u with preds := l, st := if l = [] ∧ u.st = .waiting then .queued else u.st, since := if l = [] then s.env.ns else u.since }
      else { u with retire := some .cancelled, reason := 8 }) } }

/-- An L3 phase whose member tasks have all retired is released, since each counts as arriving; strands that have arrived since are in the next (14 R343). -/
def closePhase (s : State) (c : Nat) : State :=
  match mget? s.net.l3 c with
  | none => s
  | some ids =>
    if ids.any (fun i => (taskAt s i).isSome) then s
    else
      let s := { s with net := { s.net with l3 := mdel s.net.l3 c } }
      if s.agents.any (fun p => p.2.strands.any (fun q => q.2.tag == some (liveTag s c) && mget false q.2.arrived 3)) then openPhase s c else s

/-- A task ends: its tiles are freed, its completion record is written, a failed one freezes its queue, and its dependents
learn of it. With REPL, a task that lost a tile is tracked again (R332). -/
def retireTask (s : State) (t : Task) (fin : TaskSt) : State :=
  let tiles := taskTiles s t.id
  let abandoned := (tiles.map (fun a => ((agentAt s a).strands.map (fun p => p.2.eng.abandoned)).sum)).sum
  let t := { t with retire := some fin }
  let s := mapAgents s (fun _ x => if x.task = some t.id then clearTile x else x)
  let s := writeCompletion s t abandoned
  let s := { s with os := { s.os with tasks := s.os.tasks.filter (fun u => u.id != t.id) } }
  let s := if t.retire = some .failed then freezeQueue s t.tag.cx.toNat t.lvl false else s
  let s := if t.retire = some .killed then s else tellDependents s t.id (t.retire = some .done)
  let s := closePhase s t.tag.cx.toNat
  if t.retire = some .failed ∧ t.reason = 11 ∧ rRepl t.record then
    addTask s { t with id := s.os.nextTask, order := s.os.nextTask, st := .queued, origin := 0, since := s.env.ns, reason := 0, cause := 0, ftile := 0, fstr := 0, taddr := 0, tinfo := 0,
                       landed := false, retire := none, preds := [], counter := false }
  else refreshCtx s t.tag.cx.toNat

/-- Nothing of a task's strands and engines is left in progress on a tile. -/
def tileQuiet (s : State) (a : Nat) (failed : Bool) : Bool :=
  let x := agentAt s a
  x.strands.all (fun p => p.2.st == .inactive || (failed && p.2.st != .ready && p.2.st != .waiting && p.2.eng.mxq == [] && p.2.eng.cpq == [])) &&
    !committing x && x.cp.table == [] && x.mx.runs.all (fun r => r.fired.isSome && r.phase != .running) &&
    s.net.reqs.all (fun r => r.src != a)

/-- TASK_RETIREMENT (R325, R332, R340): the windows of its tiles are written back tile by tile (06 R475), and the task ends. A task of a context that is being killed is not DONE although its kill markers have emptied its tiles: the TQU's
marker makes it KILLED (15 R356). -/
def execTaskRetirement (task : Nat) (s : State) : Host.Outcome State Fault Refusal :=
  match taskAt s task with
  | none => .next s
  | some t =>
    let tiles := taskTiles s task
    if tiles.any (fun a => (agentAt s a).stopped) then .next s
    else
      let ends := fun (fin : TaskSt) =>
        match tiles.find? (fun a => tileDirty (agentAt s a) != []) with
        | some a => flushTile s a
        | none => withEndPages s t (retireTask s t fin)
      match t.retire with
      | some fin => .next (if tiles.all (fun a => tileQuiet s a true) then ends fin else s)
      | none => .next (if t.st = .running ∧ t.tag = liveTag s t.tag.cx.toNat ∧ tiles.all (fun a => tileQuiet s a false) then ends .done else s)

/-- WATCHDOG: 2^WDOG us of RUNNING time have passed (R340). FTILE names the lowest of the task's names that still runs a strand. -/
def execWatchdog (task : Nat) (s : State) : Host.Outcome State Fault Refusal :=
  match taskAt s task with
  | none => .next s
  | some t =>
    if t.st ≠ .running ∨ rWdog t.record = 0 then .next s
    else
      let live := ((taskTiles s task).filter (fun a => (agentAt s a).strands.any (fun p => p.2.st != .inactive))).map (nameOf s)
      .next (failTask s task 7 0 (live.foldl min (live.headD 0)) 0 0 0)

/-! ### TQPUSH (16 R382) -/

/-- The index of the reply that stands for a push between its two steps: the record is in slot k, its value, of queue 4 c + l, its key. -/
def pushMark : Nat := 2 ^ 20

/-- A push to a queue is between its steps; those of the wafer's strands to one queue are performed in one order. -/
def pushing (s : State) (q : Nat) : Bool :=
  s.agents.any (fun p => p.2.strands.any (fun t => (t.2.reply.getD []).any (fun r => r.idx == pushMark && r.key == q)))

/-- The record goes to slot TAIL, and TAIL is the answer; or the push ends with a status (R382 steps 3 and 4). -/
def copyRecord (s : State) (c l : Nat) (r : List Word) : Tqu (State × (Word ⊕ Nat)) := do
  let t := liveTag s c
  let q := queueAt s c l
  match ← tryRead (readHeader s c l) with
  | .inr va => return (dropTquWalk s c va, .inl (sysStatus kFROZEN 0))
  | .inl (tail, ring) =>
    if q.frozen then return (s, .inl (sysStatus kFROZEN 0))
    if tail - q.head = 2 ^ ringLog ring then return (s, .inl (sysStatus kFULL 0))
    let slot := ringVa ring + 64 * (tail % 2 ^ ringLog ring)
    let _ ← tryRead (tquPage t slot 2 false)
    match tquWrite s t slot (r.flatMap (fun w => natBytes 8 w.toNat)) with
    | (s', true) => return (s', .inr tail)
    | (_, false) => return (dropTquWalk s c slot, .inl (sysStatus kFROZEN 0))

/-- TAIL goes from k to k + 1, unless another agent has written it: then the queue is FROZEN with FAULT (R382 steps 4 and 5). -/
def publishRecord (s : State) (c l k : Nat) : Tqu (State × Word) := do
  match ← tryRead (readHeader s c l) with
  | .inr va => return (dropTquWalk s c va, sysStatus kFROZEN 0)
  | .inl (tail, _) =>
    if tail ≠ k then return (faultQueue s c l 2 (headerVa s c l) tail, sysStatus kFROZEN 0)
    match tquPut s (liveTag s c) (headerVa s c l) (k + 1) with
    | (s', true) => return (s', sysStatus kOK k)
    | (_, false) => return (s, sysStatus kFROZEN 0)

/-- The strand's push is between its steps: it goes on in no new issue slot (01 R18). -/
def markPush (q k : Nat) (s : State) : State :=
  modCur s (fun t => { t with st := .ready, cause := none, reply := some (t.reply.getD [] ++ [⟨pushMark, BitVec.ofNat 64 k, false, 0, q⟩]) })

/-- A step of the TQU for a push, or a wait for the pages it needs. -/
def atTqu {α : Type} (x : State → Tqu α) : Exec α := do
  let s ← getS
  match (x s).run s with
  | .ok v => return v
  | .error _ => waitWith .service (fun s => match (x s).run s with | .error (.walk s') => walkInto s' s | _ => s)

/-- TQPUSH: the record is loaded, earlier accesses are released at system scope, and the TQU performs the push. -/
def execTqpush (g : Guard) (d a : Reg) (lvl : BitVec 2) (s : State) : Host.Outcome State Fault Refusal :=
  runWord s (scalar g [d] (do
    let ga ← readReg a
    let s ← getS
    let c := match (cur s).tag with | some t => t.cx.toNat | none => 0
    let l := lvl.toNat
    let ends := fun (s : State) (w : Word) => (do
      modS (fun _ => s)
      writeReg d w
      return .next : Exec Ctl)
    match replyFor s pushMark with
    | some r =>
      let (s, w) ← atTqu (fun s => publishRecord s c l r.val.toNat)
      ends s w
    | none =>
      if ga.toNat % 64 ≠ 0 then trapAt cMISALIGN ga 64
      release 3
      let ws ← loadElems ((List.range 8).map (fun i => (i, ga + BitVec.ofNat 64 (8 * i)))) 8 8 true (fun _ => 0) 4
      if (cur s).tag.isNone then ends (← getS) (sysStatus kSTATE 0)
      else
        until' .service (fun s => !pushing s (4 * c + l))
        let r := ws.map (fun w => BitVec.ofNat 64 w.2)
        match ← atTqu (fun s => copyRecord s c l r) with
        | (s, .inl w) => ends s w
        | (_, .inr _) => waitWith .service (fun s => match (copyRecord s c l r).run s with | .ok (s', .inr k) => markPush (4 * c + l) k s' | _ => s)))

/-! ### Class S words of the queues (R385) -/

/-- Context c is not FREE, or the word gives STATE. -/
def liveCx (c : Nat) (x : Exec Word) : Exec Word := do
  if (ctxAt (← getS) c).st = 0 then return sysStatus kSTATE 0
  x

/-- TQPOP. -/
def popRecord (c l : Nat) (ga : Word) : Exec Word := do
  modS (fun s => refreshCtx s c)
  if ga.toNat % 64 ≠ 0 then trapAt cMISALIGN ga 64
  let p ← checkAddr needStore ga 8
  let s ← getS
  let q := queueAt s c l
  if !q.frozen then return sysStatus kSTATE 0
  match (do
      let (tail, ring) ← readHeader s c l
      if tail ≤ q.head then return none
      return some (← tquBytes (liveTag s c) (ringVa ring + 64 * (q.head % 2 ^ ringLog ring)) 64).1 : Tqu (Option (List Byte))).run s with
  | .ok (some bs) =>
    modS (fun s => if plainTo s (cur s).tag p.key then setMem s (writeBytes s.mem p.key bs) else s)
    modS (fun s => writeHeader (setQueue s c l { q with head := q.head + 1, last := max q.last (q.head + 1) }) c l)
    return sysStatus kOK q.head
  | .ok none => return sysStatus kNOTFOUND 0
  | .error (.bad _) => return sysStatus kCHECK 0
  | .error (.walk s') => waitWith .service (walkInto s')

def execTqpop (g : Guard) (d a : Reg) (lvl : BitVec 2) (cx : BitVec 6) (s : State) : Host.Outcome State Fault Refusal :=
  runWord s (answered g d (readReg a) (fun ga => do
    liveCx cx.toNat (popRecord cx.toNat lvl.toNat ga)))

/-- A task ends for a class S word, once the pages that its end writes are known. -/
def endForWord (t : Task) (fin : TaskSt) : Exec Word := do
  let s ← getS
  match (endPages s t).run s with
  | .error (.walk s') => waitWith .service (walkInto s')
  | _ =>
    modS (fun s => retireTask s t fin)
    return sysStatus kOK 0

/-- The tracked task of a context with a COMPL. -/
def taskByCompl (s : State) (c : Nat) (va : Word) : Option Task := (tasksOf s c).find? (fun t => rCompl t.record == va.toNat)

/-- TQDONE: the task completes DONE as if retired. -/
def execTqdone (g : Guard) (d a : Reg) (cx : BitVec 6) (s : State) : Host.Outcome State Fault Refusal :=
  runWord s (answered g d (readReg a) (fun ga => do
    liveCx cx.toNat (do
      match taskByCompl (← getS) cx.toNat ga with
      | none => return sysStatus kNOTFOUND 0
      | some t =>
        if t.retire.isSome ∨ (t.st ≠ .waiting ∧ t.st ≠ .queued) then return sysStatus kSTATE 0
        endForWord t .done)))

/-- TQCANCEL. -/
def execTqcancel (g : Guard) (d a : Reg) (cx : BitVec 6) (s : State) : Host.Outcome State Fault Refusal :=
  runWord s (answered g d (readReg a) (fun ga => do
    liveCx cx.toNat (do
      match taskByCompl (← getS) cx.toNat ga with
      | none => return sysStatus kNOTFOUND 0
      | some t =>
        if t.retire.isSome ∨ t.st = .running ∨ t.st = .preempted then return sysStatus kSTATE 0
        endForWord { t with reason := 9 } .cancelled)))

/-- An error token of the context is still spreading (R340). -/
def tokensLeft (s : State) (c : Nat) : Bool := (tasksOf s c).any (fun t => t.retire == some .cancelled && t.reason == 8)

/-- TQRESUME. -/
def execTqresume (g : Guard) (d : Reg) (lvl : BitVec 2) (cx : BitVec 6) (s : State) : Host.Outcome State Fault Refusal :=
  runWord s (answered g d noOperand (fun _ => liveCx cx.toNat (do
    until' .service (fun s => !tokensLeft s cx.toNat)
    modS (fun s => refreshCtx s cx.toNat)
    modS (fun s =>
      let q := queueAt s cx.toNat lvl.toNat
      if q.frozen then writeHeader (setQueue s cx.toNat lvl.toNat ⟨q.head, false, false, q.head⟩) cx.toNat lvl.toNat else s)
    return sysStatus kOK 0)))

end Sys2Proof.Machine
end

