-- ==== Sys2Proof/Machine/Tasks.lean ====
section
/-!
DEFINITION. From a QUEUED task to its strands: the choice and the placement of a task (14 R333 to R337), PREFETCH with the fixing of its image (R323, R338, R339),
the start of its strands (R339, R342, R343), and PLACE (16 R385).
-/

namespace Sys2Proof.Machine

/-! ### The choice (R333, R334) -/

/-- Whole us that a task has been QUEUED. -/
def queuedUs (s : State) (t : Task) : Nat := (s.env.ns - t.since) / 1000

/-- The effective priority of a task. -/
def effPrio (s : State) (t : Task) : Nat :=
  let age := s.os.ageLimit.toNat % 2 ^ 32
  if age = 0 then rPrio t.record else min 3 (rPrio t.record + queuedUs s t / age)

/-- Task t is chosen before u. -/
def chosenBefore (s : State) (t u : Task) : Bool := effPrio s u < effPrio s t || (effPrio s u == effPrio s t && t.order < u.order)

/-- The task of a context that blocks the others in PLACING. -/
def placingTask (s : State) (c : Nat) : Option Task := (tasksOf s c).find? (fun t => t.st == .placing && t.retire.isNone)

/-- The QUEUED task that comes next; a FROZEN queue dispatches none (R327). -/
def nextTask (s : State) (c : Nat) : Option Task :=
  ((tasksOf s c).filter (fun t => t.st == .queued && t.retire.isNone && !(queueAt s c t.lvl).frozen)).foldl (fun (acc : Option Task) t =>
    match acc with
    | none => some t
    | some u => if chosenBefore s t u then some t else acc) none

/-- Nothing is placed or dispatched for a context that is stopping, stopped or being killed, while a wave or a service switch runs, or while a checkpoint has the
tiles stopped (R335, 15 R368, 20 R438, R448, 21 R456). -/
def mayDispatch (s : State) (c : Nat) : Bool :=
  (ctxAt s c).st == 1 && !s.os.ops.any (fun o => o.cx == c && (o.kind == .kill || o.kind == .preempt)) && s.rel.wave.isNone &&
    !(2 ≤ s.rel.ckpt.st.toNat && s.rel.ckpt.st.toNat ≤ 4)

/-! ### The rectangle (R335, R336) -/

/-- Origin and size of a context's region: column, row, width, height. -/
def regionRect (w : Word) : Nat × Nat × Nat × Nat :=
  ((w.extractLsb' 21 7).toNat, (w.extractLsb' 14 7).toNat, (w.extractLsb' 7 7).toNat + 1, (w.extractLsb' 0 7).toNat + 1)

/-- The pattern takes a rectangle of width w at (col, row) (R336). -/
def patternOk (p : BitVec 32) (w col row : Nat) : Bool :=
  let al := 2 ^ (p.extractLsb' 0 4).toNat
  let fc := p.extractLsb' 8 8
  col % al == 0 && row % al == 0 && (!p.getLsbD 7 || col / 16 == (col + w - 1) / 16) &&
    (fc == 0 || (List.range w).all (fun i => fc.getLsbD ((col + i) / 16)))

/-- The origins inside the region where the pattern takes the task, in the order of the search (R335). -/
def origins (s : State) (t : Task) : List Nat :=
  let (c0, r0, w, h) := regionRect (ctxAt s t.tag.cx.toNat).region
  let tw := rW t.record
  let th := rH t.record
  if w < tw ∨ h < th then []
  else
    (List.range (h - th + 1)).flatMap (fun j => ((List.range (w - tw + 1)).filter (fun i => patternOk t.image.pattern tw (c0 + i) (r0 + j))).map (fun i =>
      (r0 + j) * 128 + c0 + i))

/-- A PREEMPTED task that its context's save holds gives its tiles up to other tasks (log 25). -/
def givenUp (s : State) (t : Task) : Bool := t.st == .preempted && s.os.saves.any (fun v => v.last && v.cx == t.tag.cx.toNat && v.inc == t.tag.inc)

/-- The tile with a name is mapped and holds no task. -/
def nameFree (s : State) (n : Nat) : Bool :=
  match physOfName s n with
  | some p => (agentAt s p).task.isNone || (taskOf s p).any (givenUp s)
  | none => false

/-- A tile taken by a task: what a PREEMPTED one left on it goes. -/
def takeTile (i : Nat) (x : Agent) : Agent :=
  if x.task.isNone then { x with task := some i }
  else
    let x := clearTile x
    { x with task := some i, stopped := false, calls := [], mx := { x.mx with runs := [] }, cp := { x.cp with table := [] } }

/-- Every tile of the task's rectangle at an origin is free. -/
def rectFree (s : State) (t : Task) (o : Nat) : Bool := (taskNames { t with origin := o }).all (fun p => nameFree s p.2)

/-- The groups and trees that a record requires are ACTIVE and its context's (R336). -/
def resourcesOk (s : State) (t : Task) : Bool :=
  (rGroups t.record).all (fun g => (groupAt s g).st == gACTIVE && (groupAt s g).owner == t.tag) &&
    (rTrees t.record).all (fun g => match treeRoot s g with | some r => teState (treeAt s r g) == 1 && teTag (treeAt s r g) == t.tag | none => false)

/-- A task is placed: its tiles are its own and its completion record reads 0, or it ends with REASON 4 (R325, R332, R336). -/
def placeAt (s : State) (t : Task) (o : Nat) : State :=
  if !resourcesOk s t then modTask s t.id (fun t => { t with origin := o, reason := 4, retire := some .failed })
  else
    let s := modTask s t.id (fun t => { t with origin := o, st := .prefetch })
    let names := (taskNames { t with origin := o }).map (·.2)
    let s := mapAgents s (fun _ x => if x.name.any names.contains then takeTile t.id x else x)
    match tquWrite s t.tag (rCompl t.record) (natBytes 16 0) with
    | (s', true) => s'
    | (_, false) => postQueue (dropTquWalk s t.tag.cx.toNat (rCompl t.record)) t.tag 4 (rCompl t.record) 0

/-- The task of a context that the TQU acts on next: the one that blocks in PLACING, or the next QUEUED one. -/
def placeNext (s : State) (c : Nat) : Option Task :=
  if !mayDispatch s c then none else (placingTask s c <|> nextTask s c).filter (fun t => !(queueAt s c t.lvl).frozen)

/-- What TASK_PLACEMENT does with the task: REASON 3 where no place can ever take it, the first free rectangle, or PLACING until there is one. -/
def placeTask (s : State) (t : Task) : State :=
  match origins s t with
  | [] => modTask s t.id (fun t => { t with st := .placing, reason := 3, retire := some .failed })
  | os =>
    match os.find? (rectFree s t) with
    | some o => withEndPages s t (placeAt s t o)
    | none => modTask s t.id (fun t => { t with st := .placing })

/-- The TQU has something to do for a context: a task to place, or one to begin to block. -/
def hasTurn (s : State) (c : Nat) : Bool := (placeNext s c).any (fun t => placeTask s t != s)

/-- TASK_PLACEMENT: the next task of a context is chosen, and placed at the first free rectangle; one that no place can ever take ends with REASON 3. Contexts are
served round-robin, from the one after the last that had its turn; one that is blocked has none (R332 to R336). -/
def execTaskPlacement (cx : Nat) (s : State) : Host.Outcome State Fault Refusal :=
  match placeNext s cx with
  | none => .next s
  | some t =>
    let s' := placeTask s t
    if s' = s ∨ ((List.range 64).map (fun i => (s.os.lastCx + 1 + i) % 64)).find? (hasTurn s) ≠ some cx then .next s
    else .next { s' with os := { s'.os with lastCx := cx } }

/-- PLACE: the task blocked in PLACING is placed at (col0, row0) (16 R385). -/
def execPlace (g : Guard) (d a : Reg) (cx : BitVec 6) (s : State) : Host.Outcome State Fault Refusal :=
  runWord s (answered g d (readReg a) (fun ga => do
    liveCx cx.toNat (do
      until' .service (fun s => s.rel.wave.isNone)
      let s ← getS
      if ga.extractLsb' 14 50 ≠ 0 then return sysStatus kCHECK 0
      match placingTask s cx.toNat with
      | none => return sysStatus kNOTFOUND 0
      | some t =>
        let o := ga.toNat % 2 ^ 14
        if !(origins s t).contains o ∨ !rectFree s t o then return sysStatus kCHECK 0
        match (endPages s t).run s with
        | .error (.walk s') => waitWith .service (walkInto s')
        | _ =>
          modS (fun s => placeAt s t o)
          return sysStatus kOK 0)))

/-! ### PREFETCH (R323, R338, R339) -/

/-- A page that prefetch reads, or writes (w), for a tile: from the TLB of its field, or by a walk that never calls Chart; a malformed entry is told (R323, 15 R363,
R365). None where the access is not allowed. -/
def prefetchPage (s : State) (a : Nat) (t : Tag) (va : Nat) (w : Bool) : State × Option TlbE :=
  let allows := fun (s : State) (e : TlbE) => if leafR e.leaf && (!w || leafW e.leaf) && encOk s t e va then some e else none
  if va < 2 ^ 48 ∨ 2 ^ 56 ≤ va then (s, none)
  else
    match (mget [] s.net.fieldTlb (tileField a)).find? (fun e => tlbMatch t va e && (!w || leafDirty e.leaf)) with
    | some e => (s, allows s e)
    | none =>
      match walkNow s t va (if w then 2 else 7) w with
      | (s', some e) =>
        let held := fun (s : State) => { s with net := { s.net with fieldTlb := mmod [] s.net.fieldTlb (tileField a) (fun l => tlbInsert 2048 l e) } }
        (if leafA e.leaf then held s' else s', allows s' e)
      | (s', none) =>
        let w : Walk := ⟨.window a, t, va, 7, false, false, none, false, true, none⟩
        match walkTable s t va with
        | .malformed lv e => (postTranslate s' w 3 0 lv e, none)
        | .poisoned key lv => (postTranslate (postEntry s' w key) w 3 0 lv 0, none)
        | _ => (s', none)

/-- n bytes of a context moved to a key, marks with them (19 R417); or the address that cannot be read. -/
def prefetchMove (a : Nat) (t : Tag) (dst : Nat) : Nat → State → Nat → Nat → State × Option Nat
  | 0, s, _, _ => (s, none)
  | f + 1, s, va, n =>
    if n = 0 then (s, none)
    else
      let m := min n (2 ^ 16 - va % 2 ^ 16)
      match prefetchPage s a t va false with
      | (s', none) => (s', some va)
      | (s', some e) =>
        let k := leafKey e va
        let mem := if plainTo s' (some t) k then moveBytes s'.mem dst k m else writeBytes s'.mem dst (ctxBytes s' t k m)
        prefetchMove a t (dst + m) f (setMem s' mem) (va + m) (n - m)

/-- n bytes of a context as they stand; none where they cannot be read. -/
def prefetchRead (a : Nat) (t : Tag) : Nat → State → Nat → Nat → State × Option (List Byte)
  | 0, s, _, _ => (s, some [])
  | f + 1, s, va, n =>
    if n = 0 then (s, some [])
    else
      let m := min n (2 ^ 16 - va % 2 ^ 16)
      match prefetchPage s a t va false with
      | (s', none) => (s', none)
      | (s', some e) =>
        let (s'', rest) := prefetchRead a t f s' (va + m) (n - m)
        (s'', rest.map (fun rest => ctxBytes s' t (leafKey e va) m ++ rest))

/-- Pages that n bytes may meet. -/
def pagesOf (n : Nat) : Nat := n / 2 ^ 16 + 2

/-- Bytes within one page stored in an image where it stands; or the address of a page that cannot be written (log 21). -/
def pokeImage (s : State) (a : Nat) (t : Tag) (va : Nat) (bs : List Byte) : State × Option Nat :=
  match prefetchPage s a t va true with
  | (s', some e) => (if plainTo s' (some t) (leafKey e va) then setMem s' (writeBytes s'.mem (leafKey e va) bs) else s', none)
  | (s', none) => (s', some va)

/-- A fix word's new value for the word it names: REL and SECV add, BYP ors bit 14 (R338, 22 R465, R466). -/
def fixValue (secs : List (Nat × Nat × Nat)) (base : Nat) (byp : Bool) (f v : Nat) : Nat :=
  let sec := match secs.find? (fun x => x.1 == f / 2 ^ 35 % 4) with | some x => x.2.1 | none => 0
  let v := (v + (if f / 2 ^ 32 % 2 = 1 then base else 0) + (if f / 2 ^ 34 % 2 = 1 then sec else 0)) % 2 ^ 64
  if f / 2 ^ 33 % 2 = 1 ∧ byp then v ||| 2 ^ 14 else v

/-- The words of a section as its fix words leave them: (VA, value). Several fix words of one word are applied in their order. -/
def fixedWords (img : TaskImage) (sect base : Nat) (byp : Bool) : List (Nat × Nat) :=
  (img.fixes.filter (fun x => x.1 == sect)).foldl (fun m x => mput m x.2.1 (fixValue img.secs base byp x.2.2.1 (mget x.2.2.2 m x.2.1))) ([] : SMap Nat)

/-- The block headers of a section whose CRC is made anew, where what stands at VA origin is aligned to 64: 0 for a section in place, the section's own VA for one that is
copied to LS or the vault (R338). -/
def crcHeaders (img : TaskImage) (sect origin : Nat) : List Nat :=
  (img.fixes.filter (fun x => x.1 == sect && x.2.2.1 / 2 ^ 37 % 2 == 1)).foldl (fun l x => insertNat l (origin + (x.2.1 - origin) / 64 * 64)) []

/-- The CRC of a block: its header with the CRC field 0, then the payload (11 R289). -/
def blockCrc (h : List Byte) (p : List Byte) : Nat := crc32c (h.take 36 ++ [0, 0, 0, 0] ++ h.drop 40 ++ p)

/-- PLEN of a header's bytes. -/
def plenOf (h : List Byte) : Nat := wordAt h 24 / 2 ^ 32 % 2 ^ 17

/-- One thing after another, up to the first that fails. -/
def untilBad {α : Type} (f : State → α → State × Option Nat) (l : List α) (s : State) : State × Option Nat :=
  l.foldl (fun acc x => match acc.2 with | some _ => acc | none => f acc.1 x) (s, none)

/-- The CRC of a block header made anew where it stands. -/
def crcInPlace (a : Nat) (t : Tag) (s : State) (va : Nat) : State × Option Nat :=
  match prefetchRead a t 2 s va 64 with
  | (s, none) => (s, some va)
  | (s, some h) =>
    match prefetchRead a t 4 s (va + 64) (plenOf h) with
    | (s, none) => (s, some (va + 64))
    | (s, some p) => pokeImage s a t (va + 36) (natBytes 4 (blockCrc h p))

/-- The text or data section fixed where it stands (R338). -/
def fixInPlace (s : State) (a : Nat) (t : Task) (sect : Nat) (byp : Bool) : State × Option Nat :=
  match untilBad (fun s w => pokeImage s a t.tag w.1 (natBytes 8 w.2)) (fixedWords t.image sect t.origin byp) s with
  | (s, some va) => (s, some va)
  | (s, none) => untilBad (crcInPlace a t.tag) (crcHeaders t.image sect 0) s

/-- A section copied to a key and fixed there; or the address that cannot be read. -/
def loadSection (s : State) (a : Nat) (t : Task) (sec : Nat × Nat × Nat) (key : Nat) (byp : Bool) : State × Option Nat :=
  match prefetchMove a t.tag key (pagesOf sec.2.2) s sec.2.1 sec.2.2 with
  | (s', some va) => (s', some va)
  | (s', none) =>
    let at' := fun (va : Nat) => key + (va - sec.2.1)
    let m := (fixedWords t.image sec.1 t.origin byp).foldl (fun m w => writeNat m (at' w.1) 8 w.2) s'.mem
    let m := (crcHeaders t.image sec.1 sec.2.1).foldl (fun m va =>
      let h := readBytes m (at' va) 64
      writeNat m (at' va + 36) 4 (blockCrc h (readBytes m (at' va + 64) (plenOf h)))) m
    (setMem s' m, none)

/-- One thing that a tile loads. -/
inductive Load where
  | sect (sec : Nat × Nat × Nat) (key : Nat)
  | range (va n key : Nat)

/-- What a tile loads, in order: vault, ls, then the footprint (R322, R339). -/
def tileLoads (t : Task) (rel p : Nat) : List Load :=
  (t.image.secs.filter (fun x => x.1 == 3)).map (fun x => .sect x (keyVault p 0)) ++ (t.image.secs.filter (fun x => x.1 == 2)).map (fun x => .sect x (keyLs p 0)) ++
    t.foot.map (fun f => .range ((f.1 + rel * 64 * f.2.2.2) % 2 ^ 64) f.2.1 (keyLs p f.2.2.1))

/-- A load of the tile: the state, or the REASON and TADDR of the task's end. -/
def doLoad (a : Nat) (t : Task) (byp : Bool) (s : State) : Load → State × Option (Nat × Nat)
  | .sect sec key => let (s, bad) := loadSection s a t sec key byp; (s, bad.map (fun va => (2, va)))
  | .range va n key => let (s, bad) := prefetchMove a t.tag key (pagesOf n) s va n; (s, bad.map (fun va => (5, va)))

/-- BYP of a name's entry (R344). -/
def bypOf (s : State) (n : Nat) : Bool := (nameEntry s n).getLsbD 30

/-- Every tile's loads, up to the first that fails. -/
def loadTiles (s : State) (t : Task) : State × Option (Nat × Nat) :=
  ((taskNames t).flatMap (fun p => match physOfName s p.2 with | some q => (tileLoads t p.1 q).map (fun l => (q, p.2, l)) | none => [])).foldl (fun acc l =>
    match acc.2 with
    | some _ => acc
    | none => doLoad l.1 t (bypOf s l.2.1) acc.1 l.2.2) (s, none)

/-- The tile at the task's origin, for whose field its image is read. -/
def originTile (s : State) (t : Task) : Nat := (physOfName s t.origin).getD 0

/-- Lodestar measures an image of a sealed context before it is dispatched (18 R403). -/
def measureImage (s : State) (t : Task) : State :=
  let c := t.tag.cx.toNat
  if !(ctxAt s c).sealed then s
  else
    let (s, bytes) := prefetchRead (originTile s t) t.tag (pagesOf t.image.bytes) s (rImage t.record) t.image.bytes
    let bytes := bytes.getD []
    let m3 := Config.sha3 (natBytes 32 (mget 0 s.trust.m3 c).toNat ++ natBytes 32 (Config.sha3 bytes).toNat)
    { s with trust := { s.trust with m3 := mput s.trust.m3 c m3 } }

/-- PREFETCH: the image is fixed, and images and footprint land on every tile (R323, R338, R339). -/
def execPrefetch (task : Nat) (s : State) : Host.Outcome State Fault Refusal :=
  match taskAt s task with
  | none => .next s
  | some t =>
    if t.st ≠ .prefetch ∨ t.landed ∨ t.retire.isSome ∨ (taskTiles s task).length ≠ (taskNames t).length then .next s
    else
      let s := measureImage s t
      match untilBad (fun s sect => fixInPlace s (originTile s t) t sect (bypOf s t.origin)) [0, 1] s with
      | (s, some va) => .next (failTask s task 5 0 0 0 (BitVec.ofNat 64 va) 0)
      | (s, none) =>
        match loadTiles s t with
        | (s, none) => .next (modTask s task (fun t => { t with landed := true }))
        | (s, some (reason, va)) => .next (failTask s task reason 0 0 0 (BitVec.ofNat 64 (if reason = 5 then va else 0)) 0)

/-! ### The start of the strands (R339, R342, R343) -/

/-- A domain word (R342). -/
def domWord (smask w h origin nwm1 : Nat) : Word :=
  BitVec.ofNat 64 (smask * 2 ^ 56 + 2 ^ 55 + (w - 1) * 2 ^ 41 + (h - 1) * 2 ^ 34 + origin * 2 ^ 20 + nwm1 * 2 ^ 14)

/-- DOM0 to DOM3 of the tile (dc, dr) of a task (R343). -/
def domWords (s : State) (t : Task) (dc dr nwm1 : Nat) : SMap Word :=
  let r := t.record
  let (c0, r0, w, h) := regionRect (ctxAt s t.tag.cx.toNat).region
  [(0, domWord (rSmask r) 1 1 (t.origin + 128 * dr + dc) 0),
   (1, domWord (rSmask r) (rGw r) (rGh r) (t.origin + 128 * (dr / rGh r * rGh r) + dc / rGw r * rGw r) 0),
   (2, domWord (rSmask r) (rW r) (rH r) t.origin 0),
   (3, domWord (rSmask r) w h (r0 * 128 + c0) nwm1)]

/-- Wafers of the context less 1: none without a ring, POS on the ring's root, and a free value elsewhere (18 R400, log 22). -/
def ringWafers (s : State) (c : Nat) : Nat × State :=
  let w := mget 0 s.trust.ulring c
  if !urValid w then (0, s)
  else if urRoot w = thisWafer then (urPos w, s)
  else let (v, s) := freshWord s; (v.toNat % 64, s)

/-- A strand of a task as dispatch leaves it. -/
def startStrand (t : Task) (textVa : Nat) (dom : SMap Word) (rel k off base : Nat) : Strand :=
  { strand0 with
    st := .ready, pc := BitVec.ofNat 64 (textVa + off) &&& ~~~7, tag := some t.tag, task := some t.id, base := BitVec.ofNat 9 base, size := BitVec.ofNat 6 (8 * rSize8 t.record k)
    dom := dom, hasRun := true, sys := { sysRegs0 with seed := BitVec.ofNat 64 (rSeed t.record + 0x9E3779B97F4A7C15 * (8 * rel + k)) } }

/-- BASE of strand k: the sum of the sizes below it. -/
def baseOfStrand (r : List Word) (k : Nat) : Nat := (((List.range k).filter (inSmask r)).map (fun j => 8 * rSize8 r j)).sum

/-- A tile as dispatch leaves it: strands, cleared pool with ARG, empty banks, weight buffers, ports and copy table (R339, 01 R22, 06 R171, R174). -/
def startTile (t : Task) (textVa : Nat) (dom : SMap Word) (rel : Nat) (x : Agent) : Agent :=
  let r := t.record
  let ks := (List.range 8).filter (inSmask r)
  { x with
    strands := ks.map (fun k => (k, startStrand t textVa dom rel k ((t.image.starts.find? (fun p => p.1 == k)).map (·.2) |>.getD 0) (baseOfStrand r k)))
    pool := if rArgv r then ks.foldl (fun m k => mput m (baseOfStrand r k) (rArg r)) [] else []
    mx := { x.mx with banks := [], wbufs := [], trig := [], runs := [], decl := 0, pert := [] }
    cp := { x.cp with table := [], wins := [] }
    rx := { x.rx with chain := none, held := [], cond := false }
    icache := x.icache.filter (fun e => e.tag != some t.tag) }

/-- STRAND_START: the strands of a task start together on every tile, an acquire of the image; none of a FROZEN queue's (R327, R339). -/
def execStrandStart (task : Nat) (s : State) : Host.Outcome State Fault Refusal :=
  match taskAt s task with
  | none => .next s
  | some t =>
    if t.st ≠ .prefetch ∨ !t.landed ∨ t.retire.isSome ∨ (queueAt s t.tag.cx.toNat t.lvl).frozen ∨ !mayDispatch s t.tag.cx.toNat then .next s
    else
      let (nw, s) := ringWafers s t.tag.cx.toNat
      let text := match t.image.secs.find? (fun x => x.1 == 0) with | some x => x.2.1 | none => 0
      let s := (taskNames t).foldl (fun s p =>
        match physOfName s p.2 with
        | none => s
        | some q => modAgent s q (startTile t text (domWords s t (p.1 % rW t.record) (p.1 / rW t.record) nw) p.1)) s
      .next (modTask s task (fun t => { t with st := .running }))

end Sys2Proof.Machine
end

