-- ==== Sys2Proof/Machine/Stops.lean ====
section
/-!
DEFINITION. Stopping a tile and starting it again, as pre-emption, a remap wave, a checkpoint and a service switch do (15 R368, R369, R374; 06 R475), and when a
tile has drained.
-/

namespace Sys2Proof.Machine

/-! ### The stop (R369) -/

/-- The units of a tile stop; the lines of windows that are clean are dropped at once, the others once they are written back. -/
def stopAgent (x : Agent) : Agent :=
  let x := discardInvocation x
  { x with
    stopped := true
    strands := stopStrands x
    cp := { x.cp with wins := x.cp.wins.map (fun p => (p.1, { p.2 with lines := p.2.lines.filter (fun l => l.dirty != 0) })) } }

/-- The stop of a tile: its units stop, requests to services are given up, and dirty window bytes are written back (R369, 06 R475, 16 R380). -/
def stopTile (s : State) (a : Nat) : State :=
  if (agentAt s a).stopped then s
  else
    let s := { s with os := { s.os with svc := s.os.svc.filter (fun r => r.agent != a) } }
    flushTile (modAgent s a stopAgent) a

/-! ### Drained (R368 step 3) -/

/-- The pieces of a copy that have landed are the first of its issue order, and none is on its way to a peer wafer. -/
def landedFirst (r : CpRun) : Bool := r.away == [] && r.landed == List.range r.landed.length

/-- Every request a tile has issued has been performed and answered, every message it has sent has landed, its windows are empty, and what its strands and engines had
begun is done. -/
def tileDrained (s : State) (a : Nat) : Bool :=
  let x := agentAt s a
  x.stopped && x.ni.sbuf == [] && tileDirty x == [] && x.strands.all (fun p => p.2.st != .ready && p.2.st != .waiting) && s.net.reqs.all (fun r => r.src != a) && s.net.resps.all (fun r => r.src != a) && s.net.msgs.all (fun m => m.src != a) &&
    s.light.pending.all (fun r => r.agent != a) && x.cp.table.all landedFirst && x.mx.runs.all (fun r => r.phase == .waiting || r.phase == .finished) &&
    !committing x

/-! ### The start after a stop (R374) -/

/-- A STOPPED strand returns to its saved state. -/
def resumeStrand (t : Strand) : Strand := if t.st = .stopped then { t with st := t.resume } else t

/-- A copy goes on: one whose source and destination are apart reads its source anew (R376). -/
def resumeCopy (r : CpRun) : CpRun :=
  let n := cpBytes r.cmd
  if r.cmd.fn = 0 ∧ r.cmd.ct.isNone ∧ (r.cmd.a.toNat + n ≤ r.cmd.b.toNat ∨ r.cmd.b.toNat + n ≤ r.cmd.a.toNat) then { r with snap := none } else r

/-- A pass that a trigger fired and that was not served has not been fired: its slot is armed for it again. -/
def rearm (m : Mxe) (f : Fired) (strand : Nat) : Mxe :=
  match mget? m.trig f.slot with
  | some t => if t.word = f.word ∧ t.desc = f.desc ∧ t.strand = strand ∧ t.left ≠ 0 then { m with trig := mput m.trig f.slot { t with left := t.left + 1 } } else m
  | none => { m with trig := mput m.trig f.slot ⟨f.word, f.desc, 1, strand⟩ }

/-- The fired passes that were not served are undone. -/
def rearmAll (m : Mxe) : Mxe :=
  let fired := m.runs.filterMap (fun r => match r.fired with | some f => if r.phase = .waiting then some (f, r.cmd.strand) else none | none => none)
  fired.foldl (fun m p => rearm m p.1 p.2) { m with runs := m.runs.filter (fun r => !(r.fired.isSome && r.phase == .waiting)) }

/-- Landed blocks that were not released are discarded, and each group is expected from its release-through count on (R369, R374). -/
def discardBlocks (x : Agent) : Agent :=
  { x with
    mx := rearmAll x.mx
    rx := { x.rx with slots := [], members := x.rx.members.map (fun p => (p.1, { p.2 with e := p.2.rel, early := [] })) } }

/-- The units of a tile go on; the strands of a task that has failed stay stopped. -/
def resumeAgent (dead : Bool) (x : Agent) : Agent :=
  let x := discardBlocks x
  { x with
    stopped := false
    strands := if dead then x.strands else x.strands.map (fun p => (p.1, resumeStrand p.2))
    cp := { x.cp with table := x.cp.table.map resumeCopy } }

/-- Restore tokens of a tile for its groups (R374). -/
def restoreTokens (s : State) (a : Nat) : State :=
  (agentAt s a).rx.members.foldl (fun s p =>
    if (groupAt s p.1).st = gACTIVE ∧ (groupMembers s p.1).contains a then addToken s p.1 ⟨p.2.rel, 2, false, (groupAt s p.1).owner⟩ else s) s

/-- A stopped tile goes on. -/
def resumeTile (s : State) (a : Nat) : State :=
  if !(agentAt s a).stopped then s
  else
    let dead := (taskOf s a).any (fun t => t.retire.isSome)
    kickCpe (kickMxe (restoreTokens (modAgent s a (resumeAgent dead)) a) a) a

/-- The calls of a context end their attempts; their members send again when they go on, which counts toward no limit (R369, R374). -/
def restartCalls (s : State) (mine : Tag → Bool) : State :=
  let gs := (s.net.rdus.map (·.group)).foldl (fun l g => if l.contains g then l else l ++ [g]) []
  gs.foldl (fun s g => match treeRoot s g with | some r => if mine (teTag (treeAt s r g)) then restartCall s g false else s | none => s) s

/-! ### Who stops (15 R368, 20 R438, R446) -/

/-- The tile's name lies in the region of context c. -/
def inRegionOf (s : State) (c a : Nat) : Bool := match (agentAt s a).name with | some n => inRegion (ctxAt s c).region n | none => false

/-- A wave, a service switch or a checkpoint has every tile stop. -/
def allStop (s : State) : Bool := (match s.rel.wave with | some w => w.step == 1 | none => false) || s.rel.ckpt.st == 2

/-- Pre-emptions whose marker has not reached a tile of their region. -/
def stopsHere (s : State) (a : Nat) (o : Op) : Bool := o.kind == .preempt && !o.reached.contains a && inRegionOf s o.cx a

/-- STOP_MARKER: a tile's units stop; what its windows still hold is written back as its pages become known (15 R366, R368, R369). -/
def execStopMarker (agent : Nat) (s : State) : Host.Outcome State Fault Refusal :=
  if (agentAt s agent).stopped ∧ tileDirty (agentAt s agent) ≠ [] then .next (flushTile s agent)
  else if isCore agent ∨ !(allStop s || s.os.ops.any (stopsHere s agent)) then .next s
  else
    let s' := stopTile s agent
    .next { s' with os := { s'.os with ops := s'.os.ops.map (fun o => if stopsHere s agent o then { o with reached := o.reached ++ [agent] } else o) } }

/-- A tile that a pre-emption, a wave or a checkpoint keeps stopped, or that is dead (15 R368, 20 R433, R443). -/
def keptStopped (s : State) (a : Nat) : Bool :=
  (List.range 64).any (fun c => (ctxAt s c).st == 2 && inRegionOf s c a && (taskOf s a).all (fun t => t.tag.cx.toNat == c)) ||
    s.os.ops.any (fun o => o.kind == .preempt && o.reached.contains a) || declaredDead s a || s.rel.wave.isSome ||
    (2 ≤ s.rel.ckpt.st.toNat && s.rel.ckpt.st.toNat ≤ 4)

/-- Every tile that nothing keeps stopped goes on. -/
def resumeAll (s : State) : State := (s.agents.map (·.1)).foldl (fun s a => if isCore a ∨ keptStopped s a then s else resumeTile s a) s

/-- The tiles listed. -/
def allTiles (s : State) : List Nat := (s.agents.map (·.1)).filter (fun a => !isCore a)

end Sys2Proof.Machine
end

