-- ==== Sys2Proof/Machine/Contexts.lean ====
section
/-!
DEFINITION. Contexts and their lives (15 R348 to R359, R367, R368, R376; class S words of 16 R385): CXNEW, CXKILL, CXRECLAIM, PREEMPT, TLBINV and NAMEINV, and the
steps of their markers.
-/

namespace Sys2Proof.Machine

/-! ### Operations (16 R378, R386) -/

/-- An operation on a context is in progress, other than those x passes over. -/
def opOn (s : State) (c : Nat) (x : OpKind → Bool) : Bool := s.os.ops.any (fun o => o.cx == c && !x o.kind)

/-- A wave or a service switch is in progress (16 R386). -/
def waving (s : State) : Bool := s.rel.wave.isSome

/-- The strand number that no strand has: an operation that no strand waits for. -/
def noStrand : Nat := 8

/-- The strand number of a reclaim that goes before a kill ordered by Lodestar. -/
def byOrder : Nat := 9

/-- An operation enters Lodestar's list. -/
def addOp (kind : OpKind) (c : Nat) (inc : BitVec 12) (strand : Nat) (s : State) : State :=
  { s with os := { s.os with ops := s.os.ops ++ [⟨kind, c, s.env.agent, strand, inc, []⟩] } }

/-- The current strand's operation begins; the strand waits for its end. -/
def beginOp {α : Type} (kind : OpKind) (c : Nat) (f : State → State) : Exec α := waitWith .service (fun s => let s := f s; addOp kind c 0 s.env.strand s)

/-- An operation has ended: it leaves the list and its strand has its status word. -/
def endOp (s : State) (o : Op) (w : Word) : State :=
  let s := { s with os := { s.os with ops := s.os.ops.erase o } }
  if noStrand ≤ o.strand then s else answerStrand s o.agent o.strand w

/-- The operation of a kind on a context. -/
def findOp (s : State) (c : Nat) (k : OpKind) : Option Op := s.os.ops.find? (fun o => o.kind == k && o.cx == c)

/-- An operation has reached a unit. -/
def reach (s : State) (o : Op) (u : Nat) : State :=
  { s with os := { s.os with ops := s.os.ops.map (fun p => if p = o then { p with reached := p.reached ++ [u] } else p) } }

/-- The TQU learns with the RDUs. -/
def tquUnit : Nat := rduUnit

/-- The beacons that serve a listed group or hold a translation. -/
def beaconsUsed (s : State) : List Nat :=
  (s.light.groups.map (fun p => p.2.beacon.toNat) ++ s.light.beaconTlb.map (·.1)).foldl (fun l b => insertNat l b) []

/-! ### CXNEW (15 R351, 18 R403, R407) -/

/-- The convoy that a sealed context names, as a free choice; none where it names no convoy this wafer belongs to (18 R407, log 26). -/
def nameConvoy (s : State) : Option (BitVec 256) × State :=
  let (i, s) := freshNat s
  ((s.trust.convoys[i]?).bind (fun v => if belongs v then some v.id else none), s)

/-- A memory key drawn by Lodestar. -/
def drawKey (s : State) : BitVec 256 × State :=
  let (a, s) := freshWord s
  let (b, s) := freshWord s
  let (c, s) := freshWord s
  let (d, s) := freshWord s
  (a ++ b ++ c ++ d, s)

/-- A context begins its life at an incarnation: queues, counters and the fields of its entry in force (15 R350, R351). -/
def createCtx (s : State) (c : Nat) (isSealed : Bool) (inc : BitVec 12) : State :=
  let s := modCtx s c (fun _ => { ctx0 with st := 1, sealed := isSealed, inc := inc, ptroot := ctxWord s c 3 &&& 0x00FFFFFFFFFF0000 })
  let s := { s with os := { s.os with queues := (List.range 4).foldl (fun m l => mdel m (4 * c + l)) s.os.queues } }
  let s := mapAgents s (fun _ x => { x with ni := { x.ni with orphans := mdel x.ni.orphans c } })
  let s := refreshCtx s c
  let s := if isSealed then
      let (k, s) := drawKey s
      { s with trust := { s.trust with memKeys := mput s.trust.memKeys c k, m3 := mput s.trust.m3 c 0 } }
    else s
  mirror s c

/-- CXNEW. -/
def execCxnew (g : Guard) (d : Reg) (isSealed : BitVec 1) (cx : BitVec 6) (s : State) : Host.Outcome State Fault Refusal :=
  runWord s (answered g d noOperand (fun _ => do
    until' .service (fun s => !opOn s cx.toNat (fun _ => false))
    let s ← getS
    if (ctxAt s cx.toNat).st ≠ 0 then return sysStatus kSTATE 0
    if isSealed = 0 then
      modS (fun s => createCtx s cx.toNat false 0)
      return sysStatus kOK 0
    let (v, s') := nameConvoy s
    modS (fun _ => s')
    match v with
    | none => return sysStatus kAPPROVAL 0
    | some v =>
      modS (fun s => createCtx { s with trust := { s.trust with cxConvoy := mput s.trust.cxConvoy cx.toNat v } } cx.toNat true 0)
      return sysStatus kOK 0))

/-! ### CXKILL (15 R355, R356) -/

/-- A checkpoint of the wafer holds the context back, or has its tiles stopped (20 R448). -/
def heldByCheckpoint (s : State) (c : Nat) : Bool :=
  let st := s.rel.ckpt.st.toNat
  (st == 1 && s.rel.ckpt.withheld.contains c) || (2 ≤ st && st ≤ 4) || st == 6

/-- Step 2 of R355: the next incarnation, and the old one kept until it is reclaimed. -/
def nextLife (v : Ctx) : Ctx :=
  let old := v.inc
  let v := { v with inc := v.inc + 1 }
  if v.ov1 then { v with ov2 := true, old2 := old }
  else if v.ov2 then { v with ov1 := true, old1 := v.old2, old2 := old }
  else { v with ov1 := true, old1 := old }

/-- A pre-emption in progress ends without completing (R376, log 23). -/
def endPreempt (s : State) (c : Nat) : State := match findOp s c .preempt with | some o => endOp s o (sysStatus kSTATE 0) | none => s

/-- The kill of a context begins, for a strand or for no one. -/
def beginKill (c strand : Nat) (s : State) : State :=
  let s := endPreempt s c
  let s := mirror (modCtx s c nextLife) c
  addOp .kill c (ctxAt s c).inc strand s

/-- CXKILL. -/
def execCxkill (g : Guard) (d : Reg) (cx : BitVec 6) (s : State) : Host.Outcome State Fault Refusal :=
  runWord s (answered g d noOperand (fun _ => do
    let c := cx.toNat
    until' .service (fun s => !waving s && !opOn s c (fun k => k == .preempt) && !heldByCheckpoint s c)
    liveCx c (do
      let v ← reads (fun s => ctxAt s c)
      if v.ov1 && v.ov2 then waitWith .service (addOp .reclaim c 0 noStrand)
      else waitWith .service (fun s => beginKill c s.env.strand s))))

/-- A strand that a kill has ended: nothing is left of it but the count of commands an EXIT abandoned. -/
def killedStrand (t : Strand) : Strand := { strand0 with eng := { strandEng0 with abandoned := t.eng.abandoned } }

/-- The tag is of an older life of context c. -/
def oldTag (c : Nat) (inc : BitVec 12) (t : Tag) : Bool := t.cx.toNat == c && t.inc != inc

/-- What the kill marker leaves of a tile (R356). mine says that the tile holds a task of the context; old which groups and trees are of its older lives. -/
def killAgent (c : Nat) (inc : BitVec 12) (mine inside : Bool) (oldGroup oldTree : Nat → Bool) (x : Agent) : Agent :=
  let dead := fun (t : Strand) => t.tag.any (oldTag c inc)
  let x := x.strands.foldl (fun x p => if dead p.2 then clearPool x p.2.base.toNat p.2.size.toNat else x) x
  let x := { x with
    strands := x.strands.map (fun p => (p.1, if dead p.2 then killedStrand p.2 else p.2))
    calls := x.calls.filter (fun k => !oldTree k.group)
    tlb := x.tlb.filter (fun e => !oldTag c inc e.tag)
    icache := x.icache.filter (fun e => !e.tag.any (oldTag c inc))
    stopped := x.stopped && !inside
    rx := { x.rx with slots := x.rx.slots.filter (fun p => !oldGroup p.2.group) } }
  if !mine then x
  else
    { x with
      mx := { x.mx with banks := [], wbufs := [], trig := [], runs := [], pert := [], decl := 0 }
      cp := { x.cp with table := [], wins := [] }
      ni := { x.ni with chans := [], rqs := [], whq := [], nwalks := [], sbuf := [] }
      rx := { x.rx with chain := none, held := [], cond := false } }

/-- A group is owned by an older life of context c. -/
def groupOfOld (s : State) (c : Nat) (inc : BitVec 12) (g : Nat) : Bool := oldTag c inc (groupAt s g).owner
/-- A tree is owned by an older life of context c. -/
def treeOfOld (s : State) (c : Nat) (inc : BitVec 12) (g : Nat) : Bool := match treeRoot s g with | some r => oldTag c inc (teTag (treeAt s r g)) | none => false

/-- The walks of an older life that requesters of a kind wait for are given up (R366). -/
def dropOldWalks (s : State) (c : Nat) (inc : BitVec 12) (mine : Requester → Bool) : State :=
  { s with net := { s.net with walks := s.net.walks.filter (fun w => !(oldTag c inc w.tag && mine w.who)) } }

/-- The kill marker at a tile. -/
def killTile (s : State) (c : Nat) (inc : BitVec 12) (a : Nat) : State :=
  let mine := (taskOf s a).any (fun t => t.tag.cx.toNat == c)
  let s' := modAgent s a (killAgent c inc mine (inRegionOf s c a) (groupOfOld s c inc) (treeOfOld s c inc))
  let s' := dropOldWalks s' c inc (fun w => match w with | .strand b _ => b == a | .copy b => b == a | .window b => b == a | _ => false)
  let s' := { s' with os := { s'.os with svc := s'.os.svc.filter (fun r => !(r.agent == a && r.tag.any (oldTag c inc))) } }
  coolDown s' a

/-- What a kill leaves of a group at its beacon (R356). -/
def freezeGroup (e : Group) : Group := { e with st := gFROZEN, q := [], buf := [], bst := .idle, resend := none, token := none, walker := none, marks := [] }

/-- The kill marker at a beacon. -/
def killBeacon (s : State) (c : Nat) (inc : BitVec 12) (b : Nat) : State :=
  let old := fun (e : Group) => e.beacon.toNat == b && oldTag c inc e.owner
  let s' := dropOldWalks s c inc (fun w => match w with | .beacon g => (groupAt s g).beacon.toNat == b | _ => false)
  { s' with light := { s'.light with
      groups := s'.light.groups.map (fun p => (p.1, if old p.2 && (p.2.st == gACTIVE || p.2.st == gFAILED) then freezeGroup p.2 else p.2))
      beaconTlb := s'.light.beaconTlb.map (fun p => (p.1, if p.1 = b then p.2.filter (fun e => !oldTag c inc e.tag) else p.2)) } }

/-- The trees of an older life are FROZEN, and the calls in the routers are discarded (R356). -/
def killTrees (s : State) (c : Nat) (inc : BitVec 12) : State :=
  let old := treeOfOld s c inc
  { s with net := { s.net with
      rdus := s.net.rdus.filter (fun k => !oldTag c inc k.tag)
      packets := s.net.packets.filter (fun k => !oldTag c inc k.tag)
      ringIn := s.net.ringIn.filter (fun k => !oldTag c inc k.tag)
      atts := s.net.atts.filter (fun p => !old p.1)
      tokens := s.net.tokens.filter (fun t => !oldTag c inc t.tag)
      l3 := mdel s.net.l3 c
      fieldTlb := s.net.fieldTlb.map (fun p => (p.1, p.2.filter (fun e => !oldTag c inc e.tag)))
      trees := s.net.trees.map (fun p => (p.1, if oldTag c inc (teTag p.2) && teState p.2 == 1 then (p.2 &&& ~~~((3 : BitVec 128) <<< (44 : Nat))) ||| (2 : BitVec 128) <<< (44 : Nat) else p.2)) } }

/-- A record between HEAD and TAIL is read and completes KILLED; past the ring's size HEAD becomes TAIL at once (R356). -/
def killRecord (s : State) (c l : Nat) : Tqu State := do
  let t := liveTag s c
  let q := queueAt s c l
  let (tail, ring) ← readHeader s c l
  let put := fun (s : State) (n : Nat) => writeHeader (setQueue s c l { q with head := n, last := max q.last n }) c l
  if tail ≤ q.head then return s
  if 12 < ringLog ring ∨ q.head + 2 ^ ringLog ring < tail then return put s tail
  match ← tryRead (tquBytes t (ringVa ring + 64 * (q.head % 2 ^ ringLog ring)) 64) with
  | .inr va => return put (dropTquWalk s c va) (q.head + 1)
  | .inl (bs, _) =>
    let r := (List.range 8).map (fun i => BitVec.ofNat 64 (wordAt bs (8 * i)))
    let k := { newTask s t l r with reason := 10, retire := some .killed }
    return writeCompletion (put s (q.head + 1)) k 0

/-- The kill marker at the TQU: the tracked tasks complete KILLED; then, step by step, the records of each queue. Tells whether it is done. -/
def killQueues (s : State) (c : Nat) : State × Bool :=
  match tasksOf s c with
  | t :: _ => (withEndPages s t (retireTask s { t with reason := 10, cause := 0, ftile := 0, fstr := 0, taddr := 0, tinfo := 0 } .killed), false)
  | [] =>
    (List.range 4).foldl (fun acc l =>
      if !acc.2 then acc
      else
        match (killRecord acc.1 c l).run acc.1 with
        | .ok s' => (s', queueAt s' c l == queueAt acc.1 c l)
        | .error (.walk s') => (s', false)
        | .error (.bad va) => (dropTquWalk acc.1 c va, true)) (s, true)

/-- The WMM controllers, the host ports and the Ulnenu edge die: a kill marker leaves nothing to discard there (R353). -/
def gateUnits : List Nat := (List.range 32).map wmmGate ++ [hostUnit, edgeUnit]

/-- KILL_MARKER: the marker reaches a checkpoint: a tile, a beacon, a WMM controller, a host port, the edge die, or after the tiles the TQU with the routers (R353, R356). -/
def execKillMarker (cx checkpoint : Nat) (s : State) : Host.Outcome State Fault Refusal :=
  match findOp s cx .kill with
  | none => .next s
  | some o =>
    if o.reached.contains checkpoint then .next s
    else if checkpoint < coreBase then .next (reach (killTile s cx o.newInc checkpoint) o checkpoint)
    else if beaconUnit 0 ≤ checkpoint ∧ checkpoint < beaconUnit 64 then .next (reach (killBeacon s cx o.newInc (checkpoint - beaconUnit 0)) o checkpoint)
    else if checkpoint = tquUnit ∧ (allTiles s).all o.reached.contains then
      let (s', done) := killQueues (dropOldWalks s cx o.newInc (fun w => match w with | .tqu _ => true | _ => false)) cx
      .next (if done then reach (killTrees s' cx o.newInc) o checkpoint else s')
    else if gateUnits.contains checkpoint then .next (reach s o checkpoint)
    else .next s

/-- The checkpoints that acknowledge a kill. -/
def killUnits (s : State) : List Nat := allTiles s ++ (beaconsUsed s).map beaconUnit ++ [tquUnit] ++ gateUnits

/-- KILL_ACKNOWLEDGEMENT: every checkpoint has acknowledged; the context is LIVE and CXKILL completes (R355). -/
def execKillAcknowledgement (cx : Nat) (s : State) : Host.Outcome State Fault Refusal :=
  match findOp s cx .kill with
  | none => .next s
  | some o =>
    if !(killUnits s).all o.reached.contains then .next s
    else
      let s := mirror (modCtx s cx (fun v => { v with st := 1 })) cx
      .next (endOp (refreshCtx s cx) o (sysStatus kOK o.newInc.toNat))

/-! ### CXRECLAIM (15 R357) -/

/-- CXRECLAIM; a pre-emption of the context goes on beside it (R376). -/
def execCxreclaim (g : Guard) (d : Reg) (cx : BitVec 6) (s : State) : Host.Outcome State Fault Refusal :=
  runWord s (answered g d noOperand (fun _ => do
    let c := cx.toNat
    until' .service (fun s => !waving s && !opOn s c (fun k => k == .preempt))
    liveCx c (do
      let v ← reads (fun s => ctxAt s c)
      if !v.ov1 && !v.ov2 then return sysStatus kOK 0
      beginOp .reclaim c id)))

/-- Traffic of an older life of the context is still on the wafer. -/
def oldTraffic (s : State) (c : Nat) : Bool :=
  let old := fun (t : Tag) => oldTag c (ctxAt s c).inc t
  s.net.reqs.any (fun r => r.tag.any old) || s.net.resps.any (fun r => r.tag.any old) || s.net.msgs.any (fun m => old m.tag) ||
    s.net.packets.any (fun p => old p.tag) || s.net.rdus.any (fun k => old k.tag) || s.net.tokens.any (fun t => old t.tag) || s.net.ringIn.any (fun k => old k.tag) ||
    s.light.pending.any (fun r => r.tag.any old) || s.light.flight.any (fun f => old f.tag) || s.net.walks.any (fun w => old w.tag)

/-- RECLAIM_MARKER: every reclaim marker has returned; a kill that Lodestar has ordered goes on (R355). -/
def execReclaimMarker (cx : Nat) (s : State) : Host.Outcome State Fault Refusal :=
  match findOp s cx .reclaim with
  | none => .next s
  | some o =>
    if waving s ∨ oldTraffic s cx then .next s
    else
      let s := endOp (mirror (modCtx s cx (fun v => { v with ov1 := false, old1 := 0, ov2 := false, old2 := 0 })) cx) o (sysStatus kOK 0)
      .next (if o.strand = byOrder then beginKill cx noStrand s else s)

/-! ### PREEMPT (15 R368) -/

/-- PREEMPT; a reclaim of the context goes on beside it (R376). -/
def execPreempt (g : Guard) (d : Reg) (cx : BitVec 6) (s : State) : Host.Outcome State Fault Refusal :=
  runWord s (answered g d noOperand (fun _ => do
    let c := cx.toNat
    until' .service (fun s => !waving s && !opOn s c (fun k => k == .reclaim) && !heldByCheckpoint s c)
    if (ctxAt (← getS) c).st ≠ 1 then return sysStatus kSTATE 0
    beginOp .preempt c (fun s => refreshCtx s c)))

/-- The tiles of a context's region. -/
def regionTiles (s : State) (c : Nat) : List Nat := (allTiles s).filter (inRegionOf s c)

/-- PREEMPT_DRAINED: every tile of the region has stopped and drained, and no task prefetches; the context is PREEMPTED (R332, R368). -/
def execPreemptDrained (cx : Nat) (s : State) : Host.Outcome State Fault Refusal :=
  match findOp s cx .preempt with
  | none => .next s
  | some o =>
    if waving s ∨ !(regionTiles s cx).all (fun a => o.reached.contains a && tileDrained s a) ∨
      (tasksOf s cx).any (fun t => t.st == .prefetch && !t.landed && t.retire.isNone) then .next s
    else
      let s := restartCalls s (fun t => t.cx.toNat == cx)
      let s := { s with os := { s.os with tasks := s.os.tasks.map (fun t => if t.tag.cx.toNat = cx ∧ t.st = .running then { t with st := .preempted } else t) } }
      .next (endOp (mirror (modCtx s cx (fun v => { v with st := 2 })) cx) o (sysStatus kOK 0))

/-! ### TLBINV (15 R367) -/

/-- TLBINV. -/
def execTlbinv (g : Guard) (d a : Reg) (npg : BitVec 20) (mode : BitVec 2) (cx : BitVec 6) (s : State) : Host.Outcome State Fault Refusal :=
  runWord s (answered g d (readReg a) (fun ga => do
    let all := mode = 2
    let c := if all then 64 else cx.toNat
    until' .service (fun s => !waving s && (all || !opOn s c (fun k => k == .preempt)))
    if !all ∧ (ctxAt (← getS) c).st = 0 then return sysStatus kSTATE 0
    if mode = 0 ∧ (npg = 0 ∨ ga.toNat % 2 ^ 16 ≠ 0 ∨ ga.toNat < 2 ^ 48 ∨ 2 ^ 56 ≤ ga.toNat) then return sysStatus kCHECK 0
    beginOp (.tlbinv mode ga.toNat npg.toNat) c id))

/-- A TLBINV of context c names the page of 2^pb bytes at va of a tag. -/
def tlbNames (mode : BitVec 2) (first npg c : Nat) (t : Tag) (va pb : Nat) : Bool :=
  mode == 2 || (t.cx.toNat == c && (mode == 1 || (va / 2 ^ pb * 2 ^ pb < first + npg * 2 ^ 16 && first < (va / 2 ^ pb + 1) * 2 ^ pb)))

/-- A cached translation is named. -/
def entryNamed (mode : BitVec 2) (first npg c : Nat) (e : TlbE) : Bool := tlbNames mode first npg c e.tag e.vbase (pageBits e.lv)

/-- The lines of named pages written back under the old translation, the one their last store used (R367). -/
def flushNamed (s : State) (a : Nat) (named : Tag → Nat → Nat → Bool) : State :=
  let lines := (tileDirty (agentAt s a)).filter (fun q => named q.2.1 q.2.2.2 16)
  lines.foldl (fun s q => setMem s (writeBackLine s (some q.2.1) q.2.2.1.home q.2.2.1).1) s

/-- The marker at a tile: translations, cached words and window lines of the named pages go. -/
def invTile (s : State) (a : Nat) (mode : BitVec 2) (first npg c : Nat) : State :=
  let named := tlbNames mode first npg c
  modAgent (flushNamed s a named) a (fun x => { x with
    tlb := x.tlb.filter (fun e => !entryNamed mode first npg c e)
    icache := x.icache.filter (fun e => !e.tag.any (fun t => named t e.va 16))
    cp := { x.cp with wins := x.cp.wins.map (fun p => (p.1, { p.2 with lines := p.2.lines.filter (fun l => !named p.2.tag (lineAddr p.2 l.idx) 16) })) } })

/-- The walks that a marker meets at a unit start again. -/
def restartWalks (s : State) (mine : Requester → Bool) (named : Tag → Nat → Nat → Bool) : State :=
  { s with net := { s.net with walks := s.net.walks.map (fun w =>
      if mine w.who && named w.tag w.va 16 then { w with chart := false, failed := false, token := none } else w) } }

/-- The units a TLBINV reaches. -/
def tlbUnits (s : State) : List Nat :=
  allTiles s ++ (beaconsUsed s).map beaconUnit ++ [tquUnit] ++ (s.net.fieldTlb.map (fun p => fieldUnit p.1)) ++ s.net.walks.map (fun w => fieldUnit (walkField s w.who))

/-- A requester is a beacon. -/
def isBeaconWalk : Requester → Bool
  | .beacon _ => true
  | _ => false

/-- What the marker does at a unit. -/
def invUnit (s : State) (u : Nat) (mode : BitVec 2) (first npg c : Nat) : State :=
  let named := tlbNames mode first npg c
  if u < coreBase then invTile s u mode first npg c
  else if beaconUnit 0 ≤ u ∧ u < beaconUnit 64 then
    let b := u - beaconUnit 0
    let s := { s with light := { s.light with beaconTlb := s.light.beaconTlb.map (fun p => (p.1, if p.1 = b then p.2.filter (fun e => !entryNamed mode first npg c e) else p.2)) } }
    restartWalks s (fun w => match w with | .beacon g => (groupAt s g).beacon.toNat == b | _ => false) named
  else
    let f := u - fieldUnit 0
    let s := { s with net := { s.net with fieldTlb := s.net.fieldTlb.map (fun p => (p.1, if p.1 = f then p.2.filter (fun e => !entryNamed mode first npg c e) else p.2)) } }
    restartWalks s (fun w => walkField s w == f && !isBeaconWalk w) named

/-- A tile's field has been reached before the tile, so that the tile cannot take a named translation from it again. -/
def fieldReached (s : State) (o : Op) (a : Nat) : Bool := let f := fieldUnit (tileField a); !(tlbUnits s).contains f || o.reached.contains f

/-- The accesses that a tile has in flight for a context have been performed. -/
def accessesDone (s : State) (a c : Nat) : Bool := s.net.reqs.all (fun r => r.src != a || (c != 64 && !r.tag.any (fun t => t.cx.toNat == c)))

/-- PTROOT in force from the end of a TLBINV of the context (15 R350). -/
def latchRoot (s : State) (c : Nat) : State := if (ctxAt s c).st = 0 then s else modCtx s c (fun v => { v with ptroot := ctxWord s c 3 &&& 0x00FFFFFFFFFF0000 })

/-- TLBINV_MARKER: the marker reaches a unit; after the last TLBINV completes (R367). -/
def execTlbinvMarker (op agent : Nat) (s : State) : Host.Outcome State Fault Refusal :=
  match s.os.ops[op]? with
  | none => .next s
  | some o =>
    match o.kind with
    | .tlbinv mode first npg =>
      if waving s ∨ o.reached.contains agent ∨ !(tlbUnits s).contains agent ∨ (agent < coreBase ∧ !(accessesDone s agent o.cx && fieldReached s o agent)) then .next s
      else
        let s := reach (invUnit s agent mode first npg o.cx) o agent
        let o := { o with reached := o.reached ++ [agent] }
        if (tlbUnits s).all o.reached.contains then
          .next (endOp ((if o.cx = 64 then List.range 64 else [o.cx]).foldl latchRoot s) o (sysStatus kOK 0))
        else .next s
    | _ => .next s

/-! ### NAMEINV (16 R385) -/

/-- A name, or every name, leaves an NI's cache. -/
def forgetName (name : Nat) (all : Bool) (x : Agent) : Agent :=
  { x with ni := { x.ni with names := if all then [] else x.ni.names.filter (fun e => e.name != name) } }

/-- NAMEINV. -/
def execNameinv (g : Guard) (d a : Reg) (all : BitVec 1) (s : State) : Host.Outcome State Fault Refusal :=
  runWord s (answered g d (readReg a) (fun ga => do
    beginOp (.nameinv (ga.toNat % 2 ^ 14) (all = 1)) 64 id))

/-- The oldest NAMEINV in progress. -/
def nameOp (s : State) : Option (Op × Nat × Bool) := s.os.ops.findSome? (fun o => match o.kind with | .nameinv n all => some (o, n, all) | _ => none)

/-- NAMEINV_ACKNOWLEDGEMENT: every NI has acknowledged. -/
def execNameinvAcknowledgement (s : State) : Host.Outcome State Fault Refusal :=
  match nameOp s with
  | none => .next s
  | some (o, n, all) => .next (endOp (mapAgents s (fun _ x => forgetName n all x)) o (sysStatus kOK 0))

/-! ### The end of a context (15 R351) -/

/-- CONTEXT_FREED: Chart frees the entry of a LIVE context that has no tracked task, nothing unreclaimed, and no group or tree that is not FREE. -/
def execContextFreed (cx : Nat) (s : State) : Host.Outcome State Fault Refusal :=
  let v := ctxAt s cx
  let mine := fun (t : Tag) => t.cx.toNat == cx
  if v.st ≠ 1 ∨ v.ov1 ∨ v.ov2 ∨ tasksOf s cx ≠ [] ∨ opOn s cx (fun _ => false) ∨ s.light.groups.any (fun p => p.2.st != 0 && mine p.2.owner) ∨
    s.net.trees.any (fun p => teState p.2 != 0 && mine (teTag p.2)) then .next s
  else
    let s := mirror (modCtx s cx (fun v => { v with st := 0, sealed := false })) cx
    .next { s with trust := { s.trust with m3 := mdel s.trust.m3 cx } }

end Sys2Proof.Machine
end

