-- ==== Sys2Proof/Machine/Saves.lean ====
section
/-!
DEFINITION. CXSAVE, CXLOAD and the save area (15 R370 to R374, 16 R385, R386): the header and the laid-down parts of the tile records stand in memory; what the
internal sections hold is kept as data under the MEAS of the records, and its words in memory are free values (log 24).
-/

namespace Sys2Proof.Machine

/-! ### Bytes of the save area -/

/-- SAVE of a context's entry (15 R349 word 5). -/
def saveVa (s : State) (c : Nat) : Nat := (ctxWord s c 5 &&& 0x01FFFFFFFFFF0000).toNat

/-- A sealed context's line is stored encrypted where its frame is not sealed to it (16 R386, 18 R408). -/
def encrypts (s : State) (c key : Nat) : Bool := (ctxAt s c).sealed && sealOf s key != some c

/-- The lines of some bytes stored at a context's VA; false where a page has no W. -/
def putSaved (c : Nat) : Nat → State → Nat → List Byte → State × Bool
  | 0, s, _, _ => (s, true)
  | f + 1, s, va, bs =>
    if bs = [] then (s, true)
    else
      let t := liveTag s c
      match if va < 2 ^ 48 ∨ 2 ^ 56 ≤ va then (s, none) else walkNow s t va 2 true with
      | (_, none) => (s, false)
      | (s', some e) =>
        let k := leafKey e va
        if !(leafW e.leaf && encOk s' t e va) then (s, false)
        else
          let line := bs.take 64
          let out := if encrypts s' c k then natBytes 64 (Config.xtsSeal (mget 0 s'.trust.memKeys c) k (BitVec.ofNat 512 (leNat line))).toNat else line
          putSaved c f (if plainTo s' (some t) k then setMem s' (writeBytes s'.mem k out) else s') (va + 64) (bs.drop 64)

/-- n bytes of a save area, decrypted; none where a page has no R. -/
def getSaved (c : Nat) : Nat → State → Nat → Nat → State × Option (List Byte)
  | 0, s, _, _ => (s, some [])
  | f + 1, s, va, n =>
    if n = 0 then (s, some [])
    else
      let t := liveTag s c
      match if va < 2 ^ 48 ∨ 2 ^ 56 ≤ va then (s, none) else walkNow s t va 1 false with
      | (_, none) => (s, none)
      | (s', some e) =>
        if !(leafR e.leaf && encOk s' t e va) then (s, none)
        else
          let k := leafKey e va
          let raw := ctxBytes s' t k 64
          let line := if encrypts s' c k then natBytes 64 (Config.xtsOpen (mget 0 s'.trust.memKeys c) k (BitVec.ofNat 512 (leNat raw))).toNat else raw
          let (s', rest) := getSaved c f s' (va + 64) (n - 64)
          (s', rest.map (fun rest => line.take n ++ rest))

/-- The walk that is missing for one of the pages of n bytes, as it is asked for: a page without a leaf is Chart's to give (R366). -/
def pagesMissing (s : State) (c va n : Nat) : Option State :=
  (List.range (n / 2 ^ 16 + 1)).findSome? (fun i =>
    match (tquPage (liveTag s c) (va + i * 2 ^ 16) 2 false).run s with
    | .error (.walk s') => some s'
    | _ => none)

/-- The failed walks of an operation on the save area of a context are answered by its refusal. -/
def dropAreaWalks (s : State) (c : Nat) : State := { s with net := { s.net with walks := s.net.walks.filter (fun w => !(w.failed && w.who == .tqu c)) } }

/-! ### A tile record (R370, R372, R373) -/

/-- STRIDE. -/
def recordStride (vlt : Bool) : Nat := if vlt then 0xC40000 else 0x440000

/-- The LS bytes of a task's footprint, as (first, count) (R323). -/
def footPins (t : Task) : List (Nat × Nat) := t.foot.map (fun f => (f.2.2.1, f.2.1))
/-- The bytes of the own LS that are pinned (R323). -/
def pinned (s : State) (a : Nat) : List (Nat × Nat) := match taskOf s a with | some t => footPins t | none => []

/-- An offset lies in one of some ranges. -/
def inRanges (l : List (Nat × Nat)) (o : Nat) : Bool := l.any (fun r => r.1 ≤ o && o < r.1 + r.2)

/-- RESUME of a copy (R372). -/
def resumeOff (r : CpRun) : Nat := min (pieceBytes r.cmd * r.landed.length) (cpBytes r.cmd)

/-- Word w of entry e of the saved copy table: every copy whose completion has not been signalled. -/
def copyWord (x : Agent) (e w : Nat) (free : Word) : Word :=
  match x.cp.table[e]?, w with
  | none, 0 => 0
  | some r, 0 => BitVec.ofNat 64 (2 ^ 63 + r.cmd.strand % 8 * 2 ^ 60 + r.cmd.fn.toNat * 2 ^ 54 + r.cmd.dn.tag.toNat * 2 ^ 42 + resumeOff r % 2 ^ 40)
  | some r, 1 => BitVec.ofNat 64 (cpBytes r.cmd % 2 ^ 40)
  | _, _ => free

/-- Word w of saved open-call entry e. -/
def callWord (x : Agent) (e w : Nat) (free : Word) : Word :=
  match x.calls[e]?, w with
  | none, 0 => 0
  | some c, 0 => BitVec.ofNat 64 (c.seq.toNat * 2 ^ 32 + c.group % 2 ^ 9 * 2 ^ 23 + (c.len - c.given) % 2 ^ 21 * 4 + (if c.res.isSome then 2 else 0) + 1)
  | _, _ => free

/-- A word of the LS section: all of LS, or the pinned bytes and 0 outside them. -/
def lsWord (s : State) (a off : Nat) (lsall : Bool) : Word :=
  BitVec.ofNat 64 (leNat ((List.range 8).map (fun i => if lsall || inRanges (pinned s a) (off + i) then readByte s.mem (keyLs a (off + i)) else 0)))

/-- The word at an offset of the record of tile a. Internal words are free values, numbered from n. -/
def recordWord (s : State) (a : Nat) (lsall : Bool) (n off : Nat) : Word :=
  let x := agentAt s a
  let free := Config.freeWord (n + off / 8)
  if 0x8000 ≤ off ∧ off < 0x18000 then copyWord x ((off - 0x8000) / 64) (off / 8 % 8) free
  else if 0x18000 ≤ off ∧ off < 0x18100 then callWord x ((off - 0x18000) / 32) (off / 8 % 4) free
  else if 0x135000 ≤ off ∧ off < 0x140000 then 0
  else if 0x140000 ≤ off ∧ off < 0x440000 then lsWord s a (off - 0x140000) lsall
  else if 0x440000 ≤ off then readWord s.mem (keyVault a (off - 0x440000))
  else free

/-- The bytes of a record. -/
def recordBytes (s : State) (a : Nat) (lsall vlt : Bool) (n : Nat) : List Byte :=
  (List.range (recordStride vlt / 8)).flatMap (fun i => natBytes 8 (recordWord s a lsall n (8 * i)).toNat)

/-- The mapped names of a region, ascending. -/
def regionNames (s : State) (region : Word) : List Nat := (List.range 9216).filter (fun n => inRegion region n && (physOfName s n).isSome)

/-- A tile still holds what a PREEMPTED context left on it. -/
def stillHeld (s : State) (c a : Nat) : Bool := (taskOf s a).all (fun t => t.tag.cx.toNat == c)

/-! ### The header (R371) -/

/-- Code of a task's state in the task list (log 24). -/
def taskCode : TaskSt → Nat
  | .waiting => 0
  | .queued => 1
  | .placing => 2
  | .prefetch => 3
  | .running => 4
  | .preempted => 5
  | .done => 6
  | .failed => 7
  | .cancelled => 8
  | .killed => 9

/-- The 16 words of a tracked task in the task list: record copy, state, ORIGIN (log 24). -/
def taskWords (t : Task) : List Word := t.record ++ [BitVec.ofNat 64 (taskCode t.st), BitVec.ofNat 64 t.origin, 0, 0, 0, 0, 0, 0]

/-- Words 8 onward of the header: 64 tasks of 16 words. -/
def headerTail (s : State) (c : Nat) : List Word :=
  let w := (tasksOf s c).flatMap taskWords
  w ++ List.replicate (8184 - w.length) 0

/-- The bytes that words make. -/
def wordsOf (l : List Word) : List Byte := l.flatMap (fun w => natBytes 8 w.toNat)

/-- The 64 KiB header. -/
def saveHeader (s : State) (c tiles : Nat) (lsall vlt : Bool) (meas : BitVec 256) : List Byte :=
  let w0 := BitVec.ofNat 64 (0x5A4EC0DE * 2 ^ 32 + 2 ^ 24 + c * 2 ^ 18 + (ctxAt s c).inc.toNat * 2 ^ 6 + (if vlt then 2 ^ 5 else 0) + (if lsall then 2 ^ 4 else 0))
  let first : List Word := [w0, ctxWord s c 2, BitVec.ofNat 64 tiles]
  let tail := headerTail s c
  let crc := crc32c (wordsOf (first ++ tail))
  wordsOf (first ++ [BitVec.ofNat 64 (crc * 2 ^ 32)]) ++ natBytes 32 meas.toNat ++ wordsOf tail

/-! ### CXSAVE -/

/-- CXSAVE. -/
def execCxsave (g : Guard) (d : Reg) (vlt lsall : BitVec 1) (cx : BitVec 6) (s : State) : Host.Outcome State Fault Refusal :=
  runWord s (answered g d noOperand (fun _ => do
    let c := cx.toNat
    until' .service (fun s => !waving s && !opOn s c (fun _ => false))
    if (ctxAt (← getS) c).st ≠ 2 then return sysStatus kSTATE 0
    beginOp (.save (lsall = 1) (vlt = 1)) c (fun s => refreshCtx s c)))

/-- The names whose tiles a save of the context covers, ascending: those of its region in force (R350, R370). -/
def savedNames (s : State) (c : Nat) : List Nat := regionNames s (ctxAt s c).region

/-- The newest save of a context's life. -/
def savedOf (s : State) (c : Nat) : Option Saved := s.os.saves.find? (fun v => v.cx == c && v.inc == (ctxAt s c).inc)

/-- The record of a name in the context's newest save, in a stride. -/
def earlierRecord (s : State) (c name : Nat) (vlt : Bool) : State × Option (List Byte) :=
  match savedOf s c with
  | none => (s, none)
  | some v =>
    match v.tiles.zipIdx.find? (fun p => p.1.1 == name) with
    | none => (s, none)
    | some p =>
      let n := recordStride v.vlt
      let (s, bs) := getSaved c (n / 64) s (v.area + 0x10000 + p.2 * n) n
      (s, bs.map (fun bs => (bs ++ List.replicate (recordStride vlt - n) 0).take (recordStride vlt)))

/-- The record of a name, of the tile as it stands, or as it was saved before where another context holds it (log 25). -/
def recordFor (s : State) (c name a : Nat) (lsall vlt : Bool) : State × List Byte :=
  let now := fun (s : State) => ({ s with env := { s.env with fresh := s.env.fresh + recordStride vlt / 8 } }, recordBytes s a lsall vlt s.env.fresh)
  if stillHeld s c a then now s
  else match earlierRecord s c name vlt with | (s, some bs) => (s, bs) | (s, none) => now s

/-- The records written. -/
def putRecords (s : State) (c : Nat) (lsall vlt : Bool) : State × Bool :=
  (savedNames s c).zipIdx.foldl (fun acc p =>
    match acc.2, physOfName acc.1 p.1 with
    | true, some a =>
      let (s, bs) := recordFor acc.1 c p.1 a lsall vlt
      putSaved c (bs.length / 64) s (saveVa s c + 0x10000 + p.2 * recordStride vlt) bs
    | _, _ => acc) (s, true)

/-- What the internal sections of the records hold: the tiles as they stand, or as saved before where another context holds them. -/
def savedTiles (s : State) (c : Nat) : SMap Agent :=
  (savedNames s c).map (fun n =>
    match physOfName s n with
    | none => (n, agent0)
    | some a => (n, if stillHeld s c a then agentAt s a else ((savedOf s c).bind (fun v => mget? v.tiles n)).getD agent0))

/-- CXSAVE_COMPLETE: records and header stand in the save area once its pages are known (R366, R370, R371); a page of it without W refuses the save (log 24). -/
def execCxsaveComplete (cx : Nat) (s : State) : Host.Outcome State Fault Refusal :=
  match s.os.ops.find? (fun o => o.cx == cx && (match o.kind with | .save _ _ => true | _ => false)) with
  | none => .next s
  | some o =>
    match o.kind with
    | .save lsall vlt =>
      let names := savedNames s cx
      let n := names.length * recordStride vlt
      let refuse := endOp (dropAreaWalks s cx) o (sysStatus kCHECK 0)
      match pagesMissing s cx (saveVa s cx) (n + 0x10000) with
      | some s' => .next s'
      | none =>
        match putRecords s cx lsall vlt with
        | (_, false) => .next refuse
        | (s', true) =>
          match getSaved cx (n / 64) s' (saveVa s cx + 0x10000) n with
          | (_, none) => .next refuse
          | (s', some bytes) =>
            let meas := Config.sha3 bytes
            let (s', ok) := putSaved cx 1024 s' (saveVa s cx) (saveHeader s' cx names.length lsall vlt meas)
            let v : Saved := ⟨cx, (ctxAt s cx).inc, meas, lsall, vlt, true, saveVa s cx, savedTiles s cx, tasksOf s cx⟩
            .next (if ok then endOp { s' with os := { s'.os with saves := v :: s'.os.saves } } o (sysStatus kOK 0) else refuse)
    | _ => .next s

/-! ### CXLOAD (R374) -/

/-- CXLOAD. -/
def execCxload (g : Guard) (d : Reg) (cx : BitVec 6) (s : State) : Host.Outcome State Fault Refusal :=
  runWord s (answered g d noOperand (fun _ => do
    let c := cx.toNat
    until' .service (fun s => !waving s && !opOn s c (fun _ => false))
    if (ctxAt (← getS) c).st ≠ 2 then return sysStatus kSTATE 0
    beginOp .load c id))

/-- Word i of some bytes. -/
def savedWord (h : List Byte) (i : Nat) : Nat := wordAt h (8 * i)

/-- MAGIC, VERSION and CRC of a header. -/
def headerGood (h : List Byte) : Bool :=
  savedWord h 0 / 2 ^ 24 == 0x5A4EC0DE * 2 ^ 8 + 1 && savedWord h 3 / 2 ^ 32 == crc32c (h.take 24 ++ h.drop 64)

/-- Bytes of the records that a header tells of. -/
def headerBytes (h : List Byte) : Nat := savedWord h 2 * recordStride (savedWord h 0 / 2 ^ 5 % 2 = 1)

/-- The refusals of R374: a VALUE, or what is to be restored: the save whose records have the measurement, as the header describes it (log 24). -/
def checkSaved (s : State) (c : Nat) : Nat ⊕ Saved :=
  match (getSaved c 1024 s (saveVa s c) 0x10000).2 with
  | none => .inl 1
  | some h =>
    if !headerGood h then .inl 1
    else
      let w0 := savedWord h 0
      let meas := BitVec.ofNat 256 (leNat ((h.drop 32).take 32))
      let cx := w0 / 2 ^ 18 % 64
      let inc := BitVec.ofNat 12 (w0 / 2 ^ 6)
      match (getSaved c (headerBytes h / 64) s (saveVa s c + 0x10000) (headerBytes h)).2 with
      | none => .inl 2
      | some bytes =>
        if Config.sha3 bytes ≠ meas then .inl 2
        else if cx ≠ c ∨ inc ≠ (ctxAt s c).inc then .inl 3
        else
          match s.os.saves.find? (fun v => v.meas == meas) with
          | none => .inl 2
          | some v =>
            if v.tiles.any (fun p => (physOfName s p.1).isNone) then .inl 4
            else if v.tiles.any (fun p => match physOfName s p.1 with | some a => !stillHeld s c a | none => false) then .inl 5
            else .inr { v with lsall := w0 / 2 ^ 4 % 2 = 1, vlt := w0 / 2 ^ 5 % 2 = 1 }

/-- The walk that is missing for a page of the save area. -/
def areaMissing (s : State) (c : Nat) : Option State :=
  (pagesMissing s c (saveVa s c) 0).or
    (match (getSaved c 1024 s (saveVa s c) 0x10000).2 with
     | some h => if headerGood h then pagesMissing s c (saveVa s c + 0x10000) (headerBytes h - 1) else none
     | none => none)

/-- n bytes from a key on take free values: what was not saved (10, log 24). -/
def freeRange (s : State) (key n : Nat) : State :=
  let m := (List.range (n / 8)).foldl (fun m i => writeWord m (key + 8 * i) (Config.freeWord (s.env.fresh + i))) s.mem
  { s with mem := m, env := { s.env with fresh := s.env.fresh + n / 8 } }

/-- LS and vault of a tile from record k of the save area. -/
def loadMemories (s : State) (c a k : Nat) (v : Saved) (x : Agent) : State :=
  let rec' := saveVa s c + 0x10000 + k * recordStride v.vlt
  let put := fun (s : State) (key va n : Nat) =>
    match getSaved c (n / 64 + 1) s (va / 64 * 64) (n + va % 64) with
    | (s, none) => s
    | (s, some bs) => setMem s (writeBytes s.mem key (bs.drop (va % 64)))
  let pins : List (Nat × Nat) := match x.task with | some i => (match v.tasks.find? (fun (t : Task) => t.id == i) with | some t => footPins t | none => []) | none => []
  let s := if v.lsall then put s (keyLs a 0) (rec' + 0x140000) lsBytes
    else pins.foldl (fun s r => put s (keyLs a r.1) (rec' + 0x140000 + r.1) r.2) (freeRange s (keyLs a 0) lsBytes)
  if v.vlt then put s (keyVault a 0) (rec' + 0x440000) vaultBytes else freeRange s (keyVault a 0) vaultBytes

/-- A tile with a saved state: what belongs to the place stays. -/
def loadAgent (old x : Agent) : Agent :=
  { x with
    name := old.name, cycle0 := old.cycle0, faultbox := old.faultbox, maxmsg := old.maxmsg, calldl := old.calldl, cfg := old.cfg, tlb := [], icache := [], stopped := true
    ni := { x.ni with names := old.ni.names, nwalks := [], fbox := old.ni.fbox, orphans := old.ni.orphans }
    mx := { x.mx with arr := old.mx.arr }
    rx := { x.rx with rcv := old.rx.rcv, members := x.rx.members.foldl (fun m p => mput m p.1 p.2) old.rx.members } }

/-- A saved task goes on. -/
def resumeTask (t : Task) : Task := if t.st = .preempted ∨ t.st = .running then { t with st := .running } else t

/-- The saved tasks are tracked as they were saved, and run; the others stay. -/
def loadTasks (s : State) (c : Nat) (l : List Task) : State :=
  let ran := l.filter (fun t => t.st == .preempted || t.st == .running)
  let others := s.os.tasks.filter (fun t => !ran.any (fun u => u.id == t.id))
  let others := others.map (fun t => if t.tag.cx.toNat = c then resumeTask t else t)
  { s with os := { s.os with tasks := others ++ ran.map resumeTask } }

/-- The saved tiles on the tiles that hold their names now, and their strands going on. -/
def loadTiles' (s : State) (c : Nat) (v : Saved) : State :=
  v.tiles.zipIdx.foldl (fun s p =>
    match physOfName s p.1.1 with
    | none => s
    | some a => resumeTile (loadMemories (modAgent s a (fun old => loadAgent old p.1.2)) c a p.2 v p.1.2) a) s

/-- CXLOAD_COMPLETE: every tile has restored and the context is LIVE, or the load is refused (R374). -/
def execCxloadComplete (cx : Nat) (s : State) : Host.Outcome State Fault Refusal :=
  match findOp s cx .load with
  | none => .next s
  | some o =>
    match areaMissing s cx, checkSaved s cx with
    | some s', _ => .next s'
    | none, .inl value => .next (endOp (dropAreaWalks s cx) o (sysStatus kSAVE value))
    | none, .inr v =>
      let s := loadTiles' (loadTasks s cx v.tasks) cx v
      let s := { s with os := { s.os with saves := s.os.saves.map (fun v => if v.cx = cx then { v with last := false } else v) } }
      .next (endOp (mirror (modCtx s cx (fun x => { x with st := 1 })) cx) o (sysStatus kOK 0))

end Sys2Proof.Machine
end

