-- ==== Sys2Proof/Machine/Tables.lean ====
section
/-!
DEFINITION. GTABW and TTABW (16 R389): images of light groups (08 R238 to R240) and of reduction trees (09 R260, R261), their checks, and what a write changes,
at step 5 of a wave too (20 R439).
-/

namespace Sys2Proof.Machine

/-! ### What is read -/

/-- Words k to k + n - 1 of an image at ga; their reply indexes begin at 1. -/
def imageWords (ga : Word) (k n : Nat) : Exec (List Word) := do
  let vs ← loadElems ((List.range n).map (fun i => (1 + k + i, ga + BitVec.ofNat 64 (8 * (k + i))))) 8 8 true (fun _ => 0) 2
  return vs.map (fun v => BitVec.ofNat 64 v.2)

/-- A wave or a service switch stands at its step 5 (20 R438). -/
def atRepair (s : State) : Bool := s.rel.wave.any (fun w => w.step == 5)

/-- The tag is LIVE at its live INC (R389 step 5). -/
def liveOwner (s : State) (t : Tag) : Bool := let v := ctxAt s t.cx.toNat; v.st == 1 && v.inc == t.inc

/-- An incarnation that has been killed and not yet reclaimed (15 R357). -/
def unreclaimed (s : State) (t : Tag) : Bool :=
  let v := ctxAt s t.cx.toNat
  (v.ov1 && v.old1 == t.inc) || (v.ov2 && v.old2 == t.inc)

/-- The owner is SEALED (R389 step 7). -/
def sealedOwner (s : State) (t : Tag) : Bool := (ctxAt s t.cx.toNat).sealed

/-- Step 7: where a SEALED owner is touched, Lodestar approves the image or not, a free choice (log 27). -/
def approved (sealedToo : Bool) (x : Exec Word) : Exec Word := do
  if !sealedToo then x
  else
    let s ← getS
    let (b, s') := freshBit s
    modS (fun _ => s')
    if b then x else return sysStatus kAPPROVAL 0

/-! ### Group images (08 R238, R239) -/

/-- Words of a group image with a header: 32 + 4 × h × MCOUNT bytes. -/
def groupImageWords (w0 w1 : Word) : Nat := 4 + (4 * (hueList w1).length * (w0.toNat % 128) + 7) / 8

/-- The entry that an image describes; RELSEQ is NEXTSEQ, and the counts are 0. -/
def groupOfImage (ws : List Word) : Group :=
  let w := fun (i : Nat) => ws.getD i 0
  let n := (hueList (w 1)).length * ((w 0).toNat % 128)
  { group0 with
    owner := ⟨(w 0).extractLsb' 58 6, (w 0).extractLsb' 46 12⟩, st := (w 0).extractLsb' 43 3, wm1 := (w 0).extractLsb' 40 3
    rtree := (w 0).extractLsb' 31 9, beacon := (w 0).extractLsb' 25 6, sibv := (w 0).extractLsb' 24 1, sib := (w 0).extractLsb' 16 8
    mcount := (w 0).extractLsb' 0 7, hues := w 1, next := ((w 2).extractLsb' 40 24).toNat, rel := ((w 2).extractLsb' 40 24).toNat
    words := (List.range n).map (fun i => (w (4 + i / 2)).extractLsb' (32 * (i % 2)) 32 &&& 0x003FBFFF) }

/-- The member words on the hue of ordinal i. -/
def hueWords (e : Group) (i : Nat) : List (BitVec 32) := (e.words.drop (i * e.mcount.toNat)).take e.mcount.toNat

/-- No number occurs twice. -/
def distinct : List Nat → Bool
  | [] => true
  | a :: t => !t.contains a && distinct t

/-- A tile's place on the bus of beacon b: rows ascend from the top edge or descend from it, pcols ascend (R240 condition 5). -/
def busKey (b p : Nat) : Nat :=
  let row := 12 * (tileField p / 8) + tileRow p
  17 * (if b % 8 < 4 then row else 71 - row) + tileCol p

/-- Strictly rising numbers. -/
def rising : List Nat → Bool
  | [] => true
  | [_] => true
  | a :: b :: t => decide (a < b) && rising (b :: t)

/-- (tile, receiver, hue) of every member word. -/
def receiverUses (s : State) (e : Group) : List (Nat × Nat × Nat) :=
  (hueList e.hues).zipIdx.flatMap (fun h => (hueWords e h.2).filterMap (fun w => (physOfName s (mwName w)).map (fun p => (p, mwRcv w, h.1))))

/-- Condition 6 between entry e and an ACTIVE entry f. -/
def receiversAgree (s : State) (e f : Group) : Bool :=
  (receiverUses s e).all (fun u => (receiverUses s f).all (fun v => !(u.1 == v.1 && u.2.1 == v.2.1) || (e.beacon == f.beacon && u.2.2 == v.2.2)))

/-- The router stands at the edge that a beacon shines from, in the beacon's field column (R235, log 105). -/
def atBeaconEdge (s : State) (b r : Nat) : Bool := tileField r % 8 == b / 8 && (neighbour s r (if b % 8 < 4 then 0 else 2)).isNone

/-- Condition 7. -/
def releaseTreeOk (s : State) (e : Group) : Bool :=
  let t := e.rtree.toNat
  let members := ((memberNames e).filterMap (physOfName s)).foldl insertNat []
  treeMembers s t == members &&
    (match treeRoot s t with | some r => teParent (treeAt s r t) == 6 && teOp (treeAt s r t) == 1 && atBeaconEdge s e.beacon.toNat r | none => false)

/-- Condition 8. -/
def siblingOk (s : State) (g : Nat) (e : Group) : Bool :=
  let f := groupAt s e.sib.toNat
  f.owner == e.owner && f.wm1 == e.wm1 && (hueList f.hues).length == (hueList e.hues).length && f.beacon != e.beacon && f.sib.toNat == g

/-- Whether an entry meets condition n of R240. -/
def groupCond (s : State) (g : Nat) (e : Group) (n : Nat) : Bool :=
  let names := memberNames e
  let hues := (hueList e.hues).length
  match n with
  | 1 => 1 ≤ hues && hues ≤ 8 && 1 ≤ e.mcount.toNat && e.mcount.toNat ≤ 64
  | 2 => (List.range hues).all (fun i => (hueWords e i).map mwName == names) && distinct names && names.all (fun v => (physOfName s v).isSome)
  | 3 => names.all (fun v => distinct (memberRcvs e v))
  | 4 => (names.filterMap (physOfName s)).all (fun p => tileField p % 8 == e.beacon.toNat / 8)
  | 5 => rising ((names.filterMap (physOfName s)).map (busKey e.beacon.toNat)) && (List.range hues).all (fun i => (hueWords e i).getLast?.any (fun w => mwTap w == 15))
  | 6 => s.light.groups.all (fun p => p.1 == g || p.2.st != gACTIVE || receiversAgree s e p.2)
  | 7 => releaseTreeOk s e
  | _ => e.sibv == 0 || siblingOk s g e

/-- The first failed condition of R240. -/
def groupFails (s : State) (g : Nat) (e : Group) : Option Nat := [1, 2, 3, 4, 5, 6, 7, 8].find? (fun n => !groupCond s g e n)

/-- A member's counts for a group begin at n. -/
def startMember (n : Nat) (g : Nat) (x : Agent) : Agent := setMember x g ⟨n, n, [], []⟩

/-- A tile that is no member keeps nothing for the group. -/
def dropMember (g : Nat) (x : Agent) : Agent := { x with rx := { x.rx with members := mdel x.rx.members g } }

/-- An event for a strand that its queue takes whether or not it has room: its group is gone. -/
def forceEvent (s : State) (a k : Nat) (w : Word) : State :=
  let t := strandAt s a k
  if t.st = .inactive ∨ t.st = .failed then s else modStrand s a k (fun t => { t with eng := { t.eng with ceq := t.eng.ceq ++ [⟨w, none⟩] } })

/-- The chains and requests of a group that is freed while it has some end as those of a FROZEN one do (20 R439, 08 R249): the chains leave with a beacon-side
fault of REASON 9, and the requests are refused with DETAIL 2. -/
def endGroup (s : State) (g : Nat) : State :=
  let e := groupAt s g
  let s := (groupMembers s g).foldl (fun s a => endMember s g a 9 0 e.next cDRIVE) s
  e.q.foldl (fun s r => if r.quiet then s else forceEvent s r.agent r.strand (BitVec.ofNat 64 (2 * 2 ^ 56 + 2 * 2 ^ 32 + g))) s

/-- The receivers of the members are tuned to the entry's bus and hues (R236). -/
def tuneReceivers (s : State) (e : Group) : State :=
  (receiverUses s e).foldl (fun s u => modAgent s u.1 (fun x =>
    { x with rx := { x.rx with rcv := mmod ⟨.locked, 0, 0⟩ x.rx.rcv u.2.1 (fun r => { r with bus := e.beacon.toNat % 8, hue := u.2.2 }) } })) s

/-- A tile's blocks of an entry that is no longer used, with what stood for them in its queues (08 R249, log 106). -/
def dropStale (g : Nat) (x : Agent) : Agent :=
  let gone := x.rx.slots.filter (fun p => p.2.group == g && p.2.use != .chain)
  settleHeaders 8 { x with
    rx := { x.rx with slots := x.rx.slots.filter (fun p => !gone.contains p) }
    ni := { x.ni with whq := x.ni.whq.filter (fun w => w.toNat / 2 ^ 56 != g) }
    mx := { x.mx with runs := x.mx.runs.filter (fun r => !(r.phase == .waiting && r.fired.any (fun f => gone.any (fun p => p.1 == f.rslot)))) } }

/-- The entry written: every receiver and member holds it, and no light of the old one is left (R389). -/
def putGroup (s : State) (g : Nat) (e : Group) : State :=
  let members := (memberNames e).filterMap (physOfName s)
  let s := if (groupAt s g).st = gACTIVE then s else mapAgents s (fun _ x => dropStale g x)
  let s := { s with light := { s.light with groups := mput s.light.groups g e, flight := s.light.flight.filter (fun f => f.group != g) } }
  tuneReceivers (mapAgents s (fun a x => if members.contains a then startMember e.next g x else dropMember g x)) e

/-- At a wave's repair, an ACTIVE entry of the same owner replaces only the member words (20 R439). -/
def onlyWords (s : State) (old e : Group) : Bool := atRepair s && e.st == gACTIVE && old.st == gACTIVE && old.owner == e.owner

/-- The wave in progress changed. -/
def modWave (s : State) (f : Wave → Wave) : State := { s with rel := { s.rel with wave := s.rel.wave.map f } }

/-- Steps 2 to 7 of R389 for a group. -/
def writeGroup (g : Nat) (e : Group) : Exec Word := do
  let s ← getS
  let old := groupAt s g
  let active := e.st = gACTIVE
  let words := onlyWords s old e
  if e.st ≠ 0 ∧ !active then return sysStatus kCHECK 0
  if old.st = gFROZEN ∧ unreclaimed s old.owner then return sysStatus kSTATE 0
  if !words ∧ !atRepair s ∧ old.st = gACTIVE ∧ (old.rel ≠ old.next ∨ old.walker.isSome ∨ old.q ≠ []) then return sysStatus kSTATE 0
  if active ∧ !liveOwner s e.owner then return sysStatus kOWNER 0
  match (if active then groupFails s g e else none) with
  | some n => return sysStatus kCHECK n
  | none =>
    approved ((old.st != 0 && sealedOwner s old.owner) || (active && sealedOwner s e.owner)) (do
      modS (fun s =>
        let s := modWave s (fun w => { w with groups := w.groups.erase g })
        if words then tuneReceivers (modGroup s g (fun old => { old with words := e.words })) e
        else putGroup (if atRepair s ∧ old.st = gACTIVE then endGroup s g else s) g e)
      return sysStatus kOK 0)

/-- GTABW. -/
def execGtabw (g : Guard) (d a : Reg) (grp : BitVec 8) (s : State) : Host.Outcome State Fault Refusal :=
  runWord s (answered g d (readReg a) (fun ga => do
    if ga.toNat % 64 ≠ 0 then trapAt cMISALIGN ga 64
    let h ← imageWords ga 0 4
    let ws ← imageWords ga 4 (groupImageWords (h.getD 0 0) (h.getD 1 0) - 4)
    writeGroup grp.toNat (groupOfImage (h ++ ws))))

/-! ### Tree images (09 R260) -/

/-- A record of a tree image: the name word, and the entry. -/
abbrev TreeRec := Word × BitVec 128

/-- The records of an image behind its count. -/
def treeRecs (n : Nat) (ws : List Word) : List TreeRec :=
  (List.range n).map (fun i => (ws.getD (3 * i) 0, ws.getD (3 * i + 2) 0 ++ ws.getD (3 * i + 1) 0))

/-- Most records of a tree. -/
def treeCap : Nat := 9216

/-- Step 2 for the records: names mapped and distinct, one STATE, FREE or ACTIVE. -/
def recsOk (s : State) (rs : List TreeRec) : Bool :=
  rs.all (fun r => r.1.toNat < 2 ^ 14 && (physOfName s r.1.toNat).isSome && teState r.2 < 2 && teState r.2 == teState (rs.headD (0, 0)).2) &&
    distinct (rs.map (fun r => r.1.toNat))

/-- The reserved bits of an entry read 0 (R260). -/
def entryMask : BitVec 128 := 0x000000000000FE00FFFFFFFFFFFE0000

/-- Tree t as an image describes it: routers it does not list hold 0. -/
def putTree (s : State) (t : Nat) (rs : List TreeRec) : State :=
  let others := s.net.trees.filter (fun p => p.1 % 512 != t)
  { s with net := { s.net with trees := rs.foldl (fun m r => match physOfName s r.1.toNat with | some p => mput m (p * 512 + t) (r.2 &&& entryMask) | none => m) others } }

/-- The port of the neighbour that leads back. -/
def portBack (p : Nat) : Nat := (p + 2) % 4

/-- The ports of a router's entry lead to entries of the tree that lead back (R260, R261). -/
def portsOk (s : State) (t r : Nat) : Bool :=
  let e := treeAt s r t
  let there := fun (p : Nat) (ok : BitVec 128 → Bool) =>
    match neighbour s r p with | some q => (agentAt s q).name.isSome && teState (treeAt s q t) == 1 && ok (treeAt s q t) | none => false
  teParent e != 4 && teParent e != 7 && (4 ≤ teParent e || there (teParent e) (fun f => teHas f (portBack (teParent e)))) &&
    (List.range 4).all (fun p => !teHas e p || there p (fun f => teParent f == portBack p))

/-- A router reaches the root over parents. -/
def reachesRoot (s : State) (t : Nat) : Nat → Nat → Bool
  | 0, _ => false
  | n + 1, r =>
    let e := treeAt s r t
    if teRoot e then true else match neighbour s r (teParent e) with | some q => reachesRoot s t n q | none => false

/-- The backup pair of an entry (R261). -/
def backupOk (e : BitVec 128) : Bool := !teBkv e || (teBkp e != teBkb e && teBkp e < 5 && teBkb e < 5 && teHas e (teBkp e) && teHas e (teBkb e))

/-- The mirror tree of an entry, where it is ACTIVE (R261). -/
def mirrorOk (s : State) (t r : Nat) : Bool :=
  let e := treeAt s r t
  let m := teMgrp e
  !teMirv e || treeRouters s m == [] ||
    (treeMembers s m == treeMembers s t && treeRoot s m == treeRoot s t && (treeRouters s m).all (fun q => let f := treeAt s q m; teOp f == teOp e && teType f == teType e && teMgrp f == t))

/-- R261 for a whole tree. -/
def treeOk (s : State) (t : Nat) : Bool :=
  let rs := treeRouters s t
  match rs.filter (fun r => teRoot (treeAt s r t)) with
  | [root] =>
    let e := treeAt s root t
    rs.all (fun r => let f := treeAt s r t; portsOk s t r && reachesRoot s t rs.length r && teOp f == teOp e && teType f == teType e && backupOk f && mirrorOk s t r) &&
      (teParent e != 5 || teHas e 4)
  | _ => false

/-- The entries of a tree that is there. -/
def treeEntries (s : State) (t : Nat) : List (BitVec 128) := (s.net.trees.filter (fun p => p.1 % 512 == t && teState p.2 != 0)).map (·.2)

/-- Steps 2 to 7 of R389 for a tree. -/
def writeTree (t : Nat) (rs : List TreeRec) : Exec Word := do
  let s ← getS
  let old := treeEntries s t
  let active := rs.any (fun r => teState r.2 == 1)
  if !recsOk s rs then return sysStatus kCHECK 0
  if old.any (fun e => teState e == 2 && unreclaimed s (teTag e)) then return sysStatus kSTATE 0
  if !atRepair s && s.net.rdus.any (fun c => c.group == t && c.admitted) then return sysStatus kSTATE 0
  if active && !rs.all (fun r => liveOwner s (teTag r.2)) then return sysStatus kOWNER 0
  if active && !treeOk (putTree s t rs) t then return sysStatus kCHECK 0
  approved (old.any (fun e => sealedOwner s (teTag e)) || (active && rs.any (fun r => sealedOwner s (teTag r.2)))) (do
    modS (fun s => modWave (putTree (if atRepair s && !active then endAbort s t 2 else s) t rs) (fun w => { w with trees := w.trees.erase t }))
    return sysStatus kOK 0)

/-- TTABW. -/
def execTtabw (g : Guard) (d a : Reg) (tree : BitVec 9) (s : State) : Host.Outcome State Fault Refusal :=
  runWord s (answered g d (readReg a) (fun ga => do
    if ga.toNat % 64 ≠ 0 then trapAt cMISALIGN ga 64
    let h ← imageWords ga 0 1
    let n := (h.getD 0 0).toNat
    if treeCap < n then return sysStatus kCHECK 0
    let ws ← imageWords ga 1 (3 * n)
    writeTree tree.toNat (treeRecs n ws)))

end Sys2Proof.Machine
end

