-- ==== Sys2Proof/Machine/Faults.lean ====
section
/-!
DEFINITION. Faults of arrays, links, routers and receivers (19 R416 to R426, 09 R259, R270, 20 R437): corrections, poison marks, scrubbing, retries, hue drift.
-/

namespace Sys2Proof.Machine

/-! ### Memory codes (R416) -/

/-- Unit numbers of the arrays: below coreBase a tile, from here on the WMMs. -/
def wmmUnit (m : Nat) : Nat := 16384 + m

/-- UNIT of R429 for an array of a tile: 0 LS, 1 vault, 2 window store, 3 receive slots, 4 held stores, 5 NI buffers, 6 RDU buffers, 7 accumulators (log 28). -/
def arrayUnit (array : Nat) : Nat := match array with | 2 => 2 | 3 => 6 | 4 => 1 | 5 => 3 | 6 => 4 | 7 => 1 | _ => 0

/-- CORRECTED_ERROR: an array counts a correction; every 256th posts a record (R416, R430). -/
def execCorrectedError (array unit : Nat) (s : State) : Host.Outcome State Fault Refusal :=
  let k := 8 * unit + array % 8
  let n := mget 0 s.rel.corrected k + 1
  let s := { s with rel := { s.rel with corrected := mput s.rel.corrected k n } }
  let info := BitVec.ofNat 64 n
  if n % 256 ≠ 0 then .next s
  else if unit < coreBase then .next (postUnit s unit 4 0 none (arrayUnit array) 0 0 info 0 0)
  else .next (postCore s ((unit - wmmUnit 0) / 4) (mkRec s 4 0 none 0 0 8 0 0 info 0 0 0 0 0))

/-- A POISON record with DETAIL 2 for the word at a key (R416, R426, R430). -/
def postMarked (s : State) (key : Nat) : State :=
  let addr := BitVec.ofNat 64 (addrOfKey key / 8 * 8)
  if key < 2 ^ 43 then postCore s (key / 2 ^ 38 / 4) (mkRec s 3 cPOISON none 0 0 8 2 addr 0 0 0 0 0 0)
  else postUnit s ((key - 2 ^ 61) / 2 ^ 24) 3 cPOISON none 0 2 addr 0 0 0

/-- The keys that errors of arrays without addresses have (log 28): byte o of the window store of tile p is windowKeys + 2^24 p + o, and the i-th held byte of its
invocation heldKeys + 2^24 p + i. -/
def windowKeys : Nat := 2 ^ 63 + 2 ^ 48
def heldKeys : Nat := 2 ^ 63 + 2 ^ 49

/-- The held line of an open window that lies at a byte of the window store: line j of a window goes round its store range (06 R195). -/
def storeLine (x : Agent) (o : Nat) : Option (Nat × Window × WLine) :=
  x.cp.wins.findSome? (fun p => (p.2.lines.find? (fun l => 64 * p.2.soff + l.idx % (64 * p.2.size) == o / 64)).map (fun l => (p.1, p.2, l)))

/-- A word of a window's line is marked: it moves with the line (R416, R417). -/
def markWindow (s : State) (p o : Nat) : State :=
  match storeLine (agentAt s p) o with
  | none => s
  | some (w, v, l) =>
    let i := o % 64 / 8
    let s := modAgent s p (fun x => putLine x w { l with poison := l.poison ||| BitVec.ofNat 8 (2 ^ i) })
    postUnit s p 3 cPOISON (some v.tag) (arrayUnit 2) 2 (BitVec.ofNat 64 (lineAddr v l.idx + 8 * i)) 0 0 0

/-- A word of a held store is marked: it moves with the store (R416, R417). -/
def markHeld (s : State) (p i : Nat) : State :=
  let x := agentAt s p
  match x.rx.held[i]?, x.rx.chain with
  | some h, some c =>
    let s := setAgent s p { x with rx := { x.rx with chain := some { c with inv := c.inv.map (fun v => { v with marks := insertNat v.marks (h.1 / 8) }) } } }
    postUnit s p 3 cPOISON none (arrayUnit 4) 2 (BitVec.ofNat 64 (addrOfKey h.1 / 8 * 8)) 0 0 0
  | _, _ => s

/-- An uncorrectable detection at a key: the word, or every word of a DRAM line, or the accumulator element, is marked (R416). -/
def markDetected (s : State) (key : Nat) : State :=
  if inModule key then postMarked (setMem s ((List.range 8).foldl (fun m i => markPoison m (key / 64 * 64 + 8 * i)) s.mem)) key
  else if 2 ^ 61 ≤ key ∧ key < 2 ^ 61 + coreBase * 2 ^ 24 then postMarked (setMem s (markPoison s.mem key)) key
  else if 2 ^ 63 ≤ key ∧ key < 2 ^ 63 + coreBase * 2 ^ 24 then
    let p := (key - 2 ^ 63) / 2 ^ 24
    let e := (key - 2 ^ 63) % 2 ^ 24 / 8
    let s := modAgent s p (fun x => let b := bankOf x (e / 2 ^ 14 % 4); setBank x (e / 2 ^ 14 % 4) { b with poison := insertNat b.poison (e % 2 ^ 14) })
    postUnit s p 3 cPOISON none 1 2 (BitVec.ofNat 64 (addrOfKey key)) 0 0 0
  else if windowKeys ≤ key ∧ key < windowKeys + coreBase * 2 ^ 24 then markWindow s ((key - windowKeys) / 2 ^ 24) ((key - windowKeys) % 2 ^ 24)
  else if heldKeys ≤ key ∧ key < heldKeys + coreBase * 2 ^ 24 then markHeld s ((key - heldKeys) / 2 ^ 24) ((key - heldKeys) % 2 ^ 24)
  else s

/-- UNCORRECTABLE_ERROR (R416). -/
def execUncorrectableError (key : Nat) (s : State) : Host.Outcome State Fault Refusal := .next (markDetected s key)

/-- SCRUB: a scrub read consumes nothing; what it cannot correct it marks (R416). -/
def execScrub (key : Nat) (found : Bool) (s : State) : Host.Outcome State Fault Refusal := .next (if found then markDetected s key else s)

/-! ### Links and routers (R259, R270, R419) -/

/-- The first live neighbour of a router, which posts for it. -/
def watcherOf (s : State) (p : Nat) : Option Nat := [0, 1, 2, 3].findSome? (fun d => neighbour s p d)

/-- What a lost router does to the calls of a tree: a member lost with it ends the call with ROUTER_LOST; otherwise the call is replayed (R270). -/
def loseOnTree (s : State) (p g : Nat) : State :=
  if teState (treeAt s p g) ≠ 1 ∨ !callActive s g then s
  else if teHas (treeAt s p g) 4 then abortGroup s g 2 thisWafer
  else replayCall s g

/-- A router is lost: a neighbour posts it, its trees' calls end their attempts, and its tile is declared dead (R270, 20 R437). -/
def loseRouter (s : State) (p detail : Nat) : State :=
  if s.net.lost.contains p then s
  else
    let s := match watcherOf s p with
      | some q => postUnit s q 11 0 none 5 detail 0 (BitVec.ofNat 64 (locBits p)) 0 0
      | none => s
    let gs := s.net.trees.filterMap (fun e => if e.1 / 512 = p then some (e.1 % 512) else none)
    let s := gs.foldl (fun s g => loseOnTree s p g) s
    declareDead { s with net := { s.net with lost := insertNat s.net.lost p } } p

/-- Retries of a flit from a link buffer (R259). -/
def retryLimit : Nat := 4

/-- LINK_RETRY: a check fails on the link from a port for the fails-th time in a row. Up to four retries change nothing; after that the link is retired and its router
is lost (R259, R419). -/
def execLinkRetry (tile port fails : Nat) (s : State) : Host.Outcome State Fault Refusal :=
  let k := 8 * tile + port % 8
  if coreBase ≤ tile ∨ 4 < port ∨ s.net.retired.contains k then .next s
  else
    let s := { s with net := { s.net with linkFails := mput s.net.linkFails k fails } }
    if fails ≤ retryLimit then .next s
    else
      let s := { s with net := { s.net with retired := insertNat s.net.retired k } }
      .next (loseRouter (postUnit s tile 5 0 none 5 1 0 0 0 0) tile 1)

/-- ROUTER_LOST: a router is silent for 1,024 tc, or reports an internal fault (R270). -/
def execRouterLost (tile : Nat) (fromInside : Bool) (s : State) : Host.Outcome State Fault Refusal :=
  .next (if coreBase ≤ tile then s else loseRouter s tile (if fromInside then 2 else 1))

/-- TILE_DECLARED_DEAD: an uncorrectable internal fault of a tile's core is reported (20 R437). -/
def execTileDeclaredDead (tile : Nat) (s : State) : Host.Outcome State Fault Refusal := .next (if coreBase ≤ tile then s else declareDead s tile)

/-! ### Receivers (R423, 21 R455) -/

/-- A receiver; one that no event has touched is LOCKED. -/
def rcvOf (x : Agent) (r : Nat) : Receiver := mget ⟨.locked, 0, 0⟩ x.rx.rcv r

/-- A receiver of a tile that full service uses. -/
def rcvUsed (s : State) (a r : Nat) : Bool := !s.boot.pilot && a < coreBase && r < 8

/-- A receiver in a new state. -/
def setRcv (s : State) (a r : Nat) (st : HueSt) : State :=
  modAgent s a (fun x => { x with rx := { x.rx with rcv := mput x.rx.rcv r { rcvOf x r with st := st } } })

/-- A HUE record (R430). -/
def postHue (s : State) (a r detail : Nat) : State :=
  let v := rcvOf (agentAt s a) r
  postUnit s a 9 0 none 6 detail 0 (BitVec.ofNat 64 (v.bus * 256 + v.hue)) 0 0

/-- HUE_DRIFT. -/
def execHueDrift (agent rcv : Nat) (s : State) : Host.Outcome State Fault Refusal :=
  .next (if rcvUsed s agent rcv ∧ (rcvOf (agentAt s agent) rcv).st = .locked then postHue (setRcv s agent rcv .drifting) agent rcv 1 else s)

/-- HUE_UNLOCK. -/
def execHueUnlock (agent rcv : Nat) (s : State) : Host.Outcome State Fault Refusal :=
  let st := (rcvOf (agentAt s agent) rcv).st
  .next (if rcvUsed s agent rcv ∧ (st = .locked ∨ st = .drifting) then postHue (setRcv s agent rcv .unlocked) agent rcv 2 else s)

/-- The ACTIVE groups that list a receiver of a tile. -/
def groupsOfRcv (s : State) (a r : Nat) : List Nat :=
  s.light.groups.filterMap (fun p => if p.2.st = gACTIVE ∧ (receiverUses s p.2).any (fun u => u.1 == a && u.2.1 == r) then some p.1 else none)

/-- HUE_RELOCK: the member asks for its expected number again; such a replay counts in REPLAYS only (R423, 08 R249). -/
def execHueRelock (agent rcv : Nat) (s : State) : Host.Outcome State Fault Refusal :=
  if !rcvUsed s agent rcv ∨ (rcvOf (agentAt s agent) rcv).st ≠ .unlocked then .next s
  else
    let s := postHue (setRcv s agent rcv .locked) agent rcv 3
    if (agentAt s agent).stopped then .next s
    else .next ((groupsOfRcv s agent rcv).foldl (fun s g => addToken s g ⟨(memberOf (agentAt s agent) g).e, 1, false, (groupAt s g).owner⟩) s)

/-- RECEIVER_LOST: UNLOCKED for 10 ms; the tile is lost (R423). -/
def execReceiverLost (agent rcv : Nat) (s : State) : Host.Outcome State Fault Refusal :=
  .next (if rcvUsed s agent rcv ∧ (rcvOf (agentAt s agent) rcv).st = .unlocked then declareDead (postHue (setRcv s agent rcv .lost) agent rcv 4) agent else s)

/-- RECEIVER_RETUNE: Chart retunes a DRIFTING receiver, and it is LOCKED (R423). -/
def execReceiverRetune (agent rcv : Nat) (s : State) : Host.Outcome State Fault Refusal :=
  .next (if rcvUsed s agent rcv ∧ (rcvOf (agentAt s agent) rcv).st = .drifting then setRcv s agent rcv .locked else s)

/-! ### Heat (21 R462) -/

/-- THERMAL_THROTTLE: the field's MXEs insert filler cycles; nothing else changes. -/
def execThermalThrottle (field : Nat) (s : State) : Host.Outcome State Fault Refusal :=
  .next (if field < 48 then { s with rel := { s.rel with throttled := insertNat s.rel.throttled field } } else s)

/-- THROTTLE_LIFT. -/
def execThrottleLift (field : Nat) (s : State) : Host.Outcome State Fault Refusal :=
  .next { s with rel := { s.rel with throttled := s.rel.throttled.filter (· != field) } }

end Sys2Proof.Machine
end

