-- ==== Sys2Proof/Machine/Waves.lean ====
section
/-!
DEFINITION. The name rule, the full rebuild and the shift-remap wave (20 R433 to R443).
-/

namespace Sys2Proof.Machine

/-! ### The name rule (R434) -/

/-- The dead pcols of a physical row: fused off, or dead since. -/
def deadSet (s : State) (row : Nat) : BitVec 17 :=
  (List.range 17).foldl (fun d c => if s.boot.fuses.off.contains (physOf (row / 12) c (row % 12)) then d ||| 1 <<< c else d) (rowAt s row).dead

/-- The live pcols, ascending. -/
def liveCols (dead : BitVec 17) : List Nat := (List.range 17).filter (fun c => !dead.getLsbD c)

/-- The grid row of a physical row, in the order of R434. -/
def gridRow (row : Nat) : Nat := 12 * (row / 12 / 8) + row % 12

/-- The names that a physical row serves, in ascending column. -/
def rowNames (s : State) (row : Nat) : List Nat :=
  let col := row / 12 % 8
  match s.rel.rmap.find? (fun p => p.2 == gridRow row + 1) with
  | none => []
  | some (r, _) =>
    if s.boot.fuses.grade = 1 ∧ r = 69 then (if col = 0 then (List.range 8).map (fun i => 128 * 69 + i) else [])
    else (List.range 16).map (fun i => 128 * r + 16 * col + i)

/-- The name rule on a row with a dead set: each name and its tile. -/
def nameRule (s : State) (row : Nat) (dead : BitVec 17) : List (Nat × Option Nat) :=
  (rowNames s row).zipIdx.map (fun p => (p.1, (liveCols dead)[p.2]?.map (fun c => physOf (row / 12) c (row % 12))))

/-- An entry of the name table (14 R344). -/
def entryWord (p : Option Nat) (byp : Bool) : Nat :=
  match p with
  | none => 0
  | some p => 2 ^ 31 + (if byp then 2 ^ 30 else 0) + tileField p * 2 ^ 15 + tileCol p * 2 ^ 10 + tileRow p * 2 ^ 6

/-- The module address of the entry of a name. -/
def nameKey (s : State) (n : Nat) : Nat := (s.os.nameroot.extractLsb' 6 50).toNat * 64 + 4 * n

/-- The entries of some names written. -/
def writeEntries (s : State) (byp : Bool) (l : List (Nat × Option Nat)) : State :=
  setMem s (l.foldl (fun m p => writeNat m (nameKey s p.1) 4 (entryWord p.2 byp)) s.mem)

/-! ### The full rebuild (R434, R436) -/

/-- The live tiles of a physical row. -/
def liveCount (s : State) (row : Nat) : Nat := (liveCols (deadSet s row)).length

/-- The physical row of a grid row in field column c. -/
def rowInGrid (g c : Nat) : Nat := (8 * (g / 12) + c) * 12 + g % 12

/-- A grid row with at least 16 live tiles in each of its physical rows. -/
def wholeGrid (s : State) (g : Nat) : Bool := (List.range 8).all (fun c => 16 ≤ liveCount s (rowInGrid g c))

/-- RMAP: logical row to grid row + 1. -/
def rowMap (s : State) : SMap Nat :=
  if s.boot.fuses.grade ≠ 1 then (List.range 72).map (fun r => (r, r + 1))
  else
    let whole := (List.range 72).filter (wholeGrid s)
    let first := (whole.take 69).zipIdx.map (fun p => (p.2, p.1 + 1))
    match whole[68]? with
    | none => first
    | some w =>
      match (List.range 72).find? (fun g => w < g && 8 ≤ liveCount s (rowInGrid g 0)) with
      | some g => first ++ [(69, g + 1)]
      | none => first

/-- Every row by the name rule. -/
def allNames (s : State) : List (Nat × Bool × List (Nat × Option Nat)) :=
  (List.range 576).map (fun row => let d := deadSet s row; (row, d != 0, nameRule s row d))

/-- The full rebuild: RMAP, every name and its entry, TILES and LASTROW; names that no row serves are unmapped.
Chart writes each tile's SELF (22 R463). -/
def rebuild (s : State) : State :=
  let s := { s with rel := { s.rel with rmap := rowMap s, rebuild := false } }
  let rows := allNames s
  let names := rows.flatMap (fun r => r.2.2)
  let s := setMem s ((List.range 9216).foldl (fun m n => writeNat m (nameKey s n) 4 0) s.mem)
  let s := rows.foldl (fun s r => writeEntries s r.2.1 r.2.2) s
  let s := mapAgents s (fun _ x => { x with name := none, ni := { x.ni with names := [] } })
  let s := names.foldl (fun s p => match p.2 with | some q => modAgent s q (fun x => { x with name := some p.1 }) | none => s) s
  let s := mapAgents s (fun a x => if isCore a then x else { x with cfg := { x.cfg with words := mput x.cfg.words 0 (match x.name with | some n => BitVec.ofNat 64 (2 ^ 63 + n) | none => 0) } })
  let s := rows.foldl (fun s r => modRow s r.1 (fun v => { v with dead := deadSet s r.1, pend := 0 })) s
  let mapped := names.filter (fun p => p.2.isSome)
  { s with rel := { s.rel with tiles := mapped.length, lastrow := (mapped.filter (fun p => p.1 / 128 == gradeRows s - 1)).length } }

/-- FULL_REBUILD: the one that REMAPSTAT.REBUILD asked for (R436). -/
def execFullRebuild (s : State) : Host.Outcome State Fault Refusal :=
  .next (if s.rel.rebuild && s.rel.wave.isNone && s.os.ctxs.all (fun c => c.2.st == 0) then rebuild s else s)

/-! ### The halt (R438 steps 1 and 2) -/

/-- Every tile listed has stopped. -/
def allStopped (s : State) : Bool := (allTiles s).all (fun a => (agentAt s a).stopped)

/-- Every tile has stopped and drained, and the mesh is empty. -/
def allDrained (s : State) : Bool :=
  (allTiles s).all (fun a => tileDrained s a || declaredDead s a) && s.net.reqs.all (fun r => isCore r.src) && s.net.msgs == []

/-- The tiles have halted: every call has ended its attempt, and light to stopped tiles is gone (15 R369). -/
def haltWafer (s : State) : State :=
  let s := restartCalls s (fun _ => true)
  { s with light := { s.light with flight := s.light.flight.filter (fun f => match f.what with | .block _ => false | _ => true) } }

/-- The lowest row with declarations that wait. -/
def firstPending (s : State) : Option Nat := (s.rel.rows.find? (fun p => p.2.pend != 0)).map (·.1)

/-- SHIFT_REMAP_WAVE: the wave of a row whose PEND waits begins (R441); or the wave in progress has halted every tile (R438 step 1). -/
def execShiftRemapWave (row : Nat) (s : State) : Host.Outcome State Fault Refusal :=
  match s.rel.wave with
  | none =>
    if firstPending s = some row then
      let v := rowAt s row
      .next (beginWave (modRow s row (fun v => { v with pend := 0 })) row (deadSet s row ||| v.pend))
    else .next s
  | some w => .next (if !w.switch && w.row == row && w.step == 1 && allStopped s then modWave (haltWafer s) (fun w => { w with step := 2 }) else s)

/-! ### Migration (R438 step 3, R442) -/

/-- A name of the wave's row: its tile before and after. -/
structure Move where
  name   : Nat
  before : Option Nat
  after  : Option Nat
deriving DecidableEq, Repr

def waveMoves (s : State) (w : Wave) : List Move := (nameRule s w.row w.dead).map (fun p => ⟨p.1, physOfName s p.1, p.2⟩)

/-- The tile is dead, or the wave makes it so. -/
def deadIn (s : State) (w : Wave) (p : Nat) : Bool := declaredDead s p || (rowOf p == w.row && w.dead.getLsbD (tileCol p))

/-- The name loses its state: its tile is dead, it has no tile any more, or the tile that it moves to has died meanwhile. -/
def moveLoses (s : State) (w : Wave) (m : Move) : Bool :=
  match m.before, m.after with
  | none, _ => false
  | some _, none => true
  | some p, some q => deadIn s w p || (p != q && declaredDead s q)

/-- A tile whose state has gone: what belongs to the place is left. -/
def vacate (x : Agent) : Agent :=
  { agent0 with
    cycle0 := x.cycle0, maxmsg := x.maxmsg, calldl := x.calldl, cfg := x.cfg, stopped := true
    mx := { agent0.mx with arr := x.mx.arr }
    ni := { agent0.ni with fbox := x.ni.fbox, orphans := x.ni.orphans } }

/-- A tile that a name's state has come to. -/
def arrive' (old x : Agent) (name : Nat) : Agent :=
  { x with
    name := some name, cycle0 := old.cycle0, maxmsg := old.maxmsg, calldl := old.calldl, cfg := old.cfg, tlb := [], icache := [], stopped := true
    ni := { x.ni with names := [], nwalks := [], fbox := old.ni.fbox, orphans := old.ni.orphans }
    mx := { x.mx with arr := old.mx.arr } }

/-- The tree entries of a router go to another, or nowhere. -/
def moveTrees (s : State) (p : Nat) (q : Option Nat) : State :=
  let mine := s.net.trees.filter (fun e => e.1 / 512 == p)
  let rest := s.net.trees.filter (fun e => e.1 / 512 != p)
  { s with net := { s.net with trees := match q with | some q => mine.foldl (fun m e => mput m (q * 512 + e.1 % 512) e.2) rest | none => rest } }

/-- One name moves: tile state, LS and vault with their marks, tree entries; from a dead tile only the name does. -/
def moveName (w : Wave) (s : State) (m : Move) : State :=
  match m.before, m.after with
  | some p, some q =>
    let dead := deadIn s w p
    let x := agentAt s p
    let s := setAgent s q (arrive' (agentAt s q) (if dead then deadAgent x else x) m.name)
    let s := setAgent s p (vacate x)
    let s := if dead then s else setMem s (moveBytes (moveBytes s.mem (keyLs q 0) (keyLs p 0) lsBytes) (keyVault q 0) (keyVault p 0) vaultBytes)
    moveTrees s p (if dead then none else some q)
  | some p, none => moveTrees (setAgent s p (vacate (agentAt s p))) p none
  | none, some q => modAgent s q (fun x => { x with name := some m.name })
  | none, none => s

/-- Tile numbers after the moves. -/
def renumber (ms : List Move) (a : Nat) : Nat := match ms.find? (fun m => m.before == some a) with | some m => m.after.getD a | none => a

/-- What names tiles by number follows the moves: requests, walkers, tokens, partials, markers. -/
def renumberAll (f : Nat → Nat) (s : State) : State :=
  let inj := fun (p : Option (Nat × Nat)) => p.map (fun v => (f v.1, v.2))
  { s with
    agents := s.agents.map (fun p => (p.1, { p.2 with rx := { p.2.rx with
      chain := p.2.rx.chain.map (fun c => { c with inj := inj c.inj })
      slots := p.2.rx.slots.map (fun q => (q.1, { q.2 with inj := inj q.2.inj })) } }))
    net := { s.net with
      tokens := s.net.tokens.map (fun t => { t with agent := f t.agent })
      rdus := s.net.rdus.map (fun c => { c with router := f c.router }) }
    light := { s.light with groups := s.light.groups.map (fun p => (p.1, { p.2 with
      q := p.2.q.map (fun r => { r with agent := f r.agent })
      buf := p.2.buf.map (fun b => { b with inj := inj b.inj })
      walker := p.2.walker.map (fun v => { v with inj := inj v.inj, confirm := v.confirm.map f }) })) }
    os := { s.os with ops := s.os.ops.map (fun o => { o with reached := o.reached.map f }) } }

/-- The walks of the strands and copies of some tiles are given up; their instructions translate again. -/
def dropWalksOf (s : State) (tiles : List Nat) : State :=
  { s with net := { s.net with walks := s.net.walks.filter (fun v => match v.who with | .strand a _ => !tiles.contains a | .copy a => !tiles.contains a | .window a => !tiles.contains a | _ => true) } }

/-- Step 3: every name whose pcol changes moves, in descending pcol. -/
def migrate (s : State) (w : Wave) : State :=
  let all := waveMoves s w
  let lost := (all.filter (moveLoses s w)).map (·.name)
  let moved := all.filter (fun m => m.before != m.after)
  let touched := (moved.map (·.name)) ++ lost.filter (fun n => !(moved.map (·.name)).contains n)
  let from' := moved.filterMap (·.before)
  let groups := s.light.groups.filterMap (fun p => if p.2.st = gACTIVE ∧ (memberNames p.2).any touched.contains then some p.1 else none)
  let trees := (s.net.trees.filterMap (fun e => if teState e.2 = 1 ∧ from'.contains (e.1 / 512) then some (e.1 % 512) else none)).eraseDups
  let late := (moved.filterMap (·.after)).filter (declaredDead s)
  let s := moved.reverse.foldl (moveName w) s
  let s := late.foldl (fun s q => modAgent s q deadAgent) s
  let s := dropWalksOf (renumberAll (renumber moved) s) from'
  modWave s (fun w => { w with step := 4, lost := lost, moved := touched, groups := groups, trees := trees })

/-! ### Rewriting and resumption (R438 steps 4 to 6, R439, R440) -/

/-- Step 4: the row's entries, DEAD, and every NI cache. -/
def rewriteRow (s : State) (w : Wave) : State :=
  let s := writeEntries s (w.dead != 0) (nameRule s w.row w.dead)
  let s := modRow s w.row (fun v => { v with dead := w.dead })
  let s := mapAgents s (fun _ x => forgetName 0 true x)
  modWave s (fun w => { w with step := 5 })

/-- WAVE_DRAINED: the mesh is empty, and migration and rewriting proceed, one step of R438 at a time. -/
def execWaveDrained (s : State) : Host.Outcome State Fault Refusal :=
  match s.rel.wave with
  | none => .next s
  | some w =>
    if w.switch then .next s
    else if w.step = 2 ∧ allDrained s then .next (modWave s (fun w => { w with step := 3 }))
    else if w.step = 3 then .next (migrate s w)
    else if w.step = 4 then .next (rewriteRow s w)
    else .next s

/-- A task holds tiles. -/
def isPlaced (t : Task) : Bool := t.st == .prefetch || t.st == .running || t.st == .preempted

/-- Tasks that held a lost name end FAILED with REASON 11 (R440). -/
def failLost (s : State) (lost : List Nat) : State :=
  s.os.tasks.foldl (fun s t =>
    match ((taskNames t).map (·.2)).filter lost.contains with
    | [] => s
    | n :: l => if isPlaced t then failTask s t.id 11 0 (l.foldl min n) 0 0 0 else s) s

/-- TINFO of CAPACITY_LOST for the lost names of a context (R440). -/
def capacityInfo (s : State) (lost : List Nat) : Option Word :=
  match lost with
  | [] => none
  | n :: l =>
    let low := l.foldl min n
    some (BitVec.ofNat 64 ((if l = [] then 0 else 2 ^ 15) + (if (physOfName s low).isNone then 2 ^ 14 else 0) + low))

/-- A strand of a context's task that is RUNNING or PREEMPTED. -/
def hearsLoss (s : State) (c : Nat) (t : Strand) : Bool :=
  t.tag == some (liveTag s c) && t.st != .inactive && t.st != .failed &&
    (match t.task.bind (taskAt s) with | some k => (k.st == .running || k.st == .preempted) && k.retire.isNone | none => false)

/-- The strands with a property: (agent, number). -/
def strandsThat (s : State) (p : Strand → Bool) : List (Nat × Nat) :=
  s.agents.flatMap (fun x => (x.2.strands.filter (fun k => p k.2)).map (fun k => (x.1, k.1)))

/-- CAPACITY_LOST is posted once to the strands of every context with a lost name in its region (R440, log 29). -/
def postCapacity (s : State) (lost : List Nat) : State :=
  (List.range 64).foldl (fun s c =>
    if (ctxAt s c).st = 0 then s
    else
      match capacityInfo s (lost.filter (inRegion (ctxAt s c).region)) with
      | none => s
      | some info => (strandsThat s (hearsLoss s c)).foldl (fun s p => postFault s p.1 p.2 ⟨BitVec.ofNat 8 cCAPACITY, 0, info⟩ id) s) s

/-- A ring call that crossed a wave which lost a name counts its replay (R443). -/
def countRingReplays (s : State) (lost : List Nat) : State :=
  if lost = [] then s
  else
    { s with net := { s.net with atts := s.net.atts.map (fun p =>
        (p.1, match treeRoot s p.1 with | some r => if teRing (treeAt s r p.1) then { p.2 with replays := p.2.replays + 1 } else p.2 | none => p.2)) } }

/-- WAVE_REPAIRED: every tree and group has been rewritten or freed (step 5); the tiles go on and the wave ends (step 6). -/
def execWaveRepaired (s : State) : Host.Outcome State Fault Refusal :=
  match s.rel.wave with
  | none => .next s
  | some w =>
    if w.switch then .next s
    else if w.step = 5 ∧ w.groups = [] ∧ w.trees = [] then .next (modWave s (fun w => { w with step := 6 }))
    else if w.step = 6 then
      let s := countRingReplays (postCapacity (failLost s w.lost) w.lost) w.lost
      .next (resumeAll { s with rel := { s.rel with wave := none, waves := s.rel.waves + 1 } })
    else .next s

end Sys2Proof.Machine
end

