-- ==== Sys2Proof/Machine/Checkpoints.lean ====
section
/-!
DEFINITION. Checkpoints and restores (20 R444 to R448), and the loss of power (21 R462).
-/

namespace Sys2Proof.Machine

/-- The checkpoint state changed. -/
def modCkpt (s : State) (f : Ckpt → Ckpt) : State := { s with rel := { s.rel with ckpt := f s.rel.ckpt } }

/-! ### Quiesce and stage (R444, R446 steps 1 and 2) -/

/-- A LIVE context whose L3 release is withheld, or that has no RUNNING task. -/
def isQuiet (s : State) (c : Nat) : Bool :=
  (ctxAt s c).st != 1 || s.rel.ckpt.withheld.contains c || (tasksOf s c).all (fun t => t.st != .running)

/-- The reservation address of the record of a name, and of a context's header (R444). -/
def stageRecord (n : Nat) : Nat := n % 32 * 2 ^ 38 + 188 * 2 ^ 30 + n / 32 * 0xC40000
def stageHeader (c : Nat) : Nat := 188 * 2 ^ 30 + 0xF0000000 + 0x10000 * c

/-- Lines stored at a module address, encrypted for a sealed context (R446 step 2). -/
def putStaged (c : Option Nat) : Nat → State → Nat → List Byte → State
  | 0, s, _, _ => s
  | f + 1, s, k, bs =>
    if bs = [] then s
    else
      let line := bs.take 64
      let out := match c with | some c => natBytes 64 (Config.xtsSeal (mget 0 s.trust.memKeys c) k (BitVec.ofNat 512 (leNat line))).toNat | none => line
      putStaged c f (setMem s (writeBytes s.mem k out)) (k + 64) (bs.drop 64)

/-- The sealed context whose state a tile holds. -/
def sealedOn (s : State) (a : Nat) : Option Nat := (taskOf s a).bind (fun t => if (ctxAt s t.tag.cx.toNat).sealed then some t.tag.cx.toNat else none)

/-- The tiles that hold a name. -/
def namedTiles (s : State) : List (Nat × Nat) := s.agents.filterMap (fun p => p.2.name.map (fun n => (n, p.1)))

/-- Every tile writes its record, and Lodestar the header of every context that is not FREE. -/
def stageAll (s : State) : State :=
  let s := (namedTiles s).foldl (fun s p =>
    let n := s.env.fresh
    let bs := recordBytes s p.2 true true n
    let s := putStaged (sealedOn s p.2) (bs.length / 64) s (stageRecord p.1) bs
    { s with env := { s.env with fresh := n + bs.length / 8 } }) s
  (List.range 64).foldl (fun s c =>
    if (ctxAt s c).st = 0 then s
    else
      let bs := saveHeader s c (regionNames s (ctxAt s c).region).length true true 0
      putStaged (if (ctxAt s c).sealed then some c else none) (bs.length / 64) s (stageHeader c) bs) s

/-- CHECKPOINT_QUIESCED: every LIVE context is withheld and the tiles stop; when they have drained, the records are staged (R446). A wave in progress comes first (R443). -/
def execCheckpointQuiesced (s : State) : Host.Outcome State Fault Refusal :=
  let k := s.rel.ckpt
  if s.rel.wave.isSome ∨ k.bad then .next s
  else if k.st = 1 ∧ (List.range 64).all (isQuiet s) then .next (modCkpt s (fun k => { k with st := 2 }))
  else if k.st = 2 ∧ allStopped s ∧ allDrained s then .next (modCkpt (stageAll (restartCalls s (fun _ => true))) (fun k => { k with st := 3 }))
  else .next s

/-! ### Copy, commit, failure (R446 steps 3 and 4) -/

/-- The module memory of the wafer. -/
def moduleMemory (m : Memory) : Memory := ⟨m.cells.filter (fun c => c.1 < 2 ^ 43), m.poison.filter (fun w => w < 2 ^ 40)⟩

/-- What a slot holds after the copy; it is good once its commit records stand. -/
def takeImage (s : State) : Image :=
  { gen := s.rel.ckpt.gen + 1, mem := moduleMemory s.mem, tiles := (namedTiles s).foldl (fun m p => mput m p.1 (agentAt s p.2)) []
    ctxs := s.os.ctxs, tasks := s.os.tasks, queues := s.os.queues, good := false, l3 := s.net.l3, held := s.rel.ckpt.withheld, keys := s.trust.memKeys
    names := s.trust.cxConvoy, seals := s.trust.seals, m3 := s.trust.m3, saves := s.os.saves }

/-- The withheld release of a context is delivered. -/
def deliverL3 (s : State) (c : Nat) : State :=
  let arrived := s.agents.findSome? (fun p => (p.2.strands.find? (fun q => q.2.tag == some (liveTag s c) && mget false q.2.arrived 3)).map (fun q => (p.1, q.1)))
  match arrived with
  | some (a, k) => releasePhase s a k 3
  | none => s

/-- The tiles go on, and the withheld releases are delivered; STATE says how it ended. -/
def endCheckpoint (s : State) (st : BitVec 8) : State :=
  let held := s.rel.ckpt.withheld
  let s := modCkpt s (fun k => { k with st := st, op := 0, withheld := [], staged := none, bad := false })
  held.foldl deliverL3 (resumeAll s)

/-- The slot that does not hold the newest complete checkpoint. -/
def otherSlot (k : Ckpt) : BitVec 1 := 1 - k.slot

/-- CHECKPOINT_COMMIT: the WMMs copy into the other slot; when the commit records stand, the generation and the slot advance (R446). -/
def execCheckpointCommit (s : State) : Host.Outcome State Fault Refusal :=
  let k := s.rel.ckpt
  if k.bad then .next s
  else if k.st = 3 then
    let i := takeImage s
    .next (modCkpt s (fun k => { k with st := 4, staged := some i, slots := mput k.slots (otherSlot k).toNat i }))
  else if k.st = 4 then
    match k.staged with
    | none => .next s
    | some i =>
      let dst := otherSlot k
      .next (endCheckpoint (modCkpt s (fun k => { k with slots := mput k.slots dst.toNat { i with good := true }, gen := i.gen, slot := dst })) 5)
  else .next s

/-- CHECKPOINT_FAILED: an Almanac error, or a fault that ended a task; the newest complete checkpoint stays (R446). -/
def execCheckpointFailed (s : State) : Host.Outcome State Fault Refusal :=
  let st := s.rel.ckpt.st.toNat
  .next (if 1 ≤ st ∧ st ≤ 4 then endCheckpoint s 7 else s)

/-! ### Restore (R447) -/

/-- Bytes of the reservation as a context's restore reads them. -/
def getStaged (s : State) (c : Option Nat) : Nat → Nat → Nat → List Byte
  | 0, _, _ => []
  | f + 1, k, n =>
    if n = 0 then []
    else
      let raw := readBytes s.mem k 64
      let line := match c with | some c => natBytes 64 (Config.xtsOpen (mget 0 s.trust.memKeys c) k (BitVec.ofNat 512 (leNat raw))).toNat | none => raw
      line.take n ++ getStaged s c f (k + 64) (n - 64)

/-- A saved tile restored on the tile that holds its name now, with LS and vault from its record. -/
def restoreTile (s : State) (n : Nat) (x : Agent) (owner : Option Nat) : State :=
  match physOfName s n with
  | none => s
  | some a =>
    let s := modAgent s a (fun old => loadAgent old x)
    let k := stageRecord n
    let ls := getStaged s owner (lsBytes / 64) (k + 0x140000) lsBytes
    let vault := getStaged s owner (vaultBytes / 64) (k + 0x440000) vaultBytes
    setMem s (writeBytes (writeBytes s.mem (keyLs a 0) ls) (keyVault a 0) vault)

/-- The saved tiles of a context: those whose task is its own. -/
def imageTiles (i : Image) (c : Nat) : List (Nat × Agent) :=
  i.tiles.filter (fun p => match p.2.task with | some t => i.tasks.any (fun u => u.id == t && u.tag.cx.toNat == c) | none => false)

/-- A context of an image can be restored: its names are mapped, and a sealed one's keys have not been erased (R447, 15 R374). -/
def canRestore (s : State) (i : Image) (c : Nat) (v : Ctx) : Bool :=
  v.st != 0 && (imageTiles i c).all (fun p => (physOfName s p.1).isSome) &&
    (!v.sealed || ((mget? i.keys c).isSome && s.trust.convoys.any (fun w => some w.id == mget? i.names c && belongs w)))

/-- A context as it was saved. -/
def restoreCtx (i : Image) (s : State) (p : Nat × Ctx) : State :=
  let (c, v) := p
  if !canRestore s i c v then s
  else
    let mine := fun (t : Task) => t.tag.cx.toNat == c
    let s := modCtx s c (fun _ => { v with ov1 := false, old1 := 0, ov2 := false, old2 := 0 })
    let s := { s with
      os := { s.os with
        queues := (List.range 4).foldl (fun m l => match mget? i.queues (4 * c + l) with | some q => mput m (4 * c + l) q | none => mdel m (4 * c + l)) s.os.queues
        tasks := s.os.tasks ++ i.tasks.filter mine
        nextTask := i.tasks.foldl (fun n t => max n (t.id + 1)) s.os.nextTask
        saves := i.saves.filter (fun w => w.cx == c) ++ s.os.saves.filter (fun w => w.cx != c) }
      net := { s.net with l3 := match mget? i.l3 c with | some l => mput s.net.l3 c l | none => mdel s.net.l3 c }
      trust := if v.sealed then { s.trust with
          memKeys := mput s.trust.memKeys c (mget 0 i.keys c), cxConvoy := mput s.trust.cxConvoy c (mget 0 i.names c), m3 := mput s.trust.m3 c (mget 0 i.m3 c) }
        else s.trust }
    (imageTiles i c).foldl (fun s p => restoreTile s p.1 p.2 (if v.sealed then some c else none)) (mirror s c)

/-- CHECKPOINT_RESTORE_COMPLETE: DRAM is filled from the newest slot, and every context that can be is created and restored; the withheld releases are delivered
(R447). With no complete checkpoint the restore fails. -/
def execCheckpointRestoreComplete (s : State) : Host.Outcome State Fault Refusal :=
  let k := s.rel.ckpt
  if k.st ≠ 6 then .next s
  else
    match mget? k.slots k.slot.toNat with
    | none => .next (modCkpt s (fun k => { k with st := 7, op := 0 }))
    | some i =>
      if !i.good ∨ k.gen = 0 then .next (modCkpt s (fun k => { k with st := 7, op := 0 }))
      else
        let m : Memory := ⟨i.mem.cells ++ s.mem.cells.filter (fun c => 2 ^ 43 ≤ c.1), i.mem.poison ++ s.mem.poison.filter (fun w => 2 ^ 40 ≤ w)⟩
        let s := { setMem s m with trust := { s.trust with seals := i.seals } }
        let s := i.ctxs.foldl (restoreCtx i) s
        let s := modCkpt s (fun k => { k with st := 5, op := 0 })
        .next (i.held.foldl deliverL3 (resumeAll s))

/-! ### Loss of power (R446, 21 R462) -/

/-- Flash of the carrier keeps its bytes. -/
def flashMemory (m : Memory) : Memory := ⟨m.cells.filter (fun c => 2 ^ 62 ≤ c.1 && c.1 < 2 ^ 63), []⟩

/-- Everything but the Almanac tier, the boot flash, the fuses and Lodestar's convoy secrets is lost (R462, 18). -/
def powerDown (s : State) : State :=
  let r := State.reset
  let k := s.rel.ckpt
  { r with
    env := { r.env with inputs := s.env.inputs, fresh := s.env.fresh, powered := false }
    mem := flashMemory s.mem
    rel := { r.rel with ckpt := { r.rel.ckpt with slots := k.slots, gen := k.gen, slot := k.slot } }
    boot := { r.boot with fuses := s.boot.fuses }
    trust := { r.trust with convoys := s.trust.convoys, out := s.trust.out } }

/-- THERMAL_POWER_DOWN: a field is at 110 °C (21 R462). -/
def execThermalPowerDown (field : Nat) (s : State) : Host.Outcome State Fault Refusal := .next (if field < 48 then powerDown s else s)

/-- POWER_LOSS (R448). -/
def execPowerLoss (s : State) : Host.Outcome State Fault Refusal := .next (powerDown s)

end Sys2Proof.Machine
end

