-- ==== Sys2Proof/Machine/Outside.lean ====
section
/-!
DEFINITION. The host's ports (18 R395 to R398): CXL.mem reads and writes of module memory, snoops, and the mailboxes.
-/

namespace Sys2Proof.Machine

/-! ### CXL.mem and CXL.cache (R395, R396, R408, 19 R417) -/

/-- The module address of a line of a port's range of 2 TiB; none in the gaps above a module's 192 GiB. -/
def portLine (port line : Nat) : Option Nat := let k := port * 2 ^ 41 + 64 * line; if inModule k then some k else none

/-- A line of a port exists. -/
def portHas (port line : Nat) : Bool := port < 4 && line < 2 ^ 35

/-- CXL_MEM_READ: the host reads the value at the home: the ciphertext of a sealed frame, all ones in a gap; a poisoned line is marked (R396, R408, R417). -/
def execCxlMemRead (port line : Nat) (s : State) : Host.Outcome State Fault Refusal :=
  let out := match portLine port line with
    | none => (BitVec.allOnes 512, false)
    | some k => (if (sealOf s k).isSome then sealedLine s k else BitVec.ofNat 512 (readNat s.mem k 64), poisoned s.mem k 64)
  .next (if portHas port line then { s with trust := { s.trust with cxlOut := some out } } else s)

/-- Bytes of a line written under a mask: words written whole lose their marks (R417). -/
def writeMasked (m : Memory) (k : Nat) (data : Line) (mask : BitVec 64) : Memory :=
  (List.range 8).foldl (fun m w =>
    let some8 := (List.range 8).filter (fun i => mask.getLsbD (8 * w + i))
    if some8.length = 8 then writeNat m (k + 8 * w) 8 (lineNat data (8 * w) 8)
    else some8.foldl (fun m i => writeByte m (k + 8 * w + i) (BitVec.ofNat 8 (lineNat data (8 * w + i) 1))) m) m

/-- CXL_MEM_WRITE: performed at the home; dropped in a gap, refused and counted on a sealed frame (R396, R408). -/
def execCxlMemWrite (port line : Nat) (data : Line) (mask : BitVec 64) (s : State) : Host.Outcome State Fault Refusal :=
  match portLine port line with
  | none => .next s
  | some k =>
    if !portHas port line then .next s
    else if (sealOf s k).isSome then
      .next { s with trust := { s.trust with refused := mmod 0 s.trust.refused port (fun n => min (n + 1) (2 ^ 32 - 1)) } }
    else .next (setMem s (writeMasked s.mem k data mask))

/-- HOST_SNOOP: the host writes a line of its own memory; a copy that the TQU holds is given up (R288, R395, 14 R328). -/
def execHostSnoop (port addr : Nat) (data : Line) (s : State) : Host.Outcome State Fault Refusal :=
  if 4 ≤ port ∨ 2 ^ 54 ≤ addr then .next s
  else
    .next { s with
      mem := writeBytes s.mem (keyHost (64 * addr)) (natBytes 64 data.toNat)
      trust := { s.trust with hostLines := s.trust.hostLines.filter (· != addr) } }

/-! ### Mailboxes (R397, R398) -/

/-- A mailbox after bring-up. -/
def box0 : Mailbox := ⟨false, 0, 0, false, 0, 0, none, []⟩
/-- The number of a port's mailbox. -/
def boxOf (port : Nat) (attest : Bool) : Nat := 2 * port + (if attest then 1 else 0)
def boxAt (s : State) (i : Nat) : Mailbox := mget box0 s.trust.boxes i
def putBox (s : State) (i : Nat) (b : Mailbox) : State := { s with trust := { s.trust with boxes := mput s.trust.boxes i b } }

/-- Bytes of the payload area. -/
def boxBytes : Nat := 32512

/-- The first n bytes of a payload area. -/
def boxData (b : Mailbox) (n : Nat) : List Byte := (List.range n).map (fun i => mget 0 b.data i)

/-- Bytes put at the start of a payload area. -/
def putData (b : Mailbox) (bs : List Byte) : Mailbox := { b with data := bs.zipIdx.foldl (fun m p => mput m p.2 p.1) b.data }

/-- MAILBOX_GO: the host's payload and then GO; ignored with CODE 4 while a request waits or its answer is being made (R397). -/
def execMailboxGo (port : Nat) (attest : Bool) (len op : Nat) (payload : List Byte) (s : State) : Host.Outcome State Fault Refusal :=
  let i := boxOf port attest
  let b := boxAt s i
  if 4 ≤ port then .next s
  else if b.go ∨ b.answer.isSome then .next (putBox s i { b with code := 4 })
  else .next (putBox s i { putData b (payload.take boxBytes) with go := true, len := len % 2 ^ 16, op := op % 2 ^ 16, done := false })

/-- The firmware takes a request and forms its answer: CODE and bytes; GO is cleared. -/
def acceptBox (s : State) (i : Nat) (code : Byte) (answer : List Byte) : State :=
  putBox s i { boxAt s i with go := false, answer := some (code, answer.take boxBytes) }

/-- MGMT_COMMAND: Chart takes a command; its answer is its firmware's. CODE 4 in stages 0 to 3, nothing in a halted device (R397, 21 R453). -/
def execMgmtCommand (port : Nat) (code : Byte) (answer : List Byte) (s : State) : Host.Outcome State Fault Refusal :=
  let i := boxOf port false
  if 4 ≤ port ∨ !(boxAt s i).go ∨ s.boot.stage = 7 then .next s
  else if s.boot.stage.toNat ≤ 3 then .next (acceptBox s i 4 [])
  else if boxBytes < (boxAt s i).len then .next (acceptBox s i 2 [])
  else .next (acceptBox s i code answer)

/-- The commands of ATTEST (R405). -/
def attestOps : List Nat := [1, 2, 3, 4, 0x10, 0x11]

/-- MAILBOX_ANSWER: the answer, then DONE; an OP that ATTEST does not have is answered with CODE 1, or 3 in a halted device (R397, R398, 21 R453). -/
def execMailboxAnswer (port : Nat) (attest : Bool) (s : State) : Host.Outcome State Fault Refusal :=
  let i := boxOf port attest
  let b := boxAt s i
  if 4 ≤ port then .next s
  else
    match b.answer with
    | some (code, bs) => .next (putBox s i { putData b bs with done := true, rlen := bs.length, code := code, answer := none })
    | none =>
      if b.go ∧ attest ∧ !attestOps.contains b.op ∧ s.boot.stage ≠ 0 then .next (putBox s i { b with go := false, done := true, rlen := 0, code := if s.boot.stage = 7 then 3 else 1 })
      else .next s

end Sys2Proof.Machine
end

