-- ==== Sys2Proof/Machine/Trust.lean ====
section
/-!
DEFINITION. Lodestar (18 R402 to R413): attestation, signatures, convoys and their revocation, through ATTEST and as SYSCALL services (16 R380, 22 R468); frames from
peer wafers (R399, R409) and the landing of peer copies (R401).
-/

namespace Sys2Proof.Machine

/-! ### Reports and signatures (R403 to R405) -/

/-- Bytes of an ML-DSA-65 public key and signature (22 R468). -/
def keyBytes : Nat := 1952
def sigBytes : Nat := 3309

/-- n bytes of a list, zeros behind its end. -/
def padTo (n : Nat) (bs : List Byte) : List Byte := (bs ++ List.replicate n 0).take n

/-- The 32 bytes of a hash. -/
def hashBytes (h : BitVec 256) : List Byte := natBytes 32 h.toNat

/-- The signed part of a report (R404): of context c in convoy v, or for a convoy alone. -/
def reportBody (s : State) (nonce : List Byte) (c : Option Nat) (v : Option Convoy) : List Byte :=
  natBytes 4 0x41545354 ++ natBytes 2 1 ++ natBytes 1 (c.getD 0xFF) ++ natBytes 1 thisWafer ++ padTo 32 nonce ++
    natBytes 8 (match v with | some v => v.gen | none => 0) ++ hashBytes (match v with | some v => v.id | none => 0) ++
    hashBytes s.boot.m0 ++ hashBytes s.boot.m1 ++ hashBytes s.boot.m2 ++ hashBytes (match c with | some c => mget 0 s.trust.m3 c | none => 0) ++
    natBytes 8 s.boot.fuses.svn ++ (match v with | some v => hashBytes (Config.sha3 (Config.kemPublic v.id)) | none => natBytes 32 0) ++ natBytes 8 0

/-- A report with its signature. -/
def signReport (body : List Byte) : List Byte := body ++ padTo sigBytes (Config.mldsaSign body)

/-- A context that a report may name: none for 0xFF, else a SEALED one. -/
def reportCx (s : State) (x : Nat) : Option (Option Nat) := if x = 0xFF then some none else if x < 64 ∧ (ctxAt s x).sealed then some (some x) else none

/-- The report for a nonce and a CXID, none where the request is refused. -/
def attest (s : State) (nonce : List Byte) (x : Nat) : Option (List Byte) :=
  (reportCx s x).map (fun c => signReport (reportBody s nonce c (c.bind (convoyOf s))))

/-- CODE of a signature check. -/
def checkSig (msg key sig : List Byte) : Byte := if Config.mldsaVerify key msg sig then 0 else 3

/-! ### Convoys (R406) -/

/-- A convoy policy as this model lays it out (log 26): members with identity keys, allowed M0 to M2, consortium keys, threshold. -/
structure Policy where
  id      : BitVec 256
  members : List (Nat × List Byte)
  allowed : List (List Byte)
  keys    : List (List Byte)
  k       : Nat
deriving DecidableEq, Repr

/-- n entries of a fixed size. -/
def entries (n size : Nat) (bs : List Byte) : List (List Byte) := (List.range n).map (fun i => (bs.drop (i * size)).take size)

/-- The policy of some bytes: [m] m × [wafer, key], [a] a × [M0, M1, M2], [n] n × key, [k]. -/
def parsePolicy (bs : List Byte) : Policy :=
  let m := leNat (bs.take 1)
  let b1 := bs.drop (1 + m * (1 + keyBytes))
  let a := leNat (b1.take 1)
  let b2 := b1.drop (1 + a * 96)
  let n := leNat (b2.take 1)
  { id := Config.sha3 bs
    members := (entries m (1 + keyBytes) (bs.drop 1)).map (fun e => (leNat (e.take 1), e.drop 1))
    allowed := entries a 96 (b1.drop 1)
    keys := entries n keyBytes (b2.drop 1)
    k := leNat ((b2.drop (1 + n * keyBytes)).take 1) }

/-- The convoy of a policy as its formation begins. -/
def newConvoy (p : Policy) : Convoy := ⟨p.id, p.members.map (·.1), p.keys, p.k, 0, 0, [], [], 0, false⟩

/-- The convoy with an identity. -/
def convoyById (s : State) (id : BitVec 256) : Option Convoy := s.trust.convoys.find? (fun v => v.id == id)

/-- The convoy put in the list. -/
def putConvoy (s : State) (v : Convoy) : State := { s with trust := { s.trust with convoys := s.trust.convoys.filter (fun w => w.id != v.id) ++ [v] } }

/-- A failed step aborts formation, and no key is kept; a convoy that stands is left alone. -/
def abortConvoy (s : State) (id : BitVec 256) : State := { s with trust := { s.trust with convoys := s.trust.convoys.filter (fun w => !(w.id == id && w.gen == 0)) } }

/-- The member that leads: the lowest wafer that is not revoked (R406 step 3, R410 step 3). -/
def leaderOf (v : Convoy) : Option Nat := (v.members.filter (fun w => !v.revoked.contains w)).foldl (fun m w => some (match m with | some x => min x w | none => w)) none

/-- A peer's report, checked against the policy and its convoy key (R406 step 2). -/
def peerOk (p : Policy) (wafer : Nat) (report key : List Byte) : Bool :=
  match p.members.find? (fun m => m.1 == wafer) with
  | none => false
  | some (_, ident) =>
    report.length == 0x100 + sigBytes && Config.mldsaVerify ident (report.take 0x100) (report.drop 0x100) &&
      leNat (report.take 4) == 0x41545354 && leNat ((report.drop 7).take 1) == wafer && (report.drop 0x30).take 32 == hashBytes p.id &&
      p.allowed.contains ((report.drop 0x50).take 96) && (report.drop 0xD8).take 32 == hashBytes (Config.sha3 key)

/-- A secret drawn by the leader, wrapped for every other member that stays. -/
def wrapSecret (s : State) (v : Convoy) : BitVec 256 × List Byte × State :=
  let (k, s') := drawKey s
  let others := v.shares.filter (fun p => p.1 != thisWafer && !v.revoked.contains p.1)
  (k, others.flatMap (fun p => let w := Config.kemWrap p.2 k s'.env.fresh; natBytes 1 p.1 ++ natBytes 2 w.length ++ w), s')

/-- A convoy formation message of this model (log 26): [step] [4 bytes: length of the policy] policy, then by step: 1 nothing, 2 [wafer] report key, 3 the wrapped secret
for a member that does not lead. Gives CODE and answer. -/
def formConvoy (s : State) (msg : List Byte) : State × Byte × List Byte :=
  let step := leNat (msg.take 1)
  let n := leNat ((msg.drop 1).take 4)
  let p := parsePolicy ((msg.drop 5).take n)
  let rest := msg.drop (5 + n)
  match step, convoyById s p.id with
  | 1, none =>
    if p.members.any (fun m => m.1 == thisWafer) then
      let v := newConvoy p
      (putConvoy s v, 0, signReport (reportBody s [] none (some v)) ++ Config.kemPublic p.id)
    else (s, 3, [])
  | 2, some v =>
    let w := leNat (rest.take 1)
    let report := (rest.drop 1).take (0x100 + sigBytes)
    let key := rest.drop (1 + 0x100 + sigBytes)
    if v.gen ≠ 0 then (s, 3, [])
    else if peerOk p w report key then (putConvoy s { v with shares := v.shares.filter (fun q => q.1 != w) ++ [(w, key)] }, 0, [])
    else (abortConvoy s p.id, 3, [])
  | 3, some v =>
    if v.gen ≠ 0 then (s, 3, [])
    else if !v.members.all (fun w => w == thisWafer || v.shares.any (fun q => q.1 == w)) then (abortConvoy s p.id, 3, [])
    else if leaderOf v = some thisWafer then
      let (k, out, s') := wrapSecret s v
      (putConvoy s' { v with secret := k, gen := 1 }, 0, out)
    else
      match Config.kemOpen p.id rest with
      | some k => (putConvoy s { v with secret := k, gen := 1 }, 0, [])
      | none => (abortConvoy s p.id, 3, [])
  | _, _ => (abortConvoy s p.id, 3, [])

/-! ### Revocation (R410 to R412) -/

/-- The sealed contexts of a convoy. -/
def convoyCxs (s : State) (v : Convoy) : List Nat := (List.range 64).filter (fun c => (ctxAt s c).sealed && mget 0 s.trust.cxConvoy c == v.id)

/-- Lodestar kills a context with no one waiting for it. -/
def killByOrder (s : State) (c : Nat) : State :=
  let v := ctxAt s c
  if s.os.ops.any (fun o => o.cx == c && (o.kind == .kill || o.strand == byOrder)) then s
  else if (v.ov1 && v.ov2) || (findOp s c .reclaim).isSome then addOp .reclaim c 0 byOrder s
  else beginKill c noStrand s

/-- This wafer is revoked: its contexts of the convoy are killed, and secret and memory keys are erased; that it is out of the convoy stays, so that no context names it
and it does not form again (R412). -/
def leaveConvoy (s : State) (v : Convoy) : State :=
  let cs := convoyCxs s v
  let s := cs.foldl killByOrder s
  { s with trust := { s.trust with
      convoys := s.trust.convoys.map (fun w => if w.id = v.id then { w with secret := 0, shares := [], gone := true } else w)
      memKeys := s.trust.memKeys.filter (fun p => !cs.contains p.1) } }

/-- The hop of this wafer has chosen the backup of a wafer already (09 R271). -/
def backupChosen (s : State) (g wafer : Nat) : Bool := s.net.rdus.any (fun c => c.group == g && c.backup == some true && urPrev c.ring == wafer)

/-- A ring call that an order overtakes: replayed without being counted, or ended with REASON 8 where no backup of the revoked wafer stands in for it; nothing where the
backup has been chosen. A backup that this wafer cannot see is a free choice (R411, 09 R271, log 26). -/
def overtakeCall (s : State) (g wafer : Nat) : State :=
  if backupChosen s g wafer then s
  else if s.net.ringIn.any (fun p => p.group == g && p.backup == some wafer) then restartHere s g false
  else
    let (b, s) := freshBit s
    if b then restartHere s g false else endAbort s g 8

/-- The ring calls of some contexts whose ring names a wafer. -/
def overtaken (s : State) (cs : List Nat) (wafer : Nat) : List Nat :=
  ((s.net.rdus.filter (fun c => c.admitted)).map (·.group)).eraseDups.filter (fun g =>
    match treeRoot s g with
    | some r => let e := treeAt s r g; teRing e && cs.contains (teTag e).cx.toNat && urValid (ringOf s g r) && wafer != thisWafer
    | none => false)

/-- The peer copies of a tile to a wafer post WRITE with SUB 4 (R411). -/
def failPeerCopies (s : State) (a wafer : Nat) : State :=
  (agentAt s a).cp.table.foldl (fun s r =>
    if r.finished ∨ r.faulted then s
    else match regionOf false r.cmd.b.toNat with
      | .remVault n _ => if peerWafer n = some wafer then cpFault s a r 2 4 r.cmd.b else s
      | _ => s) s

/-- The order is passed on to every member on the ring's control frames (R410). -/
def forwardOrder (s : State) (v : Convoy) (order : List Byte) : State :=
  { s with trust := { s.trust with out := s.trust.out ++ (v.members.filter (· != thisWafer)).map (fun w => ⟨w, default, 0, 5, 0, order, 0⟩) } }

/-- Consortium keys that sign some bytes validly: entries of [key index] [signature]. -/
def validSigners (v : Convoy) (msg : List Byte) (es : List (List Byte)) : List Nat :=
  (es.filter (fun e => (v.keys[leNat (e.take 1)]?).any (fun k => Config.mldsaVerify k msg (e.drop 1)))).map (fun e => leNat (e.take 1))

/-- A revocation order of this model (log 26): convoy identity, wafer, new generation (8 bytes), [n] n × [key index, signature], and for a member that does not lead
the wrapped secret. Gives CODE and what the leader wraps (R410, R412). -/
def revoke (s : State) (order : List Byte) : State × Byte × List Byte :=
  let id := BitVec.ofNat 256 (leNat (order.take 32))
  let wafer := leNat ((order.drop 32).take 1)
  let gen := leNat ((order.drop 33).take 8)
  let n := leNat ((order.drop 41).take 1)
  match convoyById s id with
  | none => (s, 3, [])
  | some v =>
    let signers := validSigners v (order.take 41) (entries n (1 + sigBytes) (order.drop 42))
    if !belongs v ∨ signers.eraseDups.length < v.k then (s, 3, [])
    else if gen ≠ v.gen + 1 then (s, 0, [])
    else
      let s := forwardOrder s v order
      if wafer = thisWafer then (leaveConvoy s v, 0, [])
      else
        let v' := { v with revoked := v.revoked ++ [wafer], gen := gen, frames := 0 }
        let cs := convoyCxs s v
        let settle := fun (s : State) => (allTiles s).foldl (fun s a => failPeerCopies s a wafer) ((overtaken s cs wafer).foldl (fun s g => overtakeCall s g wafer) s)
        if leaderOf v' = some thisWafer then
          let (k, out, s') := wrapSecret s v'
          (settle (putConvoy s' { v' with secret := k }), 0, out)
        else
          match Config.kemOpen id (order.drop (42 + n * (1 + sigBytes))) with
          | some k => (settle (putConvoy s { v' with secret := k }), 0, [])
          | none => (s, 3, [])

/-! ### ATTEST (R405, 21 R453) -/

/-- A request of ATTEST with an OP waits at a port, and Lodestar or the ROM of a halted device is there to take it. -/
def attestReady (s : State) (port op : Nat) : Bool := port < 4 && (boxAt s (boxOf port true)).go && (boxAt s (boxOf port true)).op == op && s.boot.stage != 0

/-- The payload of a port's request. -/
def attestBody (s : State) (port : Nat) : List Byte := let b := boxAt s (boxOf port true); boxData b (min b.len boxBytes)

/-- CERTIFICATE_CHAIN. -/
def execCertificateChain (port : Nat) (s : State) : Host.Outcome State Fault Refusal :=
  .next (if attestReady s port 1 then acceptBox s (boxOf port true) 0 Config.certificates else s)

/-- ATTESTATION_REPORT: 32 bytes of nonce and a CXID (log 26). -/
def execAttestationReport (port : Nat) (s : State) : Host.Outcome State Fault Refusal :=
  let i := boxOf port true
  let b := attestBody s port
  if !attestReady s port 2 then .next s
  else if s.boot.stage = 7 then .next (acceptBox s i 3 [])
  else if b.length ≠ 33 then .next (acceptBox s i 2 [])
  else
    match attest s (b.take 32) (leNat (b.drop 32)) with
    | some r => .next (acceptBox s i 0 r)
    | none => .next (acceptBox s i 3 [])

/-- SIGNATURE_CHECK: message, public key, signature, in that order (log 26). -/
def execSignatureCheck (port : Nat) (s : State) : Host.Outcome State Fault Refusal :=
  let i := boxOf port true
  let b := attestBody s port
  if !attestReady s port 3 then .next s
  else if s.boot.stage = 7 then .next (acceptBox s i 3 [])
  else if b.length < keyBytes + sigBytes then .next (acceptBox s i 2 [])
  else
    let m := b.length - keyBytes - sigBytes
    .next (acceptBox s i (checkSig (b.take m) ((b.drop m).take keyBytes) (b.drop (m + keyBytes))) [])

/-- BOOTSTAT_READ (21 R459). -/
def execBootstatRead (port : Nat) (s : State) : Host.Outcome State Fault Refusal :=
  .next (if attestReady s port 4 then acceptBox s (boxOf port true) 0 (natBytes 8 (bootstat s).toNat) else s)

/-- CONVOY_FORMATION. -/
def execConvoyFormation (port : Nat) (s : State) : Host.Outcome State Fault Refusal :=
  if !attestReady s port 0x10 then .next s
  else if s.boot.stage = 7 then .next (acceptBox s (boxOf port true) 3 [])
  else let (s', code, out) := formConvoy s (attestBody s port); .next (acceptBox s' (boxOf port true) code out)

/-- REVOCATION_ORDER. -/
def execRevocationOrder (port : Nat) (s : State) : Host.Outcome State Fault Refusal :=
  if !attestReady s port 0x11 then .next s
  else if s.boot.stage = 7 then .next (acceptBox s (boxOf port true) 3 [])
  else let (s', code, out) := revoke s (attestBody s port); .next (acceptBox s' (boxOf port true) code out)

/-! ### Services of Lodestar to strands (16 R380, R381, R405, 22 R468) -/

/-- What Lodestar does with memory of the caller: it may fail, and the state keeps what its walks did (15 R363, R364). -/
abbrev Lode := ExceptT Unit (StateM State)

/-- n bytes in the space of the strand that asks: a context's VAs, as the TLB and the walkers of its tile's field give them, or a core's firmware map; fails where a byte
cannot be read. -/
def lodeRead (r : SvcReq) : Nat → Nat → Nat → Lode (List Byte)
  | 0, _, n => if n = 0 then pure [] else throw ()
  | f + 1, va, n => do
    if n = 0 then return []
    let m := min n (2 ^ 16 - va % 2 ^ 16)
    let k ← match r.tag with
      | none => if inModule va && inModule (va + m - 1) then pure va else throw ()
      | some t => do
        let (s', e) := prefetchPage (← get) r.agent t va false
        set s'
        match e with
        | some e => pure (leafKey e va)
        | none => throw ()
    let s ← get
    if poisoned s.mem k m then throw ()
    let rest ← lodeRead r f (va + m) (n - m)
    return (match r.tag with | some t => ctxBytes s t k m | none => readBytes s.mem k m) ++ rest

def lodeBytes (r : SvcReq) (va n : Nat) : Lode (List Byte) := lodeRead r (n / 2 ^ 16 + 2) va n

/-- A message in memory behind a word with its length (log 26). -/
def lodeMessage (r : SvcReq) (va : Nat) : Lode (List Byte) := do lodeBytes r (va + 8) (leNat (← lodeBytes r va 8))

/-- R468. -/
def lodeSignature (r : SvcReq) (va : Nat) : Lode Byte := do
  let b ← lodeBytes r va 32
  return checkSig (← lodeBytes r (wordAt b 0) (wordAt b 8)) (← lodeBytes r (wordAt b 16) keyBytes) (← lodeBytes r (wordAt b 24) sigBytes)

/-- Convoy formation or a revocation order from a message in memory. -/
def lodeOrder (r : SvcReq) (f : State → List Byte → State × Byte × List Byte) : Lode Byte := do
  let m ← lodeMessage r r.arg.toNat
  let (s', code, _) := f (← get) m
  set s'
  return code

/-- The CODE of a service; 3 where the caller's memory cannot be read. -/
def lodeCode (s : State) (x : Lode Byte) : State × Word :=
  match x.run.run s with
  | (.ok code, s') => (s', code.setWidth 64)
  | (.error _, s') => (s', 3)

/-- Lodestar's answer to a service request: the CODE, as R405 says; all ones for a service it does not have (R380, log 54). -/
def lodeAnswer (s : State) (r : SvcReq) : State × Word :=
  match r.service with
  | 1 => (s, 0)
  | 2 => lodeCode s (do return if (reportCx s (leNat ((← lodeBytes r r.arg.toNat 33).drop 32))).isSome then 0 else 3)
  | 3 => lodeCode s (lodeSignature r r.arg.toNat)
  | 4 => (s, 0)
  | 0x10 => lodeCode s (lodeOrder r formConvoy)
  | 0x11 => lodeCode s (lodeOrder r revoke)
  | _ => (s, BitVec.allOnes 64)

/-- SYSCALL_ANSWER: the answer of Lodestar, or of Chart's firmware, reaches the strand (R380). -/
def execSyscallAnswer (agent strand : Nat) (ans : Word) (s : State) : Host.Outcome State Fault Refusal :=
  match s.os.svc.find? (fun r => r.agent == agent && r.strand == strand) with
  | none => .next s
  | some r =>
    let (s', w) := if r.lode then lodeAnswer s r else (s, ans)
    .next (answerStrand { s' with os := { s'.os with svc := s'.os.svc.filter (fun q => q != r) } } agent strand w)

/-! ### Peer wafers (R399, R401, R409) -/

/-- A frame of a sealed context that does not authenticate is dropped and counted (R409). -/
def countAuthFail (s : State) : State := { s with trust := { s.trust with authFail := s.trust.authFail + 1 } }

/-- The plain text of a frame for a live context; none where it is dropped without authenticating. -/
def openFrame (s : State) (cx inc gen sender kind no : Nat) (cipher : List Byte) (tag : BitVec 128) : Option (List Byte) :=
  if !(ctxAt s cx).sealed then some cipher
  else
    match convoyOf s cx with
    | none => none
    | some v =>
      if gen ≠ v.gen ∨ v.revoked.contains sender then none
      else Config.gcmOpen (Config.kmac v.secret v.gen v.id) (frameNonce gen sender no)
        (frameHeader ⟨BitVec.ofNat 6 cx, BitVec.ofNat 12 inc⟩ gen sender thisWafer kind) cipher tag

/-- Bytes from another wafer land in the vault of the tile that has the name, and the barrier there is told (R401, 10 R287). Beside the state, the code and SUB of 06 R170
that the copying wafer posts: (0, 0) where they landed, none where a stale frame is dropped at the tile's NI (15 R353), (255, 0) for a poisoned barrier. -/
def landPeer (s : State) (t : Tag) (name offset : Nat) (data : List Byte) (bar : Option Nat) : State × Option (Nat × Nat) :=
  match physOfName s name with
  | none => (s, some (2, 4))
  | some p =>
    if staleAt s p (some t) then (s, none)
    else if !inRegion (ctxAt s t.cx.toNat).region name ∨ vaultBytes < offset + data.length then (s, some (2, 4))
    else
      let m := writeBytes s.mem (keyVault p offset) data
      match bar with
      | none => (setMem s m, some (0, 0))
      | some b =>
        let k := keyVault p b
        if b % 16 ≠ 0 ∨ vaultBytes < b + 16 then (setMem s m, some (4, 3))
        else if poisoned m k 16 then (setMem s m, some (255, 0))
        else
          let (c, m') := barUpdate m k false (-(data.length : Int))
          if c = 0 then (setMem s m', some (0, 0)) else (setMem s m, some (4, 1))

/-- A frame of a peer copy lands and is answered: the name, the copy's number, its piece, code and SUB (log 16). -/
def receiveCopy (s : State) (t : Tag) (sender : Nat) (b : List Byte) : State :=
  let bar := leNat ((b.drop 5).take 3)
  match landPeer s t (leNat (b.take 2)) (leNat ((b.drop 2).take 3)) (b.drop 20) (if bar = 0 then none else some (bar - 1)) with
  | (s, none) => s
  | (s, some (code, sub)) => sendFrame s t sender 6 (b.take 2 ++ (b.drop 8).take 12 ++ natBytes 1 code ++ natBytes 1 sub)

/-- The answer to a frame of a peer copy reaches the tile that copies. -/
def receiveAnswer (s : State) (t : Tag) (b : List Byte) : State :=
  match physOfName s (leNat (b.take 2)) with
  | none => s
  | some a =>
    match (agentAt s a).cp.table.find? (fun r => r.cmd.no == leNat ((b.drop 2).take 8)) with
    | none => s
    | some r => if staleAt s a (some t) then s else peerAnswer s a r (leNat ((b.drop 10).take 4)) (leNat ((b.drop 14).take 1)) (leNat ((b.drop 15).take 1))

/-- What a frame does here: a peer copy lands or is answered, or a ring call goes on, unless stale at the routers (R272, R401, 15 R353). -/
def deliverFrame (s : State) (t : Tag) (sender kind : Nat) (b : List Byte) : State :=
  if kind = 1 then receiveCopy s t sender b
  else if kind = 6 then receiveAnswer s t b
  else if staleAt s rduUnit (some t) then s
  else match kind with
    | 2 => ringPartial s sender b
    | 3 => ringResult s b
    | 4 => ringAbort s b
    | _ => s

/-- ULNENU_FRAME: a frame reaches the edge die; a stale one is dropped (R399, 15 R353), and one that does not authenticate is dropped and counted (R409). -/
def execUlnenuFrame (cx inc gen sender kind no : Nat) (cipher : List Byte) (tag : BitVec 128) (s : State) : Host.Outcome State Fault Refusal :=
  if kind = 5 then .next (revoke s cipher).1
  else if 64 ≤ cx ∨ 2 ^ 12 ≤ inc ∨ (ctxAt s cx).st = 0 ∨ staleAt s edgeUnit (some ⟨BitVec.ofNat 6 cx, BitVec.ofNat 12 inc⟩) then .next s
  else
    match openFrame s cx inc gen sender kind no cipher tag with
    | none => .next (countAuthFail s)
    | some b => .next (deliverFrame s ⟨BitVec.ofNat 6 cx, BitVec.ofNat 12 inc⟩ sender kind b)

/-- PEER_COPY_LANDING: bytes land, past the edge die; the links answer for them (log 16). -/
def execPeerCopyLanding (cx inc name offset : Nat) (data : List Byte) (bar : Option Nat) (s : State) : Host.Outcome State Fault Refusal :=
  .next (if 64 ≤ cx ∨ 2 ^ 12 ≤ inc ∨ (ctxAt s cx).st = 0 then s else (landPeer s ⟨BitVec.ofNat 6 cx, BitVec.ofNat 12 inc⟩ name offset data bar).1)

end Sys2Proof.Machine
end

