-- ==== Sys2Proof/Machine/Boot.lean ====
section
/-!
DEFINITION. Bring-up and service levels (21 R450 to R460): boot images, the stages, the service switch, lasers.
-/

namespace Sys2Proof.Machine

/-! ### Boot images (R450, R451) -/

/-- Flash slots: A and B of the Lodestar patch (KIND 1), then A and B of the Chart image (KIND 2). -/
def flashSlot (kind : Nat) (b : Bool) : Nat := 2 * (kind - 1) + (if b then 1 else 0)

/-- Bytes of a header. -/
def bootHeader : Nat := 0xD40

/-- An accepted image: SVN, COMMIT, and its bytes. -/
structure BootImage where
  svn    : Nat
  commit : Bool
  bytes  : List Byte
deriving DecidableEq, Repr

/-- The checks of R451 on a slot. -/
def readImage (s : State) (kind : Nat) (b : Bool) : Option BootImage :=
  let at' := fun (o n : Nat) => readBytes s.mem (keyFlash (flashSlot kind b) o) n
  let h := at' 0 bootHeader
  let f := fun (o n : Nat) => leNat ((h.drop o).take n)
  let len := f 8 4
  let body := at' bootHeader len
  if f 0 4 = 0x494D4147 ∧ f 4 2 = kind ∧ f 7 1 < 2 ∧ f 0xC 4 = 0 ∧ (h.drop 0xD1D).all (· == 0) ∧ 1 ≤ len ∧ len ≤ (if kind = 1 then 65536 else 2 ^ 30) ∧
    f 6 1 ≤ 64 ∧ s.boot.fuses.svn ≤ f 6 1 ∧ hashBytes (Config.sha3 body) = (h.drop 0x10).take 32 ∧ Config.sha3 Config.vendorKey = s.boot.fuses.keyHash ∧
    Config.mldsaVerify Config.vendorKey (h.take 0x30) ((h.drop 0x30).take sigBytes) = true then some ⟨f 6 1, f 7 1 = 1, h ++ body⟩
  else none

/-- Slot A, or else slot B: the image, and whether it came from B. -/
def loadImage (s : State) (kind : Nat) : Option (BootImage × Bool) :=
  match readImage s kind false with
  | some i => some (i, false)
  | none => (readImage s kind true).map (fun i => (i, true))

/-! ### The stages (R453 to R457) -/

def modBoot (s : State) (f : Boot → Boot) : State := { s with boot := f s.boot }

/-- A stage begins (R453, R459). -/
def enterStage (s : State) (n : BitVec 4) : State := modBoot s (fun b => { b with stage := n, tstage := s.env.ns / 1000000 })

def setCode (s : State) (c : BitVec 4) : State := modBoot s (fun b => { b with code := c })

/-- A binnacle core begins at privilege L; where, the spec does not say: a free value (log 30). -/
def startCore (s : State) (c : Nat) : State :=
  let (w, s) := freshWord s
  modAgent s (coreBase + c) (fun x => { x with strands := [(0, { strand0 with st := .ready, priv := 2, size := 56, pc := w &&& ~~~7 })] })

/-- Stage 1: the Chart image; both measurements, the anti-rollback counter and the cores (R452, R453). -/
def bootChart (s : State) (patch : BootImage) : State :=
  let s := modBoot (enterStage s 1) (fun b => { b with m1 := Config.sha3 patch.bytes })
  match loadImage s 2 with
  | none => setCode (enterStage s 7) 4
  | some (i, second) =>
    let s := if second then setCode s 3 else s
    let s := modBoot s (fun b => { b with
      m2 := Config.sha3 i.bytes
      fuses := if patch.commit then { b.fuses with svn := max b.fuses.svn (min patch.svn i.svn) } else b.fuses })
    enterStage ((List.range 8).foldl startCore s) 3

/-- POWER_GOOD: the ROM stage and Lodestar's, up to the start of the cores, or a halt (R453). -/
def execPowerGood (s : State) : Host.Outcome State Fault Refusal :=
  if s.env.powered ∧ s.boot.stage ≠ 0 then .next s
  else
    let s := { s with env := { s.env with powered := true } }
    let s := modBoot s (fun b => { b with m0 := b.fuses.romHash })
    match loadImage s 1 with
    | none => .next (setCode (enterStage s 7) 2)
    | some (i, second) => .next (bootChart (if second then setCode s 1 else s) i)

/-- A tile found dead by a self-test. -/
def markDead (s : State) (p : Nat) : State := modRow s (rowOf p) (fun v => { v with dead := v.dead ||| 1 <<< tileCol p })

/-- The tiles of a field. -/
def fieldTiles (f : Nat) : List Nat := (List.range 204).map (fun i => f * 204 + i)

/-- Every tile of a field is dead. -/
def fieldDead (s : State) (f : Nat) : Bool := (List.range 12).all (fun r => (rowAt s (f * 12 + r)).dead == BitVec.allOnes 17)

/-- SELF_TEST_OVERRUN: every tile of the field is dead (R454). -/
def execSelfTestOverrun (field : Nat) (s : State) : Host.Outcome State Fault Refusal :=
  .next (if s.boot.stage = 3 ∧ field < 48 then setCode ((fieldTiles field).foldl markDead s) 5 else s)

/-- SELF_TEST_END: the tiles found dead and the trims of the others; the full rebuild; pilot service with the lasers on (R453, R455, 22 R463). A trim is
(256 × tile + its number, value). -/
def execSelfTestEnd (dead : List Nat) (trims : List (Nat × Word)) (s : State) : Host.Outcome State Fault Refusal :=
  if s.boot.stage ≠ 3 then .next s
  else
    let s := (dead.filter (· < coreBase)).foldl markDead s
    let s := (trims.filter (fun t => t.1 < 256 * coreBase)).foldl (fun s t =>
      modAgent s (t.1 / 256) (fun x => { x with cfg := { x.cfg with words := mput x.cfg.words (0x200 + t.1 % 256) t.2 } })) s
    let s := enterStage (rebuild s) 4
    .next (modBoot s (fun b => { b with pilot := true, lasers := 0xFF, fields := (List.range 48).filter (fun f => !fieldDead s f) }))

/-- A field column that has a live laser unit (R460). -/
def columnLit (l : BitVec 8) (c : Nat) : Bool := l.getLsbD c || l.getLsbD ((c + 1) % 8)

/-- CALIBRATION_COMPLETE: every receiver that is not lost is LOCKED, and the switch up to FULL is due (R423, R457). -/
def execCalibrationComplete (s : State) : Host.Outcome State Fault Refusal :=
  if s.boot.stage ≠ 4 ∨ !s.boot.pilot ∨ s.boot.calibrated ∨ !(List.range 8).all (columnLit s.boot.lasers) then .next s
  else
    let s := mapAgents s (fun _ x => { x with rx := { x.rx with rcv := x.rx.rcv.map (fun p => (p.1, if p.2.st = .lost then p.2 else { p.2 with st := .locked })) } })
    .next (modBoot s (fun b => { b with calibrated := true, switch := some false }))

/-- CALIBRATION_OVERRUN: 120 s after power-good (R457). -/
def execCalibrationOverrun (s : State) : Host.Outcome State Fault Refusal := .next (if s.boot.stage = 4 ∧ !s.boot.calibrated then setCode s 6 else s)

/-! ### The service switch (R456, R458) -/

/-- The wafer has halted: clock and delivery path change, and the tiles go on (R456 steps 2 to 4). -/
def switchService (s : State) (toPilot : Bool) : State :=
  let s := enterStage (haltWafer s) (if toPilot then 4 else 6)
  let s := modBoot s (fun b => { b with pilot := toPilot, switch := none })
  resumeAll { s with rel := { s.rel with wave := none } }

/-- SERVICE_SWITCH: the switch that is due halts the wafer, and is made when it has drained (R456); a wave and a checkpoint come first (R458). -/
def execServiceSwitch (s : State) : Host.Outcome State Fault Refusal :=
  let k := s.rel.ckpt.st.toNat
  match s.boot.switch, s.rel.wave with
  | some _, none => .next (if 1 ≤ k ∧ k ≤ 4 then s else { s with rel := { s.rel with wave := some ⟨0, 0, 1, [], [], [], [], true⟩ } })
  | some p, some w => .next (if w.switch && allStopped s && allDrained s then switchService s p else s)
  | none, _ => .next s

/-! ### Lasers (R457, R460) -/

/-- LASER_UNIT_LOSS: the loss of both units of a column makes the switch down due. -/
def execLaserUnitLoss (u : Nat) (s : State) : Host.Outcome State Fault Refusal :=
  if 8 ≤ u ∨ !s.boot.lasers.getLsbD u then .next s
  else
    let l := s.boot.lasers &&& ~~~((1 : BitVec 8) <<< u)
    let dark := !(List.range 8).all (columnLit l)
    .next (modBoot s (fun b => { b with
      lasers := l, code := 7, calibrated := b.calibrated && !dark
      switch := if !dark then b.switch else if b.pilot then (if s.rel.wave.any (·.switch) then b.switch else none) else some true }))

/-- LASER_UNIT_RELIT. -/
def execLaserUnitRelit (u : Nat) (s : State) : Host.Outcome State Fault Refusal :=
  .next (if u < 8 ∧ (s.boot.stage = 4 ∨ s.boot.stage = 6) then modBoot s (fun b => { b with lasers := b.lasers ||| 1 <<< u }) else s)

end Sys2Proof.Machine
end

