-- ==== Sys2Proof/Machine/Control.lean ====
section
/-!
DEFINITION. Branches, strand end, yielding and software traps: MAJ 0x50 and 0x52 (04 R127 to R134).
-/

namespace Sys2Proof.Machine

/-- The PC of the current strand. -/
def curPc : Exec Word := reads (fun s => (cur s).pc)

/-- BranchTarget() (03 R87). -/
def branchTarget (off : BitVec 30) : Exec Word := do return (← curPc) + 8 * off.signExtend 64

/-- A computed target must be aligned before the branch retires (R128). -/
def alignedTarget (t : Word) : Exec Unit := if t.toNat % 8 ≠ 0 then trapAt cMISALIGN t 8 else pure ()

/-- BR (R127). -/
def execBr (g : Guard) (off : BitVec 30) (s : State) : Host.Outcome State Fault Refusal :=
  runWord s (scalar g [] (do return .jump (← branchTarget off)))

/-- BC (R127). -/
def execBc (g : Guard) (cond : BitVec 4) (a b : Reg) (off : BitVec 30) (s : State) : Host.Outcome State Fault Refusal :=
  runWord s (scalar g [] (do
    let x ← readReg a
    let y ← readReg b
    let t ← branchTarget off
    return if condHolds cond.toNat 64 x y then .jump t else .next))

/-- BP: z is COND, 0 for NZ and 1 for Z (R127). -/
def execBp (g : Guard) (z : BitVec 1) (pa : PReg) (off : BitVec 30) (s : State) : Host.Outcome State Fault Refusal :=
  runWord s (scalar g [] (do
    let n ← reads (fun s => predOf (cur s) pa)
    let t ← branchTarget off
    return if (n == 0) == (z == 1) then .jump t else .next))

/-- CALL writes the link, then jumps (R127). -/
def execCall (g : Guard) (a : Reg) (off : BitVec 30) (s : State) : Host.Outcome State Fault Refusal :=
  runWord s (scalar g [a] (do
    let t ← branchTarget off
    writeReg a ((← curPc) + 8)
    return .jump t))

/-- RET (R127, R128). -/
def execRet (g : Guard) (a : Reg) (s : State) : Host.Outcome State Fault Refusal :=
  runWord s (scalar g [] (do
    let t ← readReg a
    alignedTarget t
    return .jump t))

/-- JMPR (R127, R128). -/
def execJmpr (g : Guard) (a : Reg) (off : BitVec 30) (s : State) : Host.Outcome State Fault Refusal :=
  runWord s (scalar g [] (do
    let t := (← readReg a) + 8 * off.signExtend 64
    alignedTarget t
    return .jump t))

/-- LOOP decrements, taken or not (R127). -/
def execLoop (g : Guard) (a : Reg) (off : BitVec 30) (s : State) : Host.Outcome State Fault Refusal :=
  runWord s (scalar g [] (do
    let v ← reads (fun s => curReg s a.toNat - 1)
    let t ← branchTarget off
    modS (fun s => setCurReg s a.toNat v)
    return if v ≠ 0 then .jump t else .next))

/-- The commands a strand pushed that have not completed: queued, in the copy table, or in the MXE (01 R37). -/
def commandsLeft (x : Agent) (k : Nat) : Bool :=
  (strandOf x k).eng.mxq != [] || (strandOf x k).eng.cpq != [] ||
    x.cp.table.any (fun r => r.cmd.strand == k) || x.mx.runs.any (fun r => r.fired.isNone && r.cmd.strand == k)

/-- What an EXIT leaves of a strand (R131 steps 2, 4 and 5); the accesses SBAR recorded have been released. -/
def exitStrand (abandon : Bool) (x : Agent) (k : Nat) : Agent :=
  let t := strandOf x k
  let n := if abandon then t.eng.mxq.length + t.eng.cpq.length else 0
  let e := { t.eng with
    ccq := [], mcq := [], ceq := [], abandoned := t.eng.abandoned + n
    mxq := if abandon then [] else t.eng.mxq
    cpq := if abandon then [] else t.eng.cpq }
  let x := { x with strands := mput x.strands k { t with qb := [], eng := e } }
  let left := commandsLeft x k
  { x with strands := mput x.strands k { strandOf x k with st := if left then .draining else .inactive, mode := if left then 2 else 0, cause := none, reply := none, word := none, lastBranch := none, pc := t.pc + 8 } }

/-- EXIT (R131). -/
def execExit (g : Guard) (abandon : BitVec 1) (s : State) : Host.Outcome State Fault Refusal :=
  runWord s (scalar g [] (do
    raisePosted 4
    release 3
    modS (fun s => modCurAgent s (fun x => exitStrand (abandon = 1) x s.env.strand))
    return .keep))

/-- YIELD: the next issue choice of the core passes the strand over (R133). -/
def execYield (g : Guard) (s : State) : Host.Outcome State Fault Refusal :=
  runWord s (scalar g [] (do
    modS (fun s => modCur s (fun t => { t with yielded := true }))
    return .next))

/-- NOP (R130). -/
def execNop (g : Guard) (s : State) : Host.Outcome State Fault Refusal := runWord s (scalar g [] (pure .next))

/-- TRAP has retired: TPC is PC + 8 (R134). -/
def execTrap (g : Guard) (n : BitVec 34) (s : State) : Host.Outcome State Fault Refusal :=
  runWord s (scalar g [] (do
    let pc ← curPc
    fun _ => .error (.trap ⟨cSWTRAP, none, n.setWidth 64, some (pc + 8), 0, id, false⟩)))

/-- BREAK has not retired: TPC is its PC (R134). -/
def execBrk (g : Guard) (n : BitVec 34) (s : State) : Host.Outcome State Fault Refusal :=
  runWord s (scalar g [] (trapPc cBREAK (n.setWidth 64)))

end Sys2Proof.Machine
end

