-- ==== Sys2Proof/Machine/VectorMem.lean ====
section
/-!
DEFINITION. Vector loads and stores: MAJ 0x66 (05 R158 to R162).
-/

namespace Sys2Proof.Machine

/-- Element width in bits of a SIZE (R158). -/
def vsizeBits (size : BitVec 3) : Nat := match size.toNat with | 0 => 8 | 1 => 16 | _ => 32

/-- TINFO<21:16> holds the element's index (R160). -/
def elemInfo (e : Nat) : Nat := e * 2 ^ 16

/-- A vector load: the active elements of the addresses given, acquired as its order says, written to VT (R159 to R162). -/
def vload (fn : Nat) (vt : VReg) (size : BitVec 3) (o : Ord) (els : List (Nat × Word)) : Exec Ctl := do
  let w := vsizeBits size
  let vs ← loadElems els (w / 8) (w / 8) (o.ord = 0) elemInfo fn
  acquireIf (o.ord = 1) o.scope
  writeElems vt w vs
  return .next

/-- A vector store (R159 to R162). -/
def vstore (vt : VReg) (size : BitVec 3) (o : Ord) (els : List (Nat × Word)) : Exec Ctl := do
  let w := vsizeBits size
  let t ← reads cur
  storeElems (releaseIf (o.ord = 2) o.scope) (els.map (fun e => (e.1, e.2, velem t w vt e.1))) (w / 8) (w / 8) (o.ord = 0) elemInfo
  return .next

/-- The active elements with contiguous addresses (R159). Where the guard selects no element the ports named in BASE and IDX are popped all the same: 01 R25 spares a false
guard, which R27 defines for scalar words only (log 101). -/
def contiguous (g : Guard) (size : BitVec 3) (m : MemOp) : Exec (List (Nat × Word)) := do
  let a ← effectiveAddress m
  let t ← reads cur
  let w := vsizeBits size
  return (actives t g (512 / w)).map (fun e => (e, a + BitVec.ofNat 64 (e * (w / 8))))

/-- The active elements with strided addresses (R159). -/
def strided (g : Guard) (size : BitVec 3) (m : MemOp) : Exec (List (Nat × Word)) := do
  let b ← baseOf m.base
  let x ← baseOf m.idx
  let t ← reads cur
  return (actives t g (512 / vsizeBits size)).map (fun e => (e, b + m.disp.signExtend 64 + BitVec.ofNat 64 (e * 2 ^ m.scl.toNat) * x))

/-- The active elements with indexed addresses (R159). -/
def gathered (g : Guard) (size : BitVec 3) (base : Reg) (vi : VReg) (scl : BitVec 2) (disp : BitVec 18) : Exec (List (Nat × Word)) := do
  let b ← baseOf base
  let t ← reads cur
  let w := vsizeBits size
  return (actives t g (512 / w)).map (fun e => (e, b + disp.signExtend 64 + BitVec.ofNat 64 (velem t w vi e * 2 ^ scl.toNat)))

def execVld (g : Guard) (vt : VReg) (size : BitVec 3) (o : Ord) (m : MemOp) (s : State) : Host.Outcome State Fault Refusal :=
  runWord s (do vload 0 vt size o (← contiguous g size m))
def execVst (g : Guard) (vt : VReg) (size : BitVec 3) (o : Ord) (m : MemOp) (s : State) : Host.Outcome State Fault Refusal :=
  runWord s (do vstore vt size o (← contiguous g size m))
def execVlds (g : Guard) (vt : VReg) (size : BitVec 3) (o : Ord) (m : MemOp) (s : State) : Host.Outcome State Fault Refusal :=
  runWord s (do vload 3 vt size o (← strided g size m))
def execVsts (g : Guard) (vt : VReg) (size : BitVec 3) (o : Ord) (m : MemOp) (s : State) : Host.Outcome State Fault Refusal :=
  runWord s (do vstore vt size o (← strided g size m))
def execVgath (g : Guard) (vt : VReg) (size : BitVec 3) (o : Ord) (base : Reg) (vi : VReg) (scl : BitVec 2) (disp : BitVec 18) (s : State) :
    Host.Outcome State Fault Refusal :=
  runWord s (do vload 5 vt size o (← gathered g size base vi scl disp))
def execVscat (g : Guard) (vt : VReg) (size : BitVec 3) (o : Ord) (base : Reg) (vi : VReg) (scl : BitVec 2) (disp : BitVec 18) (s : State) :
    Host.Outcome State Fault Refusal :=
  runWord s (do vstore vt size o (← gathered g size base vi scl disp))

/-- VLDB: one element is loaded and written to every active element (R159). Its order applies to the whole instruction, also where no element is active (R162, log 102). -/
def execVldb (g : Guard) (vt : VReg) (size : BitVec 3) (o : Ord) (m : MemOp) (s : State) : Host.Outcome State Fault Refusal :=
  runWord s (do
    let a ← effectiveAddress m
    let t ← reads cur
    let w := vsizeBits size
    let es := actives t g (512 / w)
    match es with
    | [] =>
      acquireIf (o.ord = 1) o.scope
      return .next
    | e :: _ =>
      let vs ← loadElems [(e, a)] (w / 8) (w / 8) (o.ord = 0) elemInfo 7
      acquireIf (o.ord = 1) o.scope
      let v := (vs.head?.getD (0, 0)).2
      writeElems vt w (es.map (fun e => (e, v)))
      return .next)

/-- A computation whose trap counts as a failure and changes nothing. -/
def attempt {α : Type} (x : Exec α) : Exec (Option α) := fun s =>
  match x s with
  | .ok (a, s') => .ok (some a, s')
  | .error (.trap _) => .ok (none, s)
  | .error (.wait c f) => .error (.wait c f)

/-- What VLDFF's elements need: element 0 traps as a load does, the others never call Chart (R161). -/
def needFirst (e : Nat) : Need := { needLoad with extra := elemInfo e, quiet := e != 0 }

/-- The places of the elements up to the first that fails its checks; a failure of element 0 traps (R161). -/
def firstPlaces (n : Nat) : List (Nat × Word) → Exec (List (Nat × Word × Place))
  | [] => return []
  | (e, a) :: rest => do
    if e = 0 then
      let p ← checkAddr (needFirst e) a n
      return (e, a, p) :: (← firstPlaces n rest)
    else
      match ← attempt (checkAddr (needFirst e) a n) with
      | none => return []
      | some p => return (e, a, p) :: (← firstPlaces n rest)

/-- The elements read where the tile itself can, up to the first that fails; the last part is none when the home must be asked. -/
def firstReads (n : Nat) : List (Nat × Word × Place) → Exec (List ((Nat × Word × Place) × Option (Nat × Bool)))
  | [] => return []
  | q :: rest => do
    if q.1 = 0 then
      let v ← readHere (needFirst 0) 0 q.2.1 q.2.2 n true
      return (q, v) :: (← firstReads n rest)
    else
      match ← attempt (readHere (needFirst q.1) q.1 q.2.1 q.2.2 n true) with
      | none => return []
      | some v => return (q, v) :: (← firstReads n rest)

/-- VLDFF: loads up to the first failing element, whose index becomes the guard's count (R161). A poisoned element past the first counts as failing. -/
def execVldff (g : Guard) (vt : VReg) (size : BitVec 3) (m : MemOp) (s : State) : Host.Outcome State Fault Refusal :=
  runWord s (do
    let w := vsizeBits size
    let n := w / 8
    let els ← contiguous g size m
    behindSbar
    let ps ← firstPlaces n els
    let vs ← firstReads n ps
    match vs.filter (fun v => v.2.isNone) with
    | [] =>
      match vs.find? (fun v => v.1.1 == 0 && (v.2.getD (0, false)).2) with
      | some v => fun _ => .error (.trap ⟨cPOISON, some v.1.2.1, 0, none, 0, fun s => postPoison s s.env.agent (cur s).tag 0 v.1.2.2.key 2, false⟩)
      | none =>
        let good := vs.takeWhile (fun v => !(v.2.getD (0, false)).2)
        writeElems vt w (good.map (fun v => (v.1.1, (v.2.getD (0, false)).1)))
        modS dropFailedWalks
        if good.length < els.length then modS (fun s => modCur s (fun t => setPred t g.pg good.length))
        return .next
    | need => waitWith .response (fun s => sendReq (need.map (fun v => ⟨v.1.2.2.key, n, .read, 0, 0, v.1.1⟩)) true s))

end Sys2Proof.Machine
end

