-- ==== Sys2Proof/Machine/Dispatch.lean ====
section
/-!
DEFINITION. One arm for each instruction and event of the opcode table: its meaning, called directly.
-/

namespace Sys2Proof.Machine

/-- What an instruction or event does to the state. -/
def exec (i : Instr) (s : State) : Host.Outcome State Fault Refusal :=
  match i with
  | .add g d a b w u => Sys2Proof.Machine.execAdd g d a b w u s
  | .sub g d a b w u => Sys2Proof.Machine.execSub g d a b w u s
  | .mul g d a b w u => Sys2Proof.Machine.execMul g d a b w u s
  | .mulh g d a b w u => Sys2Proof.Machine.execMulh g d a b w u s
  | .div g d a b w u => Sys2Proof.Machine.execDiv g d a b w u s
  | .rem g d a b w u => Sys2Proof.Machine.execRem g d a b w u s
  | .and g d a b w u => Sys2Proof.Machine.execAnd g d a b w u s
  | .or g d a b w u => Sys2Proof.Machine.execOr g d a b w u s
  | .xor g d a b w u => Sys2Proof.Machine.execXor g d a b w u s
  | .andn g d a b w u => Sys2Proof.Machine.execAndn g d a b w u s
  | .shl g d a b w u => Sys2Proof.Machine.execShl g d a b w u s
  | .shr g d a b w u => Sys2Proof.Machine.execShr g d a b w u s
  | .sar g d a b w u => Sys2Proof.Machine.execSar g d a b w u s
  | .rot g d a b w u => Sys2Proof.Machine.execRot g d a b w u s
  | .min g d a b w u => Sys2Proof.Machine.execMin g d a b w u s
  | .max g d a b w u => Sys2Proof.Machine.execMax g d a b w u s
  | .clz g d a w u => Sys2Proof.Machine.execClz g d a w u s
  | .ctz g d a w u => Sys2Proof.Machine.execCtz g d a w u s
  | .popc g d a w u => Sys2Proof.Machine.execPopc g d a w u s
  | .bswap g d a w u => Sys2Proof.Machine.execBswap g d a w u s
  | .ext g d a len u => Sys2Proof.Machine.execExt g d a len u s
  | .bfx g d a pos len u => Sys2Proof.Machine.execBfx g d a pos len u s
  | .bfi g d a b pos len => Sys2Proof.Machine.execBfi g d a b pos len s
  | .sel g d a b c => Sys2Proof.Machine.execSel g d a b c s
  | .mov g d a => Sys2Proof.Machine.execMov g d a s
  | .cmp g pd a b cond w => Sys2Proof.Machine.execCmp g pd a b cond w s
  | .lea g d a b pos => Sys2Proof.Machine.execLea g d a b pos s
  | .addImm g d a imm => Sys2Proof.Machine.execAddImm g d a imm s
  | .subImm g d a imm => Sys2Proof.Machine.execSubImm g d a imm s
  | .mulImm g d a imm => Sys2Proof.Machine.execMulImm g d a imm s
  | .mulhImm g d a imm => Sys2Proof.Machine.execMulhImm g d a imm s
  | .divImm g d a imm => Sys2Proof.Machine.execDivImm g d a imm s
  | .remImm g d a imm => Sys2Proof.Machine.execRemImm g d a imm s
  | .andImm g d a imm => Sys2Proof.Machine.execAndImm g d a imm s
  | .orImm g d a imm => Sys2Proof.Machine.execOrImm g d a imm s
  | .xorImm g d a imm => Sys2Proof.Machine.execXorImm g d a imm s
  | .andnImm g d a imm => Sys2Proof.Machine.execAndnImm g d a imm s
  | .shlImm g d a n => Sys2Proof.Machine.execShlImm g d a n s
  | .shrImm g d a n => Sys2Proof.Machine.execShrImm g d a n s
  | .sarImm g d a n => Sys2Proof.Machine.execSarImm g d a n s
  | .rotImm g d a n => Sys2Proof.Machine.execRotImm g d a n s
  | .minImm g d a imm => Sys2Proof.Machine.execMinImm g d a imm s
  | .maxImm g d a imm => Sys2Proof.Machine.execMaxImm g d a imm s
  | .cmpImm g pd a cond imm => Sys2Proof.Machine.execCmpImm g pd a cond imm s
  | .leaImm g d a imm => Sys2Proof.Machine.execLeaImm g d a imm s
  | .movi g d imm => Sys2Proof.Machine.execMovi g d imm s
  | .movhi g d a imm => Sys2Proof.Machine.execMovhi g d a imm s
  | .fadd g d a b rm => Sys2Proof.Machine.execFadd g d a b rm s
  | .fsub g d a b rm => Sys2Proof.Machine.execFsub g d a b rm s
  | .fmul g d a b rm => Sys2Proof.Machine.execFmul g d a b rm s
  | .ffma g d a b c rm => Sys2Proof.Machine.execFfma g d a b c rm s
  | .fdiv g d a b rm => Sys2Proof.Machine.execFdiv g d a b rm s
  | .fsqrt g d a rm => Sys2Proof.Machine.execFsqrt g d a rm s
  | .fmin g d a b => Sys2Proof.Machine.execFmin g d a b s
  | .fmax g d a b => Sys2Proof.Machine.execFmax g d a b s
  | .fcmp g pd a b cond => Sys2Proof.Machine.execFcmp g pd a b cond s
  | .fcvt g d a rm sat dt st w64 => Sys2Proof.Machine.execFcvt g d a rm sat dt st w64 s
  | .fclass g d a => Sys2Proof.Machine.execFclass g d a s
  | .pset g pd count => Sys2Proof.Machine.execPset g pd count s
  | .plim g pd a b => Sys2Proof.Machine.execPlim g pd a b s
  | .pmin g pd pa pb => Sys2Proof.Machine.execPmin g pd pa pb s
  | .pmax g pd pa pb => Sys2Proof.Machine.execPmax g pd pa pb s
  | .prd g d pa => Sys2Proof.Machine.execPrd g d pa s
  | .grd g d a imm => Sys2Proof.Machine.execGrd g d a imm s
  | .gwr g d a imm => Sys2Proof.Machine.execGwr g d a imm s
  | .ld g t size o m => Sys2Proof.Machine.execLd g t size o m s
  | .st g t size o m => Sys2Proof.Machine.execSt g t size o m s
  | .ldp g t o m => Sys2Proof.Machine.execLdp g t o m s
  | .stp g t o m => Sys2Proof.Machine.execStp g t o m s
  | .amoadd g t base idx size o disp => Sys2Proof.Machine.execAmoadd g t base idx size o disp s
  | .amomin g t base idx uns size o disp => Sys2Proof.Machine.execAmomin g t base idx uns size o disp s
  | .amomax g t base idx uns size o disp => Sys2Proof.Machine.execAmomax g t base idx uns size o disp s
  | .amoand g t base idx size o disp => Sys2Proof.Machine.execAmoand g t base idx size o disp s
  | .amoor g t base idx size o disp => Sys2Proof.Machine.execAmoor g t base idx size o disp s
  | .amoxor g t base idx size o disp => Sys2Proof.Machine.execAmoxor g t base idx size o disp s
  | .amoswp g t base idx size o disp => Sys2Proof.Machine.execAmoswp g t base idx size o disp s
  | .amocas g t base idx size o disp => Sys2Proof.Machine.execAmocas g t base idx size o disp s
  | .amofadd g t base idx o disp => Sys2Proof.Machine.execAmofadd g t base idx o disp s
  | .fence g o => Sys2Proof.Machine.execFence g o s
  | .sbar g mask => Sys2Proof.Machine.execSbar g mask s
  | .br g off => Sys2Proof.Machine.execBr g off s
  | .bc g cond a b off => Sys2Proof.Machine.execBc g cond a b off s
  | .bp g z pa off => Sys2Proof.Machine.execBp g z pa off s
  | .call g a off => Sys2Proof.Machine.execCall g a off s
  | .ret g a => Sys2Proof.Machine.execRet g a s
  | .jmpr g a off => Sys2Proof.Machine.execJmpr g a off s
  | .loop g a off => Sys2Proof.Machine.execLoop g a off s
  | .exit g abandon => Sys2Proof.Machine.execExit g abandon s
  | .yield g => Sys2Proof.Machine.execYield g s
  | .nop g => Sys2Proof.Machine.execNop g s
  | .trap g n => Sys2Proof.Machine.execTrap g n s
  | .brk g n => Sys2Proof.Machine.execBrk g n s
  | .vadd g vd va vb et rm sat => Sys2Proof.Machine.execVadd g vd va vb et rm sat s
  | .vsub g vd va vb et rm sat => Sys2Proof.Machine.execVsub g vd va vb et rm sat s
  | .vmul g vd va vb et rm sat => Sys2Proof.Machine.execVmul g vd va vb et rm sat s
  | .vfma g vd va vb vc et rm sat => Sys2Proof.Machine.execVfma g vd va vb vc et rm sat s
  | .vfms g vd va vb vc et rm sat => Sys2Proof.Machine.execVfms g vd va vb vc et rm sat s
  | .vmin g vd va vb et => Sys2Proof.Machine.execVmin g vd va vb et s
  | .vmax g vd va vb et => Sys2Proof.Machine.execVmax g vd va vb et s
  | .vabs g vd va et sat => Sys2Proof.Machine.execVabs g vd va et sat s
  | .vneg g vd va et sat => Sys2Proof.Machine.execVneg g vd va et sat s
  | .vclamp g vd va vb vc et => Sys2Proof.Machine.execVclamp g vd va vb vc et s
  | .vexp2 g vd va et rm => Sys2Proof.Machine.execVexp2 g vd va et rm s
  | .vlog2 g vd va et rm => Sys2Proof.Machine.execVlog2 g vd va et rm s
  | .vrcp g vd va et rm => Sys2Proof.Machine.execVrcp g vd va et rm s
  | .vrsq g vd va et rm => Sys2Proof.Machine.execVrsq g vd va et rm s
  | .vtanh g vd va et rm => Sys2Proof.Machine.execVtanh g vd va et rm s
  | .verf g vd va et rm => Sys2Proof.Machine.execVerf g vd va et rm s
  | .vand g vd va vb et => Sys2Proof.Machine.execVand g vd va vb et s
  | .vor g vd va vb et => Sys2Proof.Machine.execVor g vd va vb et s
  | .vxor g vd va vb et => Sys2Proof.Machine.execVxor g vd va vb et s
  | .vnot g vd va et => Sys2Proof.Machine.execVnot g vd va et s
  | .vshl g vd va vb et imm => Sys2Proof.Machine.execVshl g vd va vb et imm s
  | .vshr g vd va vb et imm => Sys2Proof.Machine.execVshr g vd va vb et imm s
  | .vsar g vd va vb et imm => Sys2Proof.Machine.execVsar g vd va vb et imm s
  | .vmulh g vd va vb et => Sys2Proof.Machine.execVmulh g vd va vb et s
  | .vcmp g pd va vb et cond => Sys2Proof.Machine.execVcmp g pd va vb et cond s
  | .vsel g vd va vb et x => Sys2Proof.Machine.execVsel g vd va vb et x s
  | .vcvt g vd va et rm sat part st => Sys2Proof.Machine.execVcvt g vd va et rm sat part st s
  | .vmov g vd va et => Sys2Proof.Machine.execVmov g vd va et s
  | .vbcast g vd gs et => Sys2Proof.Machine.execVbcast g vd gs et s
  | .vext g gd va et ix => Sys2Proof.Machine.execVext g gd va et ix s
  | .vins g vd gs et ix => Sys2Proof.Machine.execVins g vd gs et ix s
  | .viota g vd gs et => Sys2Proof.Machine.execViota g vd gs et s
  | .vcond g x => Sys2Proof.Machine.execVcond g x s
  | .vshup g vd va et skew => Sys2Proof.Machine.execVshup g vd va et skew s
  | .vshdn g vd va et skew => Sys2Proof.Machine.execVshdn g vd va et skew s
  | .vrot g vd va et skew => Sys2Proof.Machine.execVrot g vd va et skew s
  | .vscan g vd va et rm sat op => Sys2Proof.Machine.execVscan g vd va et rm sat op s
  | .vred g vd va et rm sat op => Sys2Proof.Machine.execVred g vd va et rm sat op s
  | .vmaxi g vd va gi et => Sys2Proof.Machine.execVmaxi g vd va gi et s
  | .vperm g vd va vb et skew => Sys2Proof.Machine.execVperm g vd va vb et skew s
  | .vpack g vd va vb et rm sat => Sys2Proof.Machine.execVpack g vd va vb et rm sat s
  | .vunpk g vd va et h => Sys2Proof.Machine.execVunpk g vd va et h s
  | .vscale g vd va gs et rm sat inv => Sys2Proof.Machine.execVscale g vd va gs et rm sat inv s
  | .vqnt g vd va gs et rm h => Sys2Proof.Machine.execVqnt g vd va gs et rm h s
  | .vld g vt size o m => Sys2Proof.Machine.execVld g vt size o m s
  | .vst g vt size o m => Sys2Proof.Machine.execVst g vt size o m s
  | .vldff g vt size m => Sys2Proof.Machine.execVldff g vt size m s
  | .vlds g vt size o m => Sys2Proof.Machine.execVlds g vt size o m s
  | .vsts g vt size o m => Sys2Proof.Machine.execVsts g vt size o m s
  | .vgath g vt size o base vi scl disp => Sys2Proof.Machine.execVgath g vt size o base vi scl disp s
  | .vscat g vt size o base vi scl disp => Sys2Proof.Machine.execVscat g vt size o base vi scl disp s
  | .vldb g vt size o m => Sys2Proof.Machine.execVldb g vt size o m s
  | .mxcfg g f mode bank => Sys2Proof.Machine.execMxcfg g f mode bank s
  | .mxzero g bank => Sys2Proof.Machine.execMxzero g bank s
  | .mxldw g a sc kq wt buf => Sys2Proof.Machine.execMxldw g a sc kq wt buf s
  | .mxpass g a b mhalf at' asc zf nm1 buf bank => Sys2Proof.Machine.execMxpass g a b mhalf at' asc zf nm1 buf bank s
  | .mxarm g a b slot => Sys2Proof.Machine.execMxarm g a b slot s
  | .mxdisarm g slot => Sys2Proof.Machine.execMxdisarm g slot s
  | .mxdrain g a b c cs bank => Sys2Proof.Machine.execMxdrain g a b c cs bank s
  | .mxramp g n => Sys2Proof.Machine.execMxramp g n s
  | .mxwait g n => Sys2Proof.Machine.execMxwait g n s
  | .mxpert g a n m bank => Sys2Proof.Machine.execMxpert g a n m bank s
  | .mxstat g a bank => Sys2Proof.Machine.execMxstat g a bank s
  | .cpy g a b c cs ctslot ct => Sys2Proof.Machine.execCpy g a b c cs ctslot ct s
  | .cpy2d g a b c cs => Sys2Proof.Machine.execCpy2d g a b c cs s
  | .cpyg g a b c cs arr => Sys2Proof.Machine.execCpyg g a b c cs arr s
  | .cpys g a b c cs => Sys2Proof.Machine.execCpys g a b c cs s
  | .cpyf g a b c cs => Sys2Proof.Machine.execCpyf g a b c cs s
  | .cpym g a b c cs km1 => Sys2Proof.Machine.execCpym g a b c cs km1 s
  | .cpstat g a tag => Sys2Proof.Machine.execCpstat g a tag s
  | .cpwait g n => Sys2Proof.Machine.execCpwait g n s
  | .ctcfg g a b c slot => Sys2Proof.Machine.execCtcfg g a b c slot s
  | .wopen g a b c w => Sys2Proof.Machine.execWopen g a b c w s
  | .wadv g a cs w => Sys2Proof.Machine.execWadv g a cs w s
  | .wsync g a cs w => Sys2Proof.Machine.execWsync g a cs w s
  | .wclose g cs w => Sys2Proof.Machine.execWclose g cs w s
  | .binit g a p1 count => Sys2Proof.Machine.execBinit g a p1 count s
  | .bexp g a b => Sys2Proof.Machine.execBexp g a b s
  | .barv g a b scope exp => Sys2Proof.Machine.execBarv g a b scope exp s
  | .bwait g a b scope => Sys2Proof.Machine.execBwait g a b scope s
  | .btest g pc a b scope => Sys2Proof.Machine.execBtest g pc a b scope s
  | .qbind g a kind n => Sys2Proof.Machine.execQbind g a kind n s
  | .qstat g a n => Sys2Proof.Machine.execQstat g a n s
  | .snd g a b k => Sys2Proof.Machine.execSnd g a b k s
  | .sndv g a vb k => Sys2Proof.Machine.execSndv g a vb k s
  | .rdopen g a b c base all sat ty op => Sys2Proof.Machine.execRdopen g a b c base all sat ty op s
  | .rdcs g a b => Sys2Proof.Machine.execRdcs g a b s
  | .rdcb g a b c => Sys2Proof.Machine.execRdcb g a b c s
  | .rdres g a b cs rq => Sys2Proof.Machine.execRdres g a b cs rq s
  | .inj g a b => Sys2Proof.Machine.execInj g a b s
  | .injc g a b => Sys2Proof.Machine.execInjc g a b s
  | .wbhdr g va b => Sys2Proof.Machine.execWbhdr g va b s
  | .wbpop g a b => Sys2Proof.Machine.execWbpop g a b s
  | .wbrel g b => Sys2Proof.Machine.execWbrel g b s
  | .wdrive g a b c => Sys2Proof.Machine.execWdrive g a b c s
  | .wdstop g => Sys2Proof.Machine.execWdstop g s
  | .dsync g l => Sys2Proof.Machine.execDsync g l s
  | .darv g l => Sys2Proof.Machine.execDarv g l s
  | .dwait g l => Sys2Proof.Machine.execDwait g l s
  | .spawn g a b c base8 size8 k => Sys2Proof.Machine.execSpawn g a b c base8 size8 k s
  | .swait g k => Sys2Proof.Machine.execSwait g k s
  | .mfs g d num => Sys2Proof.Machine.execMfs g d num s
  | .mts g a num => Sys2Proof.Machine.execMts g a num s
  | .topo g d w => Sys2Proof.Machine.execTopo g d w s
  | .syscall g d a lode svc => Sys2Proof.Machine.execSyscall g d a lode svc s
  | .tqpush g d a lvl => Sys2Proof.Machine.execTqpush g d a lvl s
  | .tret g => Sys2Proof.Machine.execTret g s
  | .tqpop g d a lvl cx => Sys2Proof.Machine.execTqpop g d a lvl cx s
  | .tqdone g d a cx => Sys2Proof.Machine.execTqdone g d a cx s
  | .tqcancel g d a cx => Sys2Proof.Machine.execTqcancel g d a cx s
  | .tqresume g d lvl cx => Sys2Proof.Machine.execTqresume g d lvl cx s
  | .place g d a cx => Sys2Proof.Machine.execPlace g d a cx s
  | .cxnew g d sealed cx => Sys2Proof.Machine.execCxnew g d sealed cx s
  | .cxkill g d cx => Sys2Proof.Machine.execCxkill g d cx s
  | .cxreclaim g d cx => Sys2Proof.Machine.execCxreclaim g d cx s
  | .cxsave g d vlt lsall cx => Sys2Proof.Machine.execCxsave g d vlt lsall cx s
  | .cxload g d cx => Sys2Proof.Machine.execCxload g d cx s
  | .preempt g d cx => Sys2Proof.Machine.execPreempt g d cx s
  | .tlbinv g d a npg mode cx => Sys2Proof.Machine.execTlbinv g d a npg mode cx s
  | .nameinv g d a all => Sys2Proof.Machine.execNameinv g d a all s
  | .halt g d us => Sys2Proof.Machine.execHalt g d us s
  | .cfgw g d a => Sys2Proof.Machine.execCfgw g d a s
  | .recchk g d a => Sys2Proof.Machine.execRecchk g d a s
  | .cfgr g d a => Sys2Proof.Machine.execCfgr g d a s
  | .gtabw g d a grp => Sys2Proof.Machine.execGtabw g d a grp s
  | .ttabw g d a tree => Sys2Proof.Machine.execTtabw g d a tree s
  | .errinjWrite g a => Sys2Proof.Machine.execErrinjWrite g a s
  | .faultansWrite g a => Sys2Proof.Machine.execFaultansWrite g a s
  | .rowstateKill g a => Sys2Proof.Machine.execRowstateKill g a s
  | .remapstatRebuild g a => Sys2Proof.Machine.execRemapstatRebuild g a s
  | .ckptCheckpoint g a => Sys2Proof.Machine.execCkptCheckpoint g a s
  | .ckptRestore g a => Sys2Proof.Machine.execCkptRestore g a s
  | .strandStart task => Sys2Proof.Machine.execStrandStart task s
  | .commandCompletion agent strand cpe => Sys2Proof.Machine.execCommandCompletion agent strand cpe s
  | .copyLanding agent entry piece => Sys2Proof.Machine.execCopyLanding agent entry piece s
  | .drainStep agent => Sys2Proof.Machine.execDrainStep agent s
  | .windowFill agent entry => Sys2Proof.Machine.execWindowFill agent entry s
  | .triggeredPass agent => Sys2Proof.Machine.execTriggeredPass agent s
  | .passResultHeld agent run => Sys2Proof.Machine.execPassResultHeld agent run s
  | .rampUpEnd agent => Sys2Proof.Machine.execRampUpEnd agent s
  | .rampDownEnd agent => Sys2Proof.Machine.execRampDownEnd agent s
  | .rampGapExpiry agent => Sys2Proof.Machine.execRampGapExpiry agent s
  | .messageLanding msg => Sys2Proof.Machine.execMessageLanding msg s
  | .phaseRelease agent strand level peers => Sys2Proof.Machine.execPhaseRelease agent strand level peers s
  | .nameWalk agent name => Sys2Proof.Machine.execNameWalk agent name s
  | .linkRetry tile port fails => Sys2Proof.Machine.execLinkRetry tile port fails s
  | .routerLost tile fromInside => Sys2Proof.Machine.execRouterLost tile fromInside s
  | .callAdmission router group => Sys2Proof.Machine.execCallAdmission router group s
  | .partialCombine router group pos => Sys2Proof.Machine.execPartialCombine router group pos s
  | .rootRounding router group => Sys2Proof.Machine.execRootRounding router group s
  | .completionToken agent group => Sys2Proof.Machine.execCompletionToken agent group s
  | .callReplay group cause pos => Sys2Proof.Machine.execCallReplay group cause pos s
  | .calldlExpiry router group => Sys2Proof.Machine.execCalldlExpiry router group s
  | .ringHop group => Sys2Proof.Machine.execRingHop group s
  | .beaconRequest request => Sys2Proof.Machine.execBeaconRequest request s
  | .beaconSend group => Sys2Proof.Machine.execBeaconSend group s
  | .blockArrival group agent bad => Sys2Proof.Machine.execBlockArrival group agent bad s
  | .replayToken group => Sys2Proof.Machine.execReplayToken group s
  | .releaseCredit group => Sys2Proof.Machine.execReleaseCredit group s
  | .chainWalk group => Sys2Proof.Machine.execChainWalk group s
  | .branchCondition group => Sys2Proof.Machine.execBranchCondition group s
  | .markWrite group => Sys2Proof.Machine.execMarkWrite group s
  | .blockInvocation agent => Sys2Proof.Machine.execBlockInvocation agent s
  | .epilogueEnd agent => Sys2Proof.Machine.execEpilogueEnd agent s
  | .chainStopToken group => Sys2Proof.Machine.execChainStopToken group s
  | .chainEndUnit group agent => Sys2Proof.Machine.execChainEndUnit group agent s
  | .chainLeave agent => Sys2Proof.Machine.execChainLeave agent s
  | .tailObserved cx lvl => Sys2Proof.Machine.execTailObserved cx lvl s
  | .dependenceCounterZero task => Sys2Proof.Machine.execDependenceCounterZero task s
  | .taskPlacement cx => Sys2Proof.Machine.execTaskPlacement cx s
  | .prefetch task => Sys2Proof.Machine.execPrefetch task s
  | .taskRetirement task => Sys2Proof.Machine.execTaskRetirement task s
  | .watchdog task => Sys2Proof.Machine.execWatchdog task s
  | .killMarker cx checkpoint => Sys2Proof.Machine.execKillMarker cx checkpoint s
  | .killAcknowledgement cx => Sys2Proof.Machine.execKillAcknowledgement cx s
  | .orphan response => Sys2Proof.Machine.execOrphan response s
  | .reclaimMarker cx => Sys2Proof.Machine.execReclaimMarker cx s
  | .stopMarker agent => Sys2Proof.Machine.execStopMarker agent s
  | .preemptDrained cx => Sys2Proof.Machine.execPreemptDrained cx s
  | .tlbinvMarker op agent => Sys2Proof.Machine.execTlbinvMarker op agent s
  | .translationWalk walk => Sys2Proof.Machine.execTranslationWalk walk s
  | .translationTimeout token => Sys2Proof.Machine.execTranslationTimeout token s
  | .syscallAnswer agent strand ans => Sys2Proof.Machine.execSyscallAnswer agent strand ans s
  | .haltTimeout agent strand => Sys2Proof.Machine.execHaltTimeout agent strand s
  | .faultRecord core => Sys2Proof.Machine.execFaultRecord core s
  | .cxlMemRead port line => Sys2Proof.Machine.execCxlMemRead port line s
  | .cxlMemWrite port line data mask => Sys2Proof.Machine.execCxlMemWrite port line data mask s
  | .hostSnoop port addr data => Sys2Proof.Machine.execHostSnoop port addr data s
  | .mailboxGo port attest len op payload => Sys2Proof.Machine.execMailboxGo port attest len op payload s
  | .mgmtCommand port code answer => Sys2Proof.Machine.execMgmtCommand port code answer s
  | .certificateChain port => Sys2Proof.Machine.execCertificateChain port s
  | .attestationReport port => Sys2Proof.Machine.execAttestationReport port s
  | .signatureCheck port => Sys2Proof.Machine.execSignatureCheck port s
  | .bootstatRead port => Sys2Proof.Machine.execBootstatRead port s
  | .convoyFormation port => Sys2Proof.Machine.execConvoyFormation port s
  | .revocationOrder port => Sys2Proof.Machine.execRevocationOrder port s
  | .mailboxAnswer port attest => Sys2Proof.Machine.execMailboxAnswer port attest s
  | .ulnenuFrame cx inc gen sender kind no cipher tag => Sys2Proof.Machine.execUlnenuFrame cx inc gen sender kind no cipher tag s
  | .peerCopyLanding cx inc name offset data bar => Sys2Proof.Machine.execPeerCopyLanding cx inc name offset data bar s
  | .correctedError array unit => Sys2Proof.Machine.execCorrectedError array unit s
  | .uncorrectableError key => Sys2Proof.Machine.execUncorrectableError key s
  | .scrub key found => Sys2Proof.Machine.execScrub key found s
  | .hueDrift agent rcv => Sys2Proof.Machine.execHueDrift agent rcv s
  | .hueUnlock agent rcv => Sys2Proof.Machine.execHueUnlock agent rcv s
  | .hueRelock agent rcv => Sys2Proof.Machine.execHueRelock agent rcv s
  | .receiverLost agent rcv => Sys2Proof.Machine.execReceiverLost agent rcv s
  | .tileDeclaredDead tile => Sys2Proof.Machine.execTileDeclaredDead tile s
  | .shiftRemapWave row => Sys2Proof.Machine.execShiftRemapWave row s
  | .waveDrained => Sys2Proof.Machine.execWaveDrained s
  | .waveRepaired => Sys2Proof.Machine.execWaveRepaired s
  | .fullRebuild => Sys2Proof.Machine.execFullRebuild s
  | .checkpointQuiesced => Sys2Proof.Machine.execCheckpointQuiesced s
  | .checkpointCommit => Sys2Proof.Machine.execCheckpointCommit s
  | .checkpointFailed => Sys2Proof.Machine.execCheckpointFailed s
  | .powerGood => Sys2Proof.Machine.execPowerGood s
  | .selfTestEnd dead trims => Sys2Proof.Machine.execSelfTestEnd dead trims s
  | .selfTestOverrun field => Sys2Proof.Machine.execSelfTestOverrun field s
  | .calibrationComplete => Sys2Proof.Machine.execCalibrationComplete s
  | .calibrationOverrun => Sys2Proof.Machine.execCalibrationOverrun s
  | .serviceSwitch => Sys2Proof.Machine.execServiceSwitch s
  | .laserUnitLoss u => Sys2Proof.Machine.execLaserUnitLoss u s
  | .thermalThrottle field => Sys2Proof.Machine.execThermalThrottle field s
  | .throttleLift field => Sys2Proof.Machine.execThrottleLift field s
  | .thermalPowerDown field => Sys2Proof.Machine.execThermalPowerDown field s
  | .powerLoss => Sys2Proof.Machine.execPowerLoss s
  | .requestAtHome request => Sys2Proof.Machine.execRequestAtHome request s
  | .responseLanding response => Sys2Proof.Machine.execResponseLanding response s
  | .passEnd agent => Sys2Proof.Machine.execPassEnd agent s
  | .cxloadComplete cx => Sys2Proof.Machine.execCxloadComplete cx s
  | .cxsaveComplete cx => Sys2Proof.Machine.execCxsaveComplete cx s
  | .nameinvAcknowledgement => Sys2Proof.Machine.execNameinvAcknowledgement s
  | .checkpointRestoreComplete => Sys2Proof.Machine.execCheckpointRestoreComplete s
  | .contextFreed cx => Sys2Proof.Machine.execContextFreed cx s
  | .receiverRetune agent rcv => Sys2Proof.Machine.execReceiverRetune agent rcv s
  | .laserUnitRelit u => Sys2Proof.Machine.execLaserUnitRelit u s

end Sys2Proof.Machine
end

