-- ==== Sys2Proof/Machine/Fetch.lean ====
section
/-!
DEFINITION. Fetching the next instruction word of a strand and decoding it (03 R90 to R94, 04 R129, 10 R473, 11 R298), and one instruction of a strand.
-/

namespace Sys2Proof.Machine

/-- Lines of the instruction cache of a tile: 64 KiB of 64-byte lines (R94). -/
def icacheLines : Nat := 1024

/-- FETCH_FAULT at the PC, with the branch that went there in TPREV (R129). -/
def fetchFault {α : Type} (pc : Word) (info : Nat) : Exec α := fun s =>
  .error (.trap ⟨cFETCH, some pc, BitVec.ofNat 64 info, none, (cur s).lastBranch.getD 0, id, false⟩)

/-- POISON at a fetch (R129, 19 R418). -/
def fetchPoison {α : Type} (pc : Word) (key : Nat) : Exec α := fun s =>
  .error (.trap ⟨cPOISON, some pc, 0, none, (cur s).lastBranch.getD 0, fun s => postPoison s s.env.agent (cur s).tag 0 key 0, false⟩)

/-- The word at a home, as the strand's context reads it (18 R408). -/
def homeWord (s : State) (tag : Option Tag) (key : Nat) : Word :=
  BitVec.ofNat 64 (if plainTo s tag key then readNat s.mem key 8 else sealedRead s tag key 8)

/-- The word is read at its home. -/
def fetchHome (pc : Word) (key : Nat) : Exec Word := do
  let s ← getS
  if poisoned s.mem key 8 then fetchPoison pc key else return homeWord s (cur s).tag key

/-- A translation lets the current strand fetch (R94, 15 R363). -/
def mayFetch (s : State) (va : Nat) (e : TlbE) : Bool := leafX e.leaf && encOk s ((cur s).tag.getD default) e va

/-- Where the current strand would fetch an address from now, as the caches or the tables give it; none where a fill would fail. -/
def peekKey (s : State) (va : Nat) : Option Nat :=
  let t := (cur s).tag.getD default
  let e := match tlbFind s s.env.agent t va 4 false with
    | some e => some e
    | none => (walkNow s t va 4 false).2
  e.bind (fun e => if mayFetch s va e then some (leafKey e va) else none)

/-- A cached word, or the home's word where it has changed: either may be fetched (R93). -/
def fetchCached (va : Nat) (w : Word) : Exec Word := do
  let s ← getS
  match peekKey s va with
  | none => return w
  | some key =>
    let h := homeWord s (cur s).tag key
    if h = w ∨ poisoned s.mem key 8 then return w
    else
      let (b, s') := freshBit s
      modS (fun _ => s')
      return if b then h else w

/-- The line at a home, its poisoned words left out: a fill faults only the fetch that needed it (R94). -/
def icLineOf (s : State) (va key : Nat) : ICLine :=
  ⟨(cur s).tag, va / 64 * 64, (List.range 8).map (fun i =>
    let k := key / 64 * 64 + 8 * i
    if poisoned s.mem k 8 then none else some (homeWord s (cur s).tag k))⟩

/-- The line of the instruction cache that holds an address for a context. -/
def isLine (tag : Option Tag) (va : Nat) (e : ICLine) : Bool := e.tag == tag && e.va == va / 64 * 64

/-- A fill from the home, through a leaf that grants X (R94, 15 R363): the whole line is held from then on. -/
def fetchFill (pc : Word) (va : Nat) : Exec Word := do
  match ← translate va 4 false false with
  | none => fetchFault pc 2
  | some e =>
    let s ← getS
    if !mayFetch s va e then fetchFault pc 3
    let w ← fetchHome pc (leafKey e va)
    modS (fun s => modCurAgent s (fun x =>
      { x with icache := (icLineOf s va (leafKey e va) :: x.icache.filter (fun e => !isLine (cur s).tag va e)).take icacheLines }))
    return w

/-- The next instruction word of the current strand (R94); bits 2:0 of a PC are 0 (R78). -/
def fetchWord : Exec Word := do
  let s ← getS
  let pc := (cur s).pc &&& ~~~7
  match regionOf (isCore s.env.agent) pc.toNat with
  | .module k => fetchHome pc k
  | .virt va =>
    match (curAgent s).icache.find? (isLine (cur s).tag va) |>.bind (fun e => (e.words[va % 64 / 8]?).join) with
    | some w => fetchCached va w
    | none => fetchFill pc va
  | _ => fetchFault pc 1

/-- The words an epilogue may hold (11 R298). -/
def epilogueWord : Instr → Bool
  | .ld _ _ _ o _ => o.ord == 0
  | .st _ _ _ o _ => o.ord == 0
  | .ldp _ _ o _ => o.ord == 0
  | .stp _ _ o _ => o.ord == 0
  | .nop _ => true
  | i => [0x01, 0x21, 0x22, 0x03, 0x04, 0x05, 0x60, 0x61, 0x62, 0x63, 0x64, 0x65, 0x66].contains (fld (encode i) 56 8).toNat

/-- Decode for the current strand: its privilege, its allocation, and whether it runs an epilogue. -/
def decodeFor (s : State) (w : Word) : Except DecErr Instr :=
  match decode w (cur s).priv.toNat (cur s).size.toNat with
  | .error e => .error e
  | .ok i => if inEpilogue s s.env.agent s.env.strand && !epilogueWord i then .error ⟨false, 6, 56⟩ else .ok i

/-- The trap of a word that is no instruction (R91). -/
def decodeTrap (e : DecErr) : Trap :=
  ⟨if e.priv then cPRIVILEGE else cILLEGAL, none, BitVec.ofNat 64 (e.field * 2 ^ 10 + e.reason), none, 0, id, false⟩

/-- A fetched word runs. -/
def execWord (s : State) (w : Word) : Host.Outcome State Fault Refusal :=
  match decodeFor s w with
  | .ok i => exec i s
  | .error e => .next (takeTrap s (decodeTrap e))

/-- A strand that waits in its instruction keeps the word. -/
def keepWord (s : State) (w : Word) : State := modCur s (fun t => { t with word := some w })

/-- One instruction of the current strand: the word it waits in, or the next one fetched; decoded and executed. -/
def runStrand (s : State) : Host.Outcome State Fault Refusal :=
  match (cur s).word with
  | some w => execWord s w
  | none =>
    match fetchWord s with
    | .ok (w, s') => execWord (keepWord s' w) w
    | .error (.trap t) => .next (takeTrap s t)
    | .error (.wait c f) => .next (f (beginWait s c))

end Sys2Proof.Machine
end

