-- ==== Sys2Proof/Machine/Schedule.lean ====
section
/-!
DEFINITION. What can happen next: the issue choice of a core (01 R18, R133), strands that stop waiting (R17), the units that act on their own, and events from
outside. One of them is one step (log 3).
-/

namespace Sys2Proof.Machine

/-! ### Issue (01 R18, 04 R133) -/

/-- A strand can issue: it is READY, its last instruction has gone to its end, and it is not at the end of an epilogue. -/
def canIssue (s : State) (a k : Nat) (t : Strand) : Bool := t.st == .ready && t.reply.isNone && !(t.epiLeft == 0 && inEpilogue s a k)

/-- The strands that can issue, from the one after the last that did. -/
def issuable (s : State) (a : Nat) : List Nat :=
  let x := agentAt s a
  ((List.range 8).map (fun i => (x.last + 1 + i) % 8)).filter (fun k => (mget? x.strands k).any (canIssue s a k))

/-- The issue choice: round-robin, a strand that yielded being passed over where another can issue. -/
def issueChoice (s : State) (a : Nat) : Option Nat :=
  let l := issuable s a
  (l.find? (fun k => !(strandAt s a k).yielded)) <|> l.head?

/-- Strand k of an agent runs one instruction. -/
def runAt (s : State) (a k : Nat) : Host.Outcome State Fault Refusal := runStrand { s with env := { s.env with agent := a, strand := k } }

/-- An answer is on its way to a strand: a response, or the status of an operation. -/
def awaiting (s : State) (a k : Nat) : Bool :=
  s.net.reqs.any (fun r => r.wants && r.src == a && r.strand == k) || s.net.resps.any (fun r => r.wants && r.src == a && r.strand == k) ||
    s.os.ops.any (fun o => o.agent == a && o.strand == k)

/-- The bookkeeping of an issue. -/
def noteIssue (s : State) (a k : Nat) : State :=
  modAgent s a (fun x => { x with
    last := k, strands := x.strands.map (fun p => (p.1, { p.2 with yielded := false, hasRun := p.2.hasRun || p.1 == k })) })

/-- The instruction of a strand has not issued: it waits, with nothing of it done (R17, R24). -/
def stalled (s : State) (a k : Nat) : Bool := (strandAt s a k).st == .waiting && (strandAt s a k).reply.isNone && !awaiting s a k

/-- A core issues; an instruction that can only wait has not issued (R18, R24). -/
def issue (s : State) (a : Nat) : Host.Outcome State Fault Refusal :=
  match issueChoice s a with
  | none => .next s
  | some k =>
    match runAt (noteIssue s a k) a k with
    | .next t => if stalled t a k then runAt s a k else .next t
    | o => o

/-- A tile on which nothing more issues: it is stopped, or its task has failed (14 R340, 15 R369). -/
def halted (s : State) (a : Nat) : Bool := (agentAt s a).stopped || (taskOf s a).any (·.retire.isSome)

/-- A READY strand whose instruction has issued and now has what it waited for goes on with it, in no new issue slot (R18, R19). -/
def resume (s : State) (a k : Nat) : Host.Outcome State Fault Refusal :=
  let t := strandAt s a k
  if t.st = .ready ∧ t.reply.isSome then
    match runAt s a k with
    | .next s' => .next (if halted s' a then modStrand s' a k stopStrand else s')
    | o => o
  else .next s

/-! ### Waiting (R17) -/

/-- A WAITING strand made READY. -/
def wake (s : State) (a k : Nat) : State := modStrand s a k (fun t => { t with st := .ready, cause := none })

/-- Two states that differ in more than the model's bookkeeping. -/
def changes (s t : State) : Bool :=
  s.mem != t.mem || s.agents != t.agents || s.net != t.net || s.light != t.light || s.os != t.os || s.rel != t.rel || s.boot != t.boot || s.trust != t.trust

/-- The cause of a wait has cleared: the instruction, tried again, would do more than wait as it does. -/
def cleared (s : State) (a k : Nat) : Bool :=
  (strandAt s a k).st == .waiting && !awaiting s a k &&
    (match runAt (wake s a k) a k with
     | .next t => changes s t
     | _ => true)

/-! ### Events -/

/-- What may be the next step. Of its constructors the first four act for a strand or from outside, the next six move messages and packets on (09 R253 to
R264), and every other is an event of the opcode table that a unit of the wafer makes by itself. -/
inductive Ev where
  | issue (agent : Nat)
  | resume (agent strand : Nat)
  | wake (agent strand : Nat)
  | input
  | niSend (agent : Nat)
  | hopMsg (msg : Nat)
  | hopReq (request : Nat)
  | hopResp (response : Nat)
  | callSend (agent group : Nat)
  | callForward (router group : Nat)
  | powerGood
  | strandStart (task : Nat)
  | commandCompletion (agent strand : Nat) (cpe : Bool)
  | copyLanding (agent entry piece : Nat)
  | drainStep (agent : Nat)
  | windowFill (agent entry : Nat)
  | triggeredPass (agent : Nat)
  | passEnd (agent : Nat)
  | passResultHeld (agent run : Nat)
  | rampUpEnd (agent : Nat)
  | rampDownEnd (agent : Nat)
  | rampGapExpiry (agent : Nat)
  | messageLanding (msg : Nat)
  | phaseRelease (agent strand level : Nat)
  | nameWalk (agent name : Nat)
  | requestAtHome (request : Nat)
  | responseLanding (response : Nat)
  | orphan (response : Nat)
  | callAdmission (router group : Nat)
  | partialCombine (router group pos : Nat)
  | rootRounding (router group : Nat)
  | completionToken (agent group : Nat)
  | calldlExpiry (router group : Nat)
  | ringHop (group : Nat)
  | beaconRequest (request : Nat)
  | beaconSend (group : Nat)
  | blockArrival (group agent : Nat)
  | replayToken (group : Nat)
  | releaseCredit (group : Nat)
  | chainWalk (group : Nat)
  | branchCondition (group : Nat)
  | markWrite (group : Nat)
  | blockInvocation (agent : Nat)
  | epilogueEnd (agent : Nat)
  | chainStopToken (group : Nat)
  | chainEndUnit (group agent : Nat)
  | chainLeave (agent : Nat)
  | tailObserved (cx lvl : Nat)
  | dependenceCounterZero (task : Nat)
  | taskPlacement (cx : Nat)
  | prefetch (task : Nat)
  | taskRetirement (task : Nat)
  | watchdog (task : Nat)
  | killMarker (cx checkpoint : Nat)
  | killAcknowledgement (cx : Nat)
  | reclaimMarker (cx : Nat)
  | stopMarker (agent : Nat)
  | preemptDrained (cx : Nat)
  | cxsaveComplete (cx : Nat)
  | cxloadComplete (cx : Nat)
  | tlbinvMarker (op unit : Nat)
  | nameinvAcknowledgement
  | translationWalk (walk : Nat)
  | translationTimeout (token : Nat)
  | haltTimeout (agent strand : Nat)
  | syscallAnswer (agent strand : Nat)
  | faultRecord (core : Nat)
  | certificateChain (port : Nat)
  | attestationReport (port : Nat)
  | signatureCheck (port : Nat)
  | bootstatRead (port : Nat)
  | convoyFormation (port : Nat)
  | revocationOrder (port : Nat)
  | mailboxAnswer (port : Nat) (attest : Bool)
  | shiftRemapWave (row : Nat)
  | waveDrained
  | waveRepaired
  | fullRebuild
  | checkpointQuiesced
  | checkpointCommit
  | checkpointFailed
  | checkpointRestoreComplete
  | serviceSwitch
deriving DecidableEq, Repr

/-- The next event from outside; an instruction word is no event, and is dropped. -/
def takeInput (s : State) : Host.Outcome State Fault Refusal :=
  match s.env.inputs with
  | [] => .next s
  | i :: rest =>
    let s := { s with env := { s.env with inputs := rest } }
    if isEvent i then exec i s else .next s

/-- What an event does. -/
def Ev.run (e : Ev) (s : State) : Host.Outcome State Fault Refusal :=
  match e with
  | .issue a => Sys2Proof.Machine.issue s a
  | .resume a k => Sys2Proof.Machine.resume s a k
  | .wake a k => .next (Sys2Proof.Machine.wake s a k)
  | .input => takeInput s
  | .niSend a => .next (drainSend s a)
  | .hopMsg m => .next (Sys2Proof.Machine.hopMsg s m)
  | .hopReq r => .next (Sys2Proof.Machine.hopReq s r)
  | .hopResp r => .next (Sys2Proof.Machine.hopResp s r)
  | .callSend a g => .next (contributePacket s a g)
  | .callForward r g => .next (forwardPacket s r g)
  | .powerGood => execPowerGood s
  | .strandStart t => execStrandStart t s
  | .commandCompletion a k c => execCommandCompletion a k c s
  | .copyLanding a e p => execCopyLanding a e p s
  | .drainStep a => execDrainStep a s
  | .windowFill a e => execWindowFill a e s
  | .triggeredPass a => execTriggeredPass a s
  | .passEnd a => execPassEnd a s
  | .passResultHeld a r => execPassResultHeld a r s
  | .rampUpEnd a => execRampUpEnd a s
  | .rampDownEnd a => execRampDownEnd a s
  | .rampGapExpiry a => execRampGapExpiry a s
  | .messageLanding m => execMessageLanding m s
  | .phaseRelease a k l => execPhaseRelease a k l false s
  | .nameWalk a n => execNameWalk a n s
  | .requestAtHome r => execRequestAtHome r s
  | .responseLanding r => execResponseLanding r s
  | .orphan r => execOrphan r s
  | .callAdmission r g => execCallAdmission r g s
  | .partialCombine r g p => execPartialCombine r g p s
  | .rootRounding r g => execRootRounding r g s
  | .completionToken a g => execCompletionToken a g s
  | .calldlExpiry r g => execCalldlExpiry r g s
  | .ringHop g => execRingHop g s
  | .beaconRequest r => execBeaconRequest r s
  | .beaconSend g => execBeaconSend g s
  | .blockArrival g a => execBlockArrival g a false s
  | .replayToken g => execReplayToken g s
  | .releaseCredit g => execReleaseCredit g s
  | .chainWalk g => execChainWalk g s
  | .branchCondition g => execBranchCondition g s
  | .markWrite g => execMarkWrite g s
  | .blockInvocation a => execBlockInvocation a s
  | .epilogueEnd a => execEpilogueEnd a s
  | .chainStopToken g => execChainStopToken g s
  | .chainEndUnit g a => execChainEndUnit g a s
  | .chainLeave a => execChainLeave a s
  | .tailObserved c l => execTailObserved c l s
  | .dependenceCounterZero t => execDependenceCounterZero t s
  | .taskPlacement c => execTaskPlacement c s
  | .prefetch t => execPrefetch t s
  | .taskRetirement t => execTaskRetirement t s
  | .watchdog t => execWatchdog t s
  | .killMarker c u => execKillMarker c u s
  | .killAcknowledgement c => execKillAcknowledgement c s
  | .reclaimMarker c => execReclaimMarker c s
  | .stopMarker a => execStopMarker a s
  | .preemptDrained c => execPreemptDrained c s
  | .cxsaveComplete c => execCxsaveComplete c s
  | .cxloadComplete c => execCxloadComplete c s
  | .tlbinvMarker o u => execTlbinvMarker o u s
  | .nameinvAcknowledgement => execNameinvAcknowledgement s
  | .translationWalk w => execTranslationWalk w s
  | .translationTimeout t => execTranslationTimeout t s
  | .haltTimeout a k => execHaltTimeout a k s
  | .syscallAnswer a k => execSyscallAnswer a k 0 s
  | .faultRecord c => execFaultRecord c s
  | .certificateChain p => execCertificateChain p s
  | .attestationReport p => execAttestationReport p s
  | .signatureCheck p => execSignatureCheck p s
  | .bootstatRead p => execBootstatRead p s
  | .convoyFormation p => execConvoyFormation p s
  | .revocationOrder p => execRevocationOrder p s
  | .mailboxAnswer p t => execMailboxAnswer p t s
  | .shiftRemapWave r => execShiftRemapWave r s
  | .waveDrained => execWaveDrained s
  | .waveRepaired => execWaveRepaired s
  | .fullRebuild => execFullRebuild s
  | .checkpointQuiesced => execCheckpointQuiesced s
  | .checkpointCommit => execCheckpointCommit s
  | .checkpointFailed => execCheckpointFailed s
  | .checkpointRestoreComplete => execCheckpointRestoreComplete s
  | .serviceSwitch => execServiceSwitch s

/-! ### What may be enabled -/

/-- Pieces of a copy that may land next: in issue order, or any of the first eight left (log 15). -/
def nextPieces (r : CpRun) : List Nat :=
  if inOrder r.cmd then [r.landed.length]
  else ((List.range (r.landed.length + r.away.length + 8)).filter (fun i => !r.landed.contains i && !r.away.any (·.1 == i))).take 8

/-- Events of a tile. -/
def tileEvents (s : State) (a : Nat) (x : Agent) : List Ev :=
  (if x.cp.table = [] ∧ x.mx.runs = [] then [] else x.strands.flatMap (fun p => [.commandCompletion a p.1 false, .commandCompletion a p.1 true])) ++
  x.cp.table.zipIdx.flatMap (fun r => Ev.windowFill a r.2 :: (nextPieces r.1).map (fun i => .copyLanding a r.2 i)) ++
  (if x.mx.runs = [] then [] else [.drainStep a, .triggeredPass a, .passEnd a]) ++
  (List.range x.mx.runs.length).map (fun i => .passResultHeld a i) ++
  (if x.mx.arr = .cold then [] else [.rampUpEnd a, .rampDownEnd a, .rampGapExpiry a]) ++
  x.strands.flatMap (fun p => (p.2.arrived.filter (·.2)).map (fun l => .phaseRelease a p.1 l.1)) ++
  x.strands.flatMap (fun p => if p.2.st = .waiting ∧ p.2.cause = some .halt then [.haltTimeout a p.1] else []) ++
  x.ni.nwalks.map (fun n => .nameWalk a n) ++
  (if x.ni.sbuf = [] then [] else [.niSend a]) ++
  (x.strands.filter (fun p => p.2.reply.isSome)).map (fun p => .resume a p.1) ++
  (if x.rx.chain.isNone then [] else [.blockInvocation a, .epilogueEnd a, .chainLeave a]) ++
  (if s.os.ops = [] ∧ s.rel.wave.isNone ∧ s.rel.ckpt.st = 0 then [] else [.stopMarker a])

/-- Events of the mesh, the homes and the walkers. -/
def netEvents (s : State) : List Ev :=
  (List.range s.net.msgs.length).flatMap (fun i => [.hopMsg i, .messageLanding i]) ++
  (List.range s.net.reqs.length).flatMap (fun i => [.hopReq i, .requestAtHome i]) ++
  (List.range s.net.resps.length).flatMap (fun i => [.hopResp i, .responseLanding i, .orphan i]) ++
  s.net.trees.flatMap (fun p => [.callAdmission (p.1 / 512) (p.1 % 512), .rootRounding (p.1 / 512) (p.1 % 512), .calldlExpiry (p.1 / 512) (p.1 % 512)]) ++
  s.agents.flatMap (fun p => p.2.calls.map (fun c => .callSend p.1 c.group)) ++
  s.net.rdus.flatMap (fun c => [.partialCombine c.router c.group c.out.length, .callForward c.router c.group, .ringHop c.group]) ++
  s.net.tokens.map (fun t => .completionToken t.agent t.group) ++
  s.net.walks.zipIdx.flatMap (fun p => Ev.translationWalk p.2 :: (match p.1.token with | some t => [.translationTimeout t] | none => []))

/-- Events of the light. -/
def lightEvents (s : State) : List Ev :=
  (List.range s.light.pending.length).map .beaconRequest ++
  s.light.groups.flatMap (fun p => [.beaconSend p.1, .replayToken p.1, .releaseCredit p.1, .chainWalk p.1, .branchCondition p.1, .markWrite p.1, .chainStopToken p.1]) ++
  (s.light.flight.flatMap (fun f => [Ev.blockArrival f.group f.agent, .chainEndUnit f.group f.agent])).eraseDups

/-- Events of the TQU and of Lodestar. -/
def osEvents (s : State) : List Ev :=
  (s.os.ctxs.filter (fun p => p.2.st != 0)).flatMap (fun p => Ev.taskPlacement p.1 :: (List.range 4).map (fun l => .tailObserved p.1 l)) ++
  s.os.tasks.flatMap (fun t => [.strandStart t.id, .dependenceCounterZero t.id, .prefetch t.id, .taskRetirement t.id, .watchdog t.id]) ++
  s.os.ops.zipIdx.flatMap (fun o =>
    match o.1.kind with
    | .kill => Ev.killAcknowledgement o.1.cx :: (killUnits s).map (fun u => .killMarker o.1.cx u)
    | .reclaim => [.reclaimMarker o.1.cx]
    | .preempt => [.preemptDrained o.1.cx]
    | .save _ _ => [.cxsaveComplete o.1.cx]
    | .load => [.cxloadComplete o.1.cx]
    | .tlbinv .. => (tlbUnits s).map (fun u => .tlbinvMarker o.2 u)
    | .nameinv .. => [.nameinvAcknowledgement]
    | .resume => []) ++
  (s.os.svc.filter (·.lode)).map (fun r => .syscallAnswer r.agent r.strand)

/-- Events of fault handling, repair, checkpoints, mailboxes and boot. -/
def hourEvents (s : State) : List Ev :=
  (if s.boot.stage = 0 then [.powerGood] else []) ++
  (List.range 8).map .faultRecord ++
  s.trust.boxes.flatMap (fun p =>
    [.certificateChain (p.1 / 2), .attestationReport (p.1 / 2), .signatureCheck (p.1 / 2), .bootstatRead (p.1 / 2), .convoyFormation (p.1 / 2),
     .revocationOrder (p.1 / 2), .mailboxAnswer (p.1 / 2) (p.1 % 2 == 1)]) ++
  (match s.rel.wave with
   | some w => [.shiftRemapWave w.row, .waveDrained, .waveRepaired]
   | none => (match firstPending s with | some r => [.shiftRemapWave r] | none => [])) ++
  (if s.rel.rebuild then [.fullRebuild] else []) ++
  (if s.rel.ckpt.st = 0 then [] else [.checkpointQuiesced, .checkpointCommit, .checkpointRestoreComplete]) ++
  (if s.rel.ckpt.bad then [.checkpointFailed] else []) ++
  (if s.boot.switch.isSome then [.serviceSwitch] else [])

/-- Events that may be enabled; every one that is enabled is here. -/
def nominal (s : State) : List Ev :=
  s.agents.flatMap (fun p => tileEvents s p.1 p.2) ++ netEvents s ++ lightEvents s ++ osEvents s ++ hourEvents s

/-- An event of a unit is enabled where it does something. -/
def enabled (s : State) (e : Ev) : Bool :=
  match e.run s with
  | .next t => changes s t
  | _ => true

/-- Records that the fault mailbox of a tile holds (19 R426). -/
def mailboxCap : Nat := 16

/-- From s to t, a mailbox that held records has taken more than it has room for. -/
def overfills (s t : State) : Bool :=
  s.agents.any (fun p => p.2.ni.fbox != [] && p.2.ni.fbox.length < (agentAt t p.1).ni.fbox.length && mailboxCap < (agentAt t p.1).ni.fbox.length)

/-- A unit whose record finds the fault mailbox of its tile full waits until it has room (19 R426, log 39). -/
def mailboxWaits (s : State) (e : Ev) : Bool :=
  s.agents.any (fun p => p.2.ni.fbox != []) &&
    (match e.run s with
     | .next t => overfills s t
     | _ => false)

/-- What can happen, but for full fault mailboxes. -/
def offered (s : State) : List Ev :=
  (s.agents.filter (fun p => issuable s p.1 != [])).map (fun p => .issue p.1) ++
  s.agents.flatMap (fun p => (p.2.strands.filter (fun q => cleared s p.1 q.1)).map (fun q => .wake p.1 q.1)) ++
  (nominal s).filter (enabled s) ++
  (if s.env.inputs = [] then [] else [.input])

/-- Everything that can happen next. -/
def candidates (s : State) : List Ev := (offered s).filter (fun e => !mailboxWaits s e)

/-- The choice among several, as a free value (log 3). -/
def choose (s : State) : List Ev → Option Ev
  | [] => none
  | [e] => some e
  | l => l[Config.freeNat s.env.fresh % l.length]?

/-- Time passes: some tc and some ns, as free values (log 4). -/
def tick (s : State) : State :=
  { s with env := { s.env with
      fresh := s.env.fresh + 3, tc := s.env.tc + Config.freeNat (s.env.fresh + 1), ns := s.env.ns + Config.freeNat (s.env.fresh + 2) } }

/-- The module has no power: the next POWER_GOOD starts it, and every other event from outside is lost (20 R448, 21 R453). -/
def darkStep (s : State) : Host.Outcome State Fault Refusal :=
  match s.env.inputs with
  | [] => .fault .noPower
  | .powerGood :: rest => execPowerGood { s with env := { s.env with inputs := rest } }
  | _ :: rest => .next { s with env := { s.env with inputs := rest } }

end Sys2Proof.Machine
end

