-- ==== Sys2Proof/Machine/Step.lean ====
section
/-!
DEFINITION. One step of the machine, and the state in which its next step runs a given instruction (log 7).
-/

namespace Sys2Proof.Machine

/-- One step: time passes and one of the things that can happen next happens (log 3); where nothing can, time passes. Without power only POWER_GOOD acts. -/
def step (s : State) : Host.Outcome State Fault Refusal :=
  if s.env.powered then
    match choose s (candidates s) with
    | some e => e.run (tick s)
    | none => .next (tick s)
  else darkStep s

/-! ### Placing an instruction -/

/-- Where the next step would fetch: the agent, its strand, and the key of the word. -/
def fetchPlace (s : State) : Option (Nat × Nat × Nat) :=
  if !s.env.powered then none
  else
    match choose s (candidates s) with
    | some (.issue a) =>
      (issueChoice s a).bind (fun k =>
        let t := strandAt s a k
        match regionOf (isCore a) t.pc.toNat with
        | .module key => some (a, k, key)
        | .virt va => (tlbFind s a (t.tag.getD default) va 4 false).bind (fun e => if leafX e.leaf then some (a, k, leafKey e va) else none)
        | _ => none)
    | _ => none

/-- A word stored where a strand fetches it, no older copy of it left. -/
def placeWord (s : State) (a k key : Nat) (w : Word) : State :=
  let s := modAgent (setMem s (writeWord s.mem key w)) a (fun x => { x with icache := [] })
  modStrand s a k (fun t => { t with word := none })

/-- Module address 64 KiB, where the word of a machine without a program is put. -/
def loadKey : Nat := 0x10000
/-- The virtual address it has there. -/
def loadVa : Nat := 2 ^ 48
/-- A leaf of 64 KiB at that address with X. -/
def loadLeaf : Word := 0x10129

/-- A READY strand with the largest allocation. -/
def loadStrand (priv : BitVec 2) (tag : Option Tag) (pc : Nat) : Strand :=
  { strand0 with st := .ready, priv := priv, tag := tag, size := 56, pc := BitVec.ofNat 64 pc }

/-- Binnacle core 0 with a strand of privilege L at the word. -/
def loadCore (s : State) : State := modAgent s coreBase (fun x => { x with strands := [(0, loadStrand 2 none loadKey)] })

/-- Tile 0 with name 0 and a strand of privilege U at the word, in context 0, whose translation the tile holds. -/
def loadTile (s : State) : State :=
  let s := modCtx s 0 (fun v => { v with st := 1 })
  let t := liveTag s 0
  modAgent s 0 (fun x => { x with
    name := some 0, strands := [(0, loadStrand 0 (some t) loadVa)], tlb := ⟨t, loadVa, 4, loadLeaf⟩ :: x.tlb, stopped := false })

/-- A state whose next step fetches and runs the instruction with bits w. Where the next step of s fetches, the word is stored there; where s has no program,
as after reset, it stands for the boot, the placement of a task and its dispatch: stage 4, one READY strand at the word, on a binnacle core for
words of class S and L and on a tile for the others (log 7). -/
def State.withFetchWord (s : State) (nbits w : Nat) : State :=
  let word : Word := BitVec.ofNat 64 (w % 2 ^ Nat.min nbits 64)
  match fetchPlace s with
  | some (a, k, key) => placeWord s a k key word
  | none =>
    let s := { s with env := { s.env with powered := true, inputs := [] }, boot := { s.boot with stage := 4 }, mem := writeWord s.mem loadKey word }
    let maj := (word.extractLsb' 56 8).toNat
    if maj = 0xC1 ∨ maj = 0xC2 then loadCore s else loadTile s

end Sys2Proof.Machine
end

