-- ==== Sys2Proof/Safety.lean ====
section
/-!
DEFINITION. Runs, and what counts as a safe one: a run of some steps that no fault and no refusal stops.
-/

namespace Sys2Proof

/-- The state after n steps, where every one of them had a next state. -/
def runsTo (n : Nat) (s : Machine.State) : Option Machine.State :=
  match core.run n s with
  | .next t => some t
  | .fault _ => none
  | .refused _ => none

/-- A run of n steps from s that nothing stops. -/
def safeRun (n : Nat) (s : Machine.State) : Prop := (runsTo n s).isSome

/-- One step leads from s to t. -/
def stepsTo (s t : Machine.State) : Prop := Machine.step s = .next t

end Sys2Proof
end

