-- ==== Sys2Proof/Certificates/Slice0/Obligations.lean ====
section
/-!
DEFINITION. The statements that the provers settle, and the vocabulary they are written in. Where a statement says that exec of an instruction is
`.next (retire t .next)`, the instruction has had its effect, the state with it is t, and the PC moves on.
-/

namespace Sys2Proof.Spec

open Sys2Proof.Machine

/-! ### Operands -/

/-- Source fields read one after another, in the order of 01 R24: their values, and the state after the pops of ports among them. -/
def readsAll : List Reg → State → List Word → State → Prop
  | [], s, vs, t => vs = [] ∧ t = s
  | r :: rs, s, vs, t => ∃ v ws u, readReg r s = .ok (v, u) ∧ readsAll rs u ws t ∧ vs = v :: ws

/-- The field names a general register and no queue port (01 R22). -/
abbrev isG (r : Reg) : Prop := r.toNat < 56

/-- An instruction that computes one value and writes it to D: guard, D, sources, and the value from the strand and the sources. -/
structure ScalarForm where
  g : Guard
  d : Reg
  srcs : List Reg
  f : Strand → List Word → Word

/-- Where the guard lets the instruction execute, D can take a value and the sources give theirs, the instruction retires with f of them in D. -/
def computes (i : Instr) (x : ScalarForm) : Prop :=
  ∀ s s0 s1 t vs, executes (cur s) x.g = true → checkDst x.d s = .ok ((), s0) → readsAll x.srcs s0 vs s1 → writeReg x.d (x.f (cur s) vs) s1 = .ok ((), t) →
    exec i s = .next (retire t .next)

/-- With general registers only, the value goes to D's register. -/
def computesG (i : Instr) (x : ScalarForm) : Prop :=
  isG x.d → (∀ r ∈ x.srcs, isG r) → ∀ s, executes (cur s) x.g = true →
    exec i s = .next (retire (setCurReg s x.d.toNat (x.f (cur s) (x.srcs.map (fun r => curReg s r.toNat)))) .next)

/-! ### Integer arithmetic (04 R105 to R110) -/

/-- A function of two operands at the width W32 chooses, its result extended by UNS (R105). -/
def binary (w u : BitVec 1) (f : (n : Nat) → BitVec n → BitVec n → BitVec n) : List Word → Word
  | [x, y] =>
    if w = 1 then
      let r := f 32 (x.setWidth 32) (y.setWidth 32)
      if u = 1 then r.setWidth 64 else r.signExtend 64
    else f 64 x y
  | _ => 0

/-- The same with one operand. -/
def unary (w u : BitVec 1) (f : (n : Nat) → BitVec n → BitVec n) : List Word → Word
  | [x] => binary w u (fun n a _ => f n a) [x, x]
  | _ => 0

/-- The immediate form: 64 bits, signed operands, b the immediate (R109). -/
def withImm (b : Word) (f : (n : Nat) → BitVec n → BitVec n → BitVec n) : List Word → Word
  | [x] => f 64 x b
  | _ => 0

def mulhOp (u : BitVec 1) (n : Nat) (a b : BitVec n) : BitVec n :=
  if u = 1 then BitVec.ofNat n (a.toNat * b.toNat / 2 ^ n) else BitVec.ofInt n (a.toInt * b.toInt / 2 ^ n)
/-- R107: all ones for b = 0, otherwise rounded toward zero; the one signed overflow wraps to itself. -/
def divOp (u : BitVec 1) (n : Nat) (a b : BitVec n) : BitVec n :=
  if b = 0 then BitVec.allOnes n else if u = 1 then BitVec.ofNat n (a.toNat / b.toNat) else BitVec.ofInt n (a.toInt.tdiv b.toInt)
/-- R107: a for b = 0, otherwise a - b × quotient. -/
def remOp (u : BitVec 1) (n : Nat) (a b : BitVec n) : BitVec n :=
  if b = 0 then a else if u = 1 then BitVec.ofNat n (a.toNat % b.toNat) else BitVec.ofInt n (a.toInt - b.toInt * a.toInt.tdiv b.toInt)
def minOp (u : BitVec 1) (n : Nat) (a b : BitVec n) : BitVec n :=
  if u = 1 then (if a.toNat ≤ b.toNat then a else b) else if a.toInt ≤ b.toInt then a else b
def maxOp (u : BitVec 1) (n : Nat) (a b : BitVec n) : BitVec n :=
  if u = 1 then (if b.toNat ≤ a.toNat then a else b) else if b.toInt ≤ a.toInt then a else b

/-- The instructions of FN 0 to 15 of MAJ 0x01 and 0x21 with the functions of R106 and R107. -/
def arithForm : Instr → Option ScalarForm
  | .add g d a b w u => some ⟨g, d, [a, b], fun _ => binary w u (fun _ x y => x + y)⟩
  | .sub g d a b w u => some ⟨g, d, [a, b], fun _ => binary w u (fun _ x y => x - y)⟩
  | .mul g d a b w u => some ⟨g, d, [a, b], fun _ => binary w u (fun _ x y => x * y)⟩
  | .mulh g d a b w u => some ⟨g, d, [a, b], fun _ => binary w u (mulhOp u)⟩
  | .div g d a b w u => some ⟨g, d, [a, b], fun _ => binary w u (divOp u)⟩
  | .rem g d a b w u => some ⟨g, d, [a, b], fun _ => binary w u (remOp u)⟩
  | .and g d a b w u => some ⟨g, d, [a, b], fun _ => binary w u (fun _ x y => x &&& y)⟩
  | .or g d a b w u => some ⟨g, d, [a, b], fun _ => binary w u (fun _ x y => x ||| y)⟩
  | .xor g d a b w u => some ⟨g, d, [a, b], fun _ => binary w u (fun _ x y => x ^^^ y)⟩
  | .andn g d a b w u => some ⟨g, d, [a, b], fun _ => binary w u (fun _ x y => x &&& ~~~y)⟩
  | .shl g d a b w u => some ⟨g, d, [a, b], fun _ => binary w u (fun n x y => x <<< (y.toNat % n))⟩
  | .shr g d a b w u => some ⟨g, d, [a, b], fun _ => binary w u (fun n x y => x >>> (y.toNat % n))⟩
  | .sar g d a b w u => some ⟨g, d, [a, b], fun _ => binary w u (fun n x y => x.sshiftRight (y.toNat % n))⟩
  | .rot g d a b w u => some ⟨g, d, [a, b], fun _ => binary w u (fun n x y => x.rotateLeft (y.toNat % n))⟩
  | .min g d a b w u => some ⟨g, d, [a, b], fun _ => binary w u (minOp u)⟩
  | .max g d a b w u => some ⟨g, d, [a, b], fun _ => binary w u (maxOp u)⟩
  | .addImm g d a i => some ⟨g, d, [a], fun _ => withImm (i.signExtend 64) (fun _ x y => x + y)⟩
  | .subImm g d a i => some ⟨g, d, [a], fun _ => withImm (i.signExtend 64) (fun _ x y => x - y)⟩
  | .mulImm g d a i => some ⟨g, d, [a], fun _ => withImm (i.signExtend 64) (fun _ x y => x * y)⟩
  | .mulhImm g d a i => some ⟨g, d, [a], fun _ => withImm (i.signExtend 64) (mulhOp 0)⟩
  | .divImm g d a i => some ⟨g, d, [a], fun _ => withImm (i.signExtend 64) (divOp 0)⟩
  | .remImm g d a i => some ⟨g, d, [a], fun _ => withImm (i.signExtend 64) (remOp 0)⟩
  | .andImm g d a i => some ⟨g, d, [a], fun _ => withImm (i.signExtend 64) (fun _ x y => x &&& y)⟩
  | .orImm g d a i => some ⟨g, d, [a], fun _ => withImm (i.signExtend 64) (fun _ x y => x ||| y)⟩
  | .xorImm g d a i => some ⟨g, d, [a], fun _ => withImm (i.signExtend 64) (fun _ x y => x ^^^ y)⟩
  | .andnImm g d a i => some ⟨g, d, [a], fun _ => withImm (i.signExtend 64) (fun _ x y => x &&& ~~~y)⟩
  | .shlImm g d a k => some ⟨g, d, [a], fun _ => withImm (k.setWidth 64) (fun _ x y => x <<< y.toNat)⟩
  | .shrImm g d a k => some ⟨g, d, [a], fun _ => withImm (k.setWidth 64) (fun _ x y => x >>> y.toNat)⟩
  | .sarImm g d a k => some ⟨g, d, [a], fun _ => withImm (k.setWidth 64) (fun _ x y => x.sshiftRight y.toNat)⟩
  | .rotImm g d a k => some ⟨g, d, [a], fun _ => withImm (k.setWidth 64) (fun _ x y => x.rotateLeft y.toNat)⟩
  | .minImm g d a i => some ⟨g, d, [a], fun _ => withImm (i.signExtend 64) (minOp 0)⟩
  | .maxImm g d a i => some ⟨g, d, [a], fun _ => withImm (i.signExtend 64) (maxOp 0)⟩
  | _ => none

/-- Bits of a from the top that are 0 before the first 1. -/
def leadingZeros (n : Nat) (a : BitVec n) : BitVec n := BitVec.ofNat n ((List.range n).takeWhile (fun i => !a.getLsbD (n - 1 - i))).length
/-- Bits of a from the bottom that are 0 before the first 1. -/
def trailingZeros (n : Nat) (a : BitVec n) : BitVec n := BitVec.ofNat n ((List.range n).takeWhile (fun i => !a.getLsbD i)).length
/-- Set bits of a. -/
def setBits (n : Nat) (a : BitVec n) : BitVec n := BitVec.ofNat n ((List.range n).filter (fun i => a.getLsbD i)).length
/-- The n/8 bytes of a in reverse order. -/
def reverseBytes (n : Nat) (a : BitVec n) : BitVec n :=
  BitVec.ofNat n ((List.range (n / 8)).map (fun i => (a.extractLsb' (8 * i) 8).toNat * 256 ^ (n / 8 - 1 - i))).sum

/-- CLZ, CTZ, POPC and BSWAP (R106). -/
def countForm : Instr → Option ScalarForm
  | .clz g d a w u => some ⟨g, d, [a], fun _ => unary w u leadingZeros⟩
  | .ctz g d a w u => some ⟨g, d, [a], fun _ => unary w u trailingZeros⟩
  | .popc g d a w u => some ⟨g, d, [a], fun _ => unary w u setBits⟩
  | .bswap g d a w u => some ⟨g, d, [a], fun _ => unary w u reverseBytes⟩
  | _ => none

/-- A<hi:lo> extended by UNS (R108). -/
def fieldOf (x : Word) (lo len : Nat) (u : BitVec 1) : Word :=
  if u = 1 then (x.extractLsb' lo len).setWidth 64 else (x.extractLsb' lo len).signExtend 64

/-- The class of an FP32 value as the bit that R114 gives it. -/
def fpClass (x : Word) : Nat :=
  let neg := x.getLsbD 31
  let e := x.extractLsb' 23 8
  let m := x.extractLsb' 0 23
  if e = 255 then (if m = 0 then (if neg then 0 else 7) else if m.getLsbD 22 then 9 else 8)
  else if e = 0 then (if m = 0 then (if neg then 3 else 4) else if neg then 2 else 5)
  else if neg then 1 else 6

/-- EXT to LEA of R108, the constants of R110, the immediate LEA of R109 and FCLASS and PRD, which compute one value too. -/
def moveForm : Instr → Option ScalarForm
  | .ext g d a len u => some ⟨g, d, [a], fun _ => fun | [x] => fieldOf x 0 (len.toNat + 1) u | _ => 0⟩
  | .bfx g d a pos len u => some ⟨g, d, [a], fun _ => fun | [x] => fieldOf x pos.toNat (len.toNat + 1) u | _ => 0⟩
  | .bfi g d a b pos len => some ⟨g, d, [a, b], fun _ => fun
      | [x, y] => let m : Word := ((1 <<< (len.toNat + 1)) - 1) <<< pos.toNat; (y &&& ~~~m) ||| ((x <<< pos.toNat) &&& m)
      | _ => 0⟩
  | .sel g d a b c => some ⟨g, d, [a, b, c], fun _ => fun | [x, y, z] => if z = 0 then y else x | _ => 0⟩
  | .mov g d a => some ⟨g, d, [a], fun _ => fun | [x] => x | _ => 0⟩
  | .lea g d a b pos => some ⟨g, d, [a, b], fun _ => fun | [x, y] => x + (y <<< pos.toNat) | _ => 0⟩
  | .leaImm g d a i => some ⟨g, d, [a], fun _ => fun | [x] => x + i.signExtend 64 | _ => 0⟩
  | .movi g d i => some ⟨g, d, [], fun _ _ => i.signExtend 64⟩
  | .movhi g d a i => some ⟨g, d, [a], fun _ => fun | [x] => (i.setWidth 64 <<< 34) ||| (x &&& 0x3FFFFFFFF) | _ => 0⟩
  | .fclass g d a => some ⟨g, d, [a], fun _ => fun | [x] => 1 <<< fpClass x | _ => 0⟩
  | .prd g d pa => some ⟨g, d, [], fun t _ => if pa = 0 then 64 else (mget 0 t.preds pa.toNat).setWidth 64⟩
  | _ => none

/-! ### Predicates (03 R84, 04 R108, R109, R115; 01 R26) -/

/-- The integer conditions of R84. -/
def intCond {n : Nat} (c : BitVec 4) (a b : BitVec n) : Bool :=
  match c.toNat with
  | 0 => a == b
  | 1 => a != b
  | 2 => a.slt b
  | 3 => !a.slt b
  | 4 => a.ult b
  | 5 => !a.ult b
  | 6 => a.sle b
  | 7 => !a.sle b
  | 8 => a.ule b
  | _ => !a.ule b

/-- An instruction that writes a number to a predicate: guard, P[D], sources, and the number from the strand and the sources. -/
structure PredForm where
  g : Guard
  pd : PReg
  srcs : List Reg
  f : Strand → List Word → Nat

/-- 1 where a condition holds, else 0. -/
def oneIf (b : Bool) : Nat := if b then 1 else 0

/-- The predicate instructions and the compares. -/
def predForm : Instr → Option PredForm
  | .cmp g pd a b c w => some ⟨g, pd, [a, b], fun _ => fun
      | [x, y] => oneIf (if w = 1 then intCond c (x.setWidth 32) (y.setWidth 32) else intCond c x y)
      | _ => 0⟩
  | .cmpImm g pd a c i => some ⟨g, pd, [a], fun _ => fun | [x] => oneIf (intCond c x (i.signExtend 64)) | _ => 0⟩
  | .pset g pd n => some ⟨g, pd, [], fun _ _ => n.toNat⟩
  | .plim g pd a b => some ⟨g, pd, [a, b], fun _ => fun | [x, y] => (x.toInt - y.toInt).toNat | _ => 0⟩
  | .pmin g pd pa pb => some ⟨g, pd, [], fun t _ => min (predOf t pa) (predOf t pb)⟩
  | .pmax g pd pa pb => some ⟨g, pd, [], fun t _ => max (predOf t pa) (predOf t pb)⟩
  | _ => none

/-- P[D] holds n, limited to 64 (R26). -/
def withPred (pd : PReg) (n : Nat) (s : State) : State := modCur s (fun t => { t with preds := mput t.preds pd.toNat (BitVec.ofNat 7 (min n 64)) })

/-! ### FP32 (04 R111 to R113, 01 R42, 02 R52) -/

/-- An FP32 instruction: guard, D, sources, whether it takes a draw under SRD, its mode from the strand, and result and flags from mode, draw and sources. -/
structure FpForm where
  g : Guard
  d : Reg
  srcs : List Reg
  draws : Bool
  rm : BitVec 3
  f : Nat → Nat → List Word → Nat × BitVec 5

/-- An operation on decoded operands, rounded. -/
def fp2 (f : Nat → Machine.Num → Machine.Num → Exact) (mode draw : Nat) : List Word → Nat × BitVec 5
  | [x, y] => fp32Result mode draw (f mode (fp32Of x) (fp32Of y))
  | _ => (0, 0)

/-- The instructions of MAJ 0x03 that write D and may raise flags. -/
def fpForm : Instr → Option FpForm
  | .fadd g d a b rm => some ⟨g, d, [a, b], true, rm, fp2 (fun m x y => xadd m x y)⟩
  | .fsub g d a b rm => some ⟨g, d, [a, b], true, rm, fp2 (fun m x y => xadd m x y.neg)⟩
  | .fmul g d a b rm => some ⟨g, d, [a, b], true, rm, fp2 (fun _ x y => xmul x y)⟩
  | .fdiv g d a b rm => some ⟨g, d, [a, b], true, rm, fp2 (fun _ x y => xdiv x y)⟩
  | .ffma g d a b c rm => some ⟨g, d, [a, b, c], true, rm, fun mode draw => fun
      | [x, y, z] => fp32Result mode draw (xfma mode (fp32Of x) (fp32Of y) (fp32Of z))
      | _ => (0, 0)⟩
  | .fsqrt g d a rm => some ⟨g, d, [a], true, rm, fun mode draw => fun | [x] => fp32Result mode draw (xsqrt (fp32Of x)) | _ => (0, 0)⟩
  | .fmin g d a b => some ⟨g, d, [a, b], false, 0, fp2 (fun _ x y => xmin x y)⟩
  | .fmax g d a b => some ⟨g, d, [a, b], false, 0, fp2 (fun _ x y => xmax x y)⟩
  | .fcvt g d a rm sat dt st w64 => some ⟨g, d, [a], etFloat dt || etFloat st, rm, fun mode draw => fun
      | [x] =>
        let (r, fl) := convert dt st (w64 = 1) mode (sat = 1) draw (x.toNat % 2 ^ cvtWidth st (w64 = 1))
        ((cvtExtend dt (w64 = 1) r).toNat, fl)
      | _ => (0, 0)⟩
  | _ => none

/-- The mode that RM names: 6 is DYN, which FPCTL.MODE gives (02 R51). -/
def modeOf (t : Strand) (rm : BitVec 3) : Nat := if rm = 6 then t.sys.fpctl.toNat % 8 else rm.toNat

/-- The state after the draw of an instruction that takes one, and the draw (02 R52). -/
def afterDraw (draws : Bool) (mode : Nat) (s : State) : State :=
  if draws ∧ mode = 5 then modCur s (fun t => { t with sys := { t.sys with seed := srdNext t.sys.seed } }) else s
def drawOf (draws : Bool) (mode : Nat) (s : State) : Nat := if draws ∧ mode = 5 then srdBits (srdNext (cur s).sys.seed) else 0

/-- FPFLAGS := FPFLAGS OR fl. -/
def orFlags (fl : BitVec 5) (s : State) : State := modCur s (fun t => { t with sys := { t.sys with fpflags := t.sys.fpflags ||| fl.setWidth 64 } })

/-- A flag is raised whose trap FPCTL<8:4> enables. -/
def fpTraps (t : Strand) (fl : BitVec 5) : Bool := fl &&& t.sys.fpctl.extractLsb' 4 5 != 0

/-- FP_TRAP: FPFLAGS and the draws stay, everything else is as before the instruction (R103, R111, R138). -/
def fpTrap (s after : State) (fl : BitVec 5) (elem : Nat) : State :=
  takeTrap s ⟨0x0C, none, BitVec.ofNat 64 (fl.toNat + 64 * elem), none, 0,
    fun s => modCur s (fun t => { t with sys := { t.sys with fpflags := (cur after).sys.fpflags ||| fl.setWidth 64, seed := (cur after).sys.seed } }), false⟩

/-! ### Words (03 R88, R90, R92) -/

/-- The assigned MAJ values of R88: MAJ, its FN values, and its class: 0 U, 1 S, 2 L. -/
def majTable : List (Nat × List Nat × Nat) :=
  [(0x01, List.range 27, 0), (0x21, List.range 16 ++ [25, 26], 0), (0x22, List.range 2, 0), (0x03, List.range 11, 0), (0x04, List.range 5, 0),
   (0x05, List.range 2, 0), (0x40, List.range 4, 0), (0x41, List.range 9, 0), (0x42, List.range 2, 0), (0x50, List.range 7, 0), (0x52, List.range 5, 0)] ++
  [(0x60, List.range 10, 0), (0x61, List.range 6, 0), (0x62, List.range 8, 0), (0x63, List.range 9, 0), (0x64, List.range 7, 0), (0x65, List.range 4, 0),
   (0x66, List.range 8, 0), (0x80, List.range 11, 0), (0x81, List.range 8, 0), (0x82, List.range 5, 0), (0x83, List.range 5, 0)] ++
  [(0xA0, List.range 4, 0), (0xA1, List.range 4, 0), (0xA2, List.range 7, 0), (0xA3, List.range 5, 0), (0xC0, List.range 6, 0), (0xC1, List.range 14, 1),
   (0xC2, List.range 4, 2)]

/-- MAJ of a word (R79). -/
def majOf (w : Word) : Nat := w.toNat / 2 ^ 56
/-- The lowest bit of FN: 42 in RRR words, 46 in the others (R80). -/
def fnBit (w : Word) : Nat := if majOf w = 0x01 ∨ majOf w = 0x03 ∨ majOf w = 0x04 then 42 else 46
/-- FN of a word (R80). -/
def fnNum (w : Word) : Nat := w.toNat % 2 ^ 52 / 2 ^ fnBit w

/-- The current strand's next instruction is i, of word w, which runs in state u: the word it waits in, or one fetched and kept. -/
def has (s : State) (w : Word) (i : Instr) (u : State) : Prop :=
  ((cur s).word = some w ∧ u = s ∨ (cur s).word = none ∧ ∃ v, fetchWord s = .ok (w, v) ∧ u = keepWord v w) ∧ decodeFor u w = .ok i

/-- MAJ values whose words are vector instructions, which the guard does not skip whole (05 R135). -/
def vectorMaj (m : Nat) : Bool := [0x60, 0x61, 0x62, 0x63, 0x64, 0x65, 0x66].contains m

/-! ### Control flow (04 R127, R128) -/

/-- BranchTarget(). -/
def target (s : State) (off : BitVec 30) : Word := (cur s).pc + (off.signExtend 64) <<< 3

/-- Fields of the current strand that no trap and no branch changes. -/
def sameStrand (t u : Strand) : Prop :=
  u.preds = t.preds ∧ u.vregs = t.vregs ∧ u.qb = t.qb ∧ u.dom = t.dom ∧ u.eng = t.eng ∧ u.tag = t.tag ∧ u.task = t.task ∧ u.base = t.base ∧ u.size = t.size ∧
  u.priv = t.priv ∧ u.mode = t.mode

/-- Two states agree but for strand k of agent a and the model's bookkeeping. -/
def sameBut (a k : Nat) (s t : State) : Prop :=
  t.mem = s.mem ∧ t.net = s.net ∧ t.light = s.light ∧ t.os = s.os ∧ t.rel = s.rel ∧ t.boot = s.boot ∧ t.trust = s.trust ∧ t.env = s.env ∧
  (∀ b, b ≠ a → agentAt t b = agentAt s b) ∧ (∀ j, j ≠ k → strandAt t a j = strandAt s a j) ∧
  (agentAt t a).pool = (agentAt s a).pool ∧ (agentAt t a).ni = (agentAt s a).ni ∧ (agentAt t a).mx = (agentAt s a).mx ∧ (agentAt t a).cp = (agentAt s a).cp ∧
  (agentAt t a).rx = (agentAt s a).rx ∧ (agentAt t a).calls = (agentAt s a).calls

/-! ### Memory (03 R83, R87; 04 R117 to R126; 10 R273) -/

/-- The base or the index of a memory operand: field 63 reads 0 (03 R87). -/
def baseRead (f : Reg) (s : State) (v : Word) (t : State) : Prop := if f = 63 then v = 0 ∧ t = s else readReg f s = .ok (v, t)

/-- EffectiveAddress(): a is the address of a memory operand, t the state after its registers are read. -/
def addressOf (m : MemOp) (s : State) (a : Word) (t : State) : Prop :=
  ∃ b x u, baseRead m.base s b u ∧ baseRead m.idx u x t ∧ a = b + x <<< m.scl.toNat + m.disp.signExtend 64

/-- Bytes of a SIZE code: 1, 2, 4 and 8, then 1, 2 and 4 for the signed codes (R83). -/
def bytesOf (size : BitVec 3) : Nat := [1, 2, 4, 8, 1, 2, 4].getD size.toNat 4

/-- A value of n bytes as its register gets it: sign-extended for codes 4 to 6 (R118). -/
def extended (size : BitVec 3) (v : Nat) : Word :=
  if 4 ≤ size.toNat then (BitVec.ofNat (8 * bytesOf size) v).signExtend 64 else BitVec.ofNat 64 v

/-- The key of an address in the tile's own local store or vault (10 R273). -/
def localKey (s : State) (a : Word) : Option Nat :=
  if isCore s.env.agent then none
  else if a.toNat < 0x300000 then some (keyLs s.env.agent a.toNat)
  else if 0x800000 ≤ a.toNat ∧ a.toNat < 0x1000000 then some (keyVault s.env.agent (a.toNat - 0x800000))
  else none

/-- What SBAR recorded is spent by the first access that it let pass (R126). -/
def afterSbar (s : State) : State :=
  if (cur s).eng.sbarCp = [] ∧ (cur s).eng.sbarMx = [] then s
  else modCur s (fun t => { t with eng := { t.eng with sbarCp := [], sbarMx := [] } })

/-- What the strand reads from n bytes of its own memory: in an epilogue its held stores come first (11 R298). -/
def localRead (s : State) (k n : Nat) : Nat :=
  if inEpilogue s s.env.agent s.env.strand then heldNat (curAgent s).rx.held s.mem k n else readNat s.mem k n
/-- Whether a poisoned word is among them. -/
def localPoison (s : State) (k n : Nat) : Bool :=
  if inEpilogue s s.env.agent s.env.strand then heldPoison (curAgent s).rx.held (heldMarks (curAgent s)) s.mem k n else poisoned s.mem k n

/-- The acquire of an order that has one (R120). -/
def acquired (b : Bool) (o : Ord) (s : State) : State := if b then modCurAgent s (acquireAgent o.scope.toNat) else s

/-- A release waits for nothing: the strand's accesses have been performed for the agents of the scope, what SBAR recorded is done, and no window line is dirty
where the scope reaches it (R125, R126). -/
abbrev released (b : Bool) (o : Ord) (s : State) : Prop :=
  b = true → performedAt s o.scope.toNat = true ∧ sbarDone s = true ∧ (2 ≤ o.scope.toNat → dirtyLines (curAgent s) = [])

/-- POISON at an address, with a record for the word (R119 step 6, 19 R418). -/
def poisonTrap (s : State) (a : Word) (info key fn : Nat) : Host.Outcome State Fault Refusal :=
  .next (takeTrap s ⟨0x10, some a, BitVec.ofNat 64 info, none, 0, fun s => postPoison s s.env.agent (cur s).tag 0 key fn, false⟩)

/-- A store's element that goes to its home: no line of a window takes it (or an order passes the windows by, R120), and no epilogue holds it. -/
abbrev goesHome (s : State) (p : Place) (n : Nat) (o : Ord) : Prop :=
  inEpilogue s s.env.agent s.env.strand = false ∧ ∀ va, p.va = some va → o.ord ≠ 0 ∨ findLine (curAgent s) va n = none

/-- The strand waits for the answer to a request of its own. -/
def asks (s : State) (accs : List Access) : Host.Outcome State Fault Refusal := .next (sendReq accs true (beginWait s .response))

/-- The atomics of R122: guard, T, BASE, IDX, SIZE, order, DISP, their FN and whether they compare unsigned. -/
structure AtomicForm where
  g : Guard
  t : Reg
  base : Reg
  idx : Reg
  size : BitVec 3
  o : Ord
  disp : BitVec 18
  fn : Nat
  uns : Bool

def atomicForm : Instr → Option AtomicForm
  | .amoadd g t b x size o d => some ⟨g, t, b, x, size, o, d, 0, false⟩
  | .amomin g t b x u size o d => some ⟨g, t, b, x, size, o, d, 1, size == 2 || (size == 3 && u == 1)⟩
  | .amomax g t b x u size o d => some ⟨g, t, b, x, size, o, d, 2, size == 2 || (size == 3 && u == 1)⟩
  | .amoand g t b x size o d => some ⟨g, t, b, x, size, o, d, 3, false⟩
  | .amoor g t b x size o d => some ⟨g, t, b, x, size, o, d, 4, false⟩
  | .amoxor g t b x size o d => some ⟨g, t, b, x, size, o, d, 5, false⟩
  | .amoswp g t b x size o d => some ⟨g, t, b, x, size, o, d, 6, false⟩
  | .amocas g t b x size o d => some ⟨g, t, b, x, size, o, d, 7, false⟩
  | .amofadd g t b x o d => some ⟨g, t, b, x, 2, o, d, 8, false⟩
  | _ => none

/-- The new value of an atomic on n bytes (R122): old value, operand and, for AMOCAS, the expected value, each of n bytes. -/
def atomicValue (fn n : Nat) (uns : Bool) (old v exp : Nat) : Nat :=
  let x := BitVec.ofNat (8 * n) old
  let y := BitVec.ofNat (8 * n) v
  let r : BitVec (8 * n) :=
    match fn with
    | 0 => x + y
    | 1 => if (if uns then x.ult y else x.slt y) then x else y
    | 2 => if (if uns then x.ult y else x.slt y) then y else x
    | 3 => x &&& y
    | 4 => x ||| y
    | 5 => x ^^^ y
    | 6 => y
    | 7 => if old = exp then y else x
    | _ => BitVec.ofNat (8 * n) (fp32Result 0 0 (xadd 0 (fp32Of x.toNat) (fp32Of y.toNat))).1
  r.toNat

/-- An element of an access that goes to another home: not the tile's own memory, no line of a window (or an order that passes the windows by, R120), and no
held byte of the invocation. -/
abbrev elsewhere (s : State) (p : Place) (n : Nat) (o : Ord) : Prop :=
  p.own = false ∧
  match p.va with
  | some va => o.ord ≠ 0 ∨ findLine (curAgent s) va n = none
  | none => inEpilogue s s.env.agent s.env.strand = true → ∀ h ∈ (curAgent s).rx.held, h.1 < p.key ∨ p.key + n ≤ h.1

/-! ### The vector column (05 R135 to R157) -/

/-- An element-wise instruction that may raise flags: guard, VD, element width, number of indices, the element of VD that index 0 goes to, RM, whether it draws
under SRD, and result and flags of an index from the strand, mode and draw. -/
structure VecForm where
  g : Guard
  vd : VReg
  w : Nat
  n : Nat
  off : Nat
  rm : BitVec 3
  draws : Bool
  f : Strand → Nat → Nat → Nat → Nat × BitVec 5

/-- An element-wise instruction without flags: guard, VD, width, number of indices, and the result of an index. -/
structure MoveForm where
  g : Guard
  vd : VReg
  w : Nat
  n : Nat
  f : Strand → Nat → Nat

/-- An exact integer delivered modulo 2^w, or limited to the range of the type (R50, R139). -/
def fit (et : BitVec 4) (sat : BitVec 1) (v : Int) : Nat :=
  let w := etWidth et
  let lo : Int := if etSigned et then -(2 ^ (w - 1)) else 0
  let hi : Int := if etSigned et then 2 ^ (w - 1) - 1 else 2 ^ w - 1
  ((if sat = 1 then max lo (min hi v) else v) % 2 ^ w).toNat

/-- An exact value rounded to the type, with the flags of the operation (R138). -/
def toFormat (et : BitVec 4) (mode : Nat) (sat : BitVec 1) (draw : Nat) (x : Exact) : Nat × BitVec 5 :=
  let r := roundTo (fmtOf et) mode (sat = 1) draw x.val
  (r.1, r.2 ||| x.fl)

/-- An element-wise result of three operands: floating point by R138, integer by R139. -/
def lanes3 (et : BitVec 4) (sat : BitVec 1) (va vb vc : VReg) (fl : Nat → Machine.Num → Machine.Num → Machine.Num → Exact) (it : Int → Int → Int → Int)
    (t : Strand) (mode draw e : Nat) : Nat × BitVec 5 :=
  if etFloat et then toFormat et mode sat draw (fl mode (vnum t et va e) (vnum t et vb e) (vnum t et vc e))
  else (fit et sat (it (vint t et va e) (vint t et vb e) (vint t et vc e)), 0)

/-- A special function of one operand (R144). -/
def lanes1 (et : BitVec 4) (va : VReg) (f : Machine.Num → Exact) (t : Strand) (mode draw e : Nat) : Nat × BitVec 5 :=
  toFormat et mode 0 draw (f (vnum t et va e))

/-- MAJ 0x60 (R142, R143), MAJ 0x61 (R144, R145), VCVT (R149), VSCAN (R153), VPACK and VUNPK (R155). -/
def vecForm : Instr → Option VecForm
  | .vadd g vd va vb et rm sat => some ⟨g, vd, etWidth et, etCount et, 0, rm, etFloat et, lanes3 et sat va vb vb (fun m a b _ => xadd m a b) (fun a b _ => a + b)⟩
  | .vsub g vd va vb et rm sat => some ⟨g, vd, etWidth et, etCount et, 0, rm, etFloat et, lanes3 et sat va vb vb (fun m a b _ => xadd m a b.neg) (fun a b _ => a - b)⟩
  | .vmul g vd va vb et rm sat => some ⟨g, vd, etWidth et, etCount et, 0, rm, etFloat et, lanes3 et sat va vb vb (fun _ a b _ => xmul a b) (fun a b _ => a * b)⟩
  | .vfma g vd va vb vc et rm sat => some ⟨g, vd, etWidth et, etCount et, 0, rm, etFloat et, lanes3 et sat va vb vc (fun m a b c => xfma m a b c) (fun a b c => a * b + c)⟩
  | .vfms g vd va vb vc et rm sat =>
    some ⟨g, vd, etWidth et, etCount et, 0, rm, etFloat et, lanes3 et sat va vb vc (fun m a b c => xfma m a b c.neg) (fun a b c => a * b - c)⟩
  | .vmin g vd va vb et => some ⟨g, vd, etWidth et, etCount et, 0, 0, false, lanes3 et 0 va vb vb (fun _ a b _ => xmin a b) (fun a b _ => min a b)⟩
  | .vmax g vd va vb et => some ⟨g, vd, etWidth et, etCount et, 0, 0, false, lanes3 et 0 va vb vb (fun _ a b _ => xmax a b) (fun a b _ => max a b)⟩
  | .vabs g vd va et sat => some ⟨g, vd, etWidth et, etCount et, 0, 0, false,
      lanes3 et (if etFloat et then 0 else sat) va va va (fun _ a _ _ => ⟨a.abs, if a.snan then 1 else 0⟩) (fun a _ _ => if a < 0 then -a else a)⟩
  | .vneg g vd va et sat => some ⟨g, vd, etWidth et, etCount et, 0, 0, false,
      lanes3 et (if etFloat et then 0 else sat) va va va (fun _ a _ _ => ⟨a.neg, if a.snan then 1 else 0⟩) (fun a _ _ => -a)⟩
  | .vclamp g vd va vb vc et => some ⟨g, vd, etWidth et, etCount et, 0, 0, false,
      lanes3 et 0 va vb vc (fun _ a b c => let x := xmax a b; let y := xmin x.val c; ⟨y.val, x.fl ||| y.fl⟩) (fun a b c => min (max a b) c)⟩
  | .vexp2 g vd va et rm => some ⟨g, vd, etWidth et, etCount et, 0, rm, true, lanes1 et va xexp2⟩
  | .vlog2 g vd va et rm => some ⟨g, vd, etWidth et, etCount et, 0, rm, true, lanes1 et va xlog2⟩
  | .vrcp g vd va et rm => some ⟨g, vd, etWidth et, etCount et, 0, rm, true, lanes1 et va xrcp⟩
  | .vrsq g vd va et rm => some ⟨g, vd, etWidth et, etCount et, 0, rm, true, lanes1 et va xrsq⟩
  | .vtanh g vd va et rm => some ⟨g, vd, etWidth et, etCount et, 0, rm, true, lanes1 et va xtanh⟩
  | .verf g vd va et rm => some ⟨g, vd, etWidth et, etCount et, 0, rm, true, lanes1 et va xerf⟩
  | .vcvt g vd va et rm sat part st =>
    let ws := etWidth st
    let wd := etWidth et
    let n := 512 / max ws wd
    some ⟨g, vd, wd, n, if wd < ws then part.toNat * n else 0, rm, etFloat et || etFloat st,
      fun t mode draw e => convert et st false mode (sat = 1) draw (velem t ws va (if ws < wd then e + part.toNat * n else e))⟩
  | .vscan g vd va et rm sat op => some ⟨g, vd, etWidth et, etCount et, 0, rm, etFloat et && op == 0,
      fun t mode draw e => combine op.toNat et mode (sat = 1) draw (((actives t g (etCount et)).filter (fun j => j ≤ e)).map (velem t (etWidth et) va))⟩
  | .vpack g vd va vb et rm sat =>
    let n := etCount (wideOf et)
    some ⟨g, vd, etWidth et, 2 * n, 0, rm, etFloat et, fun t mode draw e =>
      convert et (wideOf et) false mode (sat = 1) draw (if e < n then velem t (etWidth (wideOf et)) va e else velem t (etWidth (wideOf et)) vb (e - n))⟩
  | .vunpk g vd va et h =>
    let n := etCount (wideOf et)
    some ⟨g, vd, etWidth (wideOf et), n, 0, 0, false, fun t _ _ e => convert (wideOf et) et false 0 false 0 (velem t (etWidth et) va (h.toNat * n + e))⟩
  | _ => none

/-- A bit operation on elements of w bits. -/
def bits2 (et : BitVec 4) (va vb : VReg) (f : (w : Nat) → BitVec w → BitVec w → BitVec w) (t : Strand) (e : Nat) : Nat :=
  let w := etWidth et
  (f w (BitVec.ofNat w (velem t w va e)) (BitVec.ofNat w (velem t w vb e))).toNat

/-- The count of a shift: the immediate where IMM7<6> is 1, else the element of VB, modulo w (R146). -/
def countOf (imm : BitVec 7) (w : Nat) (b : BitVec w) : Nat := (if imm.getLsbD 6 then imm.toNat - 64 else b.toNat) % w

/-- Lane l of a result is lane j of VA where src says j, else 0; the elements are those of ET (R151, R152). -/
def laneForm (va : VReg) (et : BitVec 4) (src : Strand → Nat → Option Nat) (t : Strand) (e : Nat) : Nat :=
  let k := 32 / etWidth et
  match src t (e / k) with
  | some j => velem t (etWidth et) va (j * k + e % k)
  | none => 0

/-- MAJ 0x62 (R146), VSEL and VMOV (R148), and the lane moves of MAJ 0x64 (R152). -/
def vecMove : Instr → Option MoveForm
  | .vand g vd va vb et => some ⟨g, vd, etWidth et, etCount et, bits2 et va vb (fun _ a b => a &&& b)⟩
  | .vor g vd va vb et => some ⟨g, vd, etWidth et, etCount et, bits2 et va vb (fun _ a b => a ||| b)⟩
  | .vxor g vd va vb et => some ⟨g, vd, etWidth et, etCount et, bits2 et va vb (fun _ a b => a ^^^ b)⟩
  | .vnot g vd va et => some ⟨g, vd, etWidth et, etCount et, bits2 et va va (fun _ a _ => ~~~a)⟩
  | .vshl g vd va vb et imm => some ⟨g, vd, etWidth et, etCount et, bits2 et va vb (fun w a b => a <<< countOf imm w b)⟩
  | .vshr g vd va vb et imm => some ⟨g, vd, etWidth et, etCount et, bits2 et va vb (fun w a b => a >>> countOf imm w b)⟩
  | .vsar g vd va vb et imm => some ⟨g, vd, etWidth et, etCount et, bits2 et va vb (fun w a b => a.sshiftRight (countOf imm w b))⟩
  | .vmulh g vd va vb et => some ⟨g, vd, etWidth et, etCount et, bits2 et va vb (fun _ a b => mulhOp (if etSigned et then 0 else 1) _ a b)⟩
  | .vsel g vd va vb et x => some ⟨g, vd, etWidth et, etCount et, fun t e => if e < predOf t x then velem t (etWidth et) va e else velem t (etWidth et) vb e⟩
  | .vmov g vd va et => some ⟨g, vd, etWidth et, etCount et, fun t e => velem t (etWidth et) va e⟩
  | .vshup g vd va et k => some ⟨g, vd, etWidth et, etCount et, laneForm va et (fun _ l => if k.toInt ≤ l then some (l - k.toNat) else none)⟩
  | .vshdn g vd va et k => some ⟨g, vd, etWidth et, etCount et, laneForm va et (fun _ l => if (l : Int) - k.toInt ≤ 15 then some ((l : Int) - k.toInt).toNat else none)⟩
  | .vrot g vd va et k => some ⟨g, vd, etWidth et, etCount et, laneForm va et (fun _ l => some (((l : Int) - k.toInt) % 16).toNat)⟩
  | .vperm g vd va vb et k => some ⟨g, vd, etWidth et, etCount et, laneForm va et (fun t l =>
      let j := velem t 32 vb l % 16
      if (j : Int) - l ≤ -k.toInt then some j else none)⟩
  | _ => none

/-- The generator after n draws (02 R52). -/
def seedAfter : Nat → Word → Word
  | 0, x => x
  | n + 1, x => srdNext (seedAfter n x)

/-- The draw of the n-th element that takes one, counted from 0. -/
def nthDraw (draws : Bool) (mode : Nat) (s : State) (n : Nat) : Nat :=
  if draws ∧ mode = 5 then srdBits (seedAfter (n + 1) (cur s).sys.seed) else 0
/-- The state after n draws. -/
def afterDraws (draws : Bool) (mode n : Nat) (s : State) : State :=
  if draws ∧ mode = 5 then modCur s (fun t => { t with sys := { t.sys with seed := seedAfter n t.sys.seed } }) else s

/-- Elements of VD written one after another, the others as they were. -/
def withElems (vd : VReg) (w : Nat) (rs : List (Nat × Nat)) (s : State) : State :=
  modCur s (fun t => { t with vregs := mput t.vregs vd.toNat (putElems w (mget 0 t.vregs vd.toNat) rs) })

/-- The delivery of R138: results (index, value, flags), off added to each index, elem the index that FP_TRAP names when it is not the first element
with an enabled flag; s0 is the state before the instruction, s1 the one with its draws taken, t what else the instruction does when it does not trap. -/
def delivers (i : Instr) (s0 s1 : State) (vd : VReg) (w off : Nat) (rs : List (Nat × Nat × BitVec 5)) (elem : Option Nat) (t : State → State → Prop) : Prop :=
  let fl := rs.foldl (fun f r => f ||| r.2.2) 0
  let first := ((rs.find? (fun r => fpTraps (cur s0) r.2.2)).map (·.1)).getD 0
  (fpTraps (cur s0) fl = true → exec i s0 = .next (fpTrap s0 s1 fl (elem.getD first))) ∧
  (fpTraps (cur s0) fl = false → ∀ u, t (withElems vd w (rs.map (fun r => (off + r.1, r.2.1))) (orFlags fl s1)) u → exec i s0 = .next (retire u .next))

/-! ### Vector memory (05 R158 to R162) -/

/-- A vector load or store: whether it loads, its FN, guard, VT, SIZE, order, and the elements with their addresses and the state after its registers are read. -/
structure VmemForm where
  load : Bool
  fn : Nat
  g : Guard
  vt : VReg
  size : BitVec 3
  o : Ord
  els : State → List (Nat × Word) → State → Prop

/-- Element width in bits of a SIZE: 8, 16, 32 (R158). -/
def vbits (size : BitVec 3) : Nat := [8, 16, 32].getD size.toNat 32

/-- Contiguous addresses (R159). -/
def contiguousEls (g : Guard) (size : BitVec 3) (m : MemOp) (s : State) (l : List (Nat × Word)) (t : State) : Prop :=
  ∃ a, addressOf m s a t ∧ l = (actives (cur s) g (512 / vbits size)).map (fun e => (e, a + BitVec.ofNat 64 (e * (vbits size / 8))))
/-- Strided addresses. -/
def stridedEls (g : Guard) (size : BitVec 3) (m : MemOp) (s : State) (l : List (Nat × Word)) (t : State) : Prop :=
  ∃ b x u, baseRead m.base s b u ∧ baseRead m.idx u x t ∧
    l = (actives (cur s) g (512 / vbits size)).map (fun e => (e, b + m.disp.signExtend 64 + BitVec.ofNat 64 e * x * BitVec.ofNat 64 (2 ^ m.scl.toNat)))
/-- Indexed addresses. -/
def indexedEls (g : Guard) (size : BitVec 3) (base : Reg) (vi : VReg) (scl : BitVec 2) (disp : BitVec 18) (s : State) (l : List (Nat × Word)) (t : State) : Prop :=
  ∃ b, baseRead base s b t ∧ l = (actives (cur s) g (512 / vbits size)).map (fun e =>
    (e, b + disp.signExtend 64 + BitVec.ofNat 64 (velem (cur s) (vbits size) vi e * 2 ^ scl.toNat)))

def vmemForm : Instr → Option VmemForm
  | .vld g vt size o m => some ⟨true, 0, g, vt, size, o, contiguousEls g size m⟩
  | .vst g vt size o m => some ⟨false, 1, g, vt, size, o, contiguousEls g size m⟩
  | .vlds g vt size o m => some ⟨true, 3, g, vt, size, o, stridedEls g size m⟩
  | .vsts g vt size o m => some ⟨false, 4, g, vt, size, o, stridedEls g size m⟩
  | .vgath g vt size o b vi scl d => some ⟨true, 5, g, vt, size, o, indexedEls g size b vi scl d⟩
  | .vscat g vt size o b vi scl d => some ⟨false, 6, g, vt, size, o, indexedEls g size b vi scl d⟩
  | _ => none

/-- Elements at keys of the strand's own memory, aligned to n, with no answer to an earlier request of theirs. -/
def ownEls (s : State) (n : Nat) (els : List (Nat × Word)) (keys : List Nat) : Prop :=
  els.map (fun e => localKey s e.2) = keys.map some ∧ ∀ e ∈ els, e.2.toNat % n = 0 ∧ replyFor s e.1 = none

/-! ### Engines (06 R163 to R203; 01 R34, R35) -/

/-- The class at which an instruction raises posted faults, with its guard: 0 the engine instructions, 1 the network instructions, 3 the domain instructions,
4 EXIT (06 R168, 07 R205, 20 R440). -/
def raiseClass (i : Instr) : Option (Guard × Nat) :=
  let m := majOf (encode i)
  let g := guardOf (encode i)
  if !isWord i then none
  else if 0x80 ≤ m ∧ m ≤ 0x83 then some (g, 0)
  else if m = 0xA1 then some (g, 1)
  else if m = 0xA3 then some (g, 3)
  else match i with
    | .exit g _ => some (g, 4)
    | _ => none

/-- A posted fault that an instruction of a class raises; of engine faults only the first posted is raised (R168). -/
def raises (ps : List Posted) (cls : Nat) (p : Posted) : Bool :=
  raisedAt p cls && (p.cause != 0x0B || ps.find? (fun q => q.cause == 0x0B) == some p)

/-- No posted fault stands that an instruction of a class raises. -/
abbrev noPosted (s : State) (cls : Nat) : Prop := (cur s).eng.posted.find? (raises (cur s).eng.posted cls) = none

/-- The completion specifier (R166): the barrier's address is the source field after the n others. -/
def doneWith (cs : Compl) (n : Nat) (vs : List Word) : Done := ⟨if cs.bar = 1 then vs[n]? else none, cs.q = 1, cs.tag⟩
/-- The source field of a barrier, when there is one. -/
def barSrc (cs : Compl) : List Reg := if cs.bar = 1 then [cs.br] else []

/-- A pushed MXE command: guard, FN, tag, sources, whether it takes a draw under the mode of its control word, the CODE of a check at push that fails, and the
command, from the state before, the draw and the sources. -/
structure MxForm where
  g : Guard
  fn : Nat
  tag : BitVec 12
  srcs : List Reg
  mode : State → List Word → Nat
  bad : State → List Word → Option Nat
  op : State → Nat → List Word → MxOp

def mxForm : Instr → Option MxForm
  | .mxcfg g f mode bank => some ⟨g, 0, 0, [], fun _ _ => 0, fun _ _ => none, fun _ _ _ => .cfg f mode bank⟩
  | .mxzero g bank => some ⟨g, 1, 0, [], fun _ _ => 0, fun _ _ => none, fun _ _ _ => .zero bank⟩
  | .mxldw g a sc kq wt buf => some ⟨g, 2, 0, [a], fun _ _ => 0, fun _ => fun
      | [v] =>
        let k := 16 * (kq.toNat + 1)
        let m := if wt = 2 then 64 else 128
        let z := if wt = 2 then 2 else 1
        if v.toNat % z ≠ 0 ∨ 0x300000 < v.toNat + k * m * z + (if sc = 1 then m * k / 32 else 0) then some 3 else none
      | _ => none, fun _ _ => fun | [v] => .ldw v sc kq wt buf | _ => .zero 0⟩
  | .mxpass g a b mh at' asc zf nm1 buf bank => some ⟨g, 3, 0, [a, b], fun _ _ => 0, fun _ _ => none, fun _ _ => fun
      | [x, y] => .pass x y mh at' asc zf nm1 buf bank
      | _ => .zero 0⟩
  | .mxarm g a b slot => some ⟨g, 4, 0, [a, b], fun _ _ => 0, fun _ => fun
      | [w, d] => if w.extractLsb' 48 16 ≠ 0 ∨ w.getLsbD 31 ∨ w.getLsbD 29 ∨ descBad d 128 then some 3 else none
      | _ => none, fun _ _ => fun | [w, d] => .arm slot w d | _ => .zero 0⟩
  | .mxdisarm g slot => some ⟨g, 5, 0, [], fun _ _ => 0, fun _ _ => none, fun _ _ _ => .disarm slot⟩
  | .mxdrain g a b c cs bank => some ⟨g, 6, cs.tag, [a, b, c] ++ barSrc cs, fun s vs => modeOf (cur s) (((vs[2]?).getD 0).extractLsb' 3 3), fun _ => fun
      | x :: y :: ctl :: _ => if drainBad ctl x.toNat y.toNat then some 3 else none
      | _ => none, fun s draw => fun
      | x :: y :: ctl :: r => .drain x y ctl bank (BitVec.ofNat 3 (modeOf (cur s) (ctl.extractLsb' 3 3))) (BitVec.ofNat 64 draw) (doneWith cs 3 (x :: y :: ctl :: r))
      | _ => .zero 0⟩
  | .mxramp g n => some ⟨g, 7, 0, [], fun _ _ => 0, fun _ _ => none, fun _ _ _ => .ramp n⟩
  | .mxpert g a n m bank => some ⟨g, 9, 0, [a], fun _ _ => 0, fun s _ => if mayPerturb s then none else some 7, fun _ _ => fun | [v] => .pert bank m n v | _ => .zero 0⟩
  | _ => none

/-- The command enters the strand's MXE queue with the tile's next number. -/
def queueMx (op : MxOp) (s : State) : State :=
  let n := (curAgent s).nextNo
  modCurAgent (modCur s (fun t => { t with eng := { t.eng with mxq := t.eng.mxq ++ [⟨op, s.env.strand, n⟩] } })) (fun x => { x with nextNo := n + 1 })

/-- ENGINE_FAULT at the push (R165, R169). -/
def pushTrap (s : State) (fn eng : Nat) (tag : BitVec 12) (code : Nat) : State :=
  takeTrap s ⟨0x0B, some 0, BitVec.ofNat 64 (2 ^ 40 + (fn * 2 ^ 34 + eng * 2 ^ 32 + tag.toNat * 2 ^ 20 + code)), none, 0, id, false⟩

/-- A pushed CPE command: guard, sources, whether a check at push fails, and the command, from the state before and the sources. -/
structure CpForm where
  g : Guard
  srcs : List Reg
  bad : CpCmd → Bool
  cmd : State → List Word → CpCmd

/-- The list of CPYG and CPYS and their element size (R190). -/
def listBad (c : CpCmd) : Bool :=
  c.c1.extractLsb' 32 16 == 0 || c.c1.extractLsb' 48 16 != 0 || (c.arr && !c.dn.q) ||
    0x300000 < c.c.toNat + 4 * (c.c1.extractLsb' 0 32).toNat

/-- The command of FN fn of MAJ 0x81, or 0x20 + FN of MAJ 0x82; g names the pair of C, and k the window or the number of replicas. -/
def cpWith (s : State) (fn : BitVec 6) (vs : List Word) (pair : Option Reg) (ct : Option CtSlot) (arr : Bool) (k : Nat) (dn : Done) : CpCmd :=
  let c := match pair with | some p => curReg s p.toNat | none => vs.getD 2 0
  let c1 := match pair with | some p => curReg s (p.toNat + 1) | none => 0
  ⟨fn, vs.getD 0 0, vs.getD 1 0, c, c1, ct, arr, k, dn, 0, 0⟩

def cpForm : Instr → Option CpForm
  | .cpy g a b c cs slot ct => some ⟨g, [a, b, c] ++ barSrc cs, fun c => 2 ^ 40 ≤ c.c.toNat,
      fun s vs => cpWith s 0 vs none (if ct = 1 then some (mget ⟨0, 0, 0, 0, 0, 0, 0⟩ (cur s).eng.ct slot.toNat) else none) false 0 (doneWith cs 3 vs)⟩
  | .cpy2d g a b c cs => some ⟨g, [a, b] ++ barSrc cs, fun c => 2 ^ 40 ≤ (c.c.extractLsb' 0 32).toNat * (c.c.extractLsb' 32 32).toNat,
      fun s vs => cpWith s 1 vs (some c) none false 0 (doneWith cs 2 vs)⟩
  | .cpyg g a b c cs arr => some ⟨g, [a, b] ++ barSrc cs, listBad, fun s vs => cpWith s 2 vs (some c) none (arr = 1) 0 (doneWith cs 2 vs)⟩
  | .cpys g a b c cs => some ⟨g, [a, b] ++ barSrc cs, listBad, fun s vs => cpWith s 3 vs (some c) none false 0 (doneWith cs 2 vs)⟩
  | .cpyf g a b c cs => some ⟨g, [a, b, c] ++ barSrc cs, fun c => 2 ^ 40 ≤ c.c.toNat, fun s vs => cpWith s 4 vs none none false 0 (doneWith cs 3 vs)⟩
  | .cpym g a b c cs km1 => some ⟨g, [a, b] ++ barSrc cs,
      fun c => 0x800000 < c.a.toNat + c.c.toNat || c.c1.toNat % 2 != 0 || 0x300000 < c.c1.toNat + 2 * c.k,
      fun s vs => cpWith s 5 vs (some c) none false (km1.toNat + 1) (doneWith cs 2 vs)⟩
  | .wopen g a b c w => some ⟨g, [a, b, c], fun c => wopenBad c.a c.b c.c, fun s vs => cpWith s 0x21 vs none none false w.toNat ⟨none, false, 0⟩⟩
  | .wadv g a cs w => some ⟨g, [a] ++ barSrc cs, fun _ => false, fun s vs => { cpWith s 0x22 (vs.take 1) none none false w.toNat (doneWith cs 1 vs) with b := 0 }⟩
  | .wsync g a cs w => some ⟨g, [a] ++ barSrc cs, fun _ => false, fun s vs => { cpWith s 0x23 (vs.take 1) none none false w.toNat (doneWith cs 1 vs) with b := 0 }⟩
  | .wclose g cs w => some ⟨g, barSrc cs, fun _ => false, fun s vs => cpWith s 0x24 [] none none false w.toNat (doneWith cs 0 vs)⟩
  | _ => none

/-- The command enters the strand's CPE queue with the tile's next number; CPSTAT sees a byte-moving one as queued (R193). -/
def queueCp (c : CpCmd) (s : State) : State :=
  let n := (curAgent s).nextNo
  modCur (modCurAgent s (fun x => { x with nextNo := n + 1 })) (fun t =>
    let c := { c with strand := s.env.strand, no := n }
    { t with eng := { t.eng with
        cpq := t.eng.cpq ++ [c]
        copies := if c.fn.toNat ≤ 5 then (⟨c.no, c.dn.tag, 1, 0, 0⟩ :: t.eng.copies).take 64 else t.eng.copies } })

/-- The commands of a strand that an engine has not completed: those queued, then those in the engine. -/
def mxOpen (s : State) : Nat := (cur s).eng.mxq.length + ((curAgent s).mx.runs.filter (fun r => r.fired.isNone && r.cmd.strand == s.env.strand)).length
def cpOpen (s : State) : Nat := (cur s).eng.cpq.length + ((curAgent s).cp.table.filter (fun r => r.cmd.strand == s.env.strand)).length

/-- What every push meets first: room in its queue (R35). -/
def pushGate (i : Instr) (s : State) (len : Nat) : Prop := 2 ≤ len → exec i s = .next (beginWait s .engine)

/-- One update of a barrier of memory (R201): darr arrivals and d bytes, or the CODE of the fault that changes nothing. -/
def barrierUpdate (m : Memory) (k : Nat) (arrive : Bool) (d : Int) : Nat ⊕ Word :=
  let w := readWord m k
  let arr := (w.extractLsb' 56 7).toNat
  let darr := if arrive then 1 else 0
  let by' : Int := (w.extractLsb' 0 56).toInt + d
  if arrive ∧ arr = 0 then .inl 2
  else if by' < -2 ^ 55 ∨ 2 ^ 55 - 1 < by' then .inl 1
  else
    let flip := arr - darr = 0 ∧ by' = 0
    let arr' : BitVec 7 := if flip then (readWord m (k + 8)).extractLsb' 0 7 else BitVec.ofNat 7 (arr - darr)
    .inr ((if flip then ~~~(w.extractLsb' 63 1) else w.extractLsb' 63 1) ++ arr' ++ BitVec.ofInt 56 by')

/-- A barrier of the tile's own memory at an address. -/
abbrev ownBarrier (s : State) (a : Word) (k : Nat) : Prop := a.toNat % 16 = 0 ∧ localKey s a = some k

/-! ### Ports, messages, calls, light, domains (07) -/

/-- Trap of an instruction with TADDR and TINFO. -/
def trapsAt (s : State) (cause : Nat) (addr : Word) (info : Nat) : Host.Outcome State Fault Refusal :=
  .next (takeTrap s ⟨cause, some addr, BitVec.ofNat 64 info, none, 0, id, false⟩)

/-- A precise REDUCE_ABORT (07 R205): SEQ, group and REASON. -/
def aborts (s : State) (seq group reason : Nat) : Host.Outcome State Fault Refusal :=
  trapsAt s 0x11 0 (seq % 2 ^ 32 * 2 ^ 32 + group % 512 * 2 ^ 16 + reason)

/-- The SEQ of the tile's open call on a group, 0 without one. -/
def seqOf (s : State) (g : Nat) : Nat := match callOf (curAgent s) g with | some c => c.seq.toNat | none => 0

/-- The words of a send as they enter the send buffer: each with the message it goes in, and a message ends with every n-th, n what MAXMSG allows, and with the last of
all (R214). -/
def buffered (dst : Nat) (o : SendOp) (words : List Word) (s : State) : List SendEl :=
  let n := elemsPerMsg s
  words.zipIdx.map (fun p =>
    ⟨newMsg dst o.ch (o.bsp = 1) o.lvl (if o.rel = 1 then some o.scope else none) s, p.1, (p.2 + 1) % n = 0 ∨ p.2 + 1 = words.length⟩)

/-- A send of words with the send buffer as it stands (R213): all are placed and the instruction retires; or those there is room for, and the strand, WAITING, holds the others;
or it waits for room with none placed. s is the state before the instruction, t the one at which the words are placed. -/
def sends (i : Instr) (dst : Nat) (o : SendOp) (words : List Word) (s t : State) : Prop :=
  let room := 64 - (curAgent t).ni.sbuf.length
  (words.length ≤ room → exec i s = .next (retire (bufferEls (buffered dst o words t) t) .next)) ∧
  (0 < room → room < words.length → ∃ u, exec i s = .next u ∧ u.mem = s.mem ∧ (cur u).st = .waiting ∧ (cur u).cause = some .sink ∧ (cur u).pc = (cur s).pc ∧
    (curAgent u).ni.sbuf = (curAgent s).ni.sbuf ++ (buffered dst o words t).take room ∧
    ∃ l, (cur u).reply = some l ∧ l.map (·.val) = words.drop room) ∧
  (room = 0 → words ≠ [] → exec i s = .next (beginWait s .sink))

/-- A message that its strand is still sending. -/
abbrev openMsg (a k : Nat) (m : Msg) : Prop := m.src = a ∧ m.strand = k ∧ m.whole = false

/-- The open call on a group replaced. -/
def withCall (c : OpenCall) (s : State) : State :=
  modCurAgent s (fun x => { x with calls := x.calls.map (fun d => if d.group = c.group then c else d) })

/-- A value in the width of a reduction TYPE (07 R218). -/
def typeWidth (ty : BitVec 4) : Nat := [32, 16, 8, 8, 32, 64, 32, 64].getD ty.toNat 64

/-- The slot a register names holds an ordinary arrival. -/
abbrev ordinarySlot (s : State) (gb : Word) (sl : Slot) : Prop := gb.toNat < 8 ∧ mget? (curAgent s).rx.slots gb.toNat = some sl ∧ sl.use = .ordinary

/-- Scope of a domain level: tile, domain, domain, system (07 R230). -/
def scopeOfLevel (l : BitVec 2) : BitVec 2 := if l = 0 then 0 else if l = 3 then 3 else 1

/-- The strand is a member of its domain of a level, and has an arrival there that is not released. -/
def inDomain (s : State) (l : BitVec 2) : Bool := (mget 0 (cur s).dom l.toNat).getLsbD 55
def arrivedAt (s : State) (l : BitVec 2) : Bool := mget false (cur s).arrived l.toNat

/-! ### System registers (01 R38 to R43, 15 R348, 18 R400, 19 R425, R427, 20 R435, R441, R445, 21 R459) -/

/-- A word of fields, each with its lowest bit. -/
def packed (l : List (Nat × Nat)) : Word := BitVec.ofNat 64 (l.map (fun p => p.2 * 2 ^ p.1)).sum

/-- The assigned numbers, and those that MTS may write. -/
def sysNumbers : List Nat :=
  List.range 7 ++ [0x10, 0x11] ++ List.range' 0x20 9 ++ List.range' 0x30 8 ++ List.range' 0x40 4 ++ [0x50, 0x60, 0x100, 0x101, 0x102, 0x110, 0x120, 0x130, 0x140, 0x141] ++
    List.range' 0x240 64 ++ [0x280, 0x290, 0x291, 0x292, 0x2A0, 0x2A1, 0x2B0]
def sysWritable : List Nat :=
  [0x10, 0x11] ++ List.range' 0x20 7 ++ [0x50, 0x100, 0x102, 0x110, 0x120, 0x130, 0x140, 0x141] ++ List.range' 0x240 64 ++ [0x280, 0x290, 0x291, 0x292, 0x2A0]

/-- The privilege that an access needs (R38). -/
def sysNeeds (n : Nat) (write : Bool) : Nat :=
  if 0x200 ≤ n ∧ n ≤ 0x2FF then 2 else if 0x100 ≤ n ∧ n ≤ 0x1FF then (if write ∧ n ∈ [0x100, 0x102, 0x140, 0x141] then 2 else 1) else 0

/-- What MFS reads (R39 to R43; the registers of the other chapters by what State holds of them). -/
def sysValue (s : State) (n : Nat) : Word :=
  let t := cur s
  let a := s.env.agent
  let cx := fun (f : Tag → Nat) => match t.tag with | some g => BitVec.ofNat 64 (f g) | none => 0
  match [(0x10, t.sys.fpctl), (0x11, t.sys.fpflags), (0x20, t.sys.tvec), (0x21, t.sys.tpc), (0x22, t.sys.tcause), (0x23, t.sys.taddr), (0x24, t.sys.tinfo), (0x25, t.sys.tprev),
      (0x26, t.sys.tdepth), (0x27, t.sys.tcause2), (0x28, t.sys.taddr2), (0x50, t.sys.seed), (0x100, s.os.nameroot), (0x102, s.os.cxtab), (0x110, (agentAt s a).maxmsg.getD s.os.maxmsg),
      (0x120, s.os.ageLimit), (0x130, (agentAt s a).calldl.getD s.os.calldl), (0x140, (curAgent s).faultbox), (0x280, s.rel.errinj), (0x291, s.rel.rowsel), (0x290, remapstat s), (0x292, rowstate s),
      (0x2B0, bootstat s)].find? (fun p => p.1 == n) with
  | some p => p.2
  | none =>
    if n = 0 then packed [(0, s.env.strand)]
    else if n = 1 then (if isCore a then 0 else packed [(0, nameOf s a), (14, tileField a), (20, tileCol a), (25, tileRow a)])
    else if n = 2 then cx (fun g => g.cx.toNat)
    else if n = 3 then cx (fun g => g.inc.toNat)
    else if n = 4 then packed [(16, t.base.toNat), (0, t.size.toNat)]
    else if n = 5 then packed [(2, t.mode.toNat), (0, t.priv.toNat)]
    else if n = 6 then BitVec.ofNat 64 (s.env.tc - (curAgent s).cycle0)
    else if n = 0x60 then cx (fun g => mget 0 (curAgent s).ni.orphans g.cx.toNat)
    else if n = 0x101 then (match t.tag with | some g => (ctxAt s g.cx.toNat).ptroot &&& 0x00FFFFFFFFFF0000 | none => 0)
    else if n = 0x2A0 then packed [(62, s.rel.ckpt.op.toNat)]
    else if n = 0x2A1 then packed [(56, s.rel.ckpt.st.toNat), (48, s.rel.ckpt.slot.toNat), (0, s.rel.ckpt.gen % 2 ^ 48)]
    else if 0x30 ≤ n ∧ n < 0x38 then packed [(0, (bindingOf t (n - 0x30)).kind.toNat), (16, (bindingOf t (n - 0x30)).target.toNat)]
    else if 0x40 ≤ n ∧ n < 0x44 then mget 0 t.dom (n - 0x40)
    else if 0x240 ≤ n ∧ n < 0x280 then mget 0 s.trust.ulring (n - 0x240)
    else 0

/-- The bits that a written register keeps; the rest of the value is discarded. -/
def sysMask (n : Nat) : Word :=
  match [(0x10, (0x1F7 : Word)), (0x11, 0x1F), (0x20, ~~~7), (0x21, ~~~7), (0x22, 0xFF), (0x26, 1), (0x100, 0x00FFFFFFFFFFFFC0), (0x102, 0x00FFFFFFFFFFF000),
      (0x110, 0x7F), (0x120, 0xFFFFFFFF), (0x130, 0xFFFFFFFF), (0x140, 0x00FFFFFFFFFFF00F)].find? (fun p => p.1 == n) with
  | some p => p.2
  | none => if 0x240 ≤ n ∧ n < 0x280 then 0x81FFFFFFFC000000 else BitVec.allOnes 64

/-- A value that lies outside the limits of its register: ILLEGAL with FIELD 34 (R38, R42, 09 R255, 19 R425, R427, 20 R435, R445). -/
def sysBad (n : Nat) (v : Word) : Bool :=
  let f := fun (lo len : Nat) => v.toNat / 2 ^ lo % 2 ^ len
  if n = 0x10 then 6 ≤ f 0 3
  else if n = 0x110 then f 0 7 < 2 || 64 < f 0 7
  else if n = 0x141 then f 62 2 == 0 || f 62 2 == 3
  else if n = 0x280 then
    let kind := f 60 4
    3 < kind || ([511, 11, 27, 63].getD kind 0 < f 50 9) || 4 < f 35 3 || (kind == 3 && f 35 3 != 0) || 47 < f 29 6 || 16 < f 24 5 || 11 < f 20 4 || f 0 20 != 0
  else if n = 0x291 then f 10 54 != 0 || 47 < f 4 6 || 11 < f 0 4
  else if n = 0x292 then f 5 19 != 0 || (v.getLsbD 29 && 16 < f 24 5)
  else if n = 0x2A0 then f 62 2 == 3
  else false

/-- Nothing of the machine but the current strand's system registers, the configuration and the control words of the other chapters has changed. -/
def sameMachine (s t : State) : Prop :=
  t.env = s.env ∧ t.net.reqs = s.net.reqs ∧ t.net.msgs = s.net.msgs ∧ t.net.trees = s.net.trees ∧ t.light = s.light ∧ t.os.ctxs = s.os.ctxs ∧ t.os.tasks = s.os.tasks ∧
  t.boot = s.boot ∧ (∀ a, (agentAt t a).pool = (agentAt s a).pool ∧ (agentAt t a).mx = (agentAt s a).mx ∧ (agentAt t a).cp = (agentAt s a).cp ∧
    (agentAt t a).ni = (agentAt s a).ni ∧ (agentAt t a).rx = (agentAt s a).rx)

/-- What MTS of v does to register n beyond what is held and read back: answers, rebuilds, tiles declared dead, checkpoints. -/
def sysActs (n : Nat) (v : Word) (s : State) : State :=
  if n = 0x141 then
    { s with net := { s.net with walks := s.net.walks.map (fun w =>
        if w.chart ∧ w.token = some (v.toNat % 2 ^ 32) then (if v.toNat / 2 ^ 62 = 1 then { w with chart := false, token := none } else { w with failed := true, chart := false, token := none })
        else w) } }
  else if n = 0x290 then
    (if v.getLsbD 62 = true ∧ (∀ p ∈ s.os.ctxs, p.2.st = 0) then { s with rel := { s.rel with rebuild := true } } else s)
  else if n = 0x292 then
    (if v.getLsbD 29 = true then declareDead s (physOf (s.rel.rowsel.toNat / 16 % 64) (v.toNat / 2 ^ 24 % 32) (s.rel.rowsel.toNat % 16)) else s)
  else
    let k := s.rel.ckpt
    let op := BitVec.ofNat 2 (v.toNat / 2 ^ 62)
    let put := fun (k : Ckpt) => { s with rel := { s.rel with ckpt := k } }
    if k.st.toNat ∈ [1, 2, 3, 4, 6] then s
    else if op = 1 then put { k with op := 1, st := 1, withheld := [], bad := false }
    else if op = 2 then (if (∀ p ∈ s.os.ctxs, p.2.st = 0) ∧ s.rel.wave = none then put { k with op := 2, st := 6 } else put { k with op := 0, st := 7 })
    else put { k with op := 0 }

/-! ### Words with a status (16 R377, R378) -/

/-- A trap with TADDR the PC. -/
def trapsPc (s : State) (cause info : Nat) : Host.Outcome State Fault Refusal := .next (takeTrap s ⟨cause, none, BitVec.ofNat 64 info, none, 0, id, false⟩)

/-- CODE and VALUE as a status word. -/
def codeWord (code value : Nat) : Word := packed [(56, code), (0, value % 2 ^ 56)]

/-- The word retires in state u with w in D. -/
def retiresWith (i : Instr) (d : Reg) (w : Word) (s u : State) : Prop := ∀ t, writeReg d w u = .ok ((), t) → exec i s = .next (retire t .next)

/-- The words whose D receives a status word when their operation has ended: guard, D, operands. -/
def statusForm : Instr → Option (Guard × Reg × List Reg)
  | .tqpop g d a _ _ => some (g, d, [a])
  | .tqdone g d a _ => some (g, d, [a])
  | .tqcancel g d a _ => some (g, d, [a])
  | .tqresume g d _ _ => some (g, d, [])
  | .place g d a _ => some (g, d, [a])
  | .cxnew g d _ _ => some (g, d, [])
  | .cxkill g d _ => some (g, d, [])
  | .cxreclaim g d _ => some (g, d, [])
  | .cxsave g d _ _ _ => some (g, d, [])
  | .cxload g d _ => some (g, d, [])
  | .preempt g d _ => some (g, d, [])
  | .tlbinv g d a _ _ _ => some (g, d, [a])
  | .nameinv g d a _ => some (g, d, [a])
  | .gtabw g d a _ => some (g, d, [a])
  | .ttabw g d a _ => some (g, d, [a])
  | _ => none

/-- The strand's accesses have been performed for every agent, and what SBAR recorded is done (16 R378). -/
abbrev drained (s : State) : Prop := performedAt s 3 = true ∧ sbarDone s = true

/-- A class S word can begin: it executes, D can take a value, its operands have been read, the strand's accesses and what SBAR recorded are performed, and no status has
come; s1 is the state its operation begins in. -/
def begins (g : Guard) (d : Reg) (srcs : List Reg) (s : State) (vs : List Word) (s1 : State) : Prop :=
  executes (cur s) g = true ∧ ∃ s0 u, checkDst d s = .ok ((), s0) ∧ readsAll srcs s0 vs u ∧ drained u ∧ s1 = afterSbar u ∧ replyFor s1 0 = none

/-- The strand waits for the operation that Lodestar has taken up. -/
def awaits (s : State) (f : State → State) (kind : OpKind) (c : Nat) : Host.Outcome State Fault Refusal :=
  let u := f (beginWait s .service)
  .next { u with os := { u.os with ops := u.os.ops ++ [⟨kind, c, u.env.agent, u.env.strand, 0, []⟩] } }

/-- No operation on a context is in progress but those of a kind it may run beside. -/
abbrev noOpBut (s : State) (c : Nat) (ks : List OpKind) : Prop := ∀ o ∈ s.os.ops, o.cx = c → o.kind ∈ ks

/-- A checkpoint does not hold the context (20 R448). -/
abbrev notHeld (s : State) (c : Nat) : Prop :=
  let st := s.rel.ckpt.st.toNat
  st ∉ [2, 3, 4, 6] ∧ (st = 1 → c ∉ s.rel.ckpt.withheld)

/-! ### Frames and invariants -/

/-- Destination register, destination predicate and whether the flags may change, of the instructions that touch registers only: MAJ 0x01, 0x21, 0x22, 0x03, 0x04 and
the constants. -/
def frameOf (i : Instr) : Option (List Reg × Option Reg × Option PReg × Bool) :=
  match (arithForm i <|> countForm i) <|> moveForm i, predForm i, fpForm i with
  | some x, _, _ => some (x.srcs, some x.d, none, false)
  | _, some x, _ => some (x.srcs, none, some x.pd, false)
  | _, _, some x => some (x.srcs, some x.d, none, true)
  | none, none, none => none

/-- What a register-only instruction with destination d or pd leaves as it was: memory, the rest of the machine, other agents and strands, the agent's engines, and
of its own strand every other register. fp allows FPFLAGS and the draws, and the trap registers where the trap of R111 is taken. -/
def framed (d : Option Reg) (pd : Option PReg) (fp : Bool) (s t : State) : Prop :=
  let a := s.env.agent
  let k := s.env.strand
  t.mem = s.mem ∧ t.net = s.net ∧ t.light = s.light ∧ t.os = s.os ∧ t.rel = s.rel ∧ t.boot = s.boot ∧ t.trust = s.trust ∧ t.env = s.env ∧
  (∀ b, b ≠ a → agentAt t b = agentAt s b) ∧ (∀ j, j ≠ k → strandAt t a j = strandAt s a j) ∧
  { agentAt t a with pool := (agentAt s a).pool, strands := (agentAt s a).strands } = agentAt s a ∧
  (∀ r, (∀ f, d = some f → r ≠ (cur s).base.toNat + f.toNat) → mget 0 (curAgent t).pool r = mget 0 (curAgent s).pool r) ∧
  (∀ q, (∀ p, pd = some p → q ≠ p.toNat) → mget 0 (cur t).preds q = mget 0 (cur s).preds q) ∧
  (cur t).vregs = (cur s).vregs ∧ (cur t).qb = (cur s).qb ∧ (cur t).dom = (cur s).dom ∧ (cur t).eng = (cur s).eng ∧ (cur t).tag = (cur s).tag ∧
  (cur t).task = (cur s).task ∧ (cur t).base = (cur s).base ∧ (cur t).size = (cur s).size ∧ (cur t).priv = (cur s).priv ∧ (cur t).mode = (cur s).mode ∧
  (fp = false → (cur t).sys = (cur s).sys) ∧
  (fp = true → (cur t).sys = { (cur s).sys with fpflags := (cur t).sys.fpflags, seed := (cur t).sys.seed, tpc := (cur t).sys.tpc, tcause := (cur t).sys.tcause, taddr := (cur t).sys.taddr, tinfo := (cur t).sys.tinfo, tprev := (cur t).sys.tprev, tdepth := (cur t).sys.tdepth } ∧
    ((cur t).sys.tdepth = 0 → (cur t).sys.tpc = (cur s).sys.tpc ∧ (cur t).sys.tcause = (cur s).sys.tcause ∧ (cur t).sys.taddr = (cur s).sys.taddr ∧
      (cur t).sys.tinfo = (cur s).sys.tinfo ∧ (cur t).sys.tprev = (cur s).sys.tprev))

/-- A checkpoint image holds module memory only, in canonical form. -/
def imageInv (i : Image) : Prop := i.mem.wf ∧ (∀ c ∈ i.mem.cells, c.1 < 2 ^ 43) ∧ (∀ w ∈ i.mem.poison, w < 2 ^ 40)

/-- Memory is in canonical form, and so is every copy that a checkpoint made. -/
def memInv (s : State) : Prop := s.mem.wf ∧ (∀ p ∈ s.rel.ckpt.slots, imageInv p.2) ∧ (∀ i, s.rel.ckpt.staged = some i → imageInv i)

end Sys2Proof.Spec

open Sys2Proof Sys2Proof.Machine Sys2Proof.Spec

/-! ### Integer instructions -/

/-- The sixteen operations of FN 0 to 15, with register and with immediate operands (04 R105 to R107, R109).
CLZ, CTZ, POPC and BSWAP (04 R106).
EXT, BFX, BFI, SEL, MOV, LEA and the constants (04 R108 to R110). -/
def Obligations.IntegerResult : Prop :=
  (∀ i x, arithForm i = some x → computes i x ∧ computesG i x) ∧
  (∀ i x, countForm i = some x → computes i x ∧ computesG i x) ∧
  (∀ i x, wellFormed i = true → moveForm i = some x → computes i x ∧ computesG i x)

/-- The compares and the predicate instructions (04 R108, R109, R115). -/
def Obligations.PredicateResult : Prop := ∀ i x, wellFormed i = true → predForm i = some x → ∀ s s1 vs, executes (cur s) x.g = true →
  readsAll x.srcs s vs s1 → exec i s = .next (retire (withPred x.pd (x.f (cur s) vs) s1) .next)

/-! ### FP32 -/

/-- FP32 arithmetic and conversion (04 R111 to R113): flags, trap, result.
FCMP (03 R85, 04 R112): only a signalling NaN raises a flag. -/
def Obligations.FloatInstructions : Prop :=
  (∀ i x, fpForm i = some x → ∀ s s0 s1 vs, executes (cur s) x.g = true → checkDst x.d s = .ok ((), s0) →
   readsAll x.srcs s0 vs s1 →
   let mode := modeOf (cur s) x.rm
   let s2 := afterDraw x.draws mode s1
   let r := x.f mode (drawOf x.draws mode s1) vs
   (fpTraps (cur s) r.2 = true → exec i s = .next (fpTrap s s2 r.2 0)) ∧
   (fpTraps (cur s) r.2 = false → ∀ t, writeReg x.d (BitVec.ofNat 64 r.1) (orFlags r.2 s2) = .ok ((), t) → exec i s = .next (retire t .next))) ∧
  (∀ g pd a b c s s1 x y, wellFormed (.fcmp g pd a b c) = true → executes (cur s) g = true →
   readsAll [a, b] s [x, y] s1 →
   let m := fp32Of x
   let n := fp32Of y
   let fl : BitVec 5 := if m.snan ∨ n.snan then 1 else 0
   (fpTraps (cur s) fl = true → exec (.fcmp g pd a b c) s = .next (fpTrap s s1 fl 0)) ∧
   (fpTraps (cur s) fl = false → exec (.fcmp g pd a b c) s = .next (retire (withPred pd (oneIf (fcond c.toNat m n)) (orFlags fl s1)) .next)))

/-- GRD and GWR (04 R116): the register at A + IMM, or REGBOUND with its TADDR and TINFO. -/
def Obligations.IndexedRegister : Prop := ∀ g d a imm s s0 s1 x, executes (cur s) g = true →
  let i : Int := x.toInt + imm.toInt
  let size := (cur s).size.toNat
  (checkDst d s = .ok ((), s0) → readReg a s0 = .ok (x, s1) →
    (0 ≤ i ∧ i < size → ∀ t, writeReg d (curReg s1 i.toNat) s1 = .ok ((), t) → exec (.grd g d a imm) s = .next (retire t .next)) ∧
    (¬ (0 ≤ i ∧ i < size) → exec (.grd g d a imm) s = .next (takeTrap s ⟨0x03, some (BitVec.ofInt 64 i), BitVec.ofNat 64 size, none, 0, id, false⟩))) ∧
  (∀ v, readsAll [a, d] s [x, v] s1 →
    (0 ≤ i ∧ i < size → exec (.gwr g d a imm) s = .next (retire (setCurReg s1 i.toNat v) .next)) ∧
    (¬ (0 ≤ i ∧ i < size) → exec (.gwr g d a imm) s = .next (takeTrap s ⟨0x03, some (BitVec.ofInt 64 i), BitVec.ofNat 64 (size + 64), none, 0, id, false⟩)))

/-! ### Operands, guards, words -/

/-- General registers and queue ports as operands (01 R21 to R25, 03 R87). -/
def Obligations.OperandAccess : Prop := ∀ (r : Reg) (v : Word) (s : State),
  (isG r → readReg r s = .ok (curReg s r.toNat, s) ∧ checkDst r s = .ok ((), s) ∧ writeReg r v s = .ok ((), setCurReg s r.toNat v) ∧
    curReg (setCurReg s r.toNat v) r.toNat = v ∧ (∀ f, f ≠ r.toNat → curReg (setCurReg s r.toNat v) f = curReg s f)) ∧
  (¬ isG r →
    let n := r.toNat - 56
    let b := bindingOf (cur s) n
    (¬ isSource b.kind.toNat → readReg r s = .error (.trap ⟨0x0A, none, BitVec.ofNat 64 (2 * n + if b.kind = 0 then 0 else 1), none, 0, id, false⟩)) ∧
    (isSource b.kind.toNat → endpoint (curAgent s) s.env.strand b = [] → readReg r s = .error (.wait .operand id)) ∧
    (∀ e l, isSource b.kind.toNat → endpoint (curAgent s) s.env.strand b = e :: l → e.acq = none →
      ∃ t, readReg r s = .ok (e.val, t) ∧
        (b.kind ≠ 7 → endpoint (curAgent t) s.env.strand b = l ++ (if b.kind = 1 then (chanOf (curAgent s) b.target.toNat).due.take (512 - l.length) else [])) ∧
        (b.kind = 7 → (∀ q ∈ (curAgent s).rx.slots, q.2.due = none) → endpoint (curAgent t) s.env.strand b = l)))

/-- A word outside the vector column whose guard does not let it execute does nothing but move the PC on (01 R27, 04 R103). -/
def Obligations.GuardSkips : Prop := ∀ i s, isWord i = true → vectorMaj (majOf (encode i)) = false → executes (cur s) (guardOf (encode i)) = false →
  exec i s = .next (retire s .next)

/-- Decoding an encoded instruction gives it back, with every operand at every value the encoding admits. -/
def Obligations.DecodeOfEncode : Prop := ∀ i size, isWord i = true → wellFormed i = true → fits size i = true → decode (encode i) 2 size = .ok i

/-- A word that decodes says a well-formed instruction, whose encoding is that word: no bit of it is dropped. -/
def Obligations.EncodeOfDecode : Prop := ∀ w priv size i, decode w priv size = .ok i →
  isWord i = true ∧ wellFormed i = true ∧ fits size i = true ∧ encode i = w

/-- The words the spec writes out decode to the instructions they stand for (03 R80, R88; 04 worked encodings). -/
def Obligations.WrittenWords : Prop :=
  decode 0x2106420480000005 0 56 = .ok (.cmpImm ⟨0, 0⟩ 2 1 2 5) ∧
  decode 0x2200410400004000 0 56 = .ok (.movhi ⟨0, 0⟩ 1 1 0x4000) ∧
  decode 0x0300245180009400 0 56 = .ok (.fcvt ⟨0, 0⟩ 5 6 1 0 5 0 0) ∧
  decode 0x05000953FFFFFFFF 0 56 = .ok (.grd ⟨0, 0⟩ 9 20 (-1)) ∧
  decode 0x4000840BF1800020 0 56 = .ok (.ldp ⟨0, 0⟩ 4 ⟨0, 0⟩ ⟨2, 63, 0, 32⟩) ∧
  decode 0x4101C40851B80000 0 56 = .ok (.amocas ⟨0, 0⟩ 4 2 5 3 ⟨3, 2⟩ 0) ∧
  decode 0x4200000000280000 0 56 = .ok (.fence ⟨0, 0⟩ ⟨2, 2⟩) ∧
  decode 0x500180603FFFFFFE 0 56 = .ok (.loop ⟨0, 0⟩ 6 (-2)) ∧
  decode 0x4000850BF1800020 0 56 = .error ⟨false, 6, 40⟩ ∧
  decode 0x4200000000480000 0 56 = .error ⟨false, 3, 20⟩

/-- Steps 1, 2 and 3 of R90: unassigned MAJ, unassigned FN, and a class the strand's privilege does not meet.
A word that decode refuses traps with ILLEGAL or PRIVILEGE, TADDR and TPC the PC, and REASON and FIELD in TINFO; nothing else of it happens (03 R90, R91). -/
def Obligations.WordsAndRefusals : Prop :=
  (∀ (w : Word) (priv size : Nat),
   ((majTable.all (fun r => r.1 != majOf w)) = true → decode w priv size = .error ⟨false, 1, 56⟩) ∧
   (∀ r ∈ majTable, r.1 = majOf w →
     (fnNum w ∉ r.2.1 → decode w priv size = .error ⟨false, 2, fnBit w⟩) ∧
     (fnNum w ∈ r.2.1 → priv < r.2.2 → decode w priv size = .error ⟨true, r.2.2, 0⟩))) ∧
  (∀ s w e, decode w (cur s).priv.toNat (cur s).size.toNat = .error e → inEpilogue s s.env.agent s.env.strand = false →
   (cur s).sys.tdepth = 0 → s.net.walks = [] →
   ∃ t, execWord s w = .next t ∧ sameBut s.env.agent s.env.strand s t ∧ sameStrand (cur s) (cur t) ∧ (cur t).pc = (cur s).sys.tvec ∧
     (cur t).sys = { (cur s).sys with tcause := (if e.priv then 2 else 1), tpc := (cur s).pc, taddr := (cur s).pc, tprev := 0, tdepth := 1,
                                      tinfo := BitVec.ofNat 64 (e.field * 2 ^ 10 + e.reason) })

/-- A step of a powered machine whose next issue is strand k of agent a runs the instruction of the word it waits in or fetches: as a new issue, or, where the
instruction can only wait, without one (01 R17, R18, R24, 03 R90). Which of the things that can happen happens next is a free choice of the model (log 3). -/
def Obligations.StepRunsDecoded : Prop := ∀ s a k w u i, s.env.powered = true → choose s (candidates s) = some (.issue a) → issueChoice (tick s) a = some k →
  let runs := fun (m : State) => { m with env := { m.env with agent := a, strand := k } }
  has (runs (noteIssue (tick s) a k)) w i u → ∀ t, exec i u = .next t →
    (stalled t a k = false → step s = .next t) ∧
    (stalled t a k = true → ∀ w' i' u', has (runs (tick s)) w' i' u' → step s = exec i' u')

/-- Without power nothing happens but POWER_GOOD; with power every step has a next state: no step is refused (21 R453). That a machine
without power and without an input stops under the name noPower is the model's choice (log 3). -/
def Obligations.StepNeverRefuses : Prop := ∀ s,
  (s.env.powered = true → ∃ t, step s = .next t) ∧
  (s.env.powered = false → s.env.inputs = [] → step s = .fault .noPower) ∧
  (s.env.powered = false → s.env.inputs ≠ [] → ∃ t, step s = .next t)

/-- Every instruction and every event has a next state from every state: what the spec makes wait or trap waits or traps (16 R384), and an event that cannot happen
here changes nothing (the model's choice, log 8). -/
def Obligations.ExecAnswers : Prop := ∀ i s, ∃ t, exec i s = .next t

/-! ### Traps (16 R383, R384; 04 R134) -/

/-- Trap entry with TDEPTH 0, and the double trap (16 R384).
A double trap ends the task FAILED with REASON 6, CAUSE 0x15, TADDR2 and TCAUSE2 (16 R384). -/
def Obligations.TrapAndDoubleTrap : Prop :=
  (∀ s a k cause tpc addr info prev,
   let t := strandAt s a k
   let u := trapEntry s a k cause tpc addr info prev
   (t.sys.tdepth = 0 → sameBut a k s u ∧ sameStrand t (strandAt u a k) ∧ (strandAt u a k).pc = t.sys.tvec ∧ (strandAt u a k).st = .ready ∧
     (strandAt u a k).sys = { t.sys with tpc := tpc, tcause := BitVec.ofNat 64 cause, taddr := addr, tinfo := info, tprev := prev, tdepth := 1 }) ∧
   (t.sys.tdepth ≠ 0 → isCore a = false → t.task = none →
     (strandAt u a k).st = .failed ∧ (strandAt u a k).pc = t.pc ∧ (strandAt u a k).sys = { t.sys with tcause2 := BitVec.ofNat 64 cause, taddr2 := addr } ∧
     ∃ r, (agentAt u a).ni.fbox = (agentAt s a).ni.fbox ++ [r])) ∧
  (∀ s a k cause tpc addr info prev i x,
   (strandAt s a k).sys.tdepth ≠ 0 → (strandAt s a k).task = some i → taskAt s i = some x → x.retire = none → isCore a = false →
   ∃ y, taskAt (trapEntry s a k cause tpc addr info prev) i = some y ∧ y.retire = some .failed ∧ y.reason = 6 ∧ y.cause = 0x15 ∧ y.taddr = addr ∧
     y.tinfo = BitVec.ofNat 64 cause)

/-- TRET, TRAP and BREAK (16 R383, 04 R134). -/
def Obligations.TrapAndReturn : Prop := ∀ g n s,
  (executes (cur s) g = true →
    exec (.tret g) s = .next (retire s (.jump (cur s).sys.tpc)) ∧
    (inEpilogue s s.env.agent s.env.strand = false → s.net.walks = [] →
      exec (.trap g n) s = .next (trapEntry s s.env.agent s.env.strand 0x0D ((cur s).pc + 8) (cur s).pc (n.setWidth 64) 0) ∧
      exec (.brk g n) s = .next (trapEntry s s.env.agent s.env.strand 0x0E (cur s).pc (cur s).pc (n.setWidth 64) 0))) ∧
  (executes (cur s) g = false → exec (.trap g n) s = .next (retire s .next) ∧ exec (.brk g n) s = .next (retire s .next))

/-! ### Control flow -/

/-- What retiring does: the PC moves on by 8, or to the target of a taken branch, and nothing else of the strand's architectural state changes (04 R127). -/
def Obligations.RetireMovesPc : Prop := ∀ s tgt,
  (sameBut s.env.agent s.env.strand s (retire s .next) ∧ sameStrand (cur s) (cur (retire s .next)) ∧ (cur (retire s .next)).pc = (cur s).pc + 8 ∧
    (cur (retire s .next)).st = .ready ∧ (cur (retire s .next)).sys = (cur s).sys) ∧
  (sameBut s.env.agent s.env.strand s (retire s (.jump tgt)) ∧ sameStrand (cur s) (cur (retire s (.jump tgt))) ∧ (cur (retire s (.jump tgt))).pc = tgt ∧
    (cur (retire s (.jump tgt))).st = .ready ∧ (cur (retire s (.jump tgt))).sys = (cur s).sys)

/-- The branches of MAJ 0x50 (04 R127, R128; 03 R84, R87). -/
def Obligations.BranchResult : Prop := ∀ (g : Guard) (off : BitVec 30) s, executes (cur s) g = true →
  exec (.br g off) s = .next (retire s (.jump (target s off))) ∧
  (∀ c a b x y s1, c.toNat < 10 → readsAll [a, b] s [x, y] s1 →
    exec (.bc g c a b off) s = .next (retire s1 (if intCond c x y then .jump (target s off) else .next))) ∧
  (∀ z pa, exec (.bp g z pa off) s = .next (retire s (if (predOf (cur s) pa = 0) ↔ z = 1 then .jump (target s off) else .next))) ∧
  (∀ a s0 t, checkDst a s = .ok ((), s0) → writeReg a ((cur s).pc + 8) s0 = .ok ((), t) → exec (.call g a off) s = .next (retire t (.jump (target s off)))) ∧
  (∀ a x s1, readReg a s = .ok (x, s1) →
    (x.toNat % 8 = 0 → exec (.ret g a) s = .next (retire s1 (.jump x))) ∧
    (x.toNat % 8 ≠ 0 → exec (.ret g a) s = .next (takeTrap s ⟨0x04, some x, 8, none, 0, id, false⟩)) ∧
    (let t := x + (off.signExtend 64) <<< 3
     (t.toNat % 8 = 0 → exec (.jmpr g a off) s = .next (retire s1 (.jump t))) ∧
     (t.toNat % 8 ≠ 0 → exec (.jmpr g a off) s = .next (takeTrap s ⟨0x04, some t, 8, none, 0, id, false⟩)))) ∧
  (∀ a, isG a → let v := curReg s a.toNat - 1
    exec (.loop g a off) s = .next (retire (setCurReg s a.toNat v) (if v = 0 then .next else .jump (target s off))))

/-! ### Memory -/

/-- The address of a memory operand (03 R87).
The checks of 04 R119 in their order, before any byte is touched. -/
def Obligations.AddressAndChecks : Prop :=
  (∀ m s a t, effectiveAddress m s = .ok (a, t) ↔ addressOf m s a t) ∧
  (∀ (nd : Need) (a : Word) (al : Nat) (s : State),
   let x := a.toNat
   let fails := fun (c info : Nat) => checkAddr nd a al s = .error (.trap ⟨c, some a, BitVec.ofNat 64 (info + nd.extra), none, 0, id, false⟩)
   (x % al ≠ 0 → fails 0x04 al) ∧
   (x % al = 0 →
     (∀ k, localKey s a = some k → checkAddr nd a al s = .ok (⟨k, true, none⟩, s)) ∧
     (isCore s.env.agent = true → if inModule x then checkAddr nd a al s = .ok (⟨x, false, none⟩, s) else fails nd.mapCause 1) ∧
     (isCore s.env.agent = false → localKey s a = none → x < 2 ^ 46 ∨ (2 ^ 46 + 2 ^ 37 ≤ x ∧ x < 2 ^ 48) ∨ 2 ^ 56 ≤ x → fails nd.mapCause 1) ∧
     (isCore s.env.agent = false → 2 ^ 46 ≤ x → x < 2 ^ 46 + 2 ^ 37 →
       let n := x / 2 ^ 23 % 2 ^ 14
       let region := match (cur s).tag with | some t => (ctxAt s t.cx.toNat).region | none => 0
       (9216 ≤ n ∨ inRegion region n = false → fails 0x09 n) ∧
       (∀ e, n < 9216 → inRegion region n = true → (curAgent s).ni.names.find? (fun e => e.name == n) = some e →
         (e.entry.getLsbD 31 = false → fails 0x09 n) ∧
         (∀ p, entryPhys e.entry = some p → ∃ t, checkAddr nd a al s = .ok (⟨keyVault p (x % 2 ^ 23), p == s.env.agent, none⟩, t) ∧ t.mem = s.mem))) ∧
     (isCore s.env.agent = false → 2 ^ 48 ≤ x → x < 2 ^ 56 →
       let tag := (cur s).tag.getD default
       s.net.walks = [] → ∀ e, tlbFind s s.env.agent tag x nd.access nd.w = some e →
         let enc := leafEnc e.leaf → sealOf s (leafKey e x) = some tag.cx.toNat
         (nd.r = true ∧ ¬ (leafR e.leaf = true ∧ enc) → fails 0x06 3) ∧
         ((nd.r = true → leafR e.leaf = true ∧ enc) → nd.w = true ∧ ¬ (leafW e.leaf = true ∧ enc) → fails 0x07 3) ∧
         ((nd.r = true → leafR e.leaf = true ∧ enc) → (nd.w = true → leafW e.leaf = true ∧ enc) →
           ∃ t, checkAddr nd a al s = .ok (⟨leafKey e x, false, some x⟩, t) ∧ t.mem = s.mem))))

/-- Loads of a strand from its own local store and vault: every element is what memory holds, or the first poisoned one traps (04 R118, R119, 11 R298).
Stores of a strand to its own local store and vault: a request that stores every element in its turn, and no other byte, where the home performs it (04 R118,
R119, 10 R278, R280). That the store is performed after the instruction has retired is one of the orders that R282 allows (log 6). -/
def Obligations.LocalAccess : Prop :=
  (∀ (els : List (Nat × Word)) (keys : List Nat) (n al : Nat) (plain : Bool) (extra : Nat → Nat) (fn : Nat) (s : State),
   sbarDone s = true → els.map (fun e => localKey s e.2) = keys.map some → (∀ e ∈ els, e.2.toNat % al = 0 ∧ replyFor s e.1 = none) →
   let t := afterSbar s
   (∀ k ∈ keys, homeBusy t k = false) →
   ((∀ k ∈ keys, localPoison t k n = false) →
     loadElems els n al plain extra fn s = .ok ((els.zip keys).map (fun q => (q.1.1, localRead t q.2 n)), t)) ∧
   (∀ l1 l2 e k, els.zip keys = l1 ++ (e, k) :: l2 → (∀ q ∈ l1, localPoison t q.2 n = false) → localPoison t k n = true →
     ∃ f, loadElems els n al plain extra fn s = .error (.trap ⟨0x10, some e.2, BitVec.ofNat 64 (extra e.1), none, 0, f, false⟩) ∧
       f = fun s => postPoison s s.env.agent (cur s).tag 0 k fn)) ∧
  (∀ (els : List (Nat × Word × Nat)) (keys : List Nat) (n al : Nat) (plain : Bool) (extra : Nat → Nat) (s : State),
   sbarDone s = true → inEpilogue s s.env.agent s.env.strand = false → els.map (fun e => localKey s e.2.1) = keys.map some → (∀ e ∈ els, e.2.1.toNat % al = 0) →
   let accs := (els.zip keys).map (fun q => (⟨q.2, n, .write, BitVec.ofNat 64 q.1.2.2, 0, q.1.1⟩ : Access))
   let performed := fun (u : State) (tag : Option Tag) => accs.foldl (fun v x => (performAccess v tag x).1) u
   let m := fun (u : State) => (els.zip keys).foldl (fun m q => writeNat m q.2 n (q.1.2.2 % 2 ^ 64)) u.mem
   storeElems (pure ()) els n al plain extra s = .ok ((), if els = [] then afterSbar s else sendReq accs false (afterSbar s)) ∧
   (∀ u tag, performed u tag = setMem u (m u)) ∧
   (∀ u b, (∀ k ∈ keys, b < k ∨ k + n ≤ b) → readByte (m u) b = readByte u.mem b))

/-- LD and LDP (04 R117 to R120). -/
def Obligations.LoadResult : Prop := ∀ g t size o m s s1 a, executes (cur s) g = true → sbarDone s1 = true →
  let s2 := afterSbar s1
  let acq : Bool := o.ord = 1
  (∀ s0, wellFormed (.ld g t size o m) = true → checkDst t s = .ok ((), s0) → addressOf m s0 a s1 →
    let n := bytesOf size
    (a.toNat % n ≠ 0 → exec (.ld g t size o m) s = .next (takeTrap s ⟨0x04, some a, BitVec.ofNat 64 n, none, 0, id, false⟩)) ∧
    (∀ k, a.toNat % n = 0 → localKey s1 a = some k → replyFor s1 0 = none → homeBusy s2 k = false →
      (localPoison s2 k n = true → exec (.ld g t size o m) s = poisonTrap s a 0 k 0) ∧
      (localPoison s2 k n = false → ∀ u, writeReg t (extended size (localRead s2 k n)) (acquired acq o s2) = .ok ((), u) →
        exec (.ld g t size o m) s = .next (retire u .next))) ∧
    (∀ p s3, checkAddr needLoad a n s2 = .ok (p, s3) → elsewhere s3 p n o →
      (replyFor s3 0 = none → exec (.ld g t size o m) s = asks s [⟨p.key, n, .read, 0, 0, 0⟩]) ∧
      (∀ r, replyFor s3 0 = some r →
        (r.poison = true → exec (.ld g t size o m) s = poisonTrap s a 0 p.key 0) ∧
        (r.poison = false → ∀ u, writeReg t (extended size r.val.toNat) (acquired acq o s3) = .ok ((), u) →
          exec (.ld g t size o m) s = .next (retire u .next))))) ∧
  (wellFormed (.ldp g t o m) = true → addressOf m s a s1 →
    (a.toNat % 16 ≠ 0 → exec (.ldp g t o m) s = .next (takeTrap s ⟨0x04, some a, 16, none, 0, id, false⟩)) ∧
    (∀ k, a.toNat % 16 = 0 → localKey s1 a = some k → replyFor s1 0 = none → replyFor s1 1 = none → homeBusy s2 k = false →
      (localPoison s2 k 8 = true → exec (.ldp g t o m) s = poisonTrap s a 0 k 2) ∧
      (localPoison s2 k 8 = false → localPoison s2 (k + 8) 8 = true → exec (.ldp g t o m) s = poisonTrap s a 0 (k + 8) 2) ∧
      (localPoison s2 k 8 = false → localPoison s2 (k + 8) 8 = false →
        exec (.ldp g t o m) s = .next (retire (setCurReg (setCurReg (acquired acq o s2) t.toNat (BitVec.ofNat 64 (localRead s2 k 8))) (t.toNat + 1)
          (BitVec.ofNat 64 (localRead s2 (k + 8) 8))) .next))))

/-- ST and STP (04 R117 to R120; 11 R298, R299): the checks, then the release of an order that has one, then the store as a request for its home, whose performing
changes the bytes stored and no other; in an epilogue the bytes are held, up to the hold capacity. -/
def Obligations.StoreResult : Prop := ∀ g t size o m s s1 a, executes (cur s) g = true →
  let rel : Bool := o.ord = 2
  (∀ v s2, wellFormed (.st g t size o m) = true → addressOf m s a s1 → readReg t s1 = .ok (v, s2) →
    let n := bytesOf size
    let acc := fun (k : Nat) => (⟨k, n, .write, BitVec.ofNat 64 (v.toNat % 2 ^ (8 * n)), 0, 0⟩ : Access)
    (a.toNat % n ≠ 0 → exec (.st g t size o m) s = .next (takeTrap s ⟨0x04, some a, BitVec.ofNat 64 n, none, 0, id, false⟩)) ∧
    (∀ p s3, checkAddr needStore a n s2 = .ok (p, s3) → released rel o s3 → sbarDone s3 = true → goesHome s3 p n o →
      exec (.st g t size o m) s = .next (retire (sendReq [acc p.key] false (afterSbar s3)) .next)) ∧
    (∀ k, a.toNat % n = 0 → localKey s2 a = some k → released rel o s2 → sbarDone s2 = true → inEpilogue s s.env.agent s.env.strand = true →
      ((curAgent s2).rx.held.length + n ≤ 80 * 1024 → ∃ u, exec (.st g t size o m) s = .next (retire u .next) ∧ u.mem = s2.mem ∧ u.net = s2.net ∧
        (curAgent u).rx.held = (curAgent s2).rx.held ++ (natBytes n v.toNat).zipIdx.map (fun q => (k + q.2, q.1))) ∧
      (80 * 1024 < (curAgent s2).rx.held.length + n → exec (.st g t size o m) s = .next (takeTrap s ⟨0x0F, none, 0, none, 0, id, true⟩))) ∧
    (∀ k u tag, localKey s2 a = some k →
      let w := performAccess u tag (acc k)
      w.1 = setMem u w.1.mem ∧ readNat w.1.mem k n = v.toNat % 2 ^ (8 * n) ∧ ∀ b, b < k ∨ k + n ≤ b → readByte w.1.mem b = readByte u.mem b)) ∧
  (wellFormed (.stp g t o m) = true → addressOf m s a s1 →
    (a.toNat % 16 ≠ 0 → exec (.stp g t o m) s = .next (takeTrap s ⟨0x04, some a, 16, none, 0, id, false⟩)) ∧
    (∀ k, a.toNat % 16 = 0 → localKey s1 a = some k → released rel o s1 → sbarDone s1 = true → inEpilogue s s.env.agent s.env.strand = false →
      exec (.stp g t o m) s = .next (retire (sendReq
        [⟨k, 8, .write, curReg s1 t.toNat, 0, 0⟩, ⟨k + 8, 8, .write, curReg s1 (t.toNat + 1), 0, 1⟩] false (afterSbar s1)) .next)))

/-- The atomics at the tile's own memory, and at another home (04 R121 to R124): checks, release, operation; when the answer has come, no step is made again. -/
def Obligations.AtomicResult : Prop := ∀ i x, wellFormed i = true → atomicForm i = some x → ∀ s s0 s1 s2 s3 b v exp, executes (cur s) x.g = true →
  checkDst x.t s = .ok ((), s0) → baseRead x.base s0 b s1 → readReg x.idx s1 = .ok (v, s2) →
  (if x.fn = 7 then readReg x.t s2 = .ok (exp, s3) else exp = 0 ∧ s3 = s2) →
  let a := b + x.disp.signExtend 64
  let n := bytesOf x.size
  let w := 2 ^ (8 * n)
  let rel : Bool := x.o.ord = 2 ∨ x.o.ord = 3
  let acq : Bool := x.o.ord = 1 ∨ x.o.ord = 3
  (replyFor s3 0 = none →
    (a.toNat % n ≠ 0 → exec i s = .next (takeTrap s ⟨0x04, some a, BitVec.ofNat 64 n, none, 0, id, false⟩)) ∧
    (∀ k, a.toNat % n = 0 → localKey s3 a = some k → released rel x.o s3 → sbarDone s3 = true → homeBusy (afterSbar s3) k = false →
      (poisoned s.mem k n = true → exec i s = poisonTrap s a 0 k x.fn) ∧
      (poisoned s.mem k n = false → ∀ u,
        writeReg x.t (extended x.size (readNat s.mem k n))
          (acquired acq x.o (setMem (afterSbar s3) (writeNat s.mem k n (atomicValue x.fn n x.uns (readNat s.mem k n) (v.toNat % w) (exp.toNat % w))))) = .ok ((), u) →
        exec i s = .next (retire u .next))) ∧
    (∀ p s4, checkAddr needAtomic a n s3 = .ok (p, s4) → released rel x.o s4 → sbarDone s4 = true → p.own = false →
      exec i s = asks s [⟨p.key, n, .amo x.fn x.size x.uns, v, exp, 0⟩])) ∧
  (∀ r, replyFor s3 0 = some r →
    (r.poison = true → exec i s = poisonTrap s a 0 r.key x.fn) ∧
    (r.poison = false → ∀ u, writeReg x.t (extended x.size r.val.toNat) (acquired acq x.o s3) = .ok ((), u) → exec i s = .next (retire u .next)))

/-- FENCE and SBAR (04 R125, R126; 03 R93).
EXIT, YIELD and NOP (04 R130, R131, R133). -/
def Obligations.FenceExitYield : Prop :=
  (∀ g s, executes (cur s) g = true →
   (∀ o, wellFormed (.fence g o) = true →
     let acq := 1 = o.ord ∨ 3 = o.ord
     let rel := 2 = o.ord ∨ 3 = o.ord
     (rel → performedAt s o.scope.toNat = false → exec (.fence g o) s = .next (beginWait s .response)) ∧
     ((rel → performedAt s o.scope.toNat = true ∧ sbarDone s = true ∧ (2 ≤ o.scope.toNat → dirtyLines (curAgent s) = [])) →
       let s1 := if rel then afterSbar s else s
       exec (.fence g o) s = .next (retire (if acq then modCurAgent s1 (fun x =>
         { acquireAgent o.scope.toNat x with icache := x.icache.filter (fun e => e.tag != (cur s).tag) }) else s1) .next))) ∧
   (∀ mask, ∃ t, exec (.sbar g mask) s = .next (retire t .next) ∧ sameBut s.env.agent s.env.strand s t ∧ (cur t).sys = (cur s).sys ∧
     (∀ c, c ∈ (cur t).eng.sbarMx ↔ c ∈ (cur s).eng.sbarMx ∨ (mask.getLsbD 17 = true ∧ c ∈ pendingDrains (curAgent s) s.env.strand)) ∧
     (∀ c, c ∈ (cur t).eng.sbarCp ↔ c ∈ (cur s).eng.sbarCp ∨ (mask.getLsbD 16 = true ∧ c ∈ pendingCp (curAgent s) (fun d => d.strand == s.env.strand)) ∨
       ∃ w, w < 16 ∧ mask.getLsbD w = true ∧ c ∈ pendingCp (curAgent s) (fun d => 0x21 < d.fn.toNat && d.k == w)))) ∧
  (∀ g s, executes (cur s) g = true →
   exec (.nop g) s = .next (retire s .next) ∧
   exec (.yield g) s = .next (retire (modCur s (fun t => { t with yielded := true })) .next) ∧
   (∀ ab, (cur s).eng.posted = [] → performedAt s 3 = true → sbarDone s = true → dirtyLines (curAgent s) = [] →
     let t := cur s
     let busy := (ab = 0 ∧ (t.eng.mxq ≠ [] ∨ t.eng.cpq ≠ [])) ∨ (∃ r ∈ (curAgent s).cp.table, r.cmd.strand = s.env.strand) ∨
       (∃ r ∈ (curAgent s).mx.runs, r.fired = none ∧ r.cmd.strand = s.env.strand)
     ∃ u, exec (.exit g ab) s = .next u ∧ sameBut s.env.agent s.env.strand s u ∧
       (busy → (cur u).st = .draining ∧ (cur u).mode = 2) ∧ (¬ busy → (cur u).st = .inactive ∧ (cur u).mode = 0) ∧ (cur u).pc = t.pc + 8 ∧ (cur u).qb = [] ∧
       (cur u).eng.ccq = [] ∧ (cur u).eng.mcq = [] ∧ (cur u).eng.ceq = [] ∧
       (cur u).eng.abandoned = t.eng.abandoned + (if ab = 1 then t.eng.mxq.length + t.eng.cpq.length else 0) ∧
       (ab = 1 → (cur u).eng.mxq = [] ∧ (cur u).eng.cpq = []) ∧ (ab = 0 → (cur u).eng.mxq = t.eng.mxq ∧ (cur u).eng.cpq = t.eng.cpq)))

/-! ### The vector column -/

/-- Elements of a vector register, and which a guard makes active (01 R28, R29; 05 R135). -/
def Obligations.VectorElements : Prop := ∀ w, w = 8 ∨ w = 16 ∨ w = 32 →
  (∀ (x : Line) e, elemOf w x e = x.toNat / 2 ^ (w * e) % 2 ^ w) ∧
  (∀ (x : Line) e v, e < 512 / w → elemOf w (putElem w x e v) e = v % 2 ^ w ∧ ∀ j, j ≠ e → elemOf w (putElem w x e v) j = elemOf w x j) ∧
  (∀ (x : Line) rs e, e ∉ rs.map Prod.fst → elemOf w (putElems w x rs) e = elemOf w x e) ∧
  (∀ t g n e, e ∈ actives t g n ↔ e < n ∧ (if g.pn = 0 then e < predOf t g.pg else min (predOf t g.pg) n ≤ e))

/-- Element-wise vector instructions with flags: arithmetic, special functions, conversions, scans, packing (05 R138 to R145, R149, R153, R155).
Bit operations, selections and lane moves change the active elements of VD, and nothing else (05 R146, R148, R152). -/
def Obligations.VectorDataResult : Prop :=
  (∀ i x, wellFormed i = true → vecForm i = some x → ∀ s,
   let t := cur s
   let mode := modeOf t x.rm
   let es := actives t x.g x.n
   delivers i s (afterDraws x.draws mode es.length s) x.vd x.w x.off (es.zipIdx.map (fun q => (q.1, x.f t mode (nthDraw x.draws mode s q.2) q.1))) none
     (fun a b => b = a)) ∧
  (∀ i x, wellFormed i = true → vecMove i = some x → ∀ s,
   exec i s = .next (retire (withElems x.vd x.w ((actives (cur s) x.g x.n).map (fun e => (e, x.f (cur s) e))) s) .next))

/-- VBCAST, VIOTA, VINS, VEXT and VCOND (05 R148, R150): G is read once, whatever is active.
VCMP: the lowest element under the guard's count that fails the condition (05 R147). -/
def Obligations.VectorAndScalarResult : Prop :=
  (∀ (g : Guard) (et : BitVec 4) s, et.toNat ≤ 10 →
   let t := cur s
   let w := etWidth et
   let es := actives t g (etCount et)
   (∀ vd gs v s1, readReg gs s = .ok (v, s1) →
     exec (.vbcast g vd gs et) s = .next (retire (withElems vd w (es.map (fun e => (e, v.toNat))) s1) .next) ∧
     exec (.viota g vd gs et) s = .next (retire (withElems vd w (es.map (fun e => (e, v.toNat + e))) s1) .next) ∧
     (∀ i, exec (.vins g vd gs et i) s = .next (retire (withElems vd w (if activeAt t g (etCount et) i.toNat then [(i.toNat, v.toNat)] else []) s1) .next))) ∧
   (∀ gd va i,
     (activeAt t g (etCount et) i.toNat = false → exec (.vext g gd va et i) s = .next (retire s .next)) ∧
     (activeAt t g (etCount et) i.toNat = true → ∀ s1 u, checkDst gd s = .ok ((), s1) →
       writeReg gd (if et = 5 ∨ et = 6 ∨ et = 7 then (BitVec.ofNat w (velem t w va i.toNat)).signExtend 64 else BitVec.ofNat 64 (velem t w va i.toNat)) s1 = .ok ((), u) →
       exec (.vext g gd va et i) s = .next (retire u .next))) ∧
   (∀ x, executes t g = true → exec (.vcond g x) s = .next (retire (modCurAgent s (fun a =>
     match a.rx.chain with
     | some _ => { a with rx := { a.rx with cond := decide (predOf t x ≠ 0) } }
     | none => a)) .next))) ∧
  (∀ g pd va vb et cond s, wellFormed (.vcmp g pd va vb et cond) = true →
   let t := cur s
   let c := min (predOf t g.pg) (etCount et)
   let holds := fun e => if etFloat et then fcond cond.toNat (vnum t et va e) (vnum t et vb e)
     else intCond cond (BitVec.ofNat (etWidth et) (velem t (etWidth et) va e)) (BitVec.ofNat (etWidth et) (velem t (etWidth et) vb e))
   let nv := fun e => etFloat et && ((vnum t et va e).snan || (vnum t et vb e).snan)
   let fl : BitVec 5 := if (List.range c).any nv then 1 else 0
   (fpTraps t fl = true → exec (.vcmp g pd va vb et cond) s = .next (fpTrap s s fl (((List.range c).find? nv).getD 0))) ∧
   (fpTraps t fl = false →
     exec (.vcmp g pd va vb et cond) s = .next (retire (withPred pd (((List.range c).find? (fun e => !holds e)).getD c) (orFlags fl s)) .next)))

/-- VRED, VMAXI, VSCALE and VQNT (05 R153, R154, R156, R157). -/
def Obligations.VectorReduceAndScale : Prop := ∀ (g : Guard) (vd va : VReg) (gr : Reg) (et : BitVec 4) (rm : BitVec 3) (sat b : BitVec 1) s,
  let t := cur s
  let w := etWidth et
  let last := etCount et - 1
  let es := actives t g (etCount et)
  let mode := modeOf t rm
  let sn := es.find? (fun e => etFloat et && (vnum t et va e).snan)
  (∀ op, wellFormed (.vred g vd va et rm sat op) = true →
    let draws := etFloat et && op == 0
    delivers (.vred g vd va et rm sat op) s (afterDraws draws mode es.length s) vd w 0
      [(last, combine op.toNat et mode (sat = 1) (if es = [] then 0 else nthDraw draws mode s 0) (es.map (velem t w va)))] (some (sn.getD last)) (fun x y => y = x)) ∧
  (∀ s1, wellFormed (.vmaxi g vd va gr et) = true → checkDst gr s = .ok ((), s1) →
    delivers (.vmaxi g vd va gr et) s s1 vd w 0 [(last, (vmaxiOf t et va es).1, if sn = none then 0 else 1)] sn
      (fun x y => writeReg gr (BitVec.ofNat 64 (vmaxiOf t et va es).2) x = .ok ((), y))) ∧
  (∀ k s1, wellFormed (.vscale g vd va gr et rm sat b) = true → readReg gr s = .ok (k, s1) →
    let x := k.toNat % 256
    let shift : Int := if b = 1 then 127 - (x : Int) else (x : Int) - 127
    delivers (.vscale g vd va gr et rm sat b) s (if x = 255 then s1 else afterDraws true mode es.length s1) vd w 0
      (es.zipIdx.map (fun q => (q.1, if x = 255 then ((fmtOf et).nan, 0) else
        toFormat et mode sat (nthDraw true mode s q.2) ⟨(vnum t et va q.1).scale shift, if (vnum t et va q.1).snan then 1 else 0⟩))) none (fun x y => y = x)) ∧
  (∀ s1, wellFormed (.vqnt g vd va gr et rm b) = true → checkDst gr s = .ok ((), s1) →
    let es := actives t g 32
    let bad := es.any (fun e => (vnum t 1 va e).isNan || (vnum t 1 va e).isInf)
    let x := (blockScale (if et = 3 then 8 else 15) (es.map (vnum t 1 va))).getD 0
    delivers (.vqnt g vd va gr et rm b) s (if bad then s1 else afterDraws true mode es.length s1) vd 8 (32 * b.toNat)
      (es.zipIdx.map (fun q => (q.1, if bad then ((fmtOf et).nan, if (vnum t 1 va q.1).snan then 1 else 0) else
        toFormat et mode 1 (nthDraw true mode s q.2) ⟨(vnum t 1 va q.1).scale (-x), 0⟩))) none
      (fun a c => writeReg gr (if bad then 255 else BitVec.ofInt 64 (x + 127)) a = .ok ((), c)))

/-- Vector loads and stores of the tile's own memory: the active elements, in ascending index (05 R158 to R162). -/
def Obligations.VectorMemory : Prop := ∀ i x, wellFormed i = true → vmemForm i = some x → ∀ s l s1 keys, x.els s l s1 → sbarDone s1 = true →
  let w := vbits x.size
  let n := w / 8
  let s2 := afterSbar s1
  (∀ e ∈ l, e.2.toNat % n = 0) → l.map (fun e => localKey s1 e.2) = keys.map some →
  (x.load = true → ownEls s1 n l keys → (∀ k ∈ keys, homeBusy s2 k = false) →
    ((∀ k ∈ keys, localPoison s2 k n = false) →
      exec i s = .next (retire (withElems x.vt w ((l.zip keys).map (fun q => (q.1.1, localRead s2 q.2 n))) (acquired (x.o.ord = 1) x.o s2)) .next)) ∧
    (∀ l1 l2 e k, l.zip keys = l1 ++ (e, k) :: l2 → (∀ q ∈ l1, localPoison s2 q.2 n = false) → localPoison s2 k n = true →
      exec i s = poisonTrap s e.2 (e.1 * 2 ^ 16) k x.fn)) ∧
  (x.load = false → released (x.o.ord = 2) x.o s1 → inEpilogue s s.env.agent s.env.strand = false →
    let accs := (l.zip keys).map (fun q => (⟨q.2, n, .write, BitVec.ofNat 64 (velem (cur s) w x.vt q.1.1), 0, q.1.1⟩ : Access))
    exec i s = .next (retire (if l = [] then s2 else sendReq accs false s2) .next))

/-- VLDB: one element goes to every active element (05 R159). That its acquire holds also where no element is active is the model's choice (log 102).
VLDFF loads the elements before the first that fails and shortens its guard to them; a failure of element 0 traps (05 R161). -/
def Obligations.SpecialVectorLoads : Prop :=
  (∀ g vt size o m s s1 a, wellFormed (.vldb g vt size o m) = true → addressOf m s a s1 → sbarDone s1 = true →
   let w := vbits size
   let s2 := afterSbar s1
   let es := actives (cur s) g (512 / w)
   (es = [] → exec (.vldb g vt size o m) s = .next (retire (acquired (o.ord = 1) o s1) .next)) ∧
   (∀ e k, es.head? = some e → a.toNat % (w / 8) = 0 → localKey s1 a = some k → replyFor s1 e = none → homeBusy s2 k = false →
     (localPoison s2 k (w / 8) = true → exec (.vldb g vt size o m) s = poisonTrap s a (e * 2 ^ 16) k 7) ∧
     (localPoison s2 k (w / 8) = false →
       exec (.vldb g vt size o m) s = .next (retire (withElems vt w (es.map (fun e => (e, localRead s2 k (w / 8)))) (acquired (o.ord = 1) o s2)) .next)))) ∧
  (∀ g vt size m s s1 l l1 l2 keys, wellFormed (.vldff g vt size m) = true → contiguousEls g size m s l s1 → sbarDone s1 = true →
   let w := vbits size
   let n := w / 8
   let s2 := afterSbar s1
   l = l1 ++ l2 → ownEls s1 n l1 keys → (∀ k ∈ keys, homeBusy s2 k = false) →
   let good := (l1.zip keys).takeWhile (fun q => !localPoison s2 q.2 n)
   let loaded := dropFailedWalks (withElems vt w (good.map (fun q => (q.1.1, localRead s2 q.2 n))) s2)
   let stops := l2 = [] ∨ ∃ e r t, l2 = e :: r ∧ e.1 ≠ 0 ∧ checkAddr (needFirst e.1) e.2 n s2 = .error (.trap t)
   (stops → (∀ k, keys.head? = some k → localPoison s2 k n = false) →
     exec (.vldff g vt size m) s = .next (retire (if good.length < l.length then withPred g.pg good.length loaded else loaded) .next)) ∧
   (stops → ∀ e k, l1.head? = some e → keys.head? = some k → localPoison s2 k n = true → exec (.vldff g vt size m) s = poisonTrap s e.2 0 k 2) ∧
   (∀ e r t, l1 = [] → l2 = e :: r → checkAddr (needFirst e.1) e.2 n s2 = .error (.trap t) → exec (.vldff g vt size m) s = .next (takeTrap s t)))

/-! ### Engines -/

/-- The first posted fault of its class is raised instead of an engine, network or domain instruction, or EXIT, that has not begun its effect; engine faults posted after it
are counted in MORE (06 R168, R169, 07 R205). -/
def Obligations.PostedFaultRaised : Prop := ∀ i g c, raiseClass i = some (g, c) → ∀ s, executes (cur s) g = true → (cur s).reply = none → ∀ p,
  (cur s).eng.posted.find? (raises (cur s).eng.posted c) = some p →
  let engine : Bool := p.cause = 0x0B
  let others := (cur s).eng.posted.erase p
  let rest := if engine then others.filter (fun q => q.cause != 0x0B) else others
  let more := if engine then min 255 (others.filter (fun q => q.cause == 0x0B)).length else 0
  exec i s = .next (takeTrap s ⟨p.cause.toNat, some p.addr, p.info ||| BitVec.ofNat 64 (more * 2 ^ 56), none, 0,
    fun s => modCur s (fun t => { t with eng := { t.eng with posted := rest } }), false⟩)

/-- MXE commands are pushed with the values of their registers (06 R163 to R165, R171 to R185; 01 R34, R35).
MXWAIT and MXSTAT (06 R186, R187). -/
def Obligations.MatrixCommands : Prop :=
  (∀ i x, wellFormed i = true → mxForm i = some x → ∀ s, executes (cur s) x.g = true → noPosted s 0 →
   pushGate i s (cur s).eng.mxq.length ∧
   ((cur s).eng.mxq.length < 2 → ∀ vs s1, readsAll x.srcs s vs s1 →
     let mode := x.mode s vs
     (∀ c, x.bad s vs = some c → exec i s = .next (pushTrap s x.fn 0 x.tag c)) ∧
     (x.bad s vs = none →
       exec i s = .next (retire (kickMxe (queueMx (x.op s (drawOf true mode s1) vs) (afterDraw true mode s1)) s.env.agent) .next)))) ∧
  (∀ g s, executes (cur s) g = true → noPosted s 0 →
   (∀ n : BitVec 8, (mxOpen s ≤ n.toNat → exec (.mxwait g n) s = .next (retire s .next)) ∧ (n.toNat < mxOpen s → exec (.mxwait g n) s = .next (beginWait s .engine))) ∧
   (∀ a b s0, checkDst a s = .ok ((), s0) →
     let x := curAgent s
     let bk := mget bank0 x.mx.banks b.toNat
     ∃ w : Word, (∀ t, writeReg a w s0 = .ok ((), t) → exec (.mxstat g a b) s = .next (retire t .next)) ∧
       (∀ i, i < 8 → w.getLsbD (56 + i) = (mget? x.mx.trig i).isSome) ∧ w.extractLsb' 48 8 = BitVec.ofNat 8 (mxOpen s) ∧ w.extractLsb' 41 7 = 0 ∧
       w.extractLsb' 32 9 = bk.f ∧ w.extractLsb' 12 20 = (if bk.float then 1 else 0) ∧ w.extractLsb' 9 3 = 0 ∧ w.extractLsb' 4 5 = bk.dflags ∧
       w.extractLsb' 2 2 = 0 ∧ w.getLsbD 1 = bk.sat ∧ w.getLsbD 0 = bk.inexact))

/-- Copies and window commands are pushed with the values of their registers (06 R188 to R198).
CPSTAT, CPWAIT and CTCFG (06 R192 to R194). -/
def Obligations.CopyCommands : Prop :=
  (∀ i x, wellFormed i = true → cpForm i = some x → ∀ s, executes (cur s) x.g = true → noPosted s 0 →
   pushGate i s (cur s).eng.cpq.length ∧
   ((cur s).eng.cpq.length < 2 → ∀ vs s1, readsAll x.srcs s vs s1 →
     let c := x.cmd s vs
     (x.bad c = true → exec i s = .next (pushTrap s c.fn.toNat 1 c.dn.tag 3)) ∧
     (x.bad c = false → exec i s = .next (retire (kickCpe (queueCp c s1) s.env.agent) .next)))) ∧
  (∀ g s, executes (cur s) g = true → noPosted s 0 →
   (∀ n : BitVec 10, (cpOpen s ≤ n.toNat → exec (.cpwait g n) s = .next (retire s .next)) ∧ (n.toNat < cpOpen s → exec (.cpwait g n) s = .next (beginWait s .engine))) ∧
   (∀ a tag s0 t, checkDst a s = .ok ((), s0) →
     writeReg a (match (cur s).eng.copies.find? (fun c => c.tag == tag) with
       | none => 0
       | some c => c.st ++ (0 : BitVec 13) ++ c.code ++ BitVec.ofNat 40 c.landed) s0 = .ok ((), t) → exec (.cpstat g a tag) s = .next (retire t .next)) ∧
   (∀ a b c slot x y z s1, readsAll [a, b, c] s [x, y, z] s1 →
     let ct : CtSlot := ⟨x.extractLsb' 0 16, x.extractLsb' 16 16, x.extractLsb' 32 16, x.extractLsb' 48 2, y.extractLsb' 0 32, y.extractLsb' 32 32, z.extractLsb' 0 32⟩
     let bad := ct.c0 = 0 ∨ ct.c1 = 0 ∨ ct.c2 = 0 ∨ x.extractLsb' 50 14 ≠ 0 ∨ z.extractLsb' 32 32 ≠ 0
     (bad → exec (.ctcfg g a b c slot) s = .next (pushTrap s 0x20 1 0 3)) ∧
     (¬ bad → exec (.ctcfg g a b c slot) s = .next (retire (modCur s1 (fun t => { t with eng := { t.eng with ct := mput t.eng.ct slot.toNat ct } })) .next))))

/-- An update of a barrier (06 R201). -/
def Obligations.BarrierUpdate : Prop := ∀ m k arrive d,
  match barrierUpdate m k arrive d with
  | .inl c => barUpdate m k arrive d = (c, m)
  | .inr w => (barUpdate m k arrive d).1 = 0 ∧ readWord (barUpdate m k arrive d).2 k = w ∧
      ∀ b, b < k ∨ k + 8 ≤ b → readByte (barUpdate m k arrive d).2 b = readByte m b

/-- The checks of a barrier's address (06 R203). The code of a core's barrier outside the firmware map is the model's choice (log 95).
The barrier instructions at the tile's own memory, and BEXP, BARV and BTEST when the answer of another home has come (06 R202, R203). BINIT is a request that its
home performs. Which marks BWAIT and BTEST consume is the model's choice (log 100). -/
def Obligations.BarrierInstructions : Prop :=
  (∀ g a b scope pc s s1 ga v, executes (cur s) g = true → noPosted s 0 → readsAll [a, b] s [ga, v] s1 → replyFor s1 0 = none →
   ∀ q ∈ [(Instr.bexp g a b, 0x07), (.barv g a b scope 1, 0x07), (.bwait g a b scope, 0x06), (.btest g pc a b scope, 0x06)],
     (ga.toNat % 16 ≠ 0 → exec q.1 s = .next (takeTrap s ⟨0x04, some ga, 16, none, 0, id, false⟩)) ∧
     (ga.toNat % 16 = 0 → isCore s.env.agent = false → localKey s ga = none → ga.toNat < 2 ^ 46 ∨ 2 ^ 46 + 2 ^ 37 ≤ ga.toNat →
       exec q.1 s = .next (takeTrap s ⟨q.2, some ga, 4, none, 0, id, false⟩)) ∧
     (ga.toNat % 16 = 0 → isCore s.env.agent = true → inModule ga.toNat = false →
       exec q.1 s = .next (takeTrap s ⟨q.2, some ga, 1, none, 0, id, false⟩))) ∧
  (∀ g a b (scope : BitVec 2) s s1 ga, executes (cur s) g = true → noPosted s 0 →
   let done := fun (m : Memory) (t : State) => (.next (retire (setMem t m) .next) : Host.Outcome State Fault Refusal)
   let fails := fun (c : Nat) => (.next (takeTrap s ⟨0x12, some ga, BitVec.ofNat 64 c, none, 0, id, false⟩) : Host.Outcome State Fault Refusal)
   (∀ (p1 : BitVec 1) (count : BitVec 7) k, readReg a s = .ok (ga, s1) → ownBarrier s ga k → sbarDone s1 = true →
     let acc : Access := ⟨k, 16, .barInit, p1 ++ count ++ (0 : BitVec 56), count.setWidth 64, 0⟩
     exec (.binit g a p1 count) s = .next (retire (sendReq [acc] false (afterSbar s1)) .next) ∧
     ∀ u tag, (performAccess u tag acc).1 = setMem u (writeWord (writeWord u.mem k acc.a) (k + 8) acc.b)) ∧
   (∀ v k, readsAll [a, b] s [ga, v] s1 → ownBarrier s ga k → replyFor s1 0 = none → sbarDone s1 = true → homeBusy (afterSbar s1) k = false →
     (poisoned s.mem k 16 = true → exec (.bexp g a b) s = poisonTrap s ga 0 k 1) ∧
     (poisoned s.mem k 16 = false →
       ((barUpdate s.mem k false v.toInt).1 = 0 → exec (.bexp g a b) s = done (barUpdate s.mem k false v.toInt).2 (afterSbar s1)) ∧
       (∀ c, (barUpdate s.mem k false v.toInt).1 = c → c ≠ 0 → exec (.bexp g a b) s = fails c))) ∧
   (∀ (e : BitVec 1) v, readsAll (if e = 1 then [a, b] else [a]) s (if e = 1 then [ga, v] else [ga]) s1 →
     (∀ k, ownBarrier s ga k → replyFor s1 0 = none → released true ⟨2, scope⟩ s1 → homeBusy (afterSbar s1) k = false → poisoned s.mem k 16 = false →
       let d := if e = 1 then v.toInt else 0
       ((barUpdate s.mem k true d).1 = 0 → exec (.barv g a b scope e) s = done (barUpdate s.mem k true d).2 (afterSbar s1)) ∧
       (∀ c, (barUpdate s.mem k true d).1 = c → c ≠ 0 → exec (.barv g a b scope e) s = fails c)) ∧
     (∀ r, replyFor s1 0 = some r → ∀ q ∈ (Instr.barv g a b scope e, 2) :: (if e = 1 then [(Instr.bexp g a b, 1)] else []),
       (r.poison = true → exec q.1 s = poisonTrap s ga 0 r.key q.2) ∧ (r.poison = false → r.code ≠ 0 → exec q.1 s = fails r.code) ∧
       (r.poison = false → r.code = 0 → exec q.1 s = .next (retire s1 .next)))) ∧
   (∀ v pc, readsAll [a, b] s [ga, v] s1 →
     (∀ k, ownBarrier s ga k → sbarDone s1 = true →
       let s2 := afterSbar s1
       let differs : Bool := (readWord s.mem k).getLsbD 63 ≠ v.getLsbD 0
       (homeBusy s2 k = true → exec (.bwait g a b scope) s = .next (beginWait s .response)) ∧
       (homeBusy s2 k = false → poisoned s.mem k 16 = true → exec (.bwait g a b scope) s = poisonTrap s ga 0 k 3) ∧
       (homeBusy s2 k = false → poisoned s.mem k 16 = false →
         (differs = true → exec (.bwait g a b scope) s = .next (retire (acquired true ⟨1, scope⟩ s2) .next)) ∧
         (differs = false → exec (.bwait g a b scope) s = .next (beginWait s .barrier))) ∧
       (homeBusy s2 k = false → replyFor s1 0 = none → poisoned s.mem k 8 = false → pc ≠ 0 →
         exec (.btest g pc a b scope) s = .next (retire (acquired differs ⟨1, scope⟩ (withPred pc (oneIf differs) s2)) .next))) ∧
     (∀ r, replyFor s1 0 = some r → pc ≠ 0 → r.poison = false →
       let differs : Bool := r.val.getLsbD 63 ≠ v.getLsbD 0
       exec (.btest g pc a b scope) s = .next (retire (acquired differs ⟨1, scope⟩ (withPred pc (oneIf differs) s1)) .next))))

/-! ### Ports and messages -/

/-- QBIND and QSTAT (07 R206 to R208). -/
def Obligations.PortBinding : Prop := ∀ g a (kind : BitVec 4) (n : BitVec 3) s, executes (cur s) g = true → kind.toNat ≤ 8 →
  (∀ v s1, (if 1 ≤ kind.toNat ∧ kind.toNat ≤ 4 then readReg a s = .ok (v, s1) else v = 0 ∧ s1 = s) →
    let limit := [2 ^ 64, 16, 2 ^ 14, 4, 512].getD kind.toNat (2 ^ 64)
    let b : Binding := ⟨kind, v.setWidth 16⟩
    (limit ≤ v.toNat → exec (.qbind g a kind n) s = .next (takeTrap s ⟨0x0A, none, BitVec.ofNat 64 (16 + 2 * n.toNat), none, 0, id, false⟩)) ∧
    (v.toNat < limit → exec (.qbind g a kind n) s = .next (retire (modCurAgent s1 (fun x =>
      let strands := if kind = 1 ∨ kind = 3 then x.strands.map (fun p => (p.1, { p.2 with qb := p.2.qb.filter (fun q => q.2 != b) })) else x.strands
      let t := mget strand0 strands s.env.strand
      let t := { t with qb := if kind = 0 then mdel t.qb n.toNat else mput t.qb n.toNat b }
      { x with
        strands := mput strands s.env.strand t
        ni := if kind = 1 then { x.ni with chans := mput x.ni.chans v.toNat { mget chan0 x.ni.chans v.toNat with ovf := false } } else x.ni })) .next))) ∧
  (∀ s0 t, checkDst a s = .ok ((), s0) →
    let b := bindingOf (cur s) n.toNat
    let x := curAgent s
    let ovf := if b.kind = 1 ∧ (mget chan0 x.ni.chans b.target.toNat).ovf = true then 1 else 0
    let count := if b.kind = 4 then (match callOf x b.target.toNat with | some c => c.len - c.given | none => 0)
      else if b.kind = 2 then 64 - x.ni.sbuf.length else if b.kind = 7 then min 8 x.ni.whq.length else (endpoint x s.env.strand b).length
    writeReg a (BitVec.ofNat 64 (b.kind.toNat * 2 ^ 28 + ovf * 2 ^ 16 + count)) s0 = .ok ((), t) → exec (.qstat g a n) s = .next (retire t .next))

/-- SND and SNDV: the checks in their order, then the words into the send buffer, as room appears, in messages that each hold at most what MAXMSG allows (07 R212 to R214,
R217).
A send cut into messages keeps every element, in order, and no message is longer than allowed; the NI takes the buffered elements one by one into the messages they
belong to (07 R213, R214). -/
def Obligations.SendInstructions : Prop :=
  (∀ g a o s, executes (cur s) g = true →
   (∀ b name gb s1, readsAll [a, b] s [name, gb] s1 → (cur s1).reply = none →
     let n := o.count.toNat
     let key := keyLs s.env.agent gb.toNat
     let fits := gb.toNat % 8 = 0 ∧ gb.toNat + 8 * n ≤ 0x300000
     (gb.toNat % 8 ≠ 0 → exec (.snd g a b o) s = trapsAt s 0x04 gb 8) ∧
     (gb.toNat % 8 = 0 → 0x300000 < gb.toNat + 8 * n → exec (.snd g a b o) s = trapsAt s 0x06 gb 1) ∧
     (fits → 2 ^ 14 ≤ name.toNat → exec (.snd g a b o) s = trapsAt s 0x09 name (name.toNat % 2 ^ 14)) ∧
     (∀ p s2, fits → destTile name s1 = .ok (p, s2) → sbarDone s2 = true → homeBusy (afterSbar s2) key = false → released (o.rel = 1) ⟨2, o.scope⟩ (afterSbar s2) →
       (∀ i, i < n → poisonedAt s.mem (key + 8 * i) = false) →
       sends (.snd g a b o) p o ((List.range n).map (fun i => readWord s.mem (key + 8 * i))) s (afterSbar s2))) ∧
   (∀ vb name s1, readReg a s = .ok (name, s1) → (cur s1).reply = none →
     (2 ^ 14 ≤ name.toNat → exec (.sndv g a vb o) s = trapsAt s 0x09 name (name.toNat % 2 ^ 14)) ∧
     (∀ p s2, destTile name s1 = .ok (p, s2) → released (o.rel = 1) ⟨2, o.scope⟩ s2 →
       sends (.sndv g a vb o) p o ((List.range o.count.toNat).map (fun i => (mget 0 (cur s).vregs vb.toNat).extractLsb' (64 * i) 64)) s
         (if o.rel = 1 then afterSbar s2 else s2))) ∧
   (∀ b vb l name s1, (cur s1).reply = some l → l.length ≤ 64 - (curAgent s1).ni.sbuf.length →
     (∀ gb, readsAll [a, b] s [name, gb] s1 → exec (.snd g a b o) s = .next (retire (bufferEls (l.map (sendEl o s1)) s1) .next)) ∧
     (readReg a s = .ok (name, s1) → exec (.sndv g a vb o) s = .next (retire (bufferEls (l.map (sendEl o s1)) s1) .next)))) ∧
  ((∀ dst o (words : List Word) s, 0 < elemsPerMsg s →
     let l := buffered dst o words s
     l.map (·.elem) = words ∧ (words ≠ [] → (l.getLast?.map (·.last)) = some true) ∧
     (∀ x y z, l = x ++ y ++ z → (∀ e ∈ y, e.last = false) → y.length < elemsPerMsg s)) ∧
   (∀ s a e rest, (agentAt s a).ni.sbuf = e :: rest →
     let t := drainSend s a
     t.mem = s.mem ∧ (agentAt t a).ni.sbuf = rest ∧
     ((∀ m ∈ s.net.msgs, ¬ openMsg a e.msg.strand m) → t.net.msgs = s.net.msgs ++ [{ e.msg with elems := e.msg.elems ++ [e.elem], whole := e.last }]) ∧
     (∀ l1 m l2, s.net.msgs = l1 ++ m :: l2 → (∀ q ∈ l1, ¬ openMsg a e.msg.strand q) → openMsg a e.msg.strand m →
       t.net.msgs = l1 ++ { m with elems := m.elems ++ [e.elem], whole := e.last } :: l2)))

/-! ### Reduction calls -/

/-- RDOPEN, RDCS, RDCB and RDRES (07 R218 to R221). -/
def Obligations.ReductionCall : Prop := ∀ g a b c s, executes (cur s) g = true → noPosted s 1 →
  (∀ base all sat ty op ga gb gc s1, readsAll [a, b, c] s [ga, gb, gc] s1 →
    let i := Instr.rdopen g a b c base all sat ty op
    let bad := 512 ≤ ga.toNat ∨ 2 ^ 32 ≤ gb.toNat ∨ gc = 0 ∨ 2 ^ 20 < gc.toNat
    let e := treeAt s s.env.agent ga.toNat
    let member := teState e = 1 ∧ (cur s).tag = some (teTag e) ∧ teHas e 4 = true
    let busy := callOf (curAgent s) ga.toNat ≠ none ∨ 8 ≤ (curAgent s).calls.length
    (bad → exec i s = aborts s gb.toNat ga.toNat 4) ∧
    (¬ bad → ¬ member → exec i s = aborts s gb.toNat ga.toNat 6) ∧
    (¬ bad → member → busy → exec i s = .next (beginWait s .other)) ∧
    (¬ bad → member → ¬ busy → exec i s = .next (retire (modCurAgent s1 (fun x => { x with
      calls := x.calls ++ [⟨ga.toNat, gb.setWidth 32, op, ty, sat = 1, all = 1, base, gc.toNat, 0, [], none, s.env.strand, false, 0⟩] })) .next))) ∧
  (∀ ga v s1, readsAll [a, b] s [ga, v] s1 →
    let grp := ga.toNat % 512
    (∀ d, callOf (curAgent s1) grp = some d → d.given < d.len →
      let v' := BitVec.ofNat 64 (v.toNat % 2 ^ typeWidth d.ty)
      exec (.rdcs g a b) s = .next (retire (withCall { d with given := d.given + 1, vals := d.vals ++ [⟨d.given, 1, none, v', s.env.strand⟩] } s1) .next)) ∧
    ((∀ d, callOf (curAgent s1) grp = some d → d.len ≤ d.given) → exec (.rdcs g a b) s = aborts s (seqOf s1 grp) grp 5)) ∧
  (∀ ga gb gc s1, readsAll [a, b, c] s [ga, gb, gc] s1 →
    let grp := ga.toNat % 512
    let n := gc.toNat
    ((∀ d, callOf (curAgent s1) grp = some d → d.len ≤ d.given) → exec (.rdcb g a b c) s = aborts s (seqOf s1 grp) grp 5) ∧
    (∀ d, callOf (curAgent s1) grp = some d → d.given < d.len →
      let w := typeWidth d.ty / 8
      let own := gb.toNat + n * w ≤ 0x300000 ∨ (0x800000 ≤ gb.toNat ∧ gb.toNat + n * w ≤ 0x1000000) ∨
        (2 ^ 46 ≤ gb.toNat ∧ gb.toNat < 2 ^ 46 + 2 ^ 37 ∧ gb.toNat / 2 ^ 23 % 2 ^ 14 = nameOf s s.env.agent ∧ gb.toNat % 2 ^ 23 + n * w ≤ 0x800000)
      let fits := n ≠ 0 ∧ n ≤ d.len - d.given
      (¬ fits → exec (.rdcb g a b c) s = aborts s (seqOf s1 grp) grp 4) ∧
      (fits → gb.toNat % w ≠ 0 → exec (.rdcb g a b c) s = trapsAt s 0x04 gb w) ∧
      (fits → gb.toNat % w = 0 → ¬ own → exec (.rdcb g a b c) s = trapsAt s 0x06 gb 1) ∧
      (fits → gb.toNat % w = 0 → own → performedAt s1 0 = true → sbarDone s1 = true → exec (.rdcb g a b c) s =
        .next (retire (withCall { d with given := d.given + n, vals := d.vals ++ [⟨d.given, n, some gb, 0, s.env.strand⟩] } (afterSbar s1)) .next)))) ∧
  (∀ cs rq ga gb r s0 s1, readReg a s = .ok (ga, s0) →
    let i := Instr.rdres g a b cs rq
    let grp := ga.toNat % 512
    let there := match callOf (curAgent s0) grp with | some d => receives s0 s.env.agent d | none => true
    readsAll ((if there then [b] else []) ++ barSrc cs) s0 ((if there then [gb] else []) ++ r) s1 → (there = false → gb = 0) →
    (∀ d, callOf (curAgent s1) grp = some d → d.res = none →
      let here := there = true
      let room := gb.toNat + (d.len * (if d.op = 3 then 16 else typeWidth d.ty / 8) + 7) / 8 * 8 + 8 ≤ 0x300000
      (here → rq = 1 → 4 ≤ gb.toNat → exec i s = aborts s (seqOf s1 grp) grp 4) ∧
      (here → rq = 0 → gb.toNat % 8 ≠ 0 → exec i s = trapsAt s 0x04 gb 8) ∧
      (here → rq = 0 → gb.toNat % 8 = 0 → ¬ room → exec i s = trapsAt s 0x07 gb 1) ∧
      ((here → (rq = 1 → gb.toNat < 4) ∧ (rq = 0 → gb.toNat % 8 = 0 ∧ room)) → performedAt s1 0 = true → sbarDone s1 = true →
        exec i s = .next (retire (withCall { d with res := some ⟨gb, rq = 1, doneWith cs 0 r, s.env.strand⟩ } (afterSbar s1)) .next))) ∧
    ((∀ d, callOf (curAgent s1) grp = some d → d.res ≠ none) → exec i s = aborts s (seqOf s1 grp) grp 5))

/-! ### Light -/

/-- INJ and INJC: the request goes to the beacon after a release at wafer scope (07 R224).
WBHDR, WBPOP and WBREL (07 R226, R227).
WDRIVE and WDSTOP (07 R228, R229): the strand parks, its PC behind the WDRIVE, and a chain of the group owns the tile's MXE. -/
def Obligations.LightInstructions : Prop :=
  (∀ g a b s ga gb s1, executes (cur s) g = true → readsAll [a, b] s [ga, gb] s1 →
   ∀ q ∈ [(Instr.inj g a b, false), (.injc g a b, true)],
     (ga.toNat % 64 ≠ 0 → exec q.1 s = trapsAt s 0x04 ga 64) ∧
     (ga.toNat % 64 = 0 → 16 ≤ injectCount s (gb.toNat % 256) → exec q.1 s = .next (beginWait s .other)) ∧
     (ga.toNat % 64 = 0 → injectCount s (gb.toNat % 256) < 16 → released true ⟨2, 2⟩ s1 →
       let s2 := afterSbar s1
       exec q.1 s = .next (retire { s2 with light := { s2.light with
         pending := s2.light.pending ++ [⟨ga, q.2, gb, (cur s).tag, s.env.agent, s.env.strand, false, none⟩] } } .next))) ∧
  (∀ g va a b s gb s1, executes (cur s) g = true → readReg b s = .ok (gb, s1) →
   (8 ≤ gb.toNat → ∀ i ∈ [Instr.wbhdr g va b, .wbrel g b], exec i s = trapsAt s 0x0F gb (2 ^ 10 + gb.toNat % 8)) ∧
   ((∀ sl, ¬ ordinarySlot s1 gb sl) → gb.toNat < 8 →
     exec (.wbhdr g va b) s = .next (takeTrap s ⟨0x0F, none, BitVec.ofNat 64 (2 ^ 8 + gb.toNat), none, 0, id, false⟩) ∧
     exec (.wbrel g b) s = .next (retire s1 .next)) ∧
   (∀ sl, ordinarySlot s1 gb sl →
     exec (.wbhdr g va b) s = .next (retire (modCur s1 (fun t => { t with vregs := mput t.vregs va.toNat sl.hdr })) .next) ∧
     exec (.wbrel g b) s = .next (retire (modCurAgent s1 (fun x =>
       if sl.reading then { x with rx := { x.rx with slots := mput x.rx.slots gb.toNat { sl with freeAfter := true } } }
       else creditRelease (settleHeaders 8 { x with rx := { x.rx with slots := mdel x.rx.slots gb.toNat } }) sl.group sl.seq false)) .next)) ∧
   (∀ ga s2 s3 sl, readReg a s = .ok (ga, s2) → readReg b s2 = .ok (gb, s3) → ordinarySlot s3 gb sl → sbarDone s3 = true →
     let n := if hOpc sl.hdr ≤ 3 then 16 * (hKq sl.hdr + 1) * 128 + (if hSc sl.hdr then hScnt sl.hdr else 0) else 0
     (sl.faulted = true → exec (.wbpop g a b) s = .next (takeTrap s ⟨0x0F, none, BitVec.ofNat 64 (2 ^ 9 + gb.toNat), none, 0, id, false⟩)) ∧
     (sl.faulted = false → ga.toNat % 64 ≠ 0 → exec (.wbpop g a b) s = trapsAt s 0x04 ga 64) ∧
     (sl.faulted = false → ga.toNat % 64 = 0 → 0x300000 < ga.toNat + n → exec (.wbpop g a b) s = trapsAt s 0x07 ga 1) ∧
     (sl.faulted = false → ga.toNat % 64 = 0 → ga.toNat + n ≤ 0x300000 → homeBusy (afterSbar s3) (keyLs s.env.agent ga.toNat) = false →
       exec (.wbpop g a b) s = .next (retire (setMem (afterSbar s3) (writeBytes s.mem (keyLs s.env.agent ga.toNat) ((List.range n).map (mget 0 sl.body)))) .next)))) ∧
  (∀ g a b c s, executes (cur s) g = true →
   (∀ gb gc s1, readsAll [b, c] s [gb, gc] s1 →
     let i := Instr.wdrive g a b c
     (256 ≤ gb.toNat → exec i s = trapsAt s 0x08 gb (gb.toNat % 256 * 2 ^ 32 + 23 * 2 ^ 24)) ∧
     (gb.toNat < 256 → gc.toNat % 128 ≠ 0 → exec i s = trapsAt s 0x04 gc 128) ∧
     (gb.toNat < 256 → gc.toNat % 128 = 0 → 0x300000 < gc.toNat + 128 → exec i s = trapsAt s 0x06 gc 1) ∧
     (gb.toNat < 256 → gc.toNat % 128 = 0 → gc.toNat + 128 ≤ 0x300000 →
       ((curAgent s).rx.chain ≠ none → exec i s = .next (beginWait s .other)) ∧
       ((curAgent s).rx.chain = none → ∃ t, exec i s = .next t ∧ (cur t).st = .parked ∧ (cur t).pc = (cur s).pc + 8 ∧ (cur t).mode = 1 ∧
         (curAgent t).rx.chain = some ⟨gb.toNat, s.env.strand, a, (cur s).pc + 8, gc, 0, none, false, 0, none, none,
           (curAgent s1).rx.slots.findSome? (fun p => if takenByDrive (curAgent s1) gb.toNat p.1 p.2 then p.2.inj else none)⟩ ∧
         (curAgent t).rx.cond = false ∧ (curAgent t).rx.held = [] ∧ (curAgent t).pool = (curAgent s).pool ∧ t.mem = s.mem ∧ t.light = s.light ∧
         (∀ k sl, mget? (curAgent s1).rx.slots k = some sl → ∃ u, mget? (curAgent t).rx.slots k = some u ∧
           if takenByDrive (curAgent s1) gb.toNat k sl then u = { sl with use := .chain, badHdr := !headerOk sl.hdr, due := none }
           else u = sl ∨ u = { sl with due := none })))) ∧
   exec (.wdstop g) s = .next (retire (modCurAgent s (fun x =>
     { x with rx := { x.rx with chain := x.rx.chain.map (fun c => { c with stop := true }) } })) .next))

/-! ### Domains -/

/-- DARV, DWAIT and DSYNC (07 R230, R231): an arrival is made once; a wait ends when the phase is released, and acquires where there was an arrival to wait for. The
empty reply of the strand says that the instruction has waited or arrived. -/
def Obligations.DomainPhase : Prop := ∀ g (l : BitVec 2) s, executes (cur s) g = true → noPosted s 3 →
  let o : Ord := ⟨1, scopeOfLevel l⟩
  (inDomain s l = false → ∀ i ∈ [Instr.darv g l, .dwait g l, .dsync g l], exec i s = .next (retire s .next)) ∧
  (inDomain s l = true → arrivedAt s l = true →
    (∀ i ∈ [Instr.darv g l, .dsync g l], exec i s = .next (beginWait s .domain)) ∧
    exec (.dwait g l) s = .next (modCur (beginWait s .domain) (fun t => { t with reply := some [] }))) ∧
  (inDomain s l = true → arrivedAt s l = false →
    ((cur s).reply = none → exec (.dwait g l) s = .next (retire s .next)) ∧
    ((cur s).reply ≠ none → ∀ i ∈ [Instr.dwait g l, .dsync g l], exec i s = .next (retire (acquired true o s) .next)) ∧
    (released true o s →
      exec (.darv g l) s = .next (retire (arrive l.toNat (afterSbar s)) .next) ∧
      ((cur s).reply = none → exec (.dsync g l) s = .next (modCur (arrive l.toNat (beginWait s .domain)) (fun t => { t with reply := some [] }))))) ∧
  (l ≠ 3 → arrive l.toNat s = modCur s (fun t => { t with arrived := mput t.arrived l.toNat true }))

/-- SPAWN and SWAIT (07 R232, R233). -/
def Obligations.SpawnResult : Prop := ∀ g a b c (base8 : BitVec 6) (size8 k : BitVec 3) s, executes (cur s) g = true → noPosted s 3 →
  (∀ pc g0 seed s1, readsAll [a, b, c] s [pc, g0, seed] s1 →
    let i := Instr.spawn g a b c base8 size8 k
    let base := 8 * base8.toNat
    let size := 8 * size8.toNat
    let meets := ∃ p ∈ (curAgent s1).strands, p.2.st ≠ .inactive ∧ p.2.base.toNat < base + size ∧ base < p.2.base.toNat + p.2.size.toNat
    ((strandOf (curAgent s1) k.toNat).st ≠ .inactive → exec i s = .next (beginWait s .other)) ∧
    ((strandOf (curAgent s1) k.toNat).st = .inactive →
      (pc.toNat % 8 ≠ 0 → exec i s = trapsAt s 0x04 pc 8) ∧
      (pc.toNat % 8 = 0 → 512 < base + size ∨ meets → exec i s = trapsAt s 0x03 (BitVec.ofNat 64 base) (size + 128)) ∧
      (pc.toNat % 8 = 0 → base + size ≤ 512 → ¬ meets → performedAt s1 0 = true → sbarDone s1 = true → ∃ t, exec i s = .next (retire t .next) ∧
        t.mem = s.mem ∧ t.os = s.os ∧
        let u := strandAt t s.env.agent k.toNat
        u.st = .ready ∧ u.pc = pc ∧ u.tag = (cur s1).tag ∧ u.task = (cur s1).task ∧ u.priv = (cur s1).priv ∧ u.dom = (cur s1).dom ∧
        u.base = BitVec.ofNat 9 base ∧ u.size = BitVec.ofNat 6 size ∧ u.sys = { sysRegs0 with seed := seed } ∧ u.preds = [] ∧ u.vregs = [] ∧ u.qb = [] ∧
        u.arrived = [] ∧ (∀ f, f < size → mget 0 (curAgent t).pool (base + f) = if f = 0 then g0 else 0)))) ∧
  (∀ t, t = strandOf (curAgent s) k.toNat →
    (k.toNat = s.env.strand ∨ t.hasRun = false → exec (.swait g k) s = .next (retire s .next)) ∧
    (k.toNat ≠ s.env.strand → t.hasRun = true → t.st = .inactive → exec (.swait g k) s = .next (retire (acquired true ⟨1, 3⟩ s) .next)) ∧
    (k.toNat ≠ s.env.strand → t.hasRun = true → t.st ≠ .inactive → exec (.swait g k) s = .next (beginWait s .other)))

/-! ### System registers and services -/

/-- MFS and TOPO (16 R379, 01 R38 to R43, 14 R347).
MTS, also as the sub-forms that the table names by register and value: what traps changes nothing; what a register holds is read back, and no other register
changes; the others act (16 R379, 01 R38, R42, 18 R400, 19 R425, R427, 20 R435, R441, R445, R447). -/
def Obligations.SystemRegisters : Prop :=
  (∀ g d (num : BitVec 12) s s0, executes (cur s) g = true → checkDst d s = .ok ((), s0) →
   let n := num.toNat
   let i := Instr.mfs g d num
   ((cur s).priv.toNat < sysNeeds n false → exec i s = trapsPc s 0x02 (sysNeeds n false)) ∧
   (sysNeeds n false ≤ (cur s).priv.toNat → n ∉ sysNumbers → exec i s = trapsPc s 0x01 6) ∧
   (sysNeeds n false ≤ (cur s).priv.toNat → n ∈ sysNumbers → retiresWith i d (sysValue s0 n) s s0) ∧
   retiresWith (.topo g d 0) d (packed [(59, if s.boot.pilot then 1 else 0), (56, s.boot.fuses.grade.toNat), (42, s.rel.tiles), (34, s.rel.lastrow), (26, 128),
     (19, if s.boot.fuses.grade = 1 then 70 else 72)]) s s0 ∧
   retiresWith (.topo g d 1) d (packed [(20, 8), (16, 6), (11, 17), (7, 12), (0, 16)]) s s0) ∧
  (∀ g a (num : BitVec 12) s v s1, executes (cur s) g = true → readReg a s = .ok (v, s1) →
   let n := num.toNat
   let k := s.env.agent
   ∀ i ∈ Instr.mts g a num :: ([(0x280, .errinjWrite g a), (0x141, .faultansWrite g a), (0x292, .rowstateKill g a), (0x290, .remapstatRebuild g a),
       (0x2A0, .ckptCheckpoint g a), (0x2A0, .ckptRestore g a)].filter (fun p => p.1 == n)).map (·.2),
     ((cur s).priv.toNat < sysNeeds n true → exec i s = trapsPc s 0x02 (sysNeeds n true)) ∧
     (sysNeeds n true ≤ (cur s).priv.toNat → n ∉ sysWritable → exec i s = trapsPc s 0x01 6) ∧
     (sysNeeds n true ≤ (cur s).priv.toNat → n ∈ sysWritable →
       (sysBad n v = true → exec i s = trapsPc s 0x01 (34 * 2 ^ 10 + 6)) ∧
       (sysBad n v = false → n ∈ [0x141, 0x290, 0x292, 0x2A0] → exec i s = .next (retire (sysActs n v s1) .next)) ∧
       (sysBad n v = false → n ∉ [0x141, 0x290, 0x292, 0x2A0] → (0x240 ≤ n ∧ n < 0x280 → ringApproved s1 (n - 0x240) v = true) →
         ∃ t, exec i s = .next (retire t .next) ∧ sysValue t n = v &&& sysMask n ∧
           (∀ m, m ≠ n → ¬ (n = 0x291 ∧ m = 0x292) → sysValue t m = sysValue s1 m) ∧ sameMachine s1 t ∧ (n ≠ 0x102 → t.mem = s1.mem) ∧
           (n < 0x100 → sameBut k s.env.strand s1 t ∧ sameStrand (cur s1) (cur t) ∧ (cur t).st = (cur s1).st ∧ (cur t).pc = (cur s1).pc)) ∧
       (0x240 ≤ n ∧ n < 0x280 → ringApproved s1 (n - 0x240) v = false → exec i s = .next (retire s1 .next))))

/-- SYSCALL: a release at system scope, the request, and with its answer an acquire at system scope (16 R380). HALT: a wait for a mailbox entry or its timeout, and
what ended it (16 R385).
The class S words that carry a status word: they wait for earlier accesses, and retire with the status that comes (16 R377, R378). TQPUSH: the push and its
status (16 R382). -/
def Obligations.ServiceInstructions : Prop :=
  (∀ g d s s0, executes (cur s) g = true → checkDst d s = .ok ((), s0) → 
   (∀ a lode svc v s1, readReg a s0 = .ok (v, s1) → released true ⟨2, 3⟩ s1 →
     let i := Instr.syscall g d a lode svc
     let s2 := afterSbar s1
     (∀ r, replyFor s2 0 = some r → retiresWith i d r.val s (acquired true ⟨1, 3⟩ s2)) ∧
     (replyFor s2 0 = none → (∀ r ∈ s.os.svc, r.agent ≠ s.env.agent ∨ r.strand ≠ s.env.strand) →
       let u := beginWait s .service
       exec i s = .next { u with os := { u.os with svc := u.os.svc ++ [⟨s.env.agent, s.env.strand, (cur s).tag, lode = 1, svc.toNat, v⟩] } })) ∧
   (∀ us, drained s0 →
     let i := Instr.halt g d us
     let s2 := afterSbar s0
     let full := mailboxFull s2 s.env.agent
     let timeout := (replyFor s2 0).isSome
     (full = false → timeout = false → exec i s = .next (beginWait s (if us = 0 then .service else .halt))) ∧
     (full = true ∨ timeout = true → retiresWith i d (packed [(0, if full then 1 else 0), (1, if timeout then 1 else 0)]) s s2))) ∧
  ((∀ i g d srcs, statusForm i = some (g, d, srcs) → ∀ s s0 vs u, executes (cur s) g = true → checkDst d s = .ok ((), s0) → readsAll srcs s0 vs u →
     (performedAt u 3 = false → exec i s = .next (beginWait s .response)) ∧
     (drained u → ∀ r, replyFor (afterSbar u) 0 = some r → retiresWith i d r.val s (afterSbar u))) ∧
   (∀ g d a (lvl : BitVec 2) s s0 s1 ga, executes (cur s) g = true → checkDst d s = .ok ((), s0) → readReg a s0 = .ok (ga, s1) →
     let i := Instr.tqpush g d a lvl
     (∀ r tag tail ring, replyFor s1 (2 ^ 20) = some r → (cur s1).tag = some tag → (readHeader s1 tag.cx.toNat lvl.toNat).run s1 = .ok (tail, ring) →
       let c := tag.cx.toNat
       let va := headerVa s1 c lvl.toNat
       (tail ≠ r.val.toNat → retiresWith i d (codeWord 2 0) s (faultQueue s1 c lvl.toNat 2 va tail)) ∧
       (∀ s5, tail = r.val.toNat → tquPut s1 (liveTag s1 c) va (tail + 1) = (s5, true) → retiresWith i d (codeWord 0 tail) s s5)) ∧
     (replyFor s1 (2 ^ 20) = none → ga.toNat % 64 ≠ 0 → exec i s = trapsAt s 0x04 ga 64) ∧
     (∀ ws s3 tag tail ring, replyFor s1 (2 ^ 20) = none → ga.toNat % 64 = 0 → released true ⟨2, 3⟩ s1 →
       loadElems ((List.range 8).map (fun j => (j, ga + BitVec.ofNat 64 (8 * j)))) 8 8 true (fun _ => 0) 4 (afterSbar s1) = .ok (ws, s3) → (cur s1).tag = some tag → pushing s3 (4 * tag.cx.toNat + lvl.toNat) = false →
       let c := tag.cx.toNat
       let q := queueAt s3 c lvl.toNat
       (readHeader s3 c lvl.toNat).run s3 = .ok (tail, ring) →
       let size := 2 ^ (ring % 16)
       (q.frozen = true → retiresWith i d (codeWord 2 0) s s3) ∧
       (q.frozen = false → tail - q.head = size → retiresWith i d (codeWord 1 0) s s3) ∧
       (∀ s4 s5 e e', q.frozen = false → tail - q.head ≠ size →
         let slot := ring / 2 ^ 6 % 2 ^ 51 * 2 ^ 6 + 64 * (tail % size)
         let push := fun (s : State) => tquWrite s (liveTag s c) slot (ws.flatMap (fun w => natBytes 8 (BitVec.ofNat 64 w.2).toNat))
         (tquPage (liveTag s3 c) slot 2 false).run s3 = .ok e → push s3 = (s4, true) →
         let u := beginWait s .service
         (readHeader u c lvl.toNat).run u = .ok (tail, ring) → queueAt u c lvl.toNat = q → (tquPage (liveTag u c) slot 2 false).run u = .ok e' → push u = (s5, true) →
         exec i s = .next (modCur s5 (fun t => { t with
           st := .ready, cause := none, reply := some (t.reply.getD [] ++ [⟨2 ^ 20, BitVec.ofNat 64 tail, false, 0, 4 * c + lvl.toNat⟩]) }))))))

/-- TQPOP, TQDONE, TQCANCEL, TQRESUME and PLACE (16 R385, 14 R327, R332, R335, R340, 15 R350). -/
def Obligations.QueueWords : Prop := ∀ g d a (lvl : BitVec 2) (cx : BitVec 6) s,
  let c := cx.toNat
  let l := lvl.toNat
  (∀ s1, begins g d [] s [] s1 →
    ((ctxAt s1 c).st = 0 → retiresWith (.tqresume g d lvl cx) d (codeWord 3 0) s s1) ∧
    ((ctxAt s1 c).st ≠ 0 → (∀ t ∈ s1.os.tasks, t.tag.cx = cx → ¬ (t.retire = some .cancelled ∧ t.reason = 8)) →
      let u := refreshCtx s1 c
      retiresWith (.tqresume g d lvl cx) d 0 s
        (if (queueAt u c l).frozen then writeHeader (setQueue u c l ⟨(queueAt u c l).head, false, false, (queueAt u c l).head⟩) c l else u))) ∧
  (∀ ga s2, begins g d [a] s [ga] s2 →
    let live := (ctxAt s2 c).st ≠ 0
    let task := taskByCompl s2 c ga
    (¬ live → ∀ i ∈ [Instr.tqpop g d a lvl cx, .tqdone g d a cx, .tqcancel g d a cx, .place g d a cx], retiresWith i d (codeWord 3 0) s s2) ∧
    (live →
      (ga.toNat % 64 ≠ 0 → exec (.tqpop g d a lvl cx) s = trapsAt s 0x04 ga 64) ∧
      (∀ p s3, ga.toNat % 64 = 0 → checkAddr needStore ga 8 (refreshCtx s2 c) = .ok (p, s3) →
        let q := queueAt s3 c l
        (q.frozen = false → retiresWith (.tqpop g d a lvl cx) d (codeWord 3 0) s s3) ∧
        (∀ tail ring, q.frozen = true → (readHeader s3 c l).run s3 = .ok (tail, ring) →
          (tail ≤ q.head → retiresWith (.tqpop g d a lvl cx) d (codeWord 8 0) s s3) ∧
          (∀ bs bad, q.head < tail → (tquBytes (liveTag s3 c) (ring / 2 ^ 6 % 2 ^ 51 * 2 ^ 6 + 64 * (q.head % 2 ^ (ring % 16))) 64).run s3 = .ok (bs, bad) →
            let u := if plainTo s3 (cur s3).tag p.key then setMem s3 (writeBytes s3.mem p.key bs) else s3
            retiresWith (.tqpop g d a lvl cx) d (codeWord 0 q.head) s
              (writeHeader (setQueue u c l { q with head := q.head + 1, last := max q.last (q.head + 1) }) c l)))) ∧
      (task = none → ∀ i ∈ [Instr.tqdone g d a cx, .tqcancel g d a cx], retiresWith i d (codeWord 8 0) s s2) ∧
      (∀ t, task = some t →
        (t.retire ≠ none ∨ t.st ∉ [.waiting, .queued] → retiresWith (.tqdone g d a cx) d (codeWord 3 0) s s2) ∧
        (t.retire ≠ none ∨ t.st ∈ [.running, .preempted] → retiresWith (.tqcancel g d a cx) d (codeWord 3 0) s s2) ∧
        ((endPages s2 t).run s2 = .ok () →
          (t.retire = none → t.st ∈ [.waiting, .queued] → retiresWith (.tqdone g d a cx) d 0 s (retireTask s2 t .done)) ∧
          (t.retire = none → t.st ∉ [.running, .preempted] → retiresWith (.tqcancel g d a cx) d 0 s (retireTask s2 { t with reason := 9 } .cancelled)))) ∧
      (s2.rel.wave = none →
        (2 ^ 14 ≤ ga.toNat → retiresWith (.place g d a cx) d (codeWord 5 0) s s2) ∧
        (ga.toNat < 2 ^ 14 → placingTask s2 c = none → retiresWith (.place g d a cx) d (codeWord 8 0) s s2) ∧
        (∀ t, ga.toNat < 2 ^ 14 → placingTask s2 c = some t →
          let fits := ga.toNat ∈ origins s2 t ∧ rectFree s2 t ga.toNat = true
          (¬ fits → retiresWith (.place g d a cx) d (codeWord 5 0) s s2) ∧
          (fits → (endPages s2 t).run s2 = .ok () → retiresWith (.place g d a cx) d 0 s (placeAt s2 t ga.toNat))))))

/-- CXNEW, CXKILL, CXRECLAIM, CXSAVE, CXLOAD, PREEMPT, TLBINV and NAMEINV: what they refuse, and the operation that they begin (15 R351, R355, R357, R367, R368,
R374, 16 R385, R386). -/
def Obligations.ContextWords : Prop := ∀ g d a (cx : BitVec 6) s,
  let c := cx.toNat
  (∀ s1, begins g d [] s [] s1 →
    let v := ctxAt s1 c
    let noWave := s1.rel.wave = none
    let refused := fun (i : Instr) => retiresWith i d (codeWord 3 0) s s1
    (noOpBut s1 c [] → ∀ sl,
      (v.st ≠ 0 → refused (.cxnew g d sl cx)) ∧
      (v.st = 0 → sl = 0 → retiresWith (.cxnew g d sl cx) d 0 s (createCtx s1 c false 0)) ∧
      (v.st = 0 → sl ≠ 0 → ∀ n s2, nameConvoy s1 = (n, s2) →
        (n = none → retiresWith (.cxnew g d sl cx) d (codeWord 6 0) s s2) ∧
        (∀ id, n = some id →
          retiresWith (.cxnew g d sl cx) d 0 s (createCtx { s2 with trust := { s2.trust with cxConvoy := mput s2.trust.cxConvoy c id } } c true 0)))) ∧
    (noWave → noOpBut s1 c [.preempt] → notHeld s1 c →
      (v.st = 0 → refused (.cxkill g d cx)) ∧
      (v.st ≠ 0 → v.ov1 = true → v.ov2 = true → ∃ t, exec (.cxkill g d cx) s = .next t ∧ (cur t).st = .waiting ∧ (⟨.reclaim, c, s.env.agent, 8, 0, []⟩ : Op) ∈ t.os.ops) ∧
      (v.st ≠ 0 → ¬ (v.ov1 = true ∧ v.ov2 = true) → ∃ t, exec (.cxkill g d cx) s = .next t ∧
        (ctxAt t c).inc = v.inc + 1 ∧ (ctxAt t c).st = v.st ∧ ((ctxAt t c).ov1 = true ∨ (ctxAt t c).ov2 = true) ∧
        ∃ o ∈ t.os.ops, o.kind = .kill ∧ o.cx = c ∧ o.newInc = v.inc + 1 ∧ o.agent = s.env.agent ∧ o.strand = s.env.strand)) ∧
    (noWave → noOpBut s1 c [.preempt] →
      (v.st = 0 → refused (.cxreclaim g d cx)) ∧
      (v.st ≠ 0 → v.ov1 = false → v.ov2 = false → retiresWith (.cxreclaim g d cx) d 0 s s1) ∧
      (v.st ≠ 0 → v.ov1 = true ∨ v.ov2 = true → exec (.cxreclaim g d cx) s = awaits s id .reclaim c)) ∧
    (noWave → noOpBut s1 c [] → ∀ vlt lsall,
      (v.st ≠ 2 → refused (.cxsave g d vlt lsall cx) ∧ refused (.cxload g d cx)) ∧
      (v.st = 2 → exec (.cxsave g d vlt lsall cx) s = awaits s (fun s => refreshCtx s c) (.save (lsall = 1) (vlt = 1)) c ∧ exec (.cxload g d cx) s = awaits s id .load c)) ∧
    (noWave → noOpBut s1 c [.reclaim] → notHeld s1 c →
      (v.st ≠ 1 → refused (.preempt g d cx)) ∧ (v.st = 1 → exec (.preempt g d cx) s = awaits s (fun s => refreshCtx s c) .preempt c))) ∧
  (∀ ga s2, begins g d [a] s [ga] s2 →
    (∀ all, exec (.nameinv g d a all) s = awaits s id (.nameinv (ga.toNat % 2 ^ 14) (all = 1)) 64) ∧
    (∀ npg, s2.rel.wave = none → exec (.tlbinv g d a npg 2 cx) s = awaits s id (.tlbinv 2 ga.toNat npg.toNat) 64) ∧
    (∀ npg (mode : BitVec 2), mode ≠ 2 → s2.rel.wave = none → noOpBut s2 c [.preempt] →
      let bad := mode = 0 ∧ (npg = 0 ∨ ga.toNat % 2 ^ 16 ≠ 0 ∨ ga.toNat < 2 ^ 48 ∨ 2 ^ 56 ≤ ga.toNat)
      ((ctxAt s2 c).st = 0 → retiresWith (.tlbinv g d a npg mode cx) d (codeWord 3 0) s s2) ∧
      ((ctxAt s2 c).st ≠ 0 → bad → retiresWith (.tlbinv g d a npg mode cx) d (codeWord 5 0) s s2) ∧
      ((ctxAt s2 c).st ≠ 0 → ¬ bad → exec (.tlbinv g d a npg mode cx) s = awaits s id (.tlbinv mode ga.toNat npg.toNat) c)))

/-- CFGW, CFGW to RECCHK and CFGR (16 R387, R388, 22 R463); GTABW and TTABW (16 R389, 08 R238, 09 R260). -/
def Obligations.ConfigWords : Prop :=
  (∀ g d a s, executes (cur s) g = true →
    let f := fun (ga : Word) (lo len : Nat) => ga.toNat / 2 ^ lo % 2 ^ len
    let tile := fun (ga : Word) => f ga 26 6 * 204 + f ga 17 4 * 17 + f ga 21 5
    let bad := fun (ga : Word) => 2 ^ 32 ≤ ga.toNat ∨ 47 < f ga 26 6 ∨ 16 < f ga 21 5 ∨ 11 < f ga 17 4 ∨ (0x1FFEF < f ga 0 17 ∧ f ga 0 17 ≠ 0x1FFF8 ∧ f ga 0 17 ≠ 0x1FFF9)
    let quiet := fun (s : State) (ga : Word) => ∀ w, s.rel.wave = some w → w.switch = true ∨ w.row ≠ f ga 26 6 * 12 + f ga 17 4
    (∀ v ga u, readsAll [a, d] s [ga, v] u → drained u → ∀ i ∈ [Instr.cfgw g d a, .recchk g d a],
      let s2 := afterSbar u
      let p := tile ga
      let x := agentAt s2 p
      (bad ga → exec i s = trapsAt s 0x07 ga 1) ∧
      (¬ bad ga → p ∈ s.boot.fuses.off → exec i s = trapsAt s 0x07 ga 7) ∧
      (¬ bad ga → p ∉ s.boot.fuses.off → quiet s2 ga →
        (f ga 0 17 < 0x1FFF0 → s2.rel.errinj.getLsbD 59 = false →
          exec i s = .next (retire (setAgent s2 p { x with cfg :=
            if x.cfg.staged.length < 4096 then { x.cfg with staged := x.cfg.staged ++ [(f ga 0 17, v)] } else { x.cfg with ovf := true } }) .next)) ∧
        (f ga 0 17 = 0x1FFF8 →
          let busy := ∃ t, taskOf s2 p = some t ∧ (t.st = .running ∨ t.st = .preempted)
          let sum := crc32c (x.cfg.staged.flatMap (fun e => natBytes 8 e.2.toNat))
          let wrong := v.toNat / 2 ^ 13 % 2 ^ 19 ≠ 0 ∨ x.cfg.staged.length ≠ v.toNat % 2 ^ 13 ∨ sum ≠ v.toNat / 2 ^ 32
          let result := if busy then 4 else if x.cfg.ovf then 3 else if wrong then 2 else 1
          exec i s = .next (retire (setAgent s2 p { x with cfg :=
            ⟨if result = 1 then x.cfg.staged.foldl (fun m e => mput m e.1 e.2) x.cfg.words else x.cfg.words, [], false, BitVec.ofNat 8 result⟩ }) .next)) ∧
        (f ga 0 17 = 0x1FFF9 → exec i s = .next (retire s2 .next)))) ∧
    (∀ ga s0 u, checkDst d s = .ok ((), s0) → readReg a s0 = .ok (ga, u) → drained u →
      let i := Instr.cfgr g d a
      let s2 := afterSbar u
      let x := agentAt s2 (tile ga)
      (bad ga → exec i s = trapsAt s 0x06 ga 1) ∧
      (¬ bad ga → tile ga ∈ s.boot.fuses.off → exec i s = trapsAt s 0x06 ga 7) ∧
      (¬ bad ga → tile ga ∉ s.boot.fuses.off → quiet s2 ga →
        retiresWith i d (if f ga 0 17 = 0x1FFF8 then 0
          else if f ga 0 17 = 0x1FFF9 then packed [(56, x.cfg.result.toNat), (0, x.cfg.staged.length)]
          else mget (if f ga 0 17 = 1 then 0xF else 0) x.cfg.words (f ga 0 17)) s s2))) ∧
  (∀ g d a s s2 ga, begins g d [a] s [ga] s2 →
    (ga.toNat % 64 ≠ 0 → ∀ grp tree, exec (.gtabw g d a grp) s = trapsAt s 0x04 ga 64 ∧ exec (.ttabw g d a tree) s = trapsAt s 0x04 ga 64) ∧
    (∀ (grp : BitVec 8) h ws s3 s4, ga.toNat % 64 = 0 → imageWords ga 0 4 s2 = .ok (h, s3) →
      imageWords ga 4 (groupImageWords (h.getD 0 0) (h.getD 1 0) - 4) s3 = .ok (ws, s4) →
      let i := Instr.gtabw g d a grp
      let e := groupOfImage (h ++ ws)
      let old := groupAt s4 grp.toNat
      let repair := ∃ w, s4.rel.wave = some w ∧ w.step = 5
      let words := repair ∧ e.st = 1 ∧ old.st = 1 ∧ old.owner = e.owner
      let fate := if e.st ≠ 0 ∧ e.st ≠ 1 then some (codeWord 5 0)
        else if old.st = 2 ∧ unreclaimed s4 old.owner = true then some (codeWord 3 0)
        else if ¬ words ∧ ¬ repair ∧ old.st = 1 ∧ (old.rel ≠ old.next ∨ old.walker ≠ none ∨ old.q ≠ []) then some (codeWord 3 0)
        else if e.st = 1 ∧ liveOwner s4 e.owner = false then some (codeWord 4 0)
        else if e.st = 1 then (groupFails s4 grp.toNat e).map (fun n => codeWord 5 n)
        else none
      (∀ w, fate = some w → retiresWith i d w s s4) ∧
      let approval := if (old.st ≠ 0 ∧ sealedOwner s4 old.owner = true) ∨ (e.st = 1 ∧ sealedOwner s4 e.owner = true) then freshBit s4 else (true, s4)
      (fate = none → approval.1 = false → retiresWith i d (codeWord 6 0) s approval.2) ∧
      (fate = none → approval.1 = true →
        let s5 := modWave approval.2 (fun w => { w with groups := w.groups.erase grp.toNat })
        (words → retiresWith i d 0 s (tuneReceivers (modGroup s5 grp.toNat (fun o => { o with words := e.words })) e)) ∧
        (¬ words → retiresWith i d 0 s (putGroup (if repair ∧ old.st = 1 then endGroup s5 grp.toNat else s5) grp.toNat e)))) ∧
    (∀ (tree : BitVec 9) n ws s3 s4, ga.toNat % 64 = 0 → imageWords ga 0 1 s2 = .ok ([n], s3) →
      let i := Instr.ttabw g d a tree
      let t := tree.toNat
      (9216 < n.toNat → retiresWith i d (codeWord 5 0) s s3) ∧
      (n.toNat ≤ 9216 → imageWords ga 1 (3 * n.toNat) s3 = .ok (ws, s4) →
        let rs := treeRecs n.toNat ws
        let old := treeEntries s4 t
        let repair := ∃ w, s4.rel.wave = some w ∧ w.step = 5
        let active := ∃ r ∈ rs, teState r.2 = 1
        let fate := if recsOk s4 rs = false then some (codeWord 5 0)
          else if ∃ e ∈ old, teState e = 2 ∧ unreclaimed s4 (teTag e) = true then some (codeWord 3 0)
          else if ¬ repair ∧ ∃ c ∈ s4.net.rdus, c.group = t ∧ c.admitted = true then some (codeWord 3 0)
          else if active ∧ ∃ r ∈ rs, liveOwner s4 (teTag r.2) = false then some (codeWord 4 0)
          else if active ∧ treeOk (putTree s4 t rs) t = false then some (codeWord 5 0)
          else none
        (∀ w, fate = some w → retiresWith i d w s s4) ∧
        let approval := if (∃ e ∈ old, sealedOwner s4 (teTag e) = true) ∨ (active ∧ ∃ r ∈ rs, sealedOwner s4 (teTag r.2) = true) then freshBit s4 else (true, s4)
        (fate = none → approval.1 = false → retiresWith i d (codeWord 6 0) s approval.2) ∧
        (fate = none → approval.1 = true →
          retiresWith i d 0 s
            (modWave (putTree (if repair ∧ ¬ active then endAbort approval.2 t 2 else approval.2) t rs) (fun w => { w with trees := w.trees.erase t }))))))

/-- Where the domain instructions and the words of the configuration space complete, with general registers (07 R230, R231, 16 R387, R388): a member without an
arrival that is not released makes one with DARV, and passes DWAIT at once; DSYNC makes the arrival and waits, and completes when it has been released; CFGW,
CFGW to RECCHK and CFGR complete at a valid address of a tile that is not fused off, with no wave in progress. -/
def Obligations.DomainAndConfigComplete : Prop :=
  (∀ g (l : BitVec 2) s, executes (cur s) g = true → noPosted s 3 → inDomain s l = true → arrivedAt s l = false →
    let o : Ord := ⟨1, scopeOfLevel l⟩
    ((cur s).reply = none → exec (.dwait g l) s = .next (retire s .next)) ∧
    (released true o s →
      exec (.darv g l) s = .next (retire (arrive l.toNat (afterSbar s)) .next) ∧
      ((cur s).reply = none → ∃ t, exec (.dsync g l) s = .next t ∧ (cur t).st = .waiting ∧ (cur t).cause = some .domain ∧ (cur t).pc = (cur s).pc ∧
        arrivedAt t l = true ∧
        let u := modCur t (fun x => { x with st := .ready, cause := none, arrived := mdel x.arrived l.toNat })
        exec (.dsync g l) u = .next (retire (acquired true o u) .next) ∧ exec (.dwait g l) u = .next (retire (acquired true o u) .next)))) ∧
  (∀ g d a s, executes (cur s) g = true → isG d → isG a → drained s → s.rel.wave = none →
    ∀ f c r w, f < 48 → c < 17 → r < 12 → w < 0x1FFF0 ∨ w = 0x1FFF8 ∨ w = 0x1FFF9 → curReg s a.toNat = packed [(26, f), (21, c), (17, r), (0, w)] →
    let p := 204 * f + 17 * r + c
    p ∉ s.boot.fuses.off →
    let s2 := afterSbar s
    let x := agentAt s2 p
    let v := curReg s d.toNat
    (∃ t, exec (.cfgw g d a) s = .next (retire t .next) ∧ t.mem = s.mem ∧ (agentAt t p).strands = x.strands ∧
      (w < 0x1FFF0 → x.cfg.staged.length < 4096 → s.rel.errinj.getLsbD 59 = false → (agentAt t p).cfg = { x.cfg with staged := x.cfg.staged ++ [(w, v)] })) ∧
    (w = 0x1FFF8 → exec (.recchk g d a) s = .next (retire (recordCheck s2 p v) .next)) ∧
    (∃ t, exec (.recchk g d a) s = .next (retire t .next)) ∧
    exec (.cfgr g d a) s = .next (retire (setCurReg s2 d.toNat (if w = 0x1FFF8 then 0
      else if w = 0x1FFF9 then packed [(56, x.cfg.result.toNat), (0, x.cfg.staged.length)]
      else mget (if w = 1 then 0xF else 0) x.cfg.words w)) .next))

/-! ### Events -/

/-- Steps of the MXE: a fired pass, the array's ramps, the end of a pass, its results held, a drain (06 R171, R177, R180, R182, R183; the event's choice of a run
is the model's, log 3).
Steps of the CPE, and the completion of either engine's oldest command of a strand (06 R166 to R168, R188 to R201). -/
def Obligations.EngineEvents : Prop :=
  (∀ s a,
   let x := agentAt s a
   let m := x.mx
   let phase := fun (r : MxRun) (p : RunPhase) (s : State) => modMx s a (fun m => { m with runs := modFirst (· == r) (fun r => { r with phase := p }) m.runs })
   (∀ r, nextFired x = some r →
     let fault := passFault (bankOf x (opBank r.cmd.op)) (runWeights x r) (passArgs r.cmd.op)
     let s1 := modMx s a (fun m => { m with decl := m.decl - 1 })
     (∀ c, fault = some c →
       exec (.triggeredPass a) s = .next (kickMxe (endRun (postEngine s a r.cmd.strand (engineInfo 0 (runFn r).1 (runFn r).2 0 c) 0) a r) a)) ∧
     (fault = none → m.arr ≠ .warm →
       exec (.triggeredPass a) s = .next (kickMxe (phase r .ramping (modMx s1 a (fun m => { m with arr := .rampUp }))) a)) ∧
     (fault = none → m.arr = .warm → ∀ w, runWeights x r = some w → passPoison s.mem a (opBank r.cmd.op) (bankOf x (opBank r.cmd.op)) w (passArgs r.cmd.op) = none →
       exec (.triggeredPass a) s =
         .next (kickMxe (phase r .running (makePass s1 a (opBank r.cmd.op) (tagOf s a r.cmd.strand) w (passArgs r.cmd.op))) a))) ∧
   (m.arr = .rampUp →
     let s1 := modMx s a (fun m => { m with arr := .warm })
     (m.runs.find? (fun r => r.phase == .ramping) = none → exec (.rampUpEnd a) s = .next (coolDown s1 a)) ∧
     (∀ r, m.runs.find? (fun r => r.phase == .ramping) = some r → exec (.rampUpEnd a) s = .next (kickMxe (beginPass s1 a r) a))) ∧
   (m.arr = .rampDown → exec (.rampDownEnd a) s = .next (modMx s a (fun m => { m with arr := .cold }))) ∧
   (m.arr = .warm → m.decl ≠ 0 → (∀ r ∈ m.runs, runBusy r = true → r.cmd.op.isPass = false) →
     exec (.rampGapExpiry a) s = .next (modMx s a (fun m => { m with decl := 0, arr := .rampDown }))) ∧
   (∀ r, m.runs.find? (fun r => r.phase == .running && r.cmd.op.isPass) = some r → r.fired = none →
     let s1 := phase r .holding s
     (nextFired (agentAt s1 a) = none → exec (.passEnd a) s = .next (coolDown (kickMxe s1 a) a)) ∧
     (∀ q, nextFired (agentAt s1 a) = some q → exec (.passEnd a) s = .next (coolDown (kickMxe (servePass s1 a q) a) a))) ∧
   (∀ (n : Nat) r, (m.runs.filter (fun r => r.phase == .holding))[n]? = some r →
     (r.fired = none → exec (.passResultHeld a n) s = .next (phase r .finished s)) ∧
     (∀ f, r.fired = some f → f.report = false → exec (.passResultHeld a n) s = .next (dropRun (· == r) s a)) ∧
     (∀ f, r.fired = some f → f.report = true → mcqRoom s a r.cmd.strand = true →
       exec (.passResultHeld a n) s = .next (dropRun (· == r) (pushMcq s a r.cmd.strand (reportElem f)) a))) ∧
   (∀ r addr stride ctl bank rm seed dn, drainRun x = some r → r.cmd.op = .drain addr stride ctl bank rm seed dn → dn.bar = none →
     let all := drainElems ctl addr.toNat stride.toNat
     let now := (all.drop r.pos).take 64
     let bk := bankOf x bank.toNat
     let out := drainSome bk ctl rm.toNat now r.seed
     ∃ t, exec (.drainStep a) s = .next (kickMxe t a) ∧ t.mem = putDrained s.mem a (drainSize (dcFmt ctl)) out.1 ∧
       (agentAt t a).mx.runs = modFirst (· == r) (fun r => { r with phase := if all.length ≤ r.pos + 64 then .finished else .running, pos := r.pos + now.length,
                                                                    flags := r.flags ||| out.2.1, seed := out.2.2 }) m.runs ∧
       (bankOf (agentAt t a) bank.toNat).dflags = (if all.length ≤ r.pos + 64 ∧ dcZafter ctl = true then 0 else bk.dflags ||| out.2.1))) ∧
  (∀ s a,
   let x := agentAt s a
   (∀ (e p : Nat) r, x.cp.table[e]? = some r →
     (pieceReady s a r p = true → shapeBad r.cmd = true → exec (.copyLanding a e p) s = .next (cpFault s a r 8 0 0)) ∧
     (pieceReady s a r p = true → shapeBad r.cmd = false → (r.list = none → heldBack s a r (listKeys a r.cmd) = false) → ∀ idx s1 s2 r2, readList s a r = (s1, some idx) →
       takeSource s1 a { r with list := if (listOf r.cmd).isSome then some idx else r.list } idx = (s2, some r2) → exec (.copyLanding a e p) s = .next (landPiece s2 a r2 idx p)) ∧
     (fillReady s a r = true → ∀ v, mget? x.cp.wins r.cmd.k = some v →
       (r.cmd.a.toNat = 0 ∨ winCap v < r.cmd.a.toNat → exec (.windowFill a e) s = .next (cpFault s a r 3 0 0)) ∧
       (r.cmd.a.toNat ≠ 0 → r.cmd.a.toNat ≤ winCap v → ∀ l, v.lines.find? (fun l => l.st == .filling) = some l →
         exec (.windowFill a e) s = .next (fillLine s a r v l)) ∧
       (r.cmd.a.toNat ≠ 0 → r.cmd.a.toNat ≤ winCap v → v.lines.find? (fun l => l.st == .filling) = none →
         exec (.windowFill a e) s = .next (allocLine s a r v)))) ∧
   (∀ k r, mxCompletable s a k = some r → exec (.commandCompletion a k false) s = .next (settle
     (dropRun (· == r) (match drainElement r with | some w => pushMcq s a k w | none => s) a) a k)) ∧
   (∀ k r, cpCompletable s a k = some r →
     (r.pend ≠ [] → exec (.commandCompletion a k true) s = .next (pushDue s a r)) ∧
     (r.pend = [] → r.finished = true →
       let s1 := match copyElement r with | some w => pushCcq s a r.cmd.strand w | none => s
       let s2 := if r.faulted then s1 else modStat s1 a r.cmd (fun c => { c with st := 3 })
       exec (.commandCompletion a k true) s = .next (settle (kickCpe (modCp s2 a (fun c =>
         { c with table := c.table.eraseP (fun q => q.cmd.strand == r.cmd.strand && q.cmd.no == r.cmd.no) })) a) a r.cmd.strand)) ∧
     (r.pend = [] → r.finished = false → r.cmd.fn = 0x21 → exec (.commandCompletion a k true) s = .next (openWindow s a r)) ∧
     (r.pend = [] → r.finished = false → r.cmd.fn ≠ 0x21 → exec (.commandCompletion a k true) s = .next (syncWindow s a r (r.cmd.fn = 0x24)))))

/-- The mesh's own steps: messages, requests and responses between tiles, name walks, phases, stale traffic (07 R214 to R216, R230, 09 R254, 10 R278, R280,
14 R345, 15 R353, R354, 20 R446). -/
def Obligations.MeshEvents : Prop := ∀ s,
  (∀ (i : Nat) m, s.net.msgs[i]? = some m → m.whole = true → m.here = m.dst → (s.net.msgs.take i).any (fun q => q.src == m.src && q.dst == m.dst) = false →
    let gone : State := { s with net := { s.net with msgs := s.net.msgs.eraseIdx i } }
    let ev := Instr.messageLanding i
    let out := fun (s : State) => passFlits s m.dst 4 (1 + (m.elems.length + 7) / 8)
    (staleAt s m.dst (some m.tag) = true → exec ev s = .next (out gone)) ∧
    (staleAt s m.dst (some m.tag) = false → ∀ t, taskOf s m.dst = some t → t.tag = m.tag → t.st ≠ .prefetch → t.st ≠ .placing →
      let x := agentAt s m.dst
      let c := chanOf x m.ch.toNat
      let es := m.elems.zipIdx.map (fun p => (⟨p.1, if p.2 = 0 then m.acq else none⟩ : QElem))
      let put := fun (c : Channel) => setAgent gone m.dst { x with ni := { x.ni with chans := mput x.ni.chans m.ch.toNat c } }
      (m.bsp = false → c.due = [] → c.q.length + es.length ≤ chanCap → exec ev s = .next (out (put { c with q := c.q ++ es }))) ∧
      (m.bsp = false → chanCap < c.q.length + es.length → exec ev s = .next s) ∧
      (m.bsp = true → m.after = false → exec ev s = .next (out (put { c with
        nxt := c.nxt ++ (es.take (chanCap - (c.nxt.length + c.due.length))).map (fun e => ⟨m.lvl, false, e⟩)
        ovf := c.ovf || chanCap - (c.nxt.length + c.due.length) < es.length }))))) ∧
  (∀ a k l p, phaseReady s a k l p = true →
    (withholds s l = false → exec (.phaseRelease a k l p) s = .next (releasePhase s a k l)) ∧
    (withholds s l = true → ∀ t, (strandAt s a k).tag = some t → exec (.phaseRelease a k l p) s =
      .next { s with rel := { s.rel with ckpt := { s.rel.ckpt with withheld := insertNat s.rel.ckpt.withheld t.cx.toNat } } })) ∧
  (∀ a n, n ∈ (agentAt s a).ni.nwalks → exec (.nameWalk a n) s = .next (modAgent s a (fun x => { x with ni := { x.ni with
    nwalks := x.ni.nwalks.erase n, names := (⟨n, nameEntry s n⟩ :: x.ni.names.filter (fun e => e.name != n)).take 64 } }))) ∧
  (∀ (i : Nat) r, reqReady s i = some r →
    let ev := Instr.requestAtHome i
    let put := fun (s : State) (reqs : List Req) => ({ s with net := { s.net with reqs := reqs } } : State)
    let answered := fun (s : State) (r : Req) =>
      if r.bound = r.src ∧ r.tile.isSome = true ∧ r.wants = false then kickMxe (put s (s.net.reqs.eraseIdx i)) r.src
      else kickMxe { s with net := { s.net with
        reqs := s.net.reqs.eraseIdx i, resps := s.net.resps ++ [{ r with hdr := headerFor (put s (s.net.reqs.eraseIdx i)) r.bound r.src vcRSP, here := r.bound }] } } r.src
    (r.todo = [] → exec ev s = .next (answered s r)) ∧
    (∀ x rest, r.todo = x :: rest →
      (r.past = false → staleAt s (homeUnit x.key) r.tag = true → exec ev s = .next (put s (s.net.reqs.eraseIdx i))) ∧
      (r.past = false → staleAt s (homeUnit x.key) r.tag = false → homeUnit x.key = hostUnit →
        exec ev s = .next (put s (s.net.reqs.set i { r with past := true }))) ∧
      (r.past = true ∨ (staleAt s (homeUnit x.key) r.tag = false ∧ homeUnit x.key ≠ hostUnit) →
        let p := performAccess s r.tag x
        let r' := { r with todo := rest, res := r.res ++ [p.2] }
        (rest = [] → exec ev s = .next (answered p.1 r')) ∧
        (rest ≠ [] → exec ev s = .next (put p.1 (p.1.net.reqs.set i r')))))) ∧
  (∀ (i : Nat) r, s.net.resps[i]? = some r →
    let gone : State := { s with net := { s.net with resps := s.net.resps.eraseIdx i } }
    let first := (s.net.resps.take i).all (fun q => !(q.src == r.src && q.bound == r.bound && q.bound != q.src))
    (staleAt s r.src r.tag = false → r.here = r.src → first = true → r.wants = false → exec (.responseLanding i) s = .next gone) ∧
    (staleAt s r.src r.tag = false → r.here = r.src → first = true → r.wants = true → moreComing gone r.src r.strand = true → exec (.responseLanding i) s =
      .next (modStrand gone r.src r.strand (fun t => { t with reply := some (t.reply.getD [] ++ r.res) }))) ∧
    (staleAt s r.src r.tag = false → r.here = r.src → first = true → r.wants = true → moreComing gone r.src r.strand = false →
      (strandAt s r.src r.strand).st = .waiting → exec (.responseLanding i) s =
      .next (modStrand gone r.src r.strand (fun t => { t with st := .ready, cause := none, reply := some (t.reply.getD [] ++ r.res) }))) ∧
    (∀ t, r.tag = some t → staleAt s r.src r.tag = true → exec (.orphan i) s = .next (modAgent gone r.src (fun x => { x with ni := { x.ni with
      orphans := mmod 0 x.ni.orphans t.cx.toNat (fun n => min (n + 1) (2 ^ 48 - 1)) } }))))

/-- What a call does outside its members: admission, combination, rounding, the ring, tokens, deadlines, replays (07 R221 to R223, 09 R263 to R270, R272). -/
def Obligations.CallEvents : Prop := ∀ s,
  (∀ r g, (teState (treeAt s r g) = 1) → ¬ (teRoot (treeAt s r g) = true ∧ teRing (treeAt s r g) = true ∧ ringOvertaken s r g = true) →
    childPorts (treeAt s r g) ≠ [] → (rduOf s r g).any (·.admitted) = false → (s.net.rdus.filter (fun c => c.router == r && c.admitted)).length < rduCap →
    ∀ choice, choice = (if teBkv (treeAt s r g) then chooseBackup s r g (treeAt s r g) else none) → (teBkv (treeAt s r g) = true → choice ≠ none) →
    ∀ p rest, (usedPorts (treeAt s r g) choice).map (firstPacket s r g) = (p :: rest).map some →
      let e := treeAt s r g
      let agree := (∀ q ∈ rest, q.hdr.seq = p.hdr.seq ∧ q.hdr.op = p.hdr.op ∧ q.hdr.ty = p.hdr.ty ∧ q.hdr.lm1 = p.hdr.lm1 ∧ q.hdr.sat = p.hdr.sat ∧
        q.hdr.all = p.hdr.all) ∧ p.hdr.op.toNat = teOp e ∧ p.hdr.ty.toNat = teType e
      (¬ agree → exec (.callAdmission r g) s = .next (abortGroup s g 1 thisWafer)) ∧
      (agree → ∃ c, exec (.callAdmission r g) s = .next (putRdu s c) ∧ c.router = r ∧ c.group = g ∧ c.seq = p.hdr.seq ∧ c.op = p.hdr.op ∧ c.ty = p.hdr.ty ∧
        c.len = p.hdr.lm1.toNat + 1 ∧ c.sat = p.hdr.sat ∧ c.all = p.hdr.all ∧ c.tag = p.tag ∧ c.admitted = true ∧ c.backup = choice ∧ c.out = [] ∧ c.fwd = 0 ∧
        c.dl = ((rduOf s r g).map (·.dl)).getD 0 ∧ c.waited = ((rduOf s r g).map (·.waited)).getD 0 ∧ c.ring = (if teRoot e = true then ringOf s g r else 0))) ∧
  (∀ r g n c, rduOf s r g = some c → c.admitted = true → n = c.out.length → n < c.len →
    ∀ us, (usedPorts (treeAt s r g) c.backup).map (fun p => portVal s r g p n) = us.map some →
      exec (.partialCombine r g n) s = .next (putRdu s { c with out := c.out ++ [joinAll c.op c.ty us] })) ∧
  (∀ r g c p, rootReady s r g = some c → sampleMismatch s g c = some p → exec (.rootRounding r g) s = .next (mismatchReplay s r g p)) ∧
  (∀ r g c, rootReady s r g = some c → sampleMismatch s g c = none →
    let bk := s.net.rdus.any (fun d => d.group == g && d.backup == some true)
    let e := treeAt s r g
    (teRing e = false ∨ (urValid c.ring = true ∧ urPos c.ring = 0 ∧ urRoot c.ring = thisWafer) →
      exec (.rootRounding r g) s = .next (finishCall s r g c c.out 0 bk)) ∧
    (teRing e = true → urValid c.ring = true → urPos c.ring = 0 → urRoot c.ring ≠ thisWafer →
      let esc := escalated (baseOfCall s r g) c.op c.ty [c.out] c.out []
      exec (.rootRounding r g) s = .next (sendPartial s r g c (esc.filter id).length (treeMembers s g).length c.out esc))) ∧
  (∀ g r c p, treeRoot s g = some r → rootReady s r g = some c → teRing (treeAt s r g) = true → urValid c.ring = true → urPos c.ring ≠ 0 →
    hopFrom s r g c = some p → sampleMismatch s g c = none → p.vals.length = c.len → revokedOf s (teTag (treeAt s r g)).cx.toNat = [] →
    let own := c.out.map (shiftIdx c.op (p.before * c.len))
    let vals := List.zipWith (joinPVal c.op c.ty) p.vals own
    let esc := escalated (baseOfCall s r g) c.op c.ty [p.vals, own] vals p.esc
    let escapes := min 255 (p.escapes + (esc.zipIdx.filter (fun b => b.1 && !p.esc.getD b.2 false)).length)
    let bk := p.backup.isSome || s.net.rdus.any (fun d => d.group == g && d.backup == some true)
    let c := { c with backup := if p.backup.isSome then some true else c.backup }
    (urRoot c.ring = thisWafer → exec (.ringHop g) s = .next (finishCall s r g c vals escapes bk)) ∧
    (urRoot c.ring ≠ thisWafer → exec (.ringHop g) s = .next (sendPartial s r g c escapes (p.before + (treeMembers s g).length) vals esc))) ∧
  (∀ a g t c, s.net.tokens.find? (fun t => t.agent == a && t.group == g && (tokenCall s t).isSome) = some t → tokenCall s t = some c →
    let ev := Instr.completionToken a g
    (t.abort ≠ 0 → t.posted = false → exec ev s = .next (putToken (postAbort s a c t.abort) t { t with posted := true })) ∧
    (t.abort = 0 ∨ t.posted = true → c.res = none → receives s a c = false → exec ev s = .next (endCall s t c)) ∧
    (t.abort = 0 ∨ t.posted = true → ∀ r, c.res = some r →
      let words := t.results.getD []
      (receives s a c = false → eventRoom s a r = true → exec ev s = .next (completeCall s t c r)) ∧
      (receives s a c = true → r.rq = false → eventRoom s a r = true → exec ev s = .next (completeCall (setMem s
        (writeWord (writeBytes s.mem (keyLs a r.dst.toNat) (wordsBytes c.op c.ty words)) (keyLs a (r.dst.toNat + statusOff c)) (statusWord c t.status))) t c r)) ∧
      (receives s a c = true → r.rq = true → queueTaken s t r.dst.toNat = false →
        let left := t.rest.getD (words ++ [statusWord c t.status])
        let q := mget [] (agentAt s a).ni.rqs r.dst.toNat
        left ≠ [] → q.length < resultCap → exec ev s = .next (putToken (modAgent s a (fun x => { x with ni := { x.ni with
          rqs := mput x.ni.rqs r.dst.toNat (q ++ (left.take (resultCap - q.length)).map (fun w => ⟨w, none⟩)) } })) t { t with rest := some (left.drop (resultCap - q.length)) })))) ∧
  (∀ r g, teState (treeAt s r g) = 1 → hasDeadline s r g = true → groupStopped s g = false →
    let ev := Instr.calldlExpiry r g
    (∀ c, ringWaits s r g = some c →
      exec ev s = .next (expirePair s g (some c) (s.net.ringIn.any (fun p => p.group == g && p.seq == c.seq && p.backup == some (urPrev c.ring))))) ∧
    (ringWaits s r g = none → (rduOf s r g).any (·.admitted) = false → ((childPorts (treeAt s r g)).findSome? (firstPacket s r g)).isSome = true → teBkv (treeAt s r g) = false →
      ∀ p ∈ usedPorts (treeAt s r g) ((rduOf s r g).bind (·.backup)), firstPacket s r g p = none → exec ev s = .next (abortGroup s g 3 thisWafer))) ∧
  (∀ g n r, treeRoot s g = some r → attemptBegun s g = true →
    let e := treeAt s r g
    let seq := (groupSeq s g).toNat
    exec (.callReplay g 0 n) s = .next (replayCall (postUnit s r 5 0 (some (teTag e)) 4 2 0 0 seq g) g) ∧
    exec (.callReplay g 2 n) s = .next (replayCall (postUnit s r 3 cPOISON (some (teTag e)) 4 2 0 0 seq g) g) ∧
    (teMirv e = true → ∀ q, treeRoot s (teMgrp e) = some q → teMirv (treeAt s q (teMgrp e)) = true → teMgrp (treeAt s q (teMgrp e)) = g →
      sampledAt (groupSeq s g) n = true → exec (.callReplay g 1 n) s = .next (replayCall (postUnit s r 6 cSAMPLE (some (teTag e)) 4 0 0 (BitVec.ofNat 64 n) seq g) g)))

/-- Light: requests at the beacon, blocks sent, arriving and replayed, releases, and the receivers' hue (07 R225, 08 R242 to R252, 19 R423). -/
def Obligations.LightEvents : Prop := ∀ s,
  (∀ (n : Nat) r, requestReady s n = some r →
    let g := r.grp.toNat % 256
    let e := groupAt s g
    let gone : State := { s with light := { s.light with pending := s.light.pending.eraseIdx n } }
    let stale := staleAt s (coreBase + 100 + e.beacon.toNat) r.tag
    (stale = true → exec (.beaconRequest n) s = .next gone) ∧
    (stale = false → some e.owner ≠ r.tag → ∀ t, refuse gone r 1 = some t → exec (.beaconRequest n) s = .next t) ∧
    (stale = false → some e.owner = r.tag → e.st ≠ gACTIVE → ∀ t, refuse gone r 2 = some t → exec (.beaconRequest n) s = .next t) ∧
    (stale = false → some e.owner = r.tag → e.st = gACTIVE → 256 ≤ r.grp.toNat → ∀ t, refuse gone r 4 = some t → exec (.beaconRequest n) s = .next t) ∧
    (stale = false → some e.owner = r.tag → e.st = gACTIVE → r.grp.toNat < 256 →
      exec (.beaconRequest n) s = .next (modGroup gone g (fun e => { e with q := e.q ++ [r] })))) ∧
  (∀ g, s.rel.wave = none → (groupAt s g).walker = none →
    let e := groupAt s g
    let mine := (beaconGroups s e.beacon.toNat).find? (hasBlock s) = some g
    let served := fun (t : State) => ({ t with light := { t.light with served := mput t.light.served e.beacon.toNat g } } : State)
    (∀ a, e.st = gACTIVE → e.resend = some a →
      (mine → exec (.beaconSend g) s = .next (served (resendBlock s g a))) ∧ (¬ mine → exec (.beaconSend g) s = .next s)) ∧
    (∀ r q, e.st = gACTIVE → e.resend = none → e.q = r :: q → r.chain = false → windowRoom e = false →
      exec (.beaconSend g) s = .next (modGroup s g (fun e => { e with bst := .windowFull }))) ∧
    (∀ r q h b, e.st = gACTIVE → e.resend = none → e.q = r :: q → r.chain = false → r.block = none → windowRoom e = true → fetchHeader s g r.va = .inl h →
      fetchBody s g r.va h none = .block b →
      (mine → exec (.beaconSend g) s = .next (served (passToSibling (popRequest (sendBlock s g b) g) g r (some b)))) ∧ (¬ mine → exec (.beaconSend g) s = .next s)) ∧
    (∀ r q b, e.st = gACTIVE → e.resend = none → e.q = r :: q → r.chain = false → r.block = some b → windowRoom e = true → mine →
      exec (.beaconSend g) s = .next (served (popRequest (sendBlock s g { b with seq := e.next }) g))) ∧
    (∀ r q t, e.st = gFAILED → e.q = r :: q → refuse (popRequest s g) r 2 = some t → exec (.beaconSend g) s = .next t)) ∧
  (∀ g a f b bad, nextFlight s g a = some f → f.what = .block b →
    let e := groupAt s g
    let t := popFlight s g a
    (e.st ≠ gACTIVE → e.st ≠ gFAILED → exec (.blockArrival g a bad) s = .next t) ∧
    (f.tag ≠ e.owner ∨ staleAt s a (some f.tag) = true ∨ receivesLight s g a b = false ∨ (agentAt s a).stopped = true → exec (.blockArrival g a bad) s = .next t) ∧
    (e.st = gACTIVE → f.tag = e.owner → staleAt s a (some f.tag) = false → receivesLight s g a b = true → (agentAt s a).stopped = false →
      (b.seq ≠ (memberOf (agentAt s a) g).e → exec (.blockArrival g a bad) s = .next t) ∧
      (b.seq = (memberOf (agentAt s a) g).e →
        (bad = true ∨ crcOk b = false → exec (.blockArrival g a bad) s = .next (addToken t g ⟨b.seq, 0, false, e.owner⟩)) ∧
        (bad = false → crcOk b = true → freeSlotOf (agentAt s a) = none → exec (.blockArrival g a bad) s = .next (addToken t g ⟨b.seq, 0, true, e.owner⟩)) ∧
        (∀ i, bad = false → crcOk b = true → freeSlotOf (agentAt s a) = some i → exec (.blockArrival g a bad) s = .next (landBlock t g a i b))))) ∧
  (∀ g p, (groupAt s g).token = some p →
    let e := groupAt s g
    let s1 := modGroup s g (fun e => { e with token := none, overruns := if p.full then min 255 (e.overruns + 1) else e.overruns })
    let n := seqSub e.next p.seq
    let run := if e.sameN ≠ 0 ∧ e.sameAt = p.seq then e.sameN else 0
    (e.st ≠ gACTIVE ∨ n = 0 ∨ windowOf e < n ∨ p.tag ≠ e.owner → exec (.replayToken g) s = .next s1) ∧
    (e.st = gACTIVE → n ≠ 0 → n ≤ windowOf e → p.tag = e.owner → replayCovers e p.seq = false →
      (p.counts = 0 → run < 16 → exec (.replayToken g) s = .next (modGroup s1 g (fun e => { e with
        resend := some p.seq, bst := .replay, replays := min 255 (e.replays + 1), sameAt := p.seq, sameN := run + 1 }))) ∧
      (p.counts = 0 → 16 ≤ run → e.resend = none →
        ∃ t, exec (.replayToken g) s = .next t ∧ (groupAt t g).st = gFAILED ∧ (groupAt t g).resend = none ∧ (groupAt t g).buf = []))) ∧
  (∀ g, (groupAt s g).st = gACTIVE → minRelease s g ≠ 0 →
    ∃ t, exec (.releaseCredit g) s = .next t ∧ (groupAt t g).rel = ((groupAt s g).rel + minRelease s g) % seqMod ∧
      (groupAt t g).buf = (groupAt s g).buf.filter (fun b => !seqLt b.seq (((groupAt s g).rel + minRelease s g) % seqMod))) ∧
  (∀ a r, rcvUsed s a r = true →
    let st := (rcvOf (agentAt s a) r).st
    let to' := fun (h : HueSt) => setRcv s a r h
    (st = .locked → exec (.hueDrift a r) s = .next (postHue (to' .drifting) a r 1)) ∧
    (st = .locked ∨ st = .drifting → exec (.hueUnlock a r) s = .next (postHue (to' .unlocked) a r 2)) ∧
    (st = .unlocked → (agentAt s a).stopped = false → ∃ t, exec (.hueRelock a r) s = .next t ∧ (rcvOf (agentAt t a) r).st = .locked) ∧
    (st = .unlocked → exec (.receiverLost a r) s = .next (declareDead (postHue (to' .lost) a r 4) a)) ∧
    (st = .drifting → exec (.receiverRetune a r) s = .next (to' .locked)))

/-- Weight chains: the walk, branches, marks, invocations, epilogues, and the end of a chain (11 R294 to R303, 07 R228, R229). -/
def Obligations.ChainEvents : Prop := ∀ s,
  (∀ g, s.rel.wave = none →
    let e := groupAt s g
    let mine := (beaconGroups s e.beacon.toNat).find? (hasBlock s) = some g
    let served := fun (t : State) => ({ t with light := { t.light with served := mput t.light.served e.beacon.toNat g } } : State)
    (∀ r q, e.walker = none → e.q = r :: q → e.st = gACTIVE → r.chain = true → e.resend = none → exec (.chainWalk g) s = .next (beginChain s g r)) ∧
    (∀ w, e.walker = some w → w.ending = false →
      (e.st = gFAILED → exec (.chainWalk g) s = .next (beaconFault s g 9 w.va 0)) ∧
      (e.st = gACTIVE → e.resend = none → w.branch = none →
        (windowRoom e = false → exec (.chainWalk g) s = .next (modGroup s g (fun e => { e with bst := .windowFull }))) ∧
        (windowRoom e = true → ∀ h, fetchHeader s g w.va = .inl h →
          (hOpc h = 8 → e.rel ≠ e.next → exec (.chainWalk g) s = .next s) ∧
          (hOpc h ≠ 9 → (hOpc h = 8 → e.rel = e.next) → ∀ n, walkNext h w.links = .inl n → exec (.chainWalk g) s = .next (beaconFault s g n w.va 0)) ∧
          (hOpc h ≠ 9 → (hOpc h = 8 → e.rel = e.next) → ∀ n b, walkNext h w.links = .inr n → fetchBody s g w.va h w.inj = .block b →
            (mine → exec (.chainWalk g) s = .next (served (sendChained s g w b n))) ∧ (¬ mine → exec (.chainWalk g) s = .next s)))))) ∧
  (∀ g w sq h, (groupAt s g).walker = some w → w.branch = some (sq, h) → (groupAt s g).st = gACTIVE → w.ending = false → seqLt (groupAt s g).rel sq = false →
    let pair := if w.count = 1 then (false, false) else condPair s g (seqSub sq 1)
    let va := if condSelect (hCsel h) pair then hAlt h else hSucc h
    (va ≠ 0 → va.toNat % 64 = 0 → exec (.branchCondition g) s = .next (modGroup s g (fun e => { e with walker := some { w with va := va, branch := none } }))) ∧
    (va = 0 ∨ va.toNat % 64 ≠ 0 → exec (.branchCondition g) s = .next (beaconFault s g 5 w.va 0))) ∧
  (∀ g m rest, (groupAt s g).marks = m :: rest → seqLt m.seq (groupAt s g).rel = true →
    let gone := fun (s : State) => modGroup s g (fun e => { e with marks := rest })
    (∀ t, markPlace s g m.addr = .page t → plainTo s (some (groupAt s g).owner) (leafKey t m.addr.toNat) = true →
      exec (.markWrite g) s = .next (gone (setMem s (writeWord s.mem (leafKey t m.addr.toNat) m.word)))) ∧
    (markPlace s g m.addr = .none → (groupAt s g).walker = none → exec (.markWrite g) s = .next (beaconFault (gone s) g 1 m.va 0))) ∧
  (∀ a c, (agentAt s a).rx.chain = some c →
    let x := agentAt s a
    let may := mayInvoke x ((taskOf s a).any (·.retire.isSome)) c = true
    (∀ v sl, may → c.inv = some v → mget? x.rx.slots v.slot = some sl → exec (.blockInvocation a) s = .next (invoke s a c v.slot sl)) ∧
    (∀ i sl, may → c.inv = none → nextBlock x c = some (i, sl) → sl.reading = false →
      let c' := { c with inv := some ⟨i, sl.seq, false, false, false, []⟩ }
      exec (.blockInvocation a) s = .next (invoke (modAgent s a (fun x => modChain x (fun _ => c'))) a c' i sl)) ∧
    (inEpilogue s a c.strand = true → (strandAt s a c.strand).epiLeft = 0 → (strandAt s a c.strand).st = .ready →
      (∀ r ∈ s.net.reqs, r.src ≠ a ∨ r.strand ≠ c.strand) → exec (.epilogueEnd a) s = .next (commitBlock s a)) ∧
    (∀ l, x.stopped = false → leaving c = some l → (∀ p, c.inj = some p → p.1 ≠ a) →
      let s1 := modAgent s a (fun x =>
        let x := returnBlocks c 8 x
        { x with rx := { x.rx with chain := none, held := [], cond := false } })
      let s2 := modStrand s1 a c.strand (fun t => { t with
        st := .ready, cause := none, reply := none, word := none, lastBranch := none, mode := 0, pc := c.pc, epiLeft := 0, epiIdx := 0 })
      let s3 := setReg s2 a c.strand c.dest.toNat (BitVec.ofNat 64 (c.blocks * 2 ^ 8 + l.reason))
      (l.fault = none → exec (.chainLeave a) s = .next (kickMxe s3 a)) ∧
      (∀ f, l.fault = some f → exec (.chainLeave a) s = .next (kickMxe (trapEntry s3 a c.strand f.cause.toNat c.pc f.addr f.info 0) a)))) ∧
  (∀ g sq f rest, (groupAt s g).st = gACTIVE ∨ (groupAt s g).st = gFAILED → (∀ w, (groupAt s g).walker = some w → w.ending = false) → stopTokens s g = (sq, f) :: rest → (∀ u ∈ rest, seqLt u.1 sq = false) →
    exec (.chainStopToken g) s = .next (startEnd s g (f.info.extractLsb' 24 8).toNat f.addr sq f.cause.toNat)) ∧
  (∀ g a f reason va seq next cause, nextFlight s g a = some f → f.what = .chainEnd reason va seq next cause →
    (f.tag ≠ (groupAt s g).owner ∨ staleAt s a (some f.tag) = true → exec (.chainEndUnit g a) s = .next (popFlight s g a)) ∧
    (f.tag = (groupAt s g).owner → staleAt s a (some f.tag) = false →
      receivesUnit s g a = false ∨ (agentAt s a).stopped = true ∨ workBelow (agentAt s a) g seq = true ∨ blocksBelow s g a seq = true →
      exec (.chainEndUnit g a) s = .next (sendUnitAgain s g a f)) ∧
    (f.tag = (groupAt s g).owner → staleAt s a (some f.tag) = false → receivesUnit s g a = true → (agentAt s a).stopped = false →
      workBelow (agentAt s a) g seq = false → blocksBelow s g a seq = false →
      exec (.chainEndUnit g a) s = .next (confirmEnd (modAgent (endMember (popFlight s g a) g a reason va seq cause) a (fun x => dropBlocks x g seq next)) g a)))

/-- The task unit: queues observed, counters, placement, prefetch, start, retirement, watchdog (14 R325 to R343). -/
def Obligations.TaskEvents : Prop := ∀ s,
  (∀ c l, (ctxAt (refreshCtx s c) c).st ≠ 0 → (queueAt (refreshCtx s c) c l).frozen = false → killing (refreshCtx s c) c = false → l < 4 →
    let u := refreshCtx s c
    let q := queueAt u c l
    let ev := Instr.tailObserved c l
    (∀ t, (readNext u c l).run u = .ok t → exec ev s = .next t) ∧
    (∀ tail ring e, (readHeader u c l).run u = .ok (tail, ring) → (tquPage (liveTag u c) (headerVa u c l) 1 false).run u = .ok e →
      let key := leafKey e (headerVa u c l)
      let v : State := if 2 ^ 60 ≤ key ∧ key < 2 ^ 61 then { u with trust := { u.trust with hostLines := insertNat u.trust.hostLines ((key - 2 ^ 60) / 64) } } else u
      (12 < ringLog ring → exec ev s = .next (faultQueue v c l 3 (headerVa u c l) tail)) ∧
      (ringLog ring ≤ 12 → tail < max q.last q.head ∨ q.head + 2 ^ ringLog ring < tail → exec ev s = .next (faultQueue v c l 1 (headerVa u c l) tail)) ∧
      (ringLog ring ≤ 12 → max q.last q.head ≤ tail → q.head = tail → exec ev s = .next (if q.last = tail then v else setQueue v c l { q with last := tail })))) ∧
  (∀ t, taskAt s t.id = some t → t.st = .waiting → t.counter = true → t.retire = none →
    let va := recField t.record 6 3 54 * 8
    ((tquWord t.tag va).run s = .ok (0, false) → exec (.dependenceCounterZero t.id) s = .next (modTask s t.id (fun t => { t with st := .queued, since := s.env.ns }))) ∧
    (∀ n, n ≠ 0 → (tquWord t.tag va).run s = .ok (n, false) → exec (.dependenceCounterZero t.id) s = .next s) ∧
    (∀ n, (tquWord t.tag va).run s = .ok (n, true) →
      exec (.dependenceCounterZero t.id) s = .next (modTask (dropTquWalk (tquPoison s t.tag va 8) t.tag.cx.toNat va) t.id (fun t => { t with retire := some .cancelled, reason := 8 })))) ∧
  (∀ c t, mayDispatch s c = true → (placingTask s c <|> nextTask s c) = some t → (queueAt s c t.lvl).frozen = false →
    let mine := ((List.range 64).map (fun i => (s.os.lastCx + 1 + i) % 64)).find? (hasTurn s) = some c
    let served := fun (u : State) => ({ u with os := { u.os with lastCx := c } } : State)
    (¬ mine → exec (.taskPlacement c) s = .next s) ∧
    (mine → origins s t = [] →
      exec (.taskPlacement c) s = .next (served (modTask s t.id (fun t => { t with st := .placing, reason := 3, retire := some .failed })))) ∧
    (mine → ∀ o, (origins s t).find? (rectFree s t) = some o → (∀ u, (endPages s t).run s ≠ .error (.walk u)) →
      exec (.taskPlacement c) s = .next (served (placeAt s t o))) ∧
    (mine → origins s t ≠ [] → (origins s t).find? (rectFree s t) = none →
      exec (.taskPlacement c) s = .next (served (modTask s t.id (fun t => { t with st := .placing }))))) ∧
  (∀ t, taskAt s t.id = some t → t.st = .prefetch → t.landed = false → t.retire = none → (taskTiles s t.id).length = (taskNames t).length →
    let fixed := untilBad (fun s sect => fixInPlace s (originTile (measureImage s t) t) t sect (bypOf s t.origin)) [0, 1] (measureImage s t)
    let out := loadTiles fixed.1 t
    (∀ va, fixed.2 = some va → exec (.prefetch t.id) s = .next (failTask fixed.1 t.id 5 0 0 0 (BitVec.ofNat 64 va) 0)) ∧
    (fixed.2 = none → out.2 = none → exec (.prefetch t.id) s = .next (modTask out.1 t.id (fun t => { t with landed := true }))) ∧
    (fixed.2 = none → ∀ r va, out.2 = some (r, va) →
      exec (.prefetch t.id) s = .next (failTask out.1 t.id r 0 0 0 (BitVec.ofNat 64 (if r = 5 then va else 0)) 0))) ∧
  (∀ t, taskAt s t.id = some t → t.st = .prefetch → t.landed = true → t.retire = none → (queueAt s t.tag.cx.toNat t.lvl).frozen = false →
    mayDispatch s t.tag.cx.toNat = true →
    let nw := ringWafers s t.tag.cx.toNat
    let text := match t.image.secs.find? (fun x => x.1 == 0) with | some x => x.2.1 | none => 0
    exec (.strandStart t.id) s = .next (modTask ((taskNames t).foldl (fun s p => match physOfName s p.2 with
      | none => s
      | some q => modAgent s q (startTile t text (domWords s t (p.1 % rW t.record) (p.1 / rW t.record) nw.1) p.1)) nw.2) t.id (fun t => { t with st := .running }))) ∧
  (∀ t, taskAt s t.id = some t → (∀ a ∈ taskTiles s t.id, (agentAt s a).stopped = false) →
    (∀ f, (t.retire = some f ∧ ∀ a ∈ taskTiles s t.id, tileQuiet s a true = true) ∨
        (f = .done ∧ t.retire = none ∧ t.st = .running ∧ t.tag = liveTag s t.tag.cx.toNat ∧ ∀ a ∈ taskTiles s t.id, tileQuiet s a false = true) →
      (∀ a, (taskTiles s t.id).find? (fun a => tileDirty (agentAt s a) != []) = some a → exec (.taskRetirement t.id) s = .next (flushTile s a)) ∧
      ((∀ a ∈ taskTiles s t.id, tileDirty (agentAt s a) = []) → (∀ u, (endPages s t).run s ≠ .error (.walk u)) →
        exec (.taskRetirement t.id) s = .next (retireTask s t f)))) ∧
  (∀ t, taskAt s t.id = some t → t.st = .running → rWdog t.record ≠ 0 → t.retire = none → ∃ u, exec (.watchdog t.id) s = .next u ∧
    ∃ v, taskAt u t.id = some v ∧ v.retire = some .failed ∧ v.reason = 7 ∧ v.cause = 0)

/-- Contexts: kills, reclaims, pre-emptions, translations, saves, answers, fault records (15 R353 to R376, 16 R380, R385, 19 R426, R428). -/
def Obligations.ContextEvents : Prop := ∀ s,
  (∀ c o, findOp s c .kill = some o →
    (∀ a, a < coreBase → a ∉ o.reached → exec (.killMarker c a) s = .next (reach (killTile s c o.newInc a) o a)) ∧
    (∀ b, b < 64 → beaconUnit b ∉ o.reached → exec (.killMarker c (beaconUnit b)) s = .next (reach (killBeacon s c o.newInc b) o (beaconUnit b))) ∧
    (tquUnit ∉ o.reached → (allTiles s).all o.reached.contains = true →
      let s1 := dropOldWalks s c o.newInc (fun w => match w with | .tqu _ => true | _ => false)
      let s2 := (killQueues s1 c).1
      ((killQueues s1 c).2 = false → exec (.killMarker c tquUnit) s = .next s2) ∧
      ((killQueues s1 c).2 = true → exec (.killMarker c tquUnit) s = .next (reach (killTrees s2 c o.newInc) o tquUnit))) ∧
    (∀ u ∈ gateUnits, u ∉ o.reached → exec (.killMarker c u) s = .next (reach s o u)) ∧
    ((killUnits s).all o.reached.contains = true → exec (.killAcknowledgement c) s =
      .next (endOp (refreshCtx (mirror (modCtx s c (fun v => { v with st := 1 })) c) c) o (BitVec.ofNat 64 o.newInc.toNat)))) ∧
  (∀ c o, findOp s c .reclaim = some o → s.rel.wave = none → oldTraffic s c = false →
    let t := endOp (mirror (modCtx s c (fun v => { v with ov1 := false, old1 := 0, ov2 := false, old2 := 0 })) c) o 0
    (o.strand ≠ byOrder → exec (.reclaimMarker c) s = .next t) ∧ (o.strand = byOrder → exec (.reclaimMarker c) s = .next (beginKill c noStrand t))) ∧
  (∀ a, (agentAt s a).stopped = false → isCore a = false → allStop s = true ∨ s.os.ops.any (stopsHere s a) = true →
    ∃ t, exec (.stopMarker a) s = .next t ∧ (agentAt t a).stopped = true) ∧
  (∀ a, (agentAt s a).stopped = true → tileDirty (agentAt s a) ≠ [] → exec (.stopMarker a) s = .next (flushTile s a)) ∧
  (∀ c o, findOp s c .preempt = some o → s.rel.wave = none → (regionTiles s c).all (fun a => o.reached.contains a && tileDrained s a) = true →
    (∀ t ∈ tasksOf s c, t.st = .prefetch → t.landed = false → t.retire ≠ none) →
    let s1 := restartCalls s (fun t => t.cx.toNat == c)
    let s2 : State := { s1 with os := { s1.os with tasks := s1.os.tasks.map (fun t => if t.tag.cx.toNat = c ∧ t.st = .running then { t with st := .preempted } else t) } }
    exec (.preemptDrained c) s = .next (endOp (mirror (modCtx s2 c (fun v => { v with st := 2 })) c) o 0)) ∧
  (∀ (i : Nat) o mode first npg u, s.os.ops[i]? = some o → o.kind = .tlbinv mode first npg → s.rel.wave = none → u ∉ o.reached → u ∈ tlbUnits s →
    (u < coreBase → accessesDone s u o.cx = true ∧ fieldReached s o u = true) →
      let s1 := reach (invUnit s u mode first npg o.cx) o u
      let o1 := { o with reached := o.reached ++ [u] }
      ((tlbUnits s1).all o1.reached.contains = false → exec (.tlbinvMarker i u) s = .next s1) ∧
      ((tlbUnits s1).all o1.reached.contains = true → exec (.tlbinvMarker i u) s =
        .next (endOp ((if o.cx = 64 then List.range 64 else [o.cx]).foldl latchRoot s1) o1 0))) ∧
  (∀ o n all, nameOp s = some (o, n, all) → exec .nameinvAcknowledgement s = .next (endOp (mapAgents s (fun _ x => forgetName n all x)) o 0)) ∧
  (∀ c, (ctxAt s c).st = 1 → (ctxAt s c).ov1 = false → (ctxAt s c).ov2 = false → tasksOf s c = [] → opOn s c (fun _ => false) = false →
    (∀ p ∈ s.light.groups, p.2.st = 0 ∨ p.2.owner.cx.toNat ≠ c) → (∀ p ∈ s.net.trees, teState p.2 = 0 ∨ (teTag p.2).cx.toNat ≠ c) →
      ∃ t, exec (.contextFreed c) s = .next t ∧ (ctxAt t c).st = 0 ∧ (ctxAt t c).inc = (ctxAt s c).inc) ∧
  (∀ c o lsall vlt, s.os.ops.find? (fun o => o.cx == c && (match o.kind with | .save _ _ => true | _ => false)) = some o → o.kind = .save lsall vlt →
    let n := (savedNames s c).length
    let size := n * recordStride vlt
    (∀ t, pagesMissing s c (saveVa s c) (size + 0x10000) = some t → exec (.cxsaveComplete c) s = .next t) ∧
    (pagesMissing s c (saveVa s c) (size + 0x10000) = none →
      ((putRecords s c lsall vlt).2 = false → exec (.cxsaveComplete c) s = .next (endOp (dropAreaWalks s c) o (codeWord 5 0))) ∧
      (∀ s1 bytes s2 s3, putRecords s c lsall vlt = (s1, true) → getSaved c (size / 64) s1 (saveVa s1 c + 0x10000) size = (s2, some bytes) →
        putSaved c 1024 s2 (saveVa s2 c) (saveHeader s2 c n lsall vlt (Config.sha3 bytes)) = (s3, true) →
        exec (.cxsaveComplete c) s = .next (endOp { s3 with os := { s3.os with
          saves := ⟨c, (ctxAt s3 c).inc, Config.sha3 bytes, lsall, vlt, true, saveVa s3 c, savedTiles s3 c, tasksOf s3 c⟩ :: s3.os.saves } } o 0)))) ∧
  (∀ c o, findOp s c .load = some o →
    (∀ t, areaMissing s c = some t → exec (.cxloadComplete c) s = .next t) ∧
    (∀ n, areaMissing s c = none → checkSaved s c = .inl n → exec (.cxloadComplete c) s = .next (endOp (dropAreaWalks s c) o (codeWord 7 n))) ∧
    (∀ v, areaMissing s c = none → checkSaved s c = .inr v →
      let s1 := loadTiles' (loadTasks s c v.tasks) c v
      let s2 : State := { s1 with os := { s1.os with saves := s1.os.saves.map (fun v => if v.cx = c then { v with last := false } else v) } }
      exec (.cxloadComplete c) s = .next (endOp (mirror (modCtx s2 c (fun x => { x with st := 1 })) c) o 0))) ∧
  (∀ (i : Nat) w, s.net.walks[i]? = some w →
    let gone : State := { s with net := { s.net with walks := s.net.walks.eraseIdx i } }
    let live := w.tag.inc = (ctxAt s w.tag.cx.toNat).inc ∧ (ctxAt s w.tag.cx.toNat).st ≠ 0
    (¬ live → exec (.translationWalk i) s = .next gone) ∧
    (live → w.chart = false → w.failed = false →
      (∀ key lv e, walkTable s w.tag w.va = .leaf key lv e → leafAllows w.access w.dirty e = true →
        let e' := e ||| 0x100 ||| (if w.dirty then 0x200 else 0)
        exec (.translationWalk i) s = .next (cacheLeaf (if e' = e then gone else setMem gone (writeWord s.mem key e')) w.who
          ⟨w.tag, w.va / 2 ^ pageBits lv * 2 ^ pageBits lv, lv, e'⟩)) ∧
      (∀ key lv e, walkTable s w.tag w.va = .leaf key lv e → leafAllows w.access w.dirty e = false →
        (leafA e = true → exec (.translationWalk i) s = .next (cacheLeaf gone w.who ⟨w.tag, w.va / 2 ^ pageBits lv * 2 ^ pageBits lv, lv, e⟩)) ∧
        (leafA e = false → exec (.translationWalk i) s =
          .next { s with net := { s.net with walks := s.net.walks.set i { w with failed := true, denied := some e } } })) ∧
      (∀ lv e, walkTable s w.tag w.va = .invalid lv e → exec (.translationWalk i) s = .next (missWalk s i w false lv e)) ∧
      (∀ lv e, walkTable s w.tag w.va = .malformed lv e → exec (.translationWalk i) s = .next (missWalk s i w true lv e)) ∧
      (∀ k lv, walkTable s w.tag w.va = .poisoned k lv →
        let u := postCore s (walkField s w.who % 8) (mkRec s 3 0x10 (some w.tag) 0 (walkField s w.who * 512) 12 1 (BitVec.ofNat 64 (addrOfKey k)) 0 0 0 0 0 0)
        exec (.translationWalk i) s = .next (missWalk u i w true lv 0)))) ∧
  (∀ n, exec (.translationTimeout n) s = .next { s with net := { s.net with walks := s.net.walks.map (fun w =>
    if w.chart = true ∧ w.token = some n then { w with failed := true, chart := false, token := none } else w) } }) ∧
  (∀ a k v r, s.os.svc.find? (fun r => r.agent == a && r.strand == k) = some r →
    let gone := fun (s : State) => ({ s with os := { s.os with svc := s.os.svc.filter (fun q => q != r) } } : State)
    (r.lode = false → exec (.syscallAnswer a k v) s = .next (answerStrand (gone s) a k v)) ∧
    (r.lode = true → exec (.syscallAnswer a k v) s = .next (answerStrand (gone (lodeAnswer s r).1) a k (lodeAnswer s r).2))) ∧
  (∀ a k, (strandAt s a k).st = .waiting → (strandAt s a k).cause = some .halt → exec (.haltTimeout a k) s = .next (answerStrand s a k 0)) ∧
  (∀ c r rest, mget [] s.rel.recs c = r :: rest →
    let left := fun (l : List Rec) => ({ s with rel := { s.rel with recs := mput s.rel.recs c l } } : State)
    (ringRoom s c = true → exec (.faultRecord c) s = .next (putRecord (left rest) c r)) ∧
    (ringRoom s c = false → isTranslate r = false → exec (.faultRecord c) s = .next (loseRecord (left rest) c)))

/-- The host's accesses and mailboxes, Lodestar's answers, and frames of other wafers (18 R395 to R412, 21 R453, 19 R417). -/
def Obligations.HostEvents : Prop := ∀ s,
  (∀ p line, portHas p line = true →
    let shown := fun (v : Line × Bool) => exec (.cxlMemRead p line) s = .next { s with trust := { s.trust with cxlOut := some v } }
    (portLine p line = none → shown (BitVec.allOnes 512, false) ∧ ∀ data mask, exec (.cxlMemWrite p line data mask) s = .next s) ∧
    (∀ k, portLine p line = some k →
      (sealOf s k = none → shown (BitVec.ofNat 512 (readNat s.mem k 64), poisoned s.mem k 64) ∧
        ∀ data mask, exec (.cxlMemWrite p line data mask) s = .next (setMem s (writeMasked s.mem k data mask))) ∧
      (sealOf s k ≠ none → shown (sealedLine s k, poisoned s.mem k 64) ∧ ∀ data mask, exec (.cxlMemWrite p line data mask) s =
        .next { s with trust := { s.trust with refused := mmod 0 s.trust.refused p (fun n => min (n + 1) (2 ^ 32 - 1)) } }))) ∧
  (∀ p addr data, p < 4 → addr < 2 ^ 54 → exec (.hostSnoop p addr data) s = .next { s with
    mem := writeBytes s.mem (2 ^ 60 + 64 * addr) (natBytes 64 data.toNat), trust := { s.trust with hostLines := s.trust.hostLines.filter (· != addr) } }) ∧
  (∀ p, p < 4 →
    (∀ attest len op payload,
      let i := 2 * p + (if attest then 1 else 0)
      let b := boxAt s i
      (b.go = true ∨ b.answer ≠ none → exec (.mailboxGo p attest len op payload) s = .next (putBox s i { b with code := 4 })) ∧
      (b.go = false → b.answer = none → exec (.mailboxGo p attest len op payload) s =
        .next (putBox s i { putData b (payload.take 32512) with go := true, len := len % 2 ^ 16, op := op % 2 ^ 16, done := false })) ∧
      (∀ code bs, b.answer = some (code, bs) →
        exec (.mailboxAnswer p attest) s = .next (putBox s i { putData b bs with done := true, rlen := bs.length, code := code, answer := none }))) ∧
    (∀ code answer, (boxAt s (2 * p)).go = true → s.boot.stage ≠ 7 →
      (s.boot.stage.toNat ≤ 3 → exec (.mgmtCommand p code answer) s = .next (acceptBox s (2 * p) 4 [])) ∧
      (3 < s.boot.stage.toNat → (boxAt s (2 * p)).len ≤ 32512 → exec (.mgmtCommand p code answer) s = .next (acceptBox s (2 * p) code answer)))) ∧
  (∀ p, let i := 2 * p + 1
    let b := attestBody s p
    (attestReady s p 1 = true → exec (.certificateChain p) s = .next (acceptBox s i 0 Config.certificates)) ∧
    (attestReady s p 2 = true → s.boot.stage ≠ 7 →
      (b.length ≠ 33 → exec (.attestationReport p) s = .next (acceptBox s i 2 [])) ∧
      (∀ r, b.length = 33 → attest s (b.take 32) (leNat (b.drop 32)) = some r → exec (.attestationReport p) s = .next (acceptBox s i 0 r)) ∧
      (b.length = 33 → attest s (b.take 32) (leNat (b.drop 32)) = none → exec (.attestationReport p) s = .next (acceptBox s i 3 []))) ∧
    (attestReady s p 3 = true → s.boot.stage ≠ 7 →
      (b.length < keyBytes + sigBytes → exec (.signatureCheck p) s = .next (acceptBox s i 2 [])) ∧
      (∀ m k g, b = m ++ k ++ g → k.length = keyBytes → g.length = sigBytes → exec (.signatureCheck p) s = .next (acceptBox s i (checkSig m k g) []))) ∧
    (attestReady s p 4 = true → exec (.bootstatRead p) s = .next (acceptBox s i 0 (natBytes 8 (bootstat s).toNat))) ∧
    (attestReady s p 0x10 = true → s.boot.stage ≠ 7 → exec (.convoyFormation p) s = .next (acceptBox (formConvoy s b).1 i (formConvoy s b).2.1 (formConvoy s b).2.2)) ∧
    (attestReady s p 0x11 = true → s.boot.stage ≠ 7 → exec (.revocationOrder p) s = .next (acceptBox (revoke s b).1 i (revoke s b).2.1 (revoke s b).2.2)) ∧
    (s.boot.stage = 7 → (∀ n e, (n, e) ∈ [(2, Instr.attestationReport p), (3, .signatureCheck p), (0x10, .convoyFormation p), (0x11, .revocationOrder p)] →
      attestReady s p n = true → exec e s = .next (acceptBox s i 3 [])))) ∧
  (∀ cx inc gen sender kind no cipher tag,
    let ev := Instr.ulnenuFrame cx inc gen sender kind no cipher tag
    (kind = 5 → exec ev s = .next (revoke s cipher).1) ∧
    let tg : Tag := ⟨BitVec.ofNat 6 cx, BitVec.ofNat 12 inc⟩
    (kind ≠ 5 → 64 ≤ cx ∨ 2 ^ 12 ≤ inc ∨ (ctxAt s cx).st = 0 ∨ staleAt s edgeUnit (some tg) = true → exec ev s = .next s) ∧
    (kind ≠ 5 → cx < 64 → inc < 2 ^ 12 → (ctxAt s cx).st ≠ 0 → staleAt s edgeUnit (some tg) = false →
      (openFrame s cx inc gen sender kind no cipher tag = none → exec ev s = .next { s with trust := { s.trust with authFail := s.trust.authFail + 1 } }) ∧
      (∀ b, openFrame s cx inc gen sender kind no cipher tag = some b → exec ev s = .next (deliverFrame s tg sender kind b)))) ∧
  (∀ cx inc name off data p, cx < 64 → inc < 2 ^ 12 → (ctxAt s cx).st ≠ 0 → inRegion (ctxAt s cx).region name = true → off + data.length ≤ 2 ^ 23 →
    physOfName s name = some p → staleAt s p (some ⟨BitVec.ofNat 6 cx, BitVec.ofNat 12 inc⟩) = false →
    let m := writeBytes s.mem (keyVault p off) data
    exec (.peerCopyLanding cx inc name off data none) s = .next (setMem s m) ∧
    (∀ b, b % 16 = 0 → b + 16 ≤ 2 ^ 23 → poisoned m (keyVault p b) 16 = false → (barUpdate m (keyVault p b) false (-(data.length : Int))).1 = 0 →
      exec (.peerCopyLanding cx inc name off data (some b)) s = .next (setMem s (barUpdate m (keyVault p b) false (-(data.length : Int))).2)))

/-- Errors found and units lost (19 R416, R419, R423, 09 R259, R270, 20 R437), waves and the full rebuild (20 R434 to R443). -/
def Obligations.RepairEvents : Prop := ∀ s,
  (∀ array unit,
    let k := 8 * unit + array % 8
    let n := mget 0 s.rel.corrected k + 1
    let s1 : State := { s with rel := { s.rel with corrected := mput s.rel.corrected k n } }
    (n % 256 ≠ 0 → exec (.correctedError array unit) s = .next s1) ∧
    (n % 256 = 0 → unit < coreBase → exec (.correctedError array unit) s = .next (postUnit s1 unit 4 0 none (arrayUnit array) 0 0 (BitVec.ofNat 64 n) 0 0))) ∧
  (∀ key, inModule key = true → ∀ t, t = postMarked (setMem s ((List.range 8).foldl (fun m i => markPoison m (key / 64 * 64 + 8 * i)) s.mem)) key →
    exec (.uncorrectableError key) s = .next t ∧ exec (.scrub key true) s = .next t) ∧
  (∀ key, 2 ^ 61 ≤ key → key < 2 ^ 61 + coreBase * 2 ^ 24 → exec (.uncorrectableError key) s = .next (postMarked (setMem s (markPoison s.mem key)) key)) ∧
  (∀ key, exec (.scrub key false) s = .next s) ∧
  (∀ a p n, a < coreBase → p ≤ 4 → 8 * a + p ∉ s.net.retired →
    let s2 : State := { s with net := { s.net with linkFails := mput s.net.linkFails (8 * a + p) n } }
    (n ≤ 4 → exec (.linkRetry a p n) s = .next s2) ∧
    (4 < n → exec (.linkRetry a p n) s =
      .next (loseRouter (postUnit { s2 with net := { s2.net with retired := insertNat s2.net.retired (8 * a + p) } } a 5 0 none 5 1 0 0 0 0) a 1))) ∧
  (∀ a, a < coreBase → exec (.routerLost a false) s = .next (loseRouter s a 1) ∧ exec (.routerLost a true) s = .next (loseRouter s a 2) ∧
    exec (.tileDeclaredDead a) s = .next (declareDead s a)) ∧
  (∀ row, s.rel.wave = none → firstPending s = some row →
    exec (.shiftRemapWave row) s = .next (beginWave (modRow s row (fun v => { v with pend := 0 })) row (deadSet s row ||| (rowAt s row).pend))) ∧
  (∀ w, s.rel.wave = some w → w.switch = false →
    (w.step = 1 → allStopped s = true → exec (.shiftRemapWave w.row) s = .next (modWave (haltWafer s) (fun w => { w with step := 2 }))) ∧
    (w.step = 2 → allDrained s = true → exec .waveDrained s = .next (modWave s (fun w => { w with step := 3 }))) ∧
    (w.step = 3 → exec .waveDrained s = .next (migrate s w)) ∧
    (w.step = 4 → exec .waveDrained s = .next (rewriteRow s w)) ∧
    (w.step = 5 → w.groups = [] → w.trees = [] → exec .waveRepaired s = .next (modWave s (fun w => { w with step := 6 }))) ∧
    (w.step = 6 →
      let u := countRingReplays (postCapacity (failLost s w.lost) w.lost) w.lost
      exec .waveRepaired s = .next (resumeAll { u with rel := { u.rel with wave := none, waves := u.rel.waves + 1 } }))) ∧
  (s.rel.rebuild = true → s.rel.wave = none → (∀ c ∈ s.os.ctxs, c.2.st = 0) → exec .fullRebuild s = .next (rebuild s))

/-- Checkpoints and restores (20 R446 to R448).
Bring-up, service levels, lasers and heat (21 R450 to R462). -/
def Obligations.CheckpointAndBootEvents : Prop :=
  (∀ s,
   let k := s.rel.ckpt
   (s.rel.wave = none → k.bad = false →
     (k.st = 1 → (List.range 64).all (isQuiet s) = true → exec .checkpointQuiesced s = .next (modCkpt s (fun k => { k with st := 2 }))) ∧
     (k.st = 2 → allStopped s = true → allDrained s = true →
       exec .checkpointQuiesced s = .next (modCkpt (stageAll (restartCalls s (fun _ => true))) (fun k => { k with st := 3 })))) ∧
   (k.bad = false →
     (k.st = 3 → exec .checkpointCommit s =
       .next (modCkpt s (fun k => { k with st := 4, staged := some (takeImage s), slots := mput k.slots (1 - k.slot).toNat (takeImage s) }))) ∧
     (∀ i, k.st = 4 → k.staged = some i → exec .checkpointCommit s =
       .next (endCheckpoint (modCkpt s (fun k => { k with slots := mput k.slots (1 - k.slot).toNat { i with good := true }, gen := i.gen, slot := 1 - k.slot })) 5))) ∧
   (1 ≤ k.st.toNat → k.st.toNat ≤ 4 → exec .checkpointFailed s = .next (endCheckpoint s 7)) ∧
   (k.st = 6 →
     ((∀ i, mget? k.slots k.slot.toNat = some i → i.good = false ∨ k.gen = 0) → exec .checkpointRestoreComplete s = .next (modCkpt s (fun k => { k with st := 7, op := 0 }))) ∧
     (∀ i, mget? k.slots k.slot.toNat = some i → i.good = true → k.gen ≠ 0 →
       let m : Memory := ⟨i.mem.cells ++ s.mem.cells.filter (fun c => 2 ^ 43 ≤ c.1), i.mem.poison ++ s.mem.poison.filter (fun w => 2 ^ 40 ≤ w)⟩
       let s1 : State := { setMem s m with trust := { s.trust with seals := i.seals } }
       exec .checkpointRestoreComplete s =
         .next (i.held.foldl deliverL3 (resumeAll (modCkpt (i.ctxs.foldl (restoreCtx i) s1) (fun k => { k with st := 5, op := 0 })))))) ∧
   (∀ f, f < 48 → exec (.thermalPowerDown f) s = exec .powerLoss s) ∧
   (∃ t, exec .powerLoss s = .next t ∧ t.agents = State.reset.agents ∧ t.os = State.reset.os ∧ t.net = State.reset.net ∧ t.light = State.reset.light ∧
     t.rel.ckpt.slots = k.slots ∧ t.rel.ckpt.gen = k.gen ∧ t.rel.ckpt.slot = k.slot ∧ t.boot.fuses = s.boot.fuses ∧ t.trust.convoys = s.trust.convoys ∧
     t.mem = ⟨s.mem.cells.filter (fun c => 2 ^ 62 ≤ c.1 && c.1 < 2 ^ 63), []⟩)) ∧
  (∀ s,
   let boot := fun (f : Boot → Boot) (s : State) => ({ s with boot := f s.boot } : State)
   (s.env.powered = false ∨ s.boot.stage = 0 →
     let s1 := boot (fun b => { b with m0 := b.fuses.romHash }) { s with env := { s.env with powered := true } }
     (loadImage s1 1 = none → ∃ t, exec .powerGood s = .next t ∧ t.boot.stage = 7 ∧ t.boot.code = 2 ∧ t.boot.m0 = s.boot.fuses.romHash ∧ t.mem = s.mem) ∧
     (∀ i, loadImage s1 1 = some (i, false) → exec .powerGood s = .next (bootChart s1 i)) ∧
     (∀ i, loadImage s1 1 = some (i, true) → exec .powerGood s = .next (bootChart (boot (fun b => { b with code := 1 }) s1) i))) ∧
   (s.boot.stage = 3 →
     (∀ f, f < 48 → exec (.selfTestOverrun f) s = .next (boot (fun b => { b with code := 5 }) ((fieldTiles f).foldl markDead s))) ∧
     (∀ dead trims, ∃ t, exec (.selfTestEnd dead trims) s = .next t ∧ t.boot.stage = 4 ∧ t.boot.pilot = true ∧ t.boot.lasers = 0xFF ∧
       t.boot.fields = (List.range 48).filter (fun f => !fieldDead t f))) ∧
   (s.boot.stage = 4 → s.boot.calibrated = false →
     exec .calibrationOverrun s = .next (boot (fun b => { b with code := 6 }) s) ∧
     (s.boot.pilot = true → (∀ c, c < 8 → columnLit s.boot.lasers c = true) → ∃ t, exec .calibrationComplete s = .next t ∧ t.boot.calibrated = true ∧ t.boot.switch = some false ∧
       ∀ a r, (rcvOf (agentAt t a) r).st = (if (rcvOf (agentAt s a) r).st = .lost then .lost else .locked))) ∧
   (∀ p, s.boot.switch = some p →
     (s.rel.wave = none → ¬ (1 ≤ s.rel.ckpt.st.toNat ∧ s.rel.ckpt.st.toNat ≤ 4) →
       exec .serviceSwitch s = .next { s with rel := { s.rel with wave := some ⟨0, 0, 1, [], [], [], [], true⟩ } }) ∧
     (∀ w, s.rel.wave = some w → w.switch = true → allStopped s = true → allDrained s = true → exec .serviceSwitch s = .next (switchService s p))) ∧
   (∀ u, u < 8 → s.boot.lasers.getLsbD u = true → ∃ t, exec (.laserUnitLoss u) s = .next t ∧ t.boot.lasers = s.boot.lasers &&& ~~~((1 : BitVec 8) <<< u) ∧ t.boot.code = 7 ∧
     (s.boot.pilot = false → (∃ c, c < 8 ∧ columnLit t.boot.lasers c = false) → t.boot.switch = some true) ∧
     ((∀ c, c < 8 → columnLit t.boot.lasers c = true) → t.boot.switch = s.boot.switch)) ∧
   (∀ u, u < 8 → s.boot.stage = 4 ∨ s.boot.stage = 6 → exec (.laserUnitRelit u) s = .next (boot (fun b => { b with lasers := b.lasers ||| 1 <<< u }) s)) ∧
   (∀ f, f < 48 → exec (.thermalThrottle f) s = .next { s with rel := { s.rel with throttled := insertNat s.rel.throttled f } }) ∧
   (∀ f, exec (.throttleLift f) s = .next { s with rel := { s.rel with throttled := s.rel.throttled.filter (· != f) } }))

/-! ### Frames, invariants, reset -/

/-- The frame of the register-only instructions (04 R105 to R115): what an instruction with general registers leaves unchanged wherever it has a next state. -/
def Obligations.RegisterFrame : Prop := ∀ i srcs d pd fp, wellFormed i = true → frameOf i = some (srcs, d, pd, fp) → (∀ r ∈ srcs, isG r) → (∀ f, d = some f → isG f) →
  ∀ s t, (cur s).sys.tdepth = 0 → inEpilogue s s.env.agent s.env.strand = false → s.net.walks = [] → exec i s = .next t → framed d pd fp s t

/-- Every step keeps memory, and every copy of it that a checkpoint made, in canonical form. The form is the model's (log 1). -/
def Obligations.MemoryStaysCanonical : Prop := ∀ s t, memInv s → step s = .next t → memInv t

/-- Memory is in canonical form at reset. The form is the model's (log 1). -/
def Obligations.ResetMemoryCanonical : Prop := memInv State.reset

/-- The machine at reset: stage 0 (21 R453, R459); every system register 0 but MAXMSG (09 R255), CALLDL (09 R268) and AGE_LIMIT (14 R334); no strand runs, no tile has a
name, every context, group and tree is FREE, and memory reads 0. What the spec does not state of these is the model's choice (log 1, log 2). -/
def Obligations.ResetState : Prop :=
  let s := State.reset
  (∀ n ∈ sysNumbers, sysValue s n = if n = 0x110 then 16 else if n = 0x120 ∨ n = 0x130 then 2000 else 0) ∧
  s.boot.stage = 0 ∧ s.env.powered = true ∧ (∀ k, readByte s.mem k = 0) ∧ s.mem.cells = [] ∧ s.mem.poison = [] ∧ (∀ a k, (strandAt s a k).st = .inactive) ∧ (∀ n, physOfName s n = none) ∧
  (∀ c, (ctxAt s c).st = 0 ∧ (ctxAt s c).inc = 0) ∧ (∀ g, (groupAt s g).st = 0) ∧ (∀ r g, teState (treeAt s r g) = 0) ∧ (∀ a k r, mget 0 (agentAt s a).pool r = 0 ∧
    mget 0 (strandAt s a k).preds r = 0) ∧ s.os.tasks = [] ∧ s.os.ops = [] ∧ s.net.reqs = [] ∧ s.net.msgs = [] ∧ s.rel.wave = none ∧ s.rel.ckpt.st = 0
end

