-- ==== Sys2Proof/Laws/Exec.lean ====
section
/-!
SUPPORT. How a computation of `Exec` runs: each step of one, and what `runWord` makes of its end.
-/

namespace Sys2Proof.Machine

variable {α β : Type}

/-! ### One step -/

@[simp] theorem run_pure (a : α) (s : State) : (pure a : Exec α) s = .ok (a, s) := rfl

theorem run_bind (x : Exec α) (f : α → Exec β) (s : State) : (x >>= f) s = (match x s with | .ok (a, t) => f a t | .error e => .error e) := by
  show (StateT.bind x f) s = _
  simp only [StateT.bind, bind, Except.bind]
  cases x s <;> rfl

/-- The first part answers: the rest goes on from there. -/
theorem run_bind_ok {x : Exec α} {s t : State} {a : α} (h : x s = .ok (a, t)) (f : α → Exec β) : (x >>= f) s = f a t := by rw [run_bind, h]

/-- The first part stops: so does the whole. -/
theorem run_bind_error {x : Exec α} {s : State} {e : Stop} (h : x s = .error e) (f : α → Exec β) : (x >>= f) s = .error e := by rw [run_bind, h]

/-- The whole answers only where both parts do. -/
theorem bind_eq_ok {x : Exec α} {f : α → Exec β} {s u : State} {b : β} :
    (x >>= f) s = .ok (b, u) ↔ ∃ a t, x s = .ok (a, t) ∧ f a t = .ok (b, u) := by
  rw [run_bind]
  cases h : x s with
  | ok p =>
    obtain ⟨a, t⟩ := p
    exact ⟨fun h => ⟨a, t, rfl, h⟩, fun ⟨_, _, e, h⟩ => by cases e; exact h⟩
  | error e => simp

/-- A value changed on its way out. -/
theorem run_map (f : α → β) (x : Exec α) (s : State) : (f <$> x) s = (match x s with | .ok (a, t) => .ok (f a, t) | .error e => .error e) := by
  show (StateT.map f x) s = _
  simp only [StateT.map, bind, Except.bind]
  cases x s <;> rfl

@[simp] theorem getS_run (s : State) : getS s = .ok (s, s) := rfl
@[simp] theorem modS_run (f : State → State) (s : State) : modS f s = .ok ((), f s) := rfl
@[simp] theorem reads_run (f : State → α) (s : State) : reads f s = .ok (f s, s) := rfl
@[simp] theorem trapAt_run (c : Nat) (a : Word) (i : Nat) (s : State) :
    (trapAt c a i : Exec α) s = .error (.trap ⟨c, some a, BitVec.ofNat 64 i, none, 0, id, false⟩) := rfl
@[simp] theorem trapPc_run (c : Nat) (i : Word) (s : State) : (trapPc c i : Exec α) s = .error (.trap ⟨c, none, i, none, 0, id, false⟩) := rfl
@[simp] theorem waitFor_run (c : WaitCause) (s : State) : (waitFor c : Exec α) s = .error (.wait c id) := rfl
@[simp] theorem waitWith_run (c : WaitCause) (f : State → State) (s : State) : (waitWith c f : Exec α) s = .error (.wait c f) := rfl

@[simp] theorem getS_bind (f : State → Exec β) (s : State) : (getS >>= f) s = f s s := rfl
@[simp] theorem modS_bind (g : State → State) (f : Unit → Exec β) (s : State) : (modS g >>= f) s = f () (g s) := rfl
@[simp] theorem reads_bind (g : State → α) (f : α → Exec β) (s : State) : (reads g >>= f) s = f (g s) s := rfl
@[simp] theorem pure_bind' (a : α) (f : α → Exec β) (s : State) : ((pure a : Exec α) >>= f) s = f a s := rfl

/-! ### A whole instruction -/

/-- It retires. -/
theorem runWord_ok {s t : State} {x : Exec Ctl} {c : Ctl} (h : x s = .ok (c, t)) : runWord s x = .next (retire t c) := by simp only [runWord, h]
/-- It traps. -/
theorem runWord_trap {s : State} {x : Exec Ctl} {t : Trap} (h : x s = .error (.trap t)) : runWord s x = .next (takeTrap s t) := by simp only [runWord, h]
/-- It waits. -/
theorem runWord_wait {s : State} {x : Exec Ctl} {c : WaitCause} {f : State → State} (h : x s = .error (.wait c f)) :
    runWord s x = .next (f (beginWait s c)) := by simp only [runWord, h]

/-- An instruction word always has a next state. -/
theorem runWord_next (s : State) (x : Exec Ctl) : ∃ t, runWord s x = .next t := by
  cases h : x s with
  | ok p => exact ⟨_, runWord_ok (c := p.1) (t := p.2) h⟩
  | error e =>
    cases e with
    | trap t => exact ⟨_, runWord_trap h⟩
    | wait c f => exact ⟨_, runWord_wait h⟩

/-- A scalar instruction that its guard does not let execute does nothing (01 R27). -/
theorem scalar_skip {s : State} {g : Guard} (h : executes (cur s) g = false) (ds : List Reg) (x : Exec Ctl) : scalar g ds x s = .ok (.next, s) := by
  simp only [scalar, getS_bind, h]; rfl

/-- A scalar instruction that executes: its destinations are checked, then its effect. -/
theorem scalar_run {s : State} {g : Guard} (h : executes (cur s) g = true) (ds : List Reg) (x : Exec Ctl) :
    scalar g ds x s = (ds.forM checkDst >>= fun _ => x) s := by
  simp only [scalar, getS_bind, h]; rfl

/-- No destination to check. -/
theorem scalar_run_nil {s : State} {g : Guard} (h : executes (cur s) g = true) (x : Exec Ctl) : scalar g [] x s = x s := scalar_run h [] x

/-- One destination, which can take a value. -/
theorem scalar_run_one {s s0 : State} {g : Guard} {d : Reg} (h : executes (cur s) g = true) (hd : checkDst d s = .ok ((), s0)) (x : Exec Ctl) :
    scalar g [d] x s = x s0 := by
  have h1 : ([d].forM checkDst : Exec PUnit) s = .ok ((), s0) := by
    show ((checkDst d : Exec PUnit) >>= fun _ => pure ()) s = _
    rw [run_bind_ok hd]; rfl
  rw [scalar_run h, run_bind_ok h1]

/-! ### Registers -/

/-- A general register is read as the pool holds it, and nothing changes (01 R21, 03 R87). -/
theorem readReg_g {r : Reg} (h : r.toNat < 56) (s : State) : readReg r s = .ok (curReg s r.toNat, s) := by simp [readReg, h]
/-- A general register can always be written. -/
theorem checkDst_g {r : Reg} (h : r.toNat < 56) (s : State) : checkDst r s = .ok ((), s) := by simp [checkDst, h]
/-- A general register is written in the pool (03 R87). -/
theorem writeReg_g {r : Reg} (h : r.toNat < 56) (v : Word) (s : State) : writeReg r v s = .ok ((), setCurReg s r.toNat v) := by simp [writeReg, h]

end Sys2Proof.Machine
end

