-- ==== Sys2Proof/Laws/Maps.lean ====
section
/-!
SUPPORT. Tables and cells: what a lookup finds after an update, and that every operation over memory keeps its canonical form.
-/

namespace Sys2Proof.Machine

variable {α : Type}

/-! ### Tables -/

theorem mget?_mput (m : SMap α) (i j : Nat) (v : α) : mget? (mput m i v) j = if j = i then some v else mget? m j := by
  induction m with
  | nil => simp only [mput, mget?]
  | cons p t ih =>
    obtain ⟨k, w⟩ := p
    simp only [mput]
    split
    · rename_i h; subst h; simp only [mget?]; split <;> rfl
    · split
      · simp only [mget?]
      · simp only [mget?, ih]
        split <;> split <;> first | rfl | omega

theorem mget_mput (d : α) (m : SMap α) (i j : Nat) (v : α) : mget d (mput m i v) j = if j = i then v else mget d m j := by
  simp only [mget, mget?_mput]; split <;> rfl

@[simp] theorem mget_mput_same (d : α) (m : SMap α) (i : Nat) (v : α) : mget d (mput m i v) i = v := by rw [mget_mput, if_pos rfl]

theorem mget?_mdel (m : SMap α) (i j : Nat) : mget? (mdel m i) j = if j = i then none else mget? m j := by
  induction m with
  | nil => simp [mdel, mget?]
  | cons p t ih =>
    obtain ⟨k, w⟩ := p
    simp only [mdel] at ih
    by_cases hk : k = i
    · subst hk
      simp only [mdel, List.filter_cons, bne_self_eq_false, Bool.false_eq_true, if_false, ih, mget?]
      split <;> rfl
    · have hb : (k != i) = true := by simp [hk]
      simp only [mdel, List.filter_cons, hb, if_true, mget?, ih]
      by_cases hj : j = k
      · simp [hj, hk]
      · simp [hj]

theorem mget_mdel (d : α) (m : SMap α) (i j : Nat) : mget d (mdel m i) j = if j = i then d else mget d m j := by
  simp only [mget, mget?_mdel]; split <;> rfl

theorem mget_mmod (d : α) (m : SMap α) (i j : Nat) (f : α → α) : mget d (mmod d m i f) j = if j = i then f (mget d m i) else mget d m j := by
  rw [mmod, mget_mput]

/-! ### Cells -/

theorem cellGet_cellPut (l : List Host.Cell) (k j : Nat) (b : Byte) : cellGet (cellPut l k b) j = if j = k then b else cellGet l j := by
  induction l with
  | nil => simp only [cellPut, cellGet]
  | cons p t ih =>
    obtain ⟨a, c⟩ := p
    simp only [cellPut]
    split
    · rename_i h; subst h; simp only [cellGet]; split <;> rfl
    · split
      · simp only [cellGet]
      · simp only [cellGet, ih]; split <;> split <;> first | rfl | omega

theorem cellGet_filter (l : List Host.Cell) (k j : Nat) : cellGet (l.filter (fun c => c.1 != k)) j = if j = k then 0 else cellGet l j := by
  induction l with
  | nil => simp [cellGet]
  | cons p t ih =>
    obtain ⟨a, c⟩ := p
    by_cases hk : a = k
    · subst hk
      simp only [List.filter_cons, bne_self_eq_false, Bool.false_eq_true, if_false, ih, cellGet]
      split <;> rfl
    · have hb : (a != k) = true := by simp [hk]
      simp only [List.filter_cons, hb, if_true, cellGet, ih]
      by_cases hj : j = a
      · simp [hj, hk]
      · simp [hj]

/-- A byte read after a byte stored: the stored byte there, the old one elsewhere. -/
theorem cellGet_cellSet (l : List Host.Cell) (k j : Nat) (b : Byte) : cellGet (cellSet l k b) j = if j = k then b else cellGet l j := by
  unfold cellSet
  split
  · rename_i h; rw [cellGet_filter, h]
  · exact cellGet_cellPut l k j b

/-! ### The canonical form -/

/-- A lower bound that a cell's address is above. -/
def above (lo : Option Nat) (k : Nat) : Prop := ∀ l, lo = some l → l < k

theorem cellsWf_cons (lo : Option Nat) (a : Nat) (c : Byte) (t : List Host.Cell) :
    cellsWf lo ((a, c) :: t) = true ↔ above lo a ∧ c ≠ 0 ∧ cellsWf (some a) t = true := by
  cases lo <;> simp [cellsWf, above, and_assoc]

theorem cellsWf_mono {lo lo' : Option Nat} {l : List Host.Cell} (h : cellsWf lo l = true) (hl : ∀ k, above lo k → above lo' k) : cellsWf lo' l = true := by
  cases l with
  | nil => rfl
  | cons p t =>
    obtain ⟨a, c⟩ := p
    rw [cellsWf_cons] at h ⊢
    exact ⟨hl a h.1, h.2⟩

theorem cellsWf_cellPut {lo : Option Nat} {l : List Host.Cell} {k : Nat} {b : Byte} (h : cellsWf lo l = true) (hk : above lo k) (hb : b ≠ 0) :
    cellsWf lo (cellPut l k b) = true := by
  induction l generalizing lo with
  | nil => simp only [cellPut]; rw [cellsWf_cons]; exact ⟨hk, hb, rfl⟩
  | cons p t ih =>
    obtain ⟨a, c⟩ := p
    rw [cellsWf_cons] at h
    simp only [cellPut]
    split
    · rename_i e; subst e; rw [cellsWf_cons]; exact ⟨hk, hb, h.2.2⟩
    · split
      · rename_i e; rw [cellsWf_cons, cellsWf_cons]
        exact ⟨hk, hb, fun l hl => by cases hl; exact e, h.2.1, h.2.2⟩
      · rw [cellsWf_cons]
        exact ⟨h.1, h.2.1, ih h.2.2 (fun l hl => by cases hl; omega)⟩

theorem cellsWf_filter {lo : Option Nat} {l : List Host.Cell} (f : Host.Cell → Bool) (h : cellsWf lo l = true) : cellsWf lo (l.filter f) = true := by
  induction l generalizing lo with
  | nil => rfl
  | cons p t ih =>
    obtain ⟨a, c⟩ := p
    rw [cellsWf_cons] at h
    rw [List.filter_cons]
    split
    · rw [cellsWf_cons]; exact ⟨h.1, h.2.1, ih h.2.2⟩
    · refine ih (cellsWf_mono h.2.2 (fun k hk l hl => ?_))
      have := h.1 l hl; have := hk a rfl; omega

/-- Storing a byte keeps the cells in order, with no byte listed that an unlisted address reads as. -/
theorem cellsWf_cellSet {l : List Host.Cell} (k : Nat) (b : Byte) (h : cellsWf none l = true) : cellsWf none (cellSet l k b) = true := by
  unfold cellSet
  split
  · exact cellsWf_filter _ h
  · rename_i hb; exact cellsWf_cellPut h (fun l hl => by cases hl) hb

theorem cellsWf_append {lo : Option Nat} {l m : List Host.Cell} {n : Nat} (h : cellsWf lo l = true) (hm : cellsWf none m = true)
    (hl : ∀ c ∈ l, c.1 < n) (hn : ∀ c ∈ m, n ≤ c.1) (hlo : ∀ k, n ≤ k → above lo k) : cellsWf lo (l ++ m) = true := by
  induction l generalizing lo with
  | nil =>
    cases m with
    | nil => rfl
    | cons p t =>
      obtain ⟨a, c⟩ := p
      rw [List.nil_append, cellsWf_cons]; rw [cellsWf_cons] at hm
      exact ⟨hlo a (hn (a, c) (List.mem_cons_self ..)), hm.2⟩
  | cons p t ih =>
    obtain ⟨a, c⟩ := p
    rw [List.cons_append, cellsWf_cons]; rw [cellsWf_cons] at h
    refine ⟨h.1, h.2.1, ih h.2.2 (fun c hc => hl c (List.mem_cons_of_mem _ hc)) (fun k hk l e => ?_)⟩
    cases e; have := hl (a, c) (List.mem_cons_self ..); simp at this; omega

theorem risingFrom_cons (lo : Option Nat) (a : Nat) (t : List Nat) : risingFrom lo (a :: t) = true ↔ above lo a ∧ risingFrom (some a) t = true := by
  cases lo <;> simp [risingFrom, above]

theorem risingFrom_mono {lo lo' : Option Nat} {l : List Nat} (h : risingFrom lo l = true) (hl : ∀ k, above lo k → above lo' k) : risingFrom lo' l = true := by
  cases l with
  | nil => rfl
  | cons a t => rw [risingFrom_cons] at h ⊢; exact ⟨hl a h.1, h.2⟩

theorem risingFrom_insertNat {lo : Option Nat} {l : List Nat} {k : Nat} (h : risingFrom lo l = true) (hk : above lo k) : risingFrom lo (insertNat l k) = true := by
  induction l generalizing lo with
  | nil => simp only [insertNat]; rw [risingFrom_cons]; exact ⟨hk, rfl⟩
  | cons a t ih =>
    have h' := h
    rw [risingFrom_cons] at h
    simp only [insertNat]
    split
    · exact h'
    · split
      · rename_i e; rw [risingFrom_cons, risingFrom_cons]
        exact ⟨hk, fun l hl => by cases hl; exact e, h.2⟩
      · rw [risingFrom_cons]
        exact ⟨h.1, ih h.2 (fun l hl => by cases hl; omega)⟩

theorem risingFrom_filter {lo : Option Nat} {l : List Nat} (f : Nat → Bool) (h : risingFrom lo l = true) : risingFrom lo (l.filter f) = true := by
  induction l generalizing lo with
  | nil => rfl
  | cons a t ih =>
    rw [risingFrom_cons] at h
    rw [List.filter_cons]
    split
    · rw [risingFrom_cons]; exact ⟨h.1, ih h.2⟩
    · refine ih (risingFrom_mono h.2 (fun k hk l hl => ?_))
      have := h.1 l hl; have := hk a rfl; omega

theorem risingFrom_append {lo : Option Nat} {l m : List Nat} {n : Nat} (h : risingFrom lo l = true) (hm : risingFrom none m = true)
    (hl : ∀ c ∈ l, c < n) (hn : ∀ c ∈ m, n ≤ c) (hlo : ∀ k, n ≤ k → above lo k) : risingFrom lo (l ++ m) = true := by
  induction l generalizing lo with
  | nil =>
    cases m with
    | nil => rfl
    | cons a t =>
      rw [List.nil_append, risingFrom_cons]; rw [risingFrom_cons] at hm
      exact ⟨hlo a (hn a (List.mem_cons_self ..)), hm.2⟩
  | cons a t ih =>
    rw [List.cons_append, risingFrom_cons]; rw [risingFrom_cons] at h
    refine ⟨h.1, ih h.2 (fun c hc => hl c (List.mem_cons_of_mem _ hc)) (fun k hk l e => ?_)⟩
    cases e; have := hl a (List.mem_cons_self ..); omega

theorem mem_insertNat (l : List Nat) (k j : Nat) : j ∈ insertNat l k ↔ j = k ∨ j ∈ l := by
  induction l with
  | nil => simp [insertNat]
  | cons a t ih =>
    simp only [insertNat]
    split
    · rename_i h; subst h; simp
    · split
      · simp
      · simp only [List.mem_cons, ih]; constructor <;> (rintro (h | h | h) <;> simp [h])

/-! ### Every operation over memory keeps the canonical form -/

theorem wf_writeByte {m : Memory} (k : Nat) (b : Byte) (h : m.wf) : (writeByte m k b).wf := ⟨cellsWf_cellSet k b h.1, h.2⟩

theorem wf_storeBytes {m : Memory} (k : Nat) (bs : List Byte) (h : m.wf) : (storeBytes m k bs).wf := by
  induction bs generalizing m k with
  | nil => exact h
  | cons b t ih => exact ih (k + 1) (wf_writeByte k b h)

theorem wf_markPoison {m : Memory} (k : Nat) (h : m.wf) : (markPoison m k).wf := ⟨h.1, risingFrom_insertNat h.2 (fun l hl => by cases hl)⟩

theorem wf_clearPoison {m : Memory} (k n : Nat) (h : m.wf) : (clearPoison m k n).wf := ⟨h.1, risingFrom_filter _ h.2⟩

theorem wf_writeBytes {m : Memory} (k : Nat) (bs : List Byte) (h : m.wf) : (writeBytes m k bs).wf := wf_clearPoison _ _ (wf_storeBytes k bs h)

theorem wf_writeNat {m : Memory} (k n v : Nat) (h : m.wf) : (writeNat m k n v).wf := wf_writeBytes k _ h

theorem wf_writeWord {m : Memory} (k : Nat) (v : Word) (h : m.wf) : (writeWord m k v).wf := wf_writeNat k 8 _ h

theorem wf_foldl {β : Type} {f : Memory → β → Memory} (hf : ∀ m b, Memory.wf m → (f m b).wf) {m : Memory} (l : List β) (h : m.wf) : (l.foldl f m).wf := by
  induction l generalizing m with
  | nil => exact h
  | cons b t ih => exact ih (hf m b h)

theorem wf_moveBytes {m : Memory} (dst src n : Nat) (h : m.wf) : (moveBytes m dst src n).wf :=
  wf_foldl (fun _ i hm => wf_markPoison (dst + i) hm) _ (wf_writeBytes dst _ h)

/-! ### Reading what was stored -/

theorem readByte_writeByte (m : Memory) (k j : Nat) (b : Byte) : readByte (writeByte m k b) j = if j = k then b else readByte m j := cellGet_cellSet m.cells k j b

/-- A byte outside the stored ones reads as before. -/
theorem readByte_storeBytes_other (m : Memory) (k : Nat) (bs : List Byte) {j : Nat} (h : j < k ∨ k + bs.length ≤ j) :
    readByte (storeBytes m k bs) j = readByte m j := by
  induction bs generalizing m k with
  | nil => rfl
  | cons b t ih =>
    simp only [List.length_cons] at h
    rw [storeBytes, ih _ (k + 1) (by omega), readByte_writeByte, if_neg (by omega)]

/-- The i-th stored byte is read at its place. -/
theorem readByte_storeBytes (m : Memory) (k : Nat) (bs : List Byte) {i : Nat} (h : i < bs.length) : readByte (storeBytes m k bs) (k + i) = bs[i] := by
  induction bs generalizing m k i with
  | nil => simp at h
  | cons b t ih =>
    rw [storeBytes]
    cases i with
    | zero => rw [readByte_storeBytes_other _ _ _ (by omega), Nat.add_zero, readByte_writeByte, if_pos rfl]; rfl
    | succ i =>
      have e : k + (i + 1) = (k + 1) + i := by omega
      rw [e, ih (writeByte m k b) (k + 1) (by simpa using h)]
      rfl

@[simp] theorem readByte_markPoison (m : Memory) (k j : Nat) : readByte (markPoison m k) j = readByte m j := rfl
@[simp] theorem readByte_clearPoison (m : Memory) (k n j : Nat) : readByte (clearPoison m k n) j = readByte m j := rfl

theorem readByte_writeBytes_other (m : Memory) (k : Nat) (bs : List Byte) {j : Nat} (h : j < k ∨ k + bs.length ≤ j) :
    readByte (writeBytes m k bs) j = readByte m j := readByte_storeBytes_other m k bs h

theorem readByte_writeBytes (m : Memory) (k : Nat) (bs : List Byte) {i : Nat} (h : i < bs.length) : readByte (writeBytes m k bs) (k + i) = bs[i] :=
  readByte_storeBytes m k bs h

@[simp] theorem length_natBytes (n v : Nat) : (natBytes n v).length = n := by
  induction n generalizing v with
  | zero => rfl
  | succ n ih => simp [natBytes, ih]

theorem readByte_writeNat_other (m : Memory) (k n v : Nat) {j : Nat} (h : j < k ∨ k + n ≤ j) : readByte (writeNat m k n v) j = readByte m j :=
  readByte_writeBytes_other m k _ (by rwa [length_natBytes])

theorem readBytes_congr {m m' : Memory} {k n : Nat} (h : ∀ j, k ≤ j → j < k + n → readByte m j = readByte m' j) : readBytes m k n = readBytes m' k n := by
  induction n generalizing k with
  | zero => rfl
  | succ n ih =>
    rw [readBytes, readBytes, h k (by omega) (by omega), ih (fun j h1 h2 => h j (by omega) (by omega))]

theorem readBytes_writeBytes (m : Memory) (k : Nat) (bs : List Byte) : readBytes (writeBytes m k bs) k bs.length = bs := by
  have key : ∀ (n i : Nat), i + n = bs.length → readBytes (writeBytes m k bs) (k + i) n = bs.drop i := by
    intro n
    induction n with
    | zero => intro i hi; rw [readBytes, List.drop_eq_nil_of_le (by omega)]
    | succ n ih =>
      intro i hi
      rw [readBytes, readByte_writeBytes m k bs (by omega), List.drop_eq_getElem_cons (by omega), ← ih (i + 1) (by omega)]
      rfl
  have := key bs.length 0 (by omega)
  simpa using this

theorem leNat_natBytes (n v : Nat) : leNat (natBytes n v) = v % 2 ^ (8 * n) := by
  induction n generalizing v with
  | zero => simp [natBytes, leNat, Nat.mod_one]
  | succ n ih =>
    rw [natBytes, leNat, ih, BitVec.toNat_ofNat]
    have e : 2 ^ (8 * (n + 1)) = 256 * 2 ^ (8 * n) := by rw [show 8 * (n + 1) = 8 + 8 * n by omega, Nat.pow_add]
    rw [e, Nat.mod_mul]

/-- A number read where it was stored: its n low bytes. -/
theorem readNat_writeNat (m : Memory) (k n v : Nat) : readNat (writeNat m k n v) k n = v % 2 ^ (8 * n) := by
  have h := readBytes_writeBytes m k (natBytes n v)
  rw [length_natBytes] at h
  rw [readNat, writeNat, h, leNat_natBytes]

/-- A word read where it was stored. -/
theorem readWord_writeWord (m : Memory) (k : Nat) (v : Word) : readWord (writeWord m k v) k = v := by
  rw [readWord, writeWord, readNat_writeNat]
  apply BitVec.eq_of_toNat_eq
  rw [BitVec.toNat_ofNat]
  have := v.isLt
  omega

/-- A number read beside what was stored is as before. -/
theorem readNat_writeNat_other (m : Memory) (k n v : Nat) {j p : Nat} (h : j + p ≤ k ∨ k + n ≤ j) : readNat (writeNat m k n v) j p = readNat m j p := by
  rw [readNat, readNat, readBytes_congr (m' := m) (fun i h1 h2 => readByte_writeNat_other m k n v (by omega))]

end Sys2Proof.Machine
end

