-- ==== Sys2Proof/Laws/State.lean ====
section
/-!
SUPPORT. What each named update of the state leaves as it was, field by field and accessor by accessor, and what it changes.
-/

namespace Sys2Proof.Machine

/-! ### Fields -/

@[simp] theorem setMem_env (s : State) (m : Memory) : (setMem s m).env = s.env := rfl
@[simp] theorem setMem_agents (s : State) (m : Memory) : (setMem s m).agents = s.agents := rfl
@[simp] theorem setMem_net (s : State) (m : Memory) : (setMem s m).net = s.net := rfl
@[simp] theorem setMem_light (s : State) (m : Memory) : (setMem s m).light = s.light := rfl
@[simp] theorem setMem_os (s : State) (m : Memory) : (setMem s m).os = s.os := rfl
@[simp] theorem setMem_rel (s : State) (m : Memory) : (setMem s m).rel = s.rel := rfl
@[simp] theorem setMem_boot (s : State) (m : Memory) : (setMem s m).boot = s.boot := rfl
@[simp] theorem setMem_trust (s : State) (m : Memory) : (setMem s m).trust = s.trust := rfl

@[simp] theorem setAgent_env (s : State) (a : Nat) (x : Agent) : (setAgent s a x).env = s.env := rfl
@[simp] theorem setAgent_mem (s : State) (a : Nat) (x : Agent) : (setAgent s a x).mem = s.mem := rfl
@[simp] theorem setAgent_net (s : State) (a : Nat) (x : Agent) : (setAgent s a x).net = s.net := rfl
@[simp] theorem setAgent_light (s : State) (a : Nat) (x : Agent) : (setAgent s a x).light = s.light := rfl
@[simp] theorem setAgent_os (s : State) (a : Nat) (x : Agent) : (setAgent s a x).os = s.os := rfl
@[simp] theorem setAgent_rel (s : State) (a : Nat) (x : Agent) : (setAgent s a x).rel = s.rel := rfl
@[simp] theorem setAgent_boot (s : State) (a : Nat) (x : Agent) : (setAgent s a x).boot = s.boot := rfl
@[simp] theorem setAgent_trust (s : State) (a : Nat) (x : Agent) : (setAgent s a x).trust = s.trust := rfl

@[simp] theorem modAgent_env (s : State) (a : Nat) (f : Agent → Agent) : (modAgent s a f).env = s.env := rfl
@[simp] theorem modAgent_mem (s : State) (a : Nat) (f : Agent → Agent) : (modAgent s a f).mem = s.mem := rfl
@[simp] theorem modAgent_net (s : State) (a : Nat) (f : Agent → Agent) : (modAgent s a f).net = s.net := rfl
@[simp] theorem modAgent_light (s : State) (a : Nat) (f : Agent → Agent) : (modAgent s a f).light = s.light := rfl
@[simp] theorem modAgent_os (s : State) (a : Nat) (f : Agent → Agent) : (modAgent s a f).os = s.os := rfl
@[simp] theorem modAgent_rel (s : State) (a : Nat) (f : Agent → Agent) : (modAgent s a f).rel = s.rel := rfl
@[simp] theorem modAgent_boot (s : State) (a : Nat) (f : Agent → Agent) : (modAgent s a f).boot = s.boot := rfl
@[simp] theorem modAgent_trust (s : State) (a : Nat) (f : Agent → Agent) : (modAgent s a f).trust = s.trust := rfl

@[simp] theorem mapAgents_env (s : State) (f : Nat → Agent → Agent) : (mapAgents s f).env = s.env := rfl
@[simp] theorem mapAgents_mem (s : State) (f : Nat → Agent → Agent) : (mapAgents s f).mem = s.mem := rfl
@[simp] theorem mapAgents_net (s : State) (f : Nat → Agent → Agent) : (mapAgents s f).net = s.net := rfl
@[simp] theorem mapAgents_light (s : State) (f : Nat → Agent → Agent) : (mapAgents s f).light = s.light := rfl
@[simp] theorem mapAgents_os (s : State) (f : Nat → Agent → Agent) : (mapAgents s f).os = s.os := rfl
@[simp] theorem mapAgents_rel (s : State) (f : Nat → Agent → Agent) : (mapAgents s f).rel = s.rel := rfl
@[simp] theorem mapAgents_boot (s : State) (f : Nat → Agent → Agent) : (mapAgents s f).boot = s.boot := rfl
@[simp] theorem mapAgents_trust (s : State) (f : Nat → Agent → Agent) : (mapAgents s f).trust = s.trust := rfl

@[simp] theorem setStrand_env (s : State) (a k : Nat) (t : Strand) : (setStrand s a k t).env = s.env := rfl
@[simp] theorem setStrand_mem (s : State) (a k : Nat) (t : Strand) : (setStrand s a k t).mem = s.mem := rfl
@[simp] theorem setStrand_net (s : State) (a k : Nat) (t : Strand) : (setStrand s a k t).net = s.net := rfl
@[simp] theorem setStrand_light (s : State) (a k : Nat) (t : Strand) : (setStrand s a k t).light = s.light := rfl
@[simp] theorem setStrand_os (s : State) (a k : Nat) (t : Strand) : (setStrand s a k t).os = s.os := rfl
@[simp] theorem setStrand_rel (s : State) (a k : Nat) (t : Strand) : (setStrand s a k t).rel = s.rel := rfl
@[simp] theorem setStrand_boot (s : State) (a k : Nat) (t : Strand) : (setStrand s a k t).boot = s.boot := rfl
@[simp] theorem setStrand_trust (s : State) (a k : Nat) (t : Strand) : (setStrand s a k t).trust = s.trust := rfl

@[simp] theorem modStrand_env (s : State) (a k : Nat) (f : Strand → Strand) : (modStrand s a k f).env = s.env := rfl
@[simp] theorem modStrand_mem (s : State) (a k : Nat) (f : Strand → Strand) : (modStrand s a k f).mem = s.mem := rfl
@[simp] theorem modStrand_net (s : State) (a k : Nat) (f : Strand → Strand) : (modStrand s a k f).net = s.net := rfl
@[simp] theorem modStrand_light (s : State) (a k : Nat) (f : Strand → Strand) : (modStrand s a k f).light = s.light := rfl
@[simp] theorem modStrand_os (s : State) (a k : Nat) (f : Strand → Strand) : (modStrand s a k f).os = s.os := rfl
@[simp] theorem modStrand_rel (s : State) (a k : Nat) (f : Strand → Strand) : (modStrand s a k f).rel = s.rel := rfl
@[simp] theorem modStrand_boot (s : State) (a k : Nat) (f : Strand → Strand) : (modStrand s a k f).boot = s.boot := rfl
@[simp] theorem modStrand_trust (s : State) (a k : Nat) (f : Strand → Strand) : (modStrand s a k f).trust = s.trust := rfl

@[simp] theorem modCur_env (s : State) (f : Strand → Strand) : (modCur s f).env = s.env := rfl
@[simp] theorem modCur_mem (s : State) (f : Strand → Strand) : (modCur s f).mem = s.mem := rfl
@[simp] theorem modCur_net (s : State) (f : Strand → Strand) : (modCur s f).net = s.net := rfl
@[simp] theorem modCur_light (s : State) (f : Strand → Strand) : (modCur s f).light = s.light := rfl
@[simp] theorem modCur_os (s : State) (f : Strand → Strand) : (modCur s f).os = s.os := rfl
@[simp] theorem modCur_rel (s : State) (f : Strand → Strand) : (modCur s f).rel = s.rel := rfl
@[simp] theorem modCur_boot (s : State) (f : Strand → Strand) : (modCur s f).boot = s.boot := rfl
@[simp] theorem modCur_trust (s : State) (f : Strand → Strand) : (modCur s f).trust = s.trust := rfl

@[simp] theorem modCurAgent_env (s : State) (f : Agent → Agent) : (modCurAgent s f).env = s.env := rfl
@[simp] theorem modCurAgent_mem (s : State) (f : Agent → Agent) : (modCurAgent s f).mem = s.mem := rfl
@[simp] theorem modCurAgent_net (s : State) (f : Agent → Agent) : (modCurAgent s f).net = s.net := rfl
@[simp] theorem modCurAgent_light (s : State) (f : Agent → Agent) : (modCurAgent s f).light = s.light := rfl
@[simp] theorem modCurAgent_os (s : State) (f : Agent → Agent) : (modCurAgent s f).os = s.os := rfl
@[simp] theorem modCurAgent_rel (s : State) (f : Agent → Agent) : (modCurAgent s f).rel = s.rel := rfl
@[simp] theorem modCurAgent_boot (s : State) (f : Agent → Agent) : (modCurAgent s f).boot = s.boot := rfl
@[simp] theorem modCurAgent_trust (s : State) (f : Agent → Agent) : (modCurAgent s f).trust = s.trust := rfl

@[simp] theorem setReg_env (s : State) (a k f : Nat) (v : Word) : (setReg s a k f v).env = s.env := rfl
@[simp] theorem setReg_mem (s : State) (a k f : Nat) (v : Word) : (setReg s a k f v).mem = s.mem := rfl
@[simp] theorem setReg_net (s : State) (a k f : Nat) (v : Word) : (setReg s a k f v).net = s.net := rfl
@[simp] theorem setReg_light (s : State) (a k f : Nat) (v : Word) : (setReg s a k f v).light = s.light := rfl
@[simp] theorem setReg_os (s : State) (a k f : Nat) (v : Word) : (setReg s a k f v).os = s.os := rfl
@[simp] theorem setReg_rel (s : State) (a k f : Nat) (v : Word) : (setReg s a k f v).rel = s.rel := rfl
@[simp] theorem setReg_boot (s : State) (a k f : Nat) (v : Word) : (setReg s a k f v).boot = s.boot := rfl
@[simp] theorem setReg_trust (s : State) (a k f : Nat) (v : Word) : (setReg s a k f v).trust = s.trust := rfl

@[simp] theorem setCurReg_env (s : State) (f : Nat) (v : Word) : (setCurReg s f v).env = s.env := rfl
@[simp] theorem setCurReg_mem (s : State) (f : Nat) (v : Word) : (setCurReg s f v).mem = s.mem := rfl
@[simp] theorem setCurReg_net (s : State) (f : Nat) (v : Word) : (setCurReg s f v).net = s.net := rfl
@[simp] theorem setCurReg_light (s : State) (f : Nat) (v : Word) : (setCurReg s f v).light = s.light := rfl
@[simp] theorem setCurReg_os (s : State) (f : Nat) (v : Word) : (setCurReg s f v).os = s.os := rfl
@[simp] theorem setCurReg_rel (s : State) (f : Nat) (v : Word) : (setCurReg s f v).rel = s.rel := rfl
@[simp] theorem setCurReg_boot (s : State) (f : Nat) (v : Word) : (setCurReg s f v).boot = s.boot := rfl
@[simp] theorem setCurReg_trust (s : State) (f : Nat) (v : Word) : (setCurReg s f v).trust = s.trust := rfl

@[simp] theorem modCtx_env (s : State) (c : Nat) (f : Ctx → Ctx) : (modCtx s c f).env = s.env := rfl
@[simp] theorem modCtx_mem (s : State) (c : Nat) (f : Ctx → Ctx) : (modCtx s c f).mem = s.mem := rfl
@[simp] theorem modCtx_agents (s : State) (c : Nat) (f : Ctx → Ctx) : (modCtx s c f).agents = s.agents := rfl
@[simp] theorem modCtx_net (s : State) (c : Nat) (f : Ctx → Ctx) : (modCtx s c f).net = s.net := rfl
@[simp] theorem modCtx_light (s : State) (c : Nat) (f : Ctx → Ctx) : (modCtx s c f).light = s.light := rfl
@[simp] theorem modCtx_rel (s : State) (c : Nat) (f : Ctx → Ctx) : (modCtx s c f).rel = s.rel := rfl
@[simp] theorem modCtx_boot (s : State) (c : Nat) (f : Ctx → Ctx) : (modCtx s c f).boot = s.boot := rfl
@[simp] theorem modCtx_trust (s : State) (c : Nat) (f : Ctx → Ctx) : (modCtx s c f).trust = s.trust := rfl

@[simp] theorem modTask_env (s : State) (i : Nat) (f : Task → Task) : (modTask s i f).env = s.env := rfl
@[simp] theorem modTask_mem (s : State) (i : Nat) (f : Task → Task) : (modTask s i f).mem = s.mem := rfl
@[simp] theorem modTask_agents (s : State) (i : Nat) (f : Task → Task) : (modTask s i f).agents = s.agents := rfl
@[simp] theorem modTask_net (s : State) (i : Nat) (f : Task → Task) : (modTask s i f).net = s.net := rfl
@[simp] theorem modTask_light (s : State) (i : Nat) (f : Task → Task) : (modTask s i f).light = s.light := rfl
@[simp] theorem modTask_rel (s : State) (i : Nat) (f : Task → Task) : (modTask s i f).rel = s.rel := rfl
@[simp] theorem modTask_boot (s : State) (i : Nat) (f : Task → Task) : (modTask s i f).boot = s.boot := rfl
@[simp] theorem modTask_trust (s : State) (i : Nat) (f : Task → Task) : (modTask s i f).trust = s.trust := rfl

@[simp] theorem postCore_env (s : State) (c : Nat) (r : Rec) : (postCore s c r).env = s.env := rfl
@[simp] theorem postCore_mem (s : State) (c : Nat) (r : Rec) : (postCore s c r).mem = s.mem := rfl
@[simp] theorem postCore_agents (s : State) (c : Nat) (r : Rec) : (postCore s c r).agents = s.agents := rfl
@[simp] theorem postCore_net (s : State) (c : Nat) (r : Rec) : (postCore s c r).net = s.net := rfl
@[simp] theorem postCore_light (s : State) (c : Nat) (r : Rec) : (postCore s c r).light = s.light := rfl
@[simp] theorem postCore_os (s : State) (c : Nat) (r : Rec) : (postCore s c r).os = s.os := rfl
@[simp] theorem postCore_boot (s : State) (c : Nat) (r : Rec) : (postCore s c r).boot = s.boot := rfl
@[simp] theorem postCore_trust (s : State) (c : Nat) (r : Rec) : (postCore s c r).trust = s.trust := rfl

@[simp] theorem beginWait_env (s : State) (c : WaitCause) : (beginWait s c).env = s.env := rfl
@[simp] theorem beginWait_mem (s : State) (c : WaitCause) : (beginWait s c).mem = s.mem := rfl
@[simp] theorem beginWait_net (s : State) (c : WaitCause) : (beginWait s c).net = s.net := rfl
@[simp] theorem beginWait_light (s : State) (c : WaitCause) : (beginWait s c).light = s.light := rfl
@[simp] theorem beginWait_os (s : State) (c : WaitCause) : (beginWait s c).os = s.os := rfl
@[simp] theorem beginWait_rel (s : State) (c : WaitCause) : (beginWait s c).rel = s.rel := rfl
@[simp] theorem beginWait_boot (s : State) (c : WaitCause) : (beginWait s c).boot = s.boot := rfl
@[simp] theorem beginWait_trust (s : State) (c : WaitCause) : (beginWait s c).trust = s.trust := rfl

@[simp] theorem dropFailedWalks_env (s : State) : (dropFailedWalks s).env = s.env := rfl
@[simp] theorem dropFailedWalks_mem (s : State) : (dropFailedWalks s).mem = s.mem := rfl
@[simp] theorem dropFailedWalks_agents (s : State) : (dropFailedWalks s).agents = s.agents := rfl
@[simp] theorem dropFailedWalks_light (s : State) : (dropFailedWalks s).light = s.light := rfl
@[simp] theorem dropFailedWalks_os (s : State) : (dropFailedWalks s).os = s.os := rfl
@[simp] theorem dropFailedWalks_rel (s : State) : (dropFailedWalks s).rel = s.rel := rfl
@[simp] theorem dropFailedWalks_boot (s : State) : (dropFailedWalks s).boot = s.boot := rfl
@[simp] theorem dropFailedWalks_trust (s : State) : (dropFailedWalks s).trust = s.trust := rfl

@[simp] theorem sendReq_env (accs : List Access) (wants : Bool) (s : State) : (sendReq accs wants s).env = s.env := rfl
@[simp] theorem sendReq_mem (accs : List Access) (wants : Bool) (s : State) : (sendReq accs wants s).mem = s.mem := rfl
@[simp] theorem sendReq_light (accs : List Access) (wants : Bool) (s : State) : (sendReq accs wants s).light = s.light := rfl
@[simp] theorem sendReq_os (accs : List Access) (wants : Bool) (s : State) : (sendReq accs wants s).os = s.os := rfl
@[simp] theorem sendReq_rel (accs : List Access) (wants : Bool) (s : State) : (sendReq accs wants s).rel = s.rel := rfl
@[simp] theorem sendReq_boot (accs : List Access) (wants : Bool) (s : State) : (sendReq accs wants s).boot = s.boot := rfl
@[simp] theorem sendReq_trust (accs : List Access) (wants : Bool) (s : State) : (sendReq accs wants s).trust = s.trust := rfl

@[simp] theorem modBoot_env (s : State) (f : Boot → Boot) : (modBoot s f).env = s.env := rfl
@[simp] theorem modBoot_mem (s : State) (f : Boot → Boot) : (modBoot s f).mem = s.mem := rfl
@[simp] theorem modBoot_agents (s : State) (f : Boot → Boot) : (modBoot s f).agents = s.agents := rfl
@[simp] theorem modBoot_net (s : State) (f : Boot → Boot) : (modBoot s f).net = s.net := rfl
@[simp] theorem modBoot_light (s : State) (f : Boot → Boot) : (modBoot s f).light = s.light := rfl
@[simp] theorem modBoot_os (s : State) (f : Boot → Boot) : (modBoot s f).os = s.os := rfl
@[simp] theorem modBoot_rel (s : State) (f : Boot → Boot) : (modBoot s f).rel = s.rel := rfl
@[simp] theorem modBoot_trust (s : State) (f : Boot → Boot) : (modBoot s f).trust = s.trust := rfl

@[simp] theorem enterStage_env (s : State) (n : BitVec 4) : (enterStage s n).env = s.env := rfl
@[simp] theorem enterStage_mem (s : State) (n : BitVec 4) : (enterStage s n).mem = s.mem := rfl
@[simp] theorem enterStage_agents (s : State) (n : BitVec 4) : (enterStage s n).agents = s.agents := rfl
@[simp] theorem enterStage_net (s : State) (n : BitVec 4) : (enterStage s n).net = s.net := rfl
@[simp] theorem enterStage_light (s : State) (n : BitVec 4) : (enterStage s n).light = s.light := rfl
@[simp] theorem enterStage_os (s : State) (n : BitVec 4) : (enterStage s n).os = s.os := rfl
@[simp] theorem enterStage_rel (s : State) (n : BitVec 4) : (enterStage s n).rel = s.rel := rfl
@[simp] theorem enterStage_trust (s : State) (n : BitVec 4) : (enterStage s n).trust = s.trust := rfl

@[simp] theorem setCode_env (s : State) (c : BitVec 4) : (setCode s c).env = s.env := rfl
@[simp] theorem setCode_mem (s : State) (c : BitVec 4) : (setCode s c).mem = s.mem := rfl
@[simp] theorem setCode_agents (s : State) (c : BitVec 4) : (setCode s c).agents = s.agents := rfl
@[simp] theorem setCode_net (s : State) (c : BitVec 4) : (setCode s c).net = s.net := rfl
@[simp] theorem setCode_light (s : State) (c : BitVec 4) : (setCode s c).light = s.light := rfl
@[simp] theorem setCode_os (s : State) (c : BitVec 4) : (setCode s c).os = s.os := rfl
@[simp] theorem setCode_rel (s : State) (c : BitVec 4) : (setCode s c).rel = s.rel := rfl
@[simp] theorem setCode_trust (s : State) (c : BitVec 4) : (setCode s c).trust = s.trust := rfl

@[simp] theorem modCkpt_env (s : State) (f : Ckpt → Ckpt) : (modCkpt s f).env = s.env := rfl
@[simp] theorem modCkpt_mem (s : State) (f : Ckpt → Ckpt) : (modCkpt s f).mem = s.mem := rfl
@[simp] theorem modCkpt_agents (s : State) (f : Ckpt → Ckpt) : (modCkpt s f).agents = s.agents := rfl
@[simp] theorem modCkpt_net (s : State) (f : Ckpt → Ckpt) : (modCkpt s f).net = s.net := rfl
@[simp] theorem modCkpt_light (s : State) (f : Ckpt → Ckpt) : (modCkpt s f).light = s.light := rfl
@[simp] theorem modCkpt_os (s : State) (f : Ckpt → Ckpt) : (modCkpt s f).os = s.os := rfl
@[simp] theorem modCkpt_boot (s : State) (f : Ckpt → Ckpt) : (modCkpt s f).boot = s.boot := rfl
@[simp] theorem modCkpt_trust (s : State) (f : Ckpt → Ckpt) : (modCkpt s f).trust = s.trust := rfl

@[simp] theorem addOp_env (kind : OpKind) (c : Nat) (inc : BitVec 12) (strand : Nat) (s : State) : (addOp kind c inc strand s).env = s.env := rfl
@[simp] theorem addOp_mem (kind : OpKind) (c : Nat) (inc : BitVec 12) (strand : Nat) (s : State) : (addOp kind c inc strand s).mem = s.mem := rfl
@[simp] theorem addOp_agents (kind : OpKind) (c : Nat) (inc : BitVec 12) (strand : Nat) (s : State) : (addOp kind c inc strand s).agents = s.agents := rfl
@[simp] theorem addOp_net (kind : OpKind) (c : Nat) (inc : BitVec 12) (strand : Nat) (s : State) : (addOp kind c inc strand s).net = s.net := rfl
@[simp] theorem addOp_light (kind : OpKind) (c : Nat) (inc : BitVec 12) (strand : Nat) (s : State) : (addOp kind c inc strand s).light = s.light := rfl
@[simp] theorem addOp_rel (kind : OpKind) (c : Nat) (inc : BitVec 12) (strand : Nat) (s : State) : (addOp kind c inc strand s).rel = s.rel := rfl
@[simp] theorem addOp_boot (kind : OpKind) (c : Nat) (inc : BitVec 12) (strand : Nat) (s : State) : (addOp kind c inc strand s).boot = s.boot := rfl
@[simp] theorem addOp_trust (kind : OpKind) (c : Nat) (inc : BitVec 12) (strand : Nat) (s : State) : (addOp kind c inc strand s).trust = s.trust := rfl

@[simp] theorem reach_env (s : State) (o : Op) (u : Nat) : (reach s o u).env = s.env := rfl
@[simp] theorem reach_mem (s : State) (o : Op) (u : Nat) : (reach s o u).mem = s.mem := rfl
@[simp] theorem reach_agents (s : State) (o : Op) (u : Nat) : (reach s o u).agents = s.agents := rfl
@[simp] theorem reach_net (s : State) (o : Op) (u : Nat) : (reach s o u).net = s.net := rfl
@[simp] theorem reach_light (s : State) (o : Op) (u : Nat) : (reach s o u).light = s.light := rfl
@[simp] theorem reach_rel (s : State) (o : Op) (u : Nat) : (reach s o u).rel = s.rel := rfl
@[simp] theorem reach_boot (s : State) (o : Op) (u : Nat) : (reach s o u).boot = s.boot := rfl
@[simp] theorem reach_trust (s : State) (o : Op) (u : Nat) : (reach s o u).trust = s.trust := rfl

@[simp] theorem dropOldWalks_env (s : State) (c : Nat) (inc : BitVec 12) (mine : Requester → Bool) : (dropOldWalks s c inc mine).env = s.env := rfl
@[simp] theorem dropOldWalks_mem (s : State) (c : Nat) (inc : BitVec 12) (mine : Requester → Bool) : (dropOldWalks s c inc mine).mem = s.mem := rfl
@[simp] theorem dropOldWalks_agents (s : State) (c : Nat) (inc : BitVec 12) (mine : Requester → Bool) : (dropOldWalks s c inc mine).agents = s.agents := rfl
@[simp] theorem dropOldWalks_light (s : State) (c : Nat) (inc : BitVec 12) (mine : Requester → Bool) : (dropOldWalks s c inc mine).light = s.light := rfl
@[simp] theorem dropOldWalks_os (s : State) (c : Nat) (inc : BitVec 12) (mine : Requester → Bool) : (dropOldWalks s c inc mine).os = s.os := rfl
@[simp] theorem dropOldWalks_rel (s : State) (c : Nat) (inc : BitVec 12) (mine : Requester → Bool) : (dropOldWalks s c inc mine).rel = s.rel := rfl
@[simp] theorem dropOldWalks_boot (s : State) (c : Nat) (inc : BitVec 12) (mine : Requester → Bool) : (dropOldWalks s c inc mine).boot = s.boot := rfl
@[simp] theorem dropOldWalks_trust (s : State) (c : Nat) (inc : BitVec 12) (mine : Requester → Bool) : (dropOldWalks s c inc mine).trust = s.trust := rfl

@[simp] theorem restartWalks_env (s : State) (mine : Requester → Bool) (named : Tag → Nat → Nat → Bool) : (restartWalks s mine named).env = s.env := rfl
@[simp] theorem restartWalks_mem (s : State) (mine : Requester → Bool) (named : Tag → Nat → Nat → Bool) : (restartWalks s mine named).mem = s.mem := rfl
@[simp] theorem restartWalks_agents (s : State) (mine : Requester → Bool) (named : Tag → Nat → Nat → Bool) : (restartWalks s mine named).agents = s.agents := rfl
@[simp] theorem restartWalks_light (s : State) (mine : Requester → Bool) (named : Tag → Nat → Nat → Bool) : (restartWalks s mine named).light = s.light := rfl
@[simp] theorem restartWalks_os (s : State) (mine : Requester → Bool) (named : Tag → Nat → Nat → Bool) : (restartWalks s mine named).os = s.os := rfl
@[simp] theorem restartWalks_rel (s : State) (mine : Requester → Bool) (named : Tag → Nat → Nat → Bool) : (restartWalks s mine named).rel = s.rel := rfl
@[simp] theorem restartWalks_boot (s : State) (mine : Requester → Bool) (named : Tag → Nat → Nat → Bool) : (restartWalks s mine named).boot = s.boot := rfl
@[simp] theorem restartWalks_trust (s : State) (mine : Requester → Bool) (named : Tag → Nat → Nat → Bool) : (restartWalks s mine named).trust = s.trust := rfl

@[simp] theorem modCp_env (s : State) (a : Nat) (f : Cpe → Cpe) : (modCp s a f).env = s.env := rfl
@[simp] theorem modCp_mem (s : State) (a : Nat) (f : Cpe → Cpe) : (modCp s a f).mem = s.mem := rfl
@[simp] theorem modCp_net (s : State) (a : Nat) (f : Cpe → Cpe) : (modCp s a f).net = s.net := rfl
@[simp] theorem modCp_light (s : State) (a : Nat) (f : Cpe → Cpe) : (modCp s a f).light = s.light := rfl
@[simp] theorem modCp_os (s : State) (a : Nat) (f : Cpe → Cpe) : (modCp s a f).os = s.os := rfl
@[simp] theorem modCp_rel (s : State) (a : Nat) (f : Cpe → Cpe) : (modCp s a f).rel = s.rel := rfl
@[simp] theorem modCp_boot (s : State) (a : Nat) (f : Cpe → Cpe) : (modCp s a f).boot = s.boot := rfl
@[simp] theorem modCp_trust (s : State) (a : Nat) (f : Cpe → Cpe) : (modCp s a f).trust = s.trust := rfl

@[simp] theorem modEntry_env (s : State) (a : Nat) (r : CpRun) (f : CpRun → CpRun) : (modEntry s a r f).env = s.env := rfl
@[simp] theorem modEntry_mem (s : State) (a : Nat) (r : CpRun) (f : CpRun → CpRun) : (modEntry s a r f).mem = s.mem := rfl
@[simp] theorem modEntry_net (s : State) (a : Nat) (r : CpRun) (f : CpRun → CpRun) : (modEntry s a r f).net = s.net := rfl
@[simp] theorem modEntry_light (s : State) (a : Nat) (r : CpRun) (f : CpRun → CpRun) : (modEntry s a r f).light = s.light := rfl
@[simp] theorem modEntry_os (s : State) (a : Nat) (r : CpRun) (f : CpRun → CpRun) : (modEntry s a r f).os = s.os := rfl
@[simp] theorem modEntry_rel (s : State) (a : Nat) (r : CpRun) (f : CpRun → CpRun) : (modEntry s a r f).rel = s.rel := rfl
@[simp] theorem modEntry_boot (s : State) (a : Nat) (r : CpRun) (f : CpRun → CpRun) : (modEntry s a r f).boot = s.boot := rfl
@[simp] theorem modEntry_trust (s : State) (a : Nat) (r : CpRun) (f : CpRun → CpRun) : (modEntry s a r f).trust = s.trust := rfl

@[simp] theorem modStat_env (s : State) (a : Nat) (c : CpCmd) (f : CopyStat → CopyStat) : (modStat s a c f).env = s.env := rfl
@[simp] theorem modStat_mem (s : State) (a : Nat) (c : CpCmd) (f : CopyStat → CopyStat) : (modStat s a c f).mem = s.mem := rfl
@[simp] theorem modStat_net (s : State) (a : Nat) (c : CpCmd) (f : CopyStat → CopyStat) : (modStat s a c f).net = s.net := rfl
@[simp] theorem modStat_light (s : State) (a : Nat) (c : CpCmd) (f : CopyStat → CopyStat) : (modStat s a c f).light = s.light := rfl
@[simp] theorem modStat_os (s : State) (a : Nat) (c : CpCmd) (f : CopyStat → CopyStat) : (modStat s a c f).os = s.os := rfl
@[simp] theorem modStat_rel (s : State) (a : Nat) (c : CpCmd) (f : CopyStat → CopyStat) : (modStat s a c f).rel = s.rel := rfl
@[simp] theorem modStat_boot (s : State) (a : Nat) (c : CpCmd) (f : CopyStat → CopyStat) : (modStat s a c f).boot = s.boot := rfl
@[simp] theorem modStat_trust (s : State) (a : Nat) (c : CpCmd) (f : CopyStat → CopyStat) : (modStat s a c f).trust = s.trust := rfl

@[simp] theorem pushCcq_env (s : State) (a k : Nat) (w : Word) : (pushCcq s a k w).env = s.env := rfl
@[simp] theorem pushCcq_mem (s : State) (a k : Nat) (w : Word) : (pushCcq s a k w).mem = s.mem := rfl
@[simp] theorem pushCcq_net (s : State) (a k : Nat) (w : Word) : (pushCcq s a k w).net = s.net := rfl
@[simp] theorem pushCcq_light (s : State) (a k : Nat) (w : Word) : (pushCcq s a k w).light = s.light := rfl
@[simp] theorem pushCcq_os (s : State) (a k : Nat) (w : Word) : (pushCcq s a k w).os = s.os := rfl
@[simp] theorem pushCcq_rel (s : State) (a k : Nat) (w : Word) : (pushCcq s a k w).rel = s.rel := rfl
@[simp] theorem pushCcq_boot (s : State) (a k : Nat) (w : Word) : (pushCcq s a k w).boot = s.boot := rfl
@[simp] theorem pushCcq_trust (s : State) (a k : Nat) (w : Word) : (pushCcq s a k w).trust = s.trust := rfl

@[simp] theorem setWin_env (s : State) (a w : Nat) (v : Window) : (setWin s a w v).env = s.env := rfl
@[simp] theorem setWin_mem (s : State) (a w : Nat) (v : Window) : (setWin s a w v).mem = s.mem := rfl
@[simp] theorem setWin_net (s : State) (a w : Nat) (v : Window) : (setWin s a w v).net = s.net := rfl
@[simp] theorem setWin_light (s : State) (a w : Nat) (v : Window) : (setWin s a w v).light = s.light := rfl
@[simp] theorem setWin_os (s : State) (a w : Nat) (v : Window) : (setWin s a w v).os = s.os := rfl
@[simp] theorem setWin_rel (s : State) (a w : Nat) (v : Window) : (setWin s a w v).rel = s.rel := rfl
@[simp] theorem setWin_boot (s : State) (a w : Nat) (v : Window) : (setWin s a w v).boot = s.boot := rfl
@[simp] theorem setWin_trust (s : State) (a w : Nat) (v : Window) : (setWin s a w v).trust = s.trust := rfl

@[simp] theorem setRcv_env (s : State) (a r : Nat) (st : HueSt) : (setRcv s a r st).env = s.env := rfl
@[simp] theorem setRcv_mem (s : State) (a r : Nat) (st : HueSt) : (setRcv s a r st).mem = s.mem := rfl
@[simp] theorem setRcv_net (s : State) (a r : Nat) (st : HueSt) : (setRcv s a r st).net = s.net := rfl
@[simp] theorem setRcv_light (s : State) (a r : Nat) (st : HueSt) : (setRcv s a r st).light = s.light := rfl
@[simp] theorem setRcv_os (s : State) (a r : Nat) (st : HueSt) : (setRcv s a r st).os = s.os := rfl
@[simp] theorem setRcv_rel (s : State) (a r : Nat) (st : HueSt) : (setRcv s a r st).rel = s.rel := rfl
@[simp] theorem setRcv_boot (s : State) (a r : Nat) (st : HueSt) : (setRcv s a r st).boot = s.boot := rfl
@[simp] theorem setRcv_trust (s : State) (a r : Nat) (st : HueSt) : (setRcv s a r st).trust = s.trust := rfl

@[simp] theorem keepWord_env (s : State) (w : Word) : (keepWord s w).env = s.env := rfl
@[simp] theorem keepWord_mem (s : State) (w : Word) : (keepWord s w).mem = s.mem := rfl
@[simp] theorem keepWord_net (s : State) (w : Word) : (keepWord s w).net = s.net := rfl
@[simp] theorem keepWord_light (s : State) (w : Word) : (keepWord s w).light = s.light := rfl
@[simp] theorem keepWord_os (s : State) (w : Word) : (keepWord s w).os = s.os := rfl
@[simp] theorem keepWord_rel (s : State) (w : Word) : (keepWord s w).rel = s.rel := rfl
@[simp] theorem keepWord_boot (s : State) (w : Word) : (keepWord s w).boot = s.boot := rfl
@[simp] theorem keepWord_trust (s : State) (w : Word) : (keepWord s w).trust = s.trust := rfl

@[simp] theorem modGroup_env (s : State) (g : Nat) (f : Group → Group) : (modGroup s g f).env = s.env := rfl
@[simp] theorem modGroup_mem (s : State) (g : Nat) (f : Group → Group) : (modGroup s g f).mem = s.mem := rfl
@[simp] theorem modGroup_agents (s : State) (g : Nat) (f : Group → Group) : (modGroup s g f).agents = s.agents := rfl
@[simp] theorem modGroup_net (s : State) (g : Nat) (f : Group → Group) : (modGroup s g f).net = s.net := rfl
@[simp] theorem modGroup_os (s : State) (g : Nat) (f : Group → Group) : (modGroup s g f).os = s.os := rfl
@[simp] theorem modGroup_rel (s : State) (g : Nat) (f : Group → Group) : (modGroup s g f).rel = s.rel := rfl
@[simp] theorem modGroup_boot (s : State) (g : Nat) (f : Group → Group) : (modGroup s g f).boot = s.boot := rfl
@[simp] theorem modGroup_trust (s : State) (g : Nat) (f : Group → Group) : (modGroup s g f).trust = s.trust := rfl

@[simp] theorem dropBeaconWalks_env (s : State) (g : Nat) : (dropBeaconWalks s g).env = s.env := rfl
@[simp] theorem dropBeaconWalks_mem (s : State) (g : Nat) : (dropBeaconWalks s g).mem = s.mem := rfl
@[simp] theorem dropBeaconWalks_agents (s : State) (g : Nat) : (dropBeaconWalks s g).agents = s.agents := rfl
@[simp] theorem dropBeaconWalks_light (s : State) (g : Nat) : (dropBeaconWalks s g).light = s.light := rfl
@[simp] theorem dropBeaconWalks_os (s : State) (g : Nat) : (dropBeaconWalks s g).os = s.os := rfl
@[simp] theorem dropBeaconWalks_rel (s : State) (g : Nat) : (dropBeaconWalks s g).rel = s.rel := rfl
@[simp] theorem dropBeaconWalks_boot (s : State) (g : Nat) : (dropBeaconWalks s g).boot = s.boot := rfl
@[simp] theorem dropBeaconWalks_trust (s : State) (g : Nat) : (dropBeaconWalks s g).trust = s.trust := rfl

@[simp] theorem postBeacon_env (s : State) (g kind cause detail : Nat) (addr info : Word) (seq : Nat) : (postBeacon s g kind cause detail addr info seq).env = s.env := rfl
@[simp] theorem postBeacon_mem (s : State) (g kind cause detail : Nat) (addr info : Word) (seq : Nat) : (postBeacon s g kind cause detail addr info seq).mem = s.mem := rfl
@[simp] theorem postBeacon_agents (s : State) (g kind cause detail : Nat) (addr info : Word) (seq : Nat) : (postBeacon s g kind cause detail addr info seq).agents = s.agents := rfl
@[simp] theorem postBeacon_net (s : State) (g kind cause detail : Nat) (addr info : Word) (seq : Nat) : (postBeacon s g kind cause detail addr info seq).net = s.net := rfl
@[simp] theorem postBeacon_light (s : State) (g kind cause detail : Nat) (addr info : Word) (seq : Nat) : (postBeacon s g kind cause detail addr info seq).light = s.light := rfl
@[simp] theorem postBeacon_os (s : State) (g kind cause detail : Nat) (addr info : Word) (seq : Nat) : (postBeacon s g kind cause detail addr info seq).os = s.os := rfl
@[simp] theorem postBeacon_boot (s : State) (g kind cause detail : Nat) (addr info : Word) (seq : Nat) : (postBeacon s g kind cause detail addr info seq).boot = s.boot := rfl
@[simp] theorem postBeacon_trust (s : State) (g kind cause detail : Nat) (addr info : Word) (seq : Nat) : (postBeacon s g kind cause detail addr info seq).trust = s.trust := rfl

@[simp] theorem shine_env (s : State) (g : Nat) (p : Photon) : (shine s g p).env = s.env := rfl
@[simp] theorem shine_mem (s : State) (g : Nat) (p : Photon) : (shine s g p).mem = s.mem := rfl
@[simp] theorem shine_agents (s : State) (g : Nat) (p : Photon) : (shine s g p).agents = s.agents := rfl
@[simp] theorem shine_net (s : State) (g : Nat) (p : Photon) : (shine s g p).net = s.net := rfl
@[simp] theorem shine_os (s : State) (g : Nat) (p : Photon) : (shine s g p).os = s.os := rfl
@[simp] theorem shine_rel (s : State) (g : Nat) (p : Photon) : (shine s g p).rel = s.rel := rfl
@[simp] theorem shine_boot (s : State) (g : Nat) (p : Photon) : (shine s g p).boot = s.boot := rfl
@[simp] theorem shine_trust (s : State) (g : Nat) (p : Photon) : (shine s g p).trust = s.trust := rfl

@[simp] theorem popRequest_env (s : State) (g : Nat) : (popRequest s g).env = s.env := rfl
@[simp] theorem popRequest_mem (s : State) (g : Nat) : (popRequest s g).mem = s.mem := rfl
@[simp] theorem popRequest_agents (s : State) (g : Nat) : (popRequest s g).agents = s.agents := rfl
@[simp] theorem popRequest_net (s : State) (g : Nat) : (popRequest s g).net = s.net := rfl
@[simp] theorem popRequest_os (s : State) (g : Nat) : (popRequest s g).os = s.os := rfl
@[simp] theorem popRequest_rel (s : State) (g : Nat) : (popRequest s g).rel = s.rel := rfl
@[simp] theorem popRequest_boot (s : State) (g : Nat) : (popRequest s g).boot = s.boot := rfl
@[simp] theorem popRequest_trust (s : State) (g : Nat) : (popRequest s g).trust = s.trust := rfl

@[simp] theorem addToken_env (s : State) (g : Nat) (t : BToken) : (addToken s g t).env = s.env := rfl
@[simp] theorem addToken_mem (s : State) (g : Nat) (t : BToken) : (addToken s g t).mem = s.mem := rfl
@[simp] theorem addToken_agents (s : State) (g : Nat) (t : BToken) : (addToken s g t).agents = s.agents := rfl
@[simp] theorem addToken_net (s : State) (g : Nat) (t : BToken) : (addToken s g t).net = s.net := rfl
@[simp] theorem addToken_os (s : State) (g : Nat) (t : BToken) : (addToken s g t).os = s.os := rfl
@[simp] theorem addToken_rel (s : State) (g : Nat) (t : BToken) : (addToken s g t).rel = s.rel := rfl
@[simp] theorem addToken_boot (s : State) (g : Nat) (t : BToken) : (addToken s g t).boot = s.boot := rfl
@[simp] theorem addToken_trust (s : State) (g : Nat) (t : BToken) : (addToken s g t).trust = s.trust := rfl

@[simp] theorem popFlight_env (s : State) (g a : Nat) : (popFlight s g a).env = s.env := rfl
@[simp] theorem popFlight_mem (s : State) (g a : Nat) : (popFlight s g a).mem = s.mem := rfl
@[simp] theorem popFlight_agents (s : State) (g a : Nat) : (popFlight s g a).agents = s.agents := rfl
@[simp] theorem popFlight_net (s : State) (g a : Nat) : (popFlight s g a).net = s.net := rfl
@[simp] theorem popFlight_os (s : State) (g a : Nat) : (popFlight s g a).os = s.os := rfl
@[simp] theorem popFlight_rel (s : State) (g a : Nat) : (popFlight s g a).rel = s.rel := rfl
@[simp] theorem popFlight_boot (s : State) (g a : Nat) : (popFlight s g a).boot = s.boot := rfl
@[simp] theorem popFlight_trust (s : State) (g a : Nat) : (popFlight s g a).trust = s.trust := rfl

@[simp] theorem modMx_env (s : State) (a : Nat) (f : Mxe → Mxe) : (modMx s a f).env = s.env := rfl
@[simp] theorem modMx_mem (s : State) (a : Nat) (f : Mxe → Mxe) : (modMx s a f).mem = s.mem := rfl
@[simp] theorem modMx_net (s : State) (a : Nat) (f : Mxe → Mxe) : (modMx s a f).net = s.net := rfl
@[simp] theorem modMx_light (s : State) (a : Nat) (f : Mxe → Mxe) : (modMx s a f).light = s.light := rfl
@[simp] theorem modMx_os (s : State) (a : Nat) (f : Mxe → Mxe) : (modMx s a f).os = s.os := rfl
@[simp] theorem modMx_rel (s : State) (a : Nat) (f : Mxe → Mxe) : (modMx s a f).rel = s.rel := rfl
@[simp] theorem modMx_boot (s : State) (a : Nat) (f : Mxe → Mxe) : (modMx s a f).boot = s.boot := rfl
@[simp] theorem modMx_trust (s : State) (a : Nat) (f : Mxe → Mxe) : (modMx s a f).trust = s.trust := rfl

@[simp] theorem dropRun_env (f : MxRun → Bool) (s : State) (a : Nat) : (dropRun f s a).env = s.env := rfl
@[simp] theorem dropRun_mem (f : MxRun → Bool) (s : State) (a : Nat) : (dropRun f s a).mem = s.mem := rfl
@[simp] theorem dropRun_net (f : MxRun → Bool) (s : State) (a : Nat) : (dropRun f s a).net = s.net := rfl
@[simp] theorem dropRun_light (f : MxRun → Bool) (s : State) (a : Nat) : (dropRun f s a).light = s.light := rfl
@[simp] theorem dropRun_os (f : MxRun → Bool) (s : State) (a : Nat) : (dropRun f s a).os = s.os := rfl
@[simp] theorem dropRun_rel (f : MxRun → Bool) (s : State) (a : Nat) : (dropRun f s a).rel = s.rel := rfl
@[simp] theorem dropRun_boot (f : MxRun → Bool) (s : State) (a : Nat) : (dropRun f s a).boot = s.boot := rfl
@[simp] theorem dropRun_trust (f : MxRun → Bool) (s : State) (a : Nat) : (dropRun f s a).trust = s.trust := rfl

@[simp] theorem coolDown_env (s : State) (a : Nat) : (coolDown s a).env = s.env := rfl
@[simp] theorem coolDown_mem (s : State) (a : Nat) : (coolDown s a).mem = s.mem := rfl
@[simp] theorem coolDown_net (s : State) (a : Nat) : (coolDown s a).net = s.net := rfl
@[simp] theorem coolDown_light (s : State) (a : Nat) : (coolDown s a).light = s.light := rfl
@[simp] theorem coolDown_os (s : State) (a : Nat) : (coolDown s a).os = s.os := rfl
@[simp] theorem coolDown_rel (s : State) (a : Nat) : (coolDown s a).rel = s.rel := rfl
@[simp] theorem coolDown_boot (s : State) (a : Nat) : (coolDown s a).boot = s.boot := rfl
@[simp] theorem coolDown_trust (s : State) (a : Nat) : (coolDown s a).trust = s.trust := rfl

@[simp] theorem unfire_env (s : State) (a : Nat) (r : MxRun) (f : Fired) : (unfire s a r f).env = s.env := rfl
@[simp] theorem unfire_mem (s : State) (a : Nat) (r : MxRun) (f : Fired) : (unfire s a r f).mem = s.mem := rfl
@[simp] theorem unfire_net (s : State) (a : Nat) (r : MxRun) (f : Fired) : (unfire s a r f).net = s.net := rfl
@[simp] theorem unfire_light (s : State) (a : Nat) (r : MxRun) (f : Fired) : (unfire s a r f).light = s.light := rfl
@[simp] theorem unfire_os (s : State) (a : Nat) (r : MxRun) (f : Fired) : (unfire s a r f).os = s.os := rfl
@[simp] theorem unfire_rel (s : State) (a : Nat) (r : MxRun) (f : Fired) : (unfire s a r f).rel = s.rel := rfl
@[simp] theorem unfire_boot (s : State) (a : Nat) (r : MxRun) (f : Fired) : (unfire s a r f).boot = s.boot := rfl
@[simp] theorem unfire_trust (s : State) (a : Nat) (r : MxRun) (f : Fired) : (unfire s a r f).trust = s.trust := rfl

@[simp] theorem pushMcq_env (s : State) (a k : Nat) (w : Word) : (pushMcq s a k w).env = s.env := rfl
@[simp] theorem pushMcq_mem (s : State) (a k : Nat) (w : Word) : (pushMcq s a k w).mem = s.mem := rfl
@[simp] theorem pushMcq_net (s : State) (a k : Nat) (w : Word) : (pushMcq s a k w).net = s.net := rfl
@[simp] theorem pushMcq_light (s : State) (a k : Nat) (w : Word) : (pushMcq s a k w).light = s.light := rfl
@[simp] theorem pushMcq_os (s : State) (a k : Nat) (w : Word) : (pushMcq s a k w).os = s.os := rfl
@[simp] theorem pushMcq_rel (s : State) (a k : Nat) (w : Word) : (pushMcq s a k w).rel = s.rel := rfl
@[simp] theorem pushMcq_boot (s : State) (a k : Nat) (w : Word) : (pushMcq s a k w).boot = s.boot := rfl
@[simp] theorem pushMcq_trust (s : State) (a k : Nat) (w : Word) : (pushMcq s a k w).trust = s.trust := rfl

@[simp] theorem putBox_env (s : State) (i : Nat) (b : Mailbox) : (putBox s i b).env = s.env := rfl
@[simp] theorem putBox_mem (s : State) (i : Nat) (b : Mailbox) : (putBox s i b).mem = s.mem := rfl
@[simp] theorem putBox_agents (s : State) (i : Nat) (b : Mailbox) : (putBox s i b).agents = s.agents := rfl
@[simp] theorem putBox_net (s : State) (i : Nat) (b : Mailbox) : (putBox s i b).net = s.net := rfl
@[simp] theorem putBox_light (s : State) (i : Nat) (b : Mailbox) : (putBox s i b).light = s.light := rfl
@[simp] theorem putBox_os (s : State) (i : Nat) (b : Mailbox) : (putBox s i b).os = s.os := rfl
@[simp] theorem putBox_rel (s : State) (i : Nat) (b : Mailbox) : (putBox s i b).rel = s.rel := rfl
@[simp] theorem putBox_boot (s : State) (i : Nat) (b : Mailbox) : (putBox s i b).boot = s.boot := rfl

@[simp] theorem acceptBox_env (s : State) (i : Nat) (code : Byte) (answer : List Byte) : (acceptBox s i code answer).env = s.env := rfl
@[simp] theorem acceptBox_mem (s : State) (i : Nat) (code : Byte) (answer : List Byte) : (acceptBox s i code answer).mem = s.mem := rfl
@[simp] theorem acceptBox_agents (s : State) (i : Nat) (code : Byte) (answer : List Byte) : (acceptBox s i code answer).agents = s.agents := rfl
@[simp] theorem acceptBox_net (s : State) (i : Nat) (code : Byte) (answer : List Byte) : (acceptBox s i code answer).net = s.net := rfl
@[simp] theorem acceptBox_light (s : State) (i : Nat) (code : Byte) (answer : List Byte) : (acceptBox s i code answer).light = s.light := rfl
@[simp] theorem acceptBox_os (s : State) (i : Nat) (code : Byte) (answer : List Byte) : (acceptBox s i code answer).os = s.os := rfl
@[simp] theorem acceptBox_rel (s : State) (i : Nat) (code : Byte) (answer : List Byte) : (acceptBox s i code answer).rel = s.rel := rfl
@[simp] theorem acceptBox_boot (s : State) (i : Nat) (code : Byte) (answer : List Byte) : (acceptBox s i code answer).boot = s.boot := rfl

@[simp] theorem putRdu_env (s : State) (c : RduCall) : (putRdu s c).env = s.env := rfl
@[simp] theorem putRdu_mem (s : State) (c : RduCall) : (putRdu s c).mem = s.mem := rfl
@[simp] theorem putRdu_agents (s : State) (c : RduCall) : (putRdu s c).agents = s.agents := rfl
@[simp] theorem putRdu_light (s : State) (c : RduCall) : (putRdu s c).light = s.light := rfl
@[simp] theorem putRdu_os (s : State) (c : RduCall) : (putRdu s c).os = s.os := rfl
@[simp] theorem putRdu_rel (s : State) (c : RduCall) : (putRdu s c).rel = s.rel := rfl
@[simp] theorem putRdu_boot (s : State) (c : RduCall) : (putRdu s c).boot = s.boot := rfl
@[simp] theorem putRdu_trust (s : State) (c : RduCall) : (putRdu s c).trust = s.trust := rfl

@[simp] theorem clearCall_env (s : State) (g : Nat) (seq : BitVec 32) : (clearCall s g seq).env = s.env := rfl
@[simp] theorem clearCall_mem (s : State) (g : Nat) (seq : BitVec 32) : (clearCall s g seq).mem = s.mem := rfl
@[simp] theorem clearCall_agents (s : State) (g : Nat) (seq : BitVec 32) : (clearCall s g seq).agents = s.agents := rfl
@[simp] theorem clearCall_light (s : State) (g : Nat) (seq : BitVec 32) : (clearCall s g seq).light = s.light := rfl
@[simp] theorem clearCall_os (s : State) (g : Nat) (seq : BitVec 32) : (clearCall s g seq).os = s.os := rfl
@[simp] theorem clearCall_rel (s : State) (g : Nat) (seq : BitVec 32) : (clearCall s g seq).rel = s.rel := rfl
@[simp] theorem clearCall_boot (s : State) (g : Nat) (seq : BitVec 32) : (clearCall s g seq).boot = s.boot := rfl
@[simp] theorem clearCall_trust (s : State) (g : Nat) (seq : BitVec 32) : (clearCall s g seq).trust = s.trust := rfl

@[simp] theorem sendTokens_env (s : State) (g : Nat) (seq : BitVec 32) (abort status : Nat) (results : Nat → Option (List Word)) : (sendTokens s g seq abort status results).env = s.env := rfl
@[simp] theorem sendTokens_mem (s : State) (g : Nat) (seq : BitVec 32) (abort status : Nat) (results : Nat → Option (List Word)) : (sendTokens s g seq abort status results).mem = s.mem := rfl
@[simp] theorem sendTokens_agents (s : State) (g : Nat) (seq : BitVec 32) (abort status : Nat) (results : Nat → Option (List Word)) : (sendTokens s g seq abort status results).agents = s.agents := rfl
@[simp] theorem sendTokens_light (s : State) (g : Nat) (seq : BitVec 32) (abort status : Nat) (results : Nat → Option (List Word)) : (sendTokens s g seq abort status results).light = s.light := rfl
@[simp] theorem sendTokens_os (s : State) (g : Nat) (seq : BitVec 32) (abort status : Nat) (results : Nat → Option (List Word)) : (sendTokens s g seq abort status results).os = s.os := rfl
@[simp] theorem sendTokens_rel (s : State) (g : Nat) (seq : BitVec 32) (abort status : Nat) (results : Nat → Option (List Word)) : (sendTokens s g seq abort status results).rel = s.rel := rfl
@[simp] theorem sendTokens_boot (s : State) (g : Nat) (seq : BitVec 32) (abort status : Nat) (results : Nat → Option (List Word)) : (sendTokens s g seq abort status results).boot = s.boot := rfl
@[simp] theorem sendTokens_trust (s : State) (g : Nat) (seq : BitVec 32) (abort status : Nat) (results : Nat → Option (List Word)) : (sendTokens s g seq abort status results).trust = s.trust := rfl

@[simp] theorem sendDown_env (s : State) (r g : Nat) (seq : BitVec 32) (all here : Bool) (res : List Word) (status : Nat) : (sendDown s r g seq all here res status).env = s.env := rfl
@[simp] theorem sendDown_mem (s : State) (r g : Nat) (seq : BitVec 32) (all here : Bool) (res : List Word) (status : Nat) : (sendDown s r g seq all here res status).mem = s.mem := rfl
@[simp] theorem sendDown_agents (s : State) (r g : Nat) (seq : BitVec 32) (all here : Bool) (res : List Word) (status : Nat) : (sendDown s r g seq all here res status).agents = s.agents := rfl
@[simp] theorem sendDown_light (s : State) (r g : Nat) (seq : BitVec 32) (all here : Bool) (res : List Word) (status : Nat) : (sendDown s r g seq all here res status).light = s.light := rfl
@[simp] theorem sendDown_os (s : State) (r g : Nat) (seq : BitVec 32) (all here : Bool) (res : List Word) (status : Nat) : (sendDown s r g seq all here res status).os = s.os := rfl
@[simp] theorem sendDown_rel (s : State) (r g : Nat) (seq : BitVec 32) (all here : Bool) (res : List Word) (status : Nat) : (sendDown s r g seq all here res status).rel = s.rel := rfl
@[simp] theorem sendDown_boot (s : State) (r g : Nat) (seq : BitVec 32) (all here : Bool) (res : List Word) (status : Nat) : (sendDown s r g seq all here res status).boot = s.boot := rfl
@[simp] theorem sendDown_trust (s : State) (r g : Nat) (seq : BitVec 32) (all here : Bool) (res : List Word) (status : Nat) : (sendDown s r g seq all here res status).trust = s.trust := rfl

@[simp] theorem putToken_env (s : State) (t t' : CallToken) : (putToken s t t').env = s.env := rfl
@[simp] theorem putToken_mem (s : State) (t t' : CallToken) : (putToken s t t').mem = s.mem := rfl
@[simp] theorem putToken_agents (s : State) (t t' : CallToken) : (putToken s t t').agents = s.agents := rfl
@[simp] theorem putToken_light (s : State) (t t' : CallToken) : (putToken s t t').light = s.light := rfl
@[simp] theorem putToken_os (s : State) (t t' : CallToken) : (putToken s t t').os = s.os := rfl
@[simp] theorem putToken_rel (s : State) (t t' : CallToken) : (putToken s t t').rel = s.rel := rfl
@[simp] theorem putToken_boot (s : State) (t t' : CallToken) : (putToken s t t').boot = s.boot := rfl
@[simp] theorem putToken_trust (s : State) (t t' : CallToken) : (putToken s t t').trust = s.trust := rfl

@[simp] theorem noteIssue_env (s : State) (a k : Nat) : (noteIssue s a k).env = s.env := rfl
@[simp] theorem noteIssue_mem (s : State) (a k : Nat) : (noteIssue s a k).mem = s.mem := rfl
@[simp] theorem noteIssue_net (s : State) (a k : Nat) : (noteIssue s a k).net = s.net := rfl
@[simp] theorem noteIssue_light (s : State) (a k : Nat) : (noteIssue s a k).light = s.light := rfl
@[simp] theorem noteIssue_os (s : State) (a k : Nat) : (noteIssue s a k).os = s.os := rfl
@[simp] theorem noteIssue_rel (s : State) (a k : Nat) : (noteIssue s a k).rel = s.rel := rfl
@[simp] theorem noteIssue_boot (s : State) (a k : Nat) : (noteIssue s a k).boot = s.boot := rfl
@[simp] theorem noteIssue_trust (s : State) (a k : Nat) : (noteIssue s a k).trust = s.trust := rfl

@[simp] theorem wake_env (s : State) (a k : Nat) : (wake s a k).env = s.env := rfl
@[simp] theorem wake_mem (s : State) (a k : Nat) : (wake s a k).mem = s.mem := rfl
@[simp] theorem wake_net (s : State) (a k : Nat) : (wake s a k).net = s.net := rfl
@[simp] theorem wake_light (s : State) (a k : Nat) : (wake s a k).light = s.light := rfl
@[simp] theorem wake_os (s : State) (a k : Nat) : (wake s a k).os = s.os := rfl
@[simp] theorem wake_rel (s : State) (a k : Nat) : (wake s a k).rel = s.rel := rfl
@[simp] theorem wake_boot (s : State) (a k : Nat) : (wake s a k).boot = s.boot := rfl
@[simp] theorem wake_trust (s : State) (a k : Nat) : (wake s a k).trust = s.trust := rfl

@[simp] theorem tick_mem (s : State) : (tick s).mem = s.mem := rfl
@[simp] theorem tick_agents (s : State) : (tick s).agents = s.agents := rfl
@[simp] theorem tick_net (s : State) : (tick s).net = s.net := rfl
@[simp] theorem tick_light (s : State) : (tick s).light = s.light := rfl
@[simp] theorem tick_os (s : State) : (tick s).os = s.os := rfl
@[simp] theorem tick_rel (s : State) : (tick s).rel = s.rel := rfl
@[simp] theorem tick_boot (s : State) : (tick s).boot = s.boot := rfl
@[simp] theorem tick_trust (s : State) : (tick s).trust = s.trust := rfl

@[simp] theorem modRow_env (s : State) (r : Nat) (f : Row → Row) : (modRow s r f).env = s.env := rfl
@[simp] theorem modRow_mem (s : State) (r : Nat) (f : Row → Row) : (modRow s r f).mem = s.mem := rfl
@[simp] theorem modRow_agents (s : State) (r : Nat) (f : Row → Row) : (modRow s r f).agents = s.agents := rfl
@[simp] theorem modRow_net (s : State) (r : Nat) (f : Row → Row) : (modRow s r f).net = s.net := rfl
@[simp] theorem modRow_light (s : State) (r : Nat) (f : Row → Row) : (modRow s r f).light = s.light := rfl
@[simp] theorem modRow_os (s : State) (r : Nat) (f : Row → Row) : (modRow s r f).os = s.os := rfl
@[simp] theorem modRow_boot (s : State) (r : Nat) (f : Row → Row) : (modRow s r f).boot = s.boot := rfl
@[simp] theorem modRow_trust (s : State) (r : Nat) (f : Row → Row) : (modRow s r f).trust = s.trust := rfl

@[simp] theorem disarmHook_env (s : State) : (disarmHook s).env = s.env := rfl
@[simp] theorem disarmHook_mem (s : State) : (disarmHook s).mem = s.mem := rfl
@[simp] theorem disarmHook_agents (s : State) : (disarmHook s).agents = s.agents := rfl
@[simp] theorem disarmHook_net (s : State) : (disarmHook s).net = s.net := rfl
@[simp] theorem disarmHook_light (s : State) : (disarmHook s).light = s.light := rfl
@[simp] theorem disarmHook_os (s : State) : (disarmHook s).os = s.os := rfl
@[simp] theorem disarmHook_boot (s : State) : (disarmHook s).boot = s.boot := rfl
@[simp] theorem disarmHook_trust (s : State) : (disarmHook s).trust = s.trust := rfl

@[simp] theorem answerWalk_env (s : State) (token : Nat) (retry : Bool) : (answerWalk s token retry).env = s.env := rfl
@[simp] theorem answerWalk_mem (s : State) (token : Nat) (retry : Bool) : (answerWalk s token retry).mem = s.mem := rfl
@[simp] theorem answerWalk_agents (s : State) (token : Nat) (retry : Bool) : (answerWalk s token retry).agents = s.agents := rfl
@[simp] theorem answerWalk_light (s : State) (token : Nat) (retry : Bool) : (answerWalk s token retry).light = s.light := rfl
@[simp] theorem answerWalk_os (s : State) (token : Nat) (retry : Bool) : (answerWalk s token retry).os = s.os := rfl
@[simp] theorem answerWalk_rel (s : State) (token : Nat) (retry : Bool) : (answerWalk s token retry).rel = s.rel := rfl
@[simp] theorem answerWalk_boot (s : State) (token : Nat) (retry : Bool) : (answerWalk s token retry).boot = s.boot := rfl
@[simp] theorem answerWalk_trust (s : State) (token : Nat) (retry : Bool) : (answerWalk s token retry).trust = s.trust := rfl

@[simp] theorem answerStrand_env (s : State) (a k : Nat) (w : Word) : (answerStrand s a k w).env = s.env := rfl
@[simp] theorem answerStrand_mem (s : State) (a k : Nat) (w : Word) : (answerStrand s a k w).mem = s.mem := rfl
@[simp] theorem answerStrand_net (s : State) (a k : Nat) (w : Word) : (answerStrand s a k w).net = s.net := rfl
@[simp] theorem answerStrand_light (s : State) (a k : Nat) (w : Word) : (answerStrand s a k w).light = s.light := rfl
@[simp] theorem answerStrand_os (s : State) (a k : Nat) (w : Word) : (answerStrand s a k w).os = s.os := rfl
@[simp] theorem answerStrand_rel (s : State) (a k : Nat) (w : Word) : (answerStrand s a k w).rel = s.rel := rfl
@[simp] theorem answerStrand_boot (s : State) (a k : Nat) (w : Word) : (answerStrand s a k w).boot = s.boot := rfl
@[simp] theorem answerStrand_trust (s : State) (a k : Nat) (w : Word) : (answerStrand s a k w).trust = s.trust := rfl

@[simp] theorem modWave_env (s : State) (f : Wave → Wave) : (modWave s f).env = s.env := rfl
@[simp] theorem modWave_mem (s : State) (f : Wave → Wave) : (modWave s f).mem = s.mem := rfl
@[simp] theorem modWave_agents (s : State) (f : Wave → Wave) : (modWave s f).agents = s.agents := rfl
@[simp] theorem modWave_net (s : State) (f : Wave → Wave) : (modWave s f).net = s.net := rfl
@[simp] theorem modWave_light (s : State) (f : Wave → Wave) : (modWave s f).light = s.light := rfl
@[simp] theorem modWave_os (s : State) (f : Wave → Wave) : (modWave s f).os = s.os := rfl
@[simp] theorem modWave_boot (s : State) (f : Wave → Wave) : (modWave s f).boot = s.boot := rfl
@[simp] theorem modWave_trust (s : State) (f : Wave → Wave) : (modWave s f).trust = s.trust := rfl

@[simp] theorem putTree_env (s : State) (t : Nat) (rs : List TreeRec) : (putTree s t rs).env = s.env := rfl
@[simp] theorem putTree_mem (s : State) (t : Nat) (rs : List TreeRec) : (putTree s t rs).mem = s.mem := rfl
@[simp] theorem putTree_agents (s : State) (t : Nat) (rs : List TreeRec) : (putTree s t rs).agents = s.agents := rfl
@[simp] theorem putTree_light (s : State) (t : Nat) (rs : List TreeRec) : (putTree s t rs).light = s.light := rfl
@[simp] theorem putTree_os (s : State) (t : Nat) (rs : List TreeRec) : (putTree s t rs).os = s.os := rfl
@[simp] theorem putTree_rel (s : State) (t : Nat) (rs : List TreeRec) : (putTree s t rs).rel = s.rel := rfl
@[simp] theorem putTree_boot (s : State) (t : Nat) (rs : List TreeRec) : (putTree s t rs).boot = s.boot := rfl
@[simp] theorem putTree_trust (s : State) (t : Nat) (rs : List TreeRec) : (putTree s t rs).trust = s.trust := rfl

@[simp] theorem dropTquWalk_env (s : State) (c va : Nat) : (dropTquWalk s c va).env = s.env := rfl
@[simp] theorem dropTquWalk_mem (s : State) (c va : Nat) : (dropTquWalk s c va).mem = s.mem := rfl
@[simp] theorem dropTquWalk_agents (s : State) (c va : Nat) : (dropTquWalk s c va).agents = s.agents := rfl
@[simp] theorem dropTquWalk_light (s : State) (c va : Nat) : (dropTquWalk s c va).light = s.light := rfl
@[simp] theorem dropTquWalk_os (s : State) (c va : Nat) : (dropTquWalk s c va).os = s.os := rfl
@[simp] theorem dropTquWalk_rel (s : State) (c va : Nat) : (dropTquWalk s c va).rel = s.rel := rfl
@[simp] theorem dropTquWalk_boot (s : State) (c va : Nat) : (dropTquWalk s c va).boot = s.boot := rfl
@[simp] theorem dropTquWalk_trust (s : State) (c va : Nat) : (dropTquWalk s c va).trust = s.trust := rfl

@[simp] theorem setQueue_env (s : State) (c l : Nat) (q : Queue) : (setQueue s c l q).env = s.env := rfl
@[simp] theorem setQueue_mem (s : State) (c l : Nat) (q : Queue) : (setQueue s c l q).mem = s.mem := rfl
@[simp] theorem setQueue_agents (s : State) (c l : Nat) (q : Queue) : (setQueue s c l q).agents = s.agents := rfl
@[simp] theorem setQueue_net (s : State) (c l : Nat) (q : Queue) : (setQueue s c l q).net = s.net := rfl
@[simp] theorem setQueue_light (s : State) (c l : Nat) (q : Queue) : (setQueue s c l q).light = s.light := rfl
@[simp] theorem setQueue_rel (s : State) (c l : Nat) (q : Queue) : (setQueue s c l q).rel = s.rel := rfl
@[simp] theorem setQueue_boot (s : State) (c l : Nat) (q : Queue) : (setQueue s c l q).boot = s.boot := rfl
@[simp] theorem setQueue_trust (s : State) (c l : Nat) (q : Queue) : (setQueue s c l q).trust = s.trust := rfl

@[simp] theorem postQueue_env (s : State) (t : Tag) (detail addr tail : Nat) : (postQueue s t detail addr tail).env = s.env := rfl
@[simp] theorem postQueue_mem (s : State) (t : Tag) (detail addr tail : Nat) : (postQueue s t detail addr tail).mem = s.mem := rfl
@[simp] theorem postQueue_agents (s : State) (t : Tag) (detail addr tail : Nat) : (postQueue s t detail addr tail).agents = s.agents := rfl
@[simp] theorem postQueue_net (s : State) (t : Tag) (detail addr tail : Nat) : (postQueue s t detail addr tail).net = s.net := rfl
@[simp] theorem postQueue_light (s : State) (t : Tag) (detail addr tail : Nat) : (postQueue s t detail addr tail).light = s.light := rfl
@[simp] theorem postQueue_os (s : State) (t : Tag) (detail addr tail : Nat) : (postQueue s t detail addr tail).os = s.os := rfl
@[simp] theorem postQueue_boot (s : State) (t : Tag) (detail addr tail : Nat) : (postQueue s t detail addr tail).boot = s.boot := rfl
@[simp] theorem postQueue_trust (s : State) (t : Tag) (detail addr tail : Nat) : (postQueue s t detail addr tail).trust = s.trust := rfl

@[simp] theorem addTask_env (s : State) (t : Task) : (addTask s t).env = s.env := rfl
@[simp] theorem addTask_mem (s : State) (t : Task) : (addTask s t).mem = s.mem := rfl
@[simp] theorem addTask_agents (s : State) (t : Task) : (addTask s t).agents = s.agents := rfl
@[simp] theorem addTask_net (s : State) (t : Task) : (addTask s t).net = s.net := rfl
@[simp] theorem addTask_light (s : State) (t : Task) : (addTask s t).light = s.light := rfl
@[simp] theorem addTask_rel (s : State) (t : Task) : (addTask s t).rel = s.rel := rfl
@[simp] theorem addTask_boot (s : State) (t : Task) : (addTask s t).boot = s.boot := rfl
@[simp] theorem addTask_trust (s : State) (t : Task) : (addTask s t).trust = s.trust := rfl

@[simp] theorem tellDependents_env (s : State) (i : Nat) (done : Bool) : (tellDependents s i done).env = s.env := rfl
@[simp] theorem tellDependents_mem (s : State) (i : Nat) (done : Bool) : (tellDependents s i done).mem = s.mem := rfl
@[simp] theorem tellDependents_agents (s : State) (i : Nat) (done : Bool) : (tellDependents s i done).agents = s.agents := rfl
@[simp] theorem tellDependents_net (s : State) (i : Nat) (done : Bool) : (tellDependents s i done).net = s.net := rfl
@[simp] theorem tellDependents_light (s : State) (i : Nat) (done : Bool) : (tellDependents s i done).light = s.light := rfl
@[simp] theorem tellDependents_rel (s : State) (i : Nat) (done : Bool) : (tellDependents s i done).rel = s.rel := rfl
@[simp] theorem tellDependents_boot (s : State) (i : Nat) (done : Bool) : (tellDependents s i done).boot = s.boot := rfl
@[simp] theorem tellDependents_trust (s : State) (i : Nat) (done : Bool) : (tellDependents s i done).trust = s.trust := rfl

@[simp] theorem putConvoy_env (s : State) (v : Convoy) : (putConvoy s v).env = s.env := rfl
@[simp] theorem putConvoy_mem (s : State) (v : Convoy) : (putConvoy s v).mem = s.mem := rfl
@[simp] theorem putConvoy_agents (s : State) (v : Convoy) : (putConvoy s v).agents = s.agents := rfl
@[simp] theorem putConvoy_net (s : State) (v : Convoy) : (putConvoy s v).net = s.net := rfl
@[simp] theorem putConvoy_light (s : State) (v : Convoy) : (putConvoy s v).light = s.light := rfl
@[simp] theorem putConvoy_os (s : State) (v : Convoy) : (putConvoy s v).os = s.os := rfl
@[simp] theorem putConvoy_rel (s : State) (v : Convoy) : (putConvoy s v).rel = s.rel := rfl
@[simp] theorem putConvoy_boot (s : State) (v : Convoy) : (putConvoy s v).boot = s.boot := rfl

@[simp] theorem abortConvoy_env (s : State) (id : BitVec 256) : (abortConvoy s id).env = s.env := rfl
@[simp] theorem abortConvoy_mem (s : State) (id : BitVec 256) : (abortConvoy s id).mem = s.mem := rfl
@[simp] theorem abortConvoy_agents (s : State) (id : BitVec 256) : (abortConvoy s id).agents = s.agents := rfl
@[simp] theorem abortConvoy_net (s : State) (id : BitVec 256) : (abortConvoy s id).net = s.net := rfl
@[simp] theorem abortConvoy_light (s : State) (id : BitVec 256) : (abortConvoy s id).light = s.light := rfl
@[simp] theorem abortConvoy_os (s : State) (id : BitVec 256) : (abortConvoy s id).os = s.os := rfl
@[simp] theorem abortConvoy_rel (s : State) (id : BitVec 256) : (abortConvoy s id).rel = s.rel := rfl
@[simp] theorem abortConvoy_boot (s : State) (id : BitVec 256) : (abortConvoy s id).boot = s.boot := rfl

@[simp] theorem forwardOrder_env (s : State) (v : Convoy) (order : List Byte) : (forwardOrder s v order).env = s.env := rfl
@[simp] theorem forwardOrder_mem (s : State) (v : Convoy) (order : List Byte) : (forwardOrder s v order).mem = s.mem := rfl
@[simp] theorem forwardOrder_agents (s : State) (v : Convoy) (order : List Byte) : (forwardOrder s v order).agents = s.agents := rfl
@[simp] theorem forwardOrder_net (s : State) (v : Convoy) (order : List Byte) : (forwardOrder s v order).net = s.net := rfl
@[simp] theorem forwardOrder_light (s : State) (v : Convoy) (order : List Byte) : (forwardOrder s v order).light = s.light := rfl
@[simp] theorem forwardOrder_os (s : State) (v : Convoy) (order : List Byte) : (forwardOrder s v order).os = s.os := rfl
@[simp] theorem forwardOrder_rel (s : State) (v : Convoy) (order : List Byte) : (forwardOrder s v order).rel = s.rel := rfl
@[simp] theorem forwardOrder_boot (s : State) (v : Convoy) (order : List Byte) : (forwardOrder s v order).boot = s.boot := rfl

@[simp] theorem countAuthFail_env (s : State) : (countAuthFail s).env = s.env := rfl
@[simp] theorem countAuthFail_mem (s : State) : (countAuthFail s).mem = s.mem := rfl
@[simp] theorem countAuthFail_agents (s : State) : (countAuthFail s).agents = s.agents := rfl
@[simp] theorem countAuthFail_net (s : State) : (countAuthFail s).net = s.net := rfl
@[simp] theorem countAuthFail_light (s : State) : (countAuthFail s).light = s.light := rfl
@[simp] theorem countAuthFail_os (s : State) : (countAuthFail s).os = s.os := rfl
@[simp] theorem countAuthFail_rel (s : State) : (countAuthFail s).rel = s.rel := rfl
@[simp] theorem countAuthFail_boot (s : State) : (countAuthFail s).boot = s.boot := rfl

@[simp] theorem postTranslate_env (s : State) (w : Walk) (detail token lv : Nat) (last : Word) : (postTranslate s w detail token lv last).env = s.env := rfl
@[simp] theorem postTranslate_mem (s : State) (w : Walk) (detail token lv : Nat) (last : Word) : (postTranslate s w detail token lv last).mem = s.mem := rfl
@[simp] theorem postTranslate_agents (s : State) (w : Walk) (detail token lv : Nat) (last : Word) : (postTranslate s w detail token lv last).agents = s.agents := rfl
@[simp] theorem postTranslate_net (s : State) (w : Walk) (detail token lv : Nat) (last : Word) : (postTranslate s w detail token lv last).net = s.net := rfl
@[simp] theorem postTranslate_light (s : State) (w : Walk) (detail token lv : Nat) (last : Word) : (postTranslate s w detail token lv last).light = s.light := rfl
@[simp] theorem postTranslate_os (s : State) (w : Walk) (detail token lv : Nat) (last : Word) : (postTranslate s w detail token lv last).os = s.os := rfl
@[simp] theorem postTranslate_boot (s : State) (w : Walk) (detail token lv : Nat) (last : Word) : (postTranslate s w detail token lv last).boot = s.boot := rfl
@[simp] theorem postTranslate_trust (s : State) (w : Walk) (detail token lv : Nat) (last : Word) : (postTranslate s w detail token lv last).trust = s.trust := rfl

@[simp] theorem endAbort_env (s : State) (g reason : Nat) : (endAbort s g reason).env = s.env := rfl
@[simp] theorem endAbort_mem (s : State) (g reason : Nat) : (endAbort s g reason).mem = s.mem := rfl
@[simp] theorem endAbort_agents (s : State) (g reason : Nat) : (endAbort s g reason).agents = s.agents := rfl
@[simp] theorem endAbort_light (s : State) (g reason : Nat) : (endAbort s g reason).light = s.light := rfl
@[simp] theorem endAbort_os (s : State) (g reason : Nat) : (endAbort s g reason).os = s.os := rfl
@[simp] theorem endAbort_rel (s : State) (g reason : Nat) : (endAbort s g reason).rel = s.rel := rfl
@[simp] theorem endAbort_boot (s : State) (g reason : Nat) : (endAbort s g reason).boot = s.boot := rfl
@[simp] theorem endAbort_trust (s : State) (g reason : Nat) : (endAbort s g reason).trust = s.trust := rfl

@[simp] theorem markDead_env (s : State) (p : Nat) : (markDead s p).env = s.env := rfl
@[simp] theorem markDead_mem (s : State) (p : Nat) : (markDead s p).mem = s.mem := rfl
@[simp] theorem markDead_agents (s : State) (p : Nat) : (markDead s p).agents = s.agents := rfl
@[simp] theorem markDead_net (s : State) (p : Nat) : (markDead s p).net = s.net := rfl
@[simp] theorem markDead_light (s : State) (p : Nat) : (markDead s p).light = s.light := rfl
@[simp] theorem markDead_os (s : State) (p : Nat) : (markDead s p).os = s.os := rfl
@[simp] theorem markDead_boot (s : State) (p : Nat) : (markDead s p).boot = s.boot := rfl
@[simp] theorem markDead_trust (s : State) (p : Nat) : (markDead s p).trust = s.trust := rfl

@[simp] theorem beginWave_env (s : State) (r : Nat) (dead : BitVec 17) : (beginWave s r dead).env = s.env := rfl
@[simp] theorem beginWave_mem (s : State) (r : Nat) (dead : BitVec 17) : (beginWave s r dead).mem = s.mem := rfl
@[simp] theorem beginWave_net (s : State) (r : Nat) (dead : BitVec 17) : (beginWave s r dead).net = s.net := rfl
@[simp] theorem beginWave_light (s : State) (r : Nat) (dead : BitVec 17) : (beginWave s r dead).light = s.light := rfl
@[simp] theorem beginWave_os (s : State) (r : Nat) (dead : BitVec 17) : (beginWave s r dead).os = s.os := rfl
@[simp] theorem beginWave_boot (s : State) (r : Nat) (dead : BitVec 17) : (beginWave s r dead).boot = s.boot := rfl
@[simp] theorem beginWave_trust (s : State) (r : Nat) (dead : BitVec 17) : (beginWave s r dead).trust = s.trust := rfl

@[simp] theorem recordCheck_env (s : State) (p : Nat) (v : Word) : (recordCheck s p v).env = s.env := rfl
@[simp] theorem recordCheck_mem (s : State) (p : Nat) (v : Word) : (recordCheck s p v).mem = s.mem := rfl
@[simp] theorem recordCheck_net (s : State) (p : Nat) (v : Word) : (recordCheck s p v).net = s.net := rfl
@[simp] theorem recordCheck_light (s : State) (p : Nat) (v : Word) : (recordCheck s p v).light = s.light := rfl
@[simp] theorem recordCheck_os (s : State) (p : Nat) (v : Word) : (recordCheck s p v).os = s.os := rfl
@[simp] theorem recordCheck_rel (s : State) (p : Nat) (v : Word) : (recordCheck s p v).rel = s.rel := rfl
@[simp] theorem recordCheck_boot (s : State) (p : Nat) (v : Word) : (recordCheck s p v).boot = s.boot := rfl
@[simp] theorem recordCheck_trust (s : State) (p : Nat) (v : Word) : (recordCheck s p v).trust = s.trust := rfl

@[simp] theorem sendBlock_env (s : State) (g : Nat) (b : Block) : (sendBlock s g b).env = s.env := rfl
@[simp] theorem sendBlock_mem (s : State) (g : Nat) (b : Block) : (sendBlock s g b).mem = s.mem := rfl
@[simp] theorem sendBlock_agents (s : State) (g : Nat) (b : Block) : (sendBlock s g b).agents = s.agents := rfl
@[simp] theorem sendBlock_net (s : State) (g : Nat) (b : Block) : (sendBlock s g b).net = s.net := rfl
@[simp] theorem sendBlock_os (s : State) (g : Nat) (b : Block) : (sendBlock s g b).os = s.os := rfl
@[simp] theorem sendBlock_rel (s : State) (g : Nat) (b : Block) : (sendBlock s g b).rel = s.rel := rfl
@[simp] theorem sendBlock_boot (s : State) (g : Nat) (b : Block) : (sendBlock s g b).boot = s.boot := rfl
@[simp] theorem sendBlock_trust (s : State) (g : Nat) (b : Block) : (sendBlock s g b).trust = s.trust := rfl

@[simp] theorem setMem_mem (s : State) (m : Memory) : (setMem s m).mem = m := rfl
@[simp] theorem setAgent_agents (s : State) (a : Nat) (x : Agent) : (setAgent s a x).agents = mput s.agents a x := rfl
@[simp] theorem modCtx_ctxs (s : State) (c : Nat) (f : Ctx → Ctx) : (modCtx s c f).os.ctxs = mmod ctx0 s.os.ctxs c f := rfl

@[simp] theorem addWalk_env (w : Walk) (s : State) : (addWalk w s).env = s.env := by by_cases h : missRoom s w <;> simp [addWalk, h]
@[simp] theorem addWalk_mem (w : Walk) (s : State) : (addWalk w s).mem = s.mem := by by_cases h : missRoom s w <;> simp [addWalk, h]
@[simp] theorem addWalk_agents (w : Walk) (s : State) : (addWalk w s).agents = s.agents := by by_cases h : missRoom s w <;> simp [addWalk, h]
@[simp] theorem addWalk_light (w : Walk) (s : State) : (addWalk w s).light = s.light := by by_cases h : missRoom s w <;> simp [addWalk, h]
@[simp] theorem addWalk_os (w : Walk) (s : State) : (addWalk w s).os = s.os := by by_cases h : missRoom s w <;> simp [addWalk, h]
@[simp] theorem addWalk_rel (w : Walk) (s : State) : (addWalk w s).rel = s.rel := by by_cases h : missRoom s w <;> simp [addWalk, h]
@[simp] theorem addWalk_boot (w : Walk) (s : State) : (addWalk w s).boot = s.boot := by by_cases h : missRoom s w <;> simp [addWalk, h]
@[simp] theorem addWalk_trust (w : Walk) (s : State) : (addWalk w s).trust = s.trust := by by_cases h : missRoom s w <;> simp [addWalk, h]

/-! ### Accessors -/

@[simp] theorem setMem_agentAt (s : State) (m : Memory) (x : Nat) : agentAt (setMem s m) x = agentAt s x := rfl
@[simp] theorem setMem_strandAt (s : State) (m : Memory) (x y : Nat) : strandAt (setMem s m) x y = strandAt s x y := rfl
@[simp] theorem setMem_cur (s : State) (m : Memory) : cur (setMem s m) = cur s := rfl
@[simp] theorem setMem_curAgent (s : State) (m : Memory) : curAgent (setMem s m) = curAgent s := rfl
@[simp] theorem setMem_ctxAt (s : State) (m : Memory) (x : Nat) : ctxAt (setMem s m) x = ctxAt s x := rfl
@[simp] theorem setMem_taskAt (s : State) (m : Memory) (x : Nat) : taskAt (setMem s m) x = taskAt s x := rfl
@[simp] theorem setMem_groupAt (s : State) (m : Memory) (x : Nat) : groupAt (setMem s m) x = groupAt s x := rfl
@[simp] theorem setMem_treeAt (s : State) (m : Memory) (x y : Nat) : treeAt (setMem s m) x y = treeAt s x y := rfl
@[simp] theorem setMem_queueAt (s : State) (m : Memory) (x y : Nat) : queueAt (setMem s m) x y = queueAt s x y := rfl
@[simp] theorem setMem_performedAt (s : State) (m : Memory) (scope : Nat) : performedAt (setMem s m) scope = performedAt s scope := rfl
@[simp] theorem setMem_sbarDone (s : State) (m : Memory) : sbarDone (setMem s m) = sbarDone s := rfl
@[simp] theorem setMem_physOfName (s : State) (m : Memory) (x : Nat) : physOfName (setMem s m) x = physOfName s x := rfl
@[simp] theorem setMem_liveTag (s : State) (m : Memory) (x : Nat) : liveTag (setMem s m) x = liveTag s x := rfl
@[simp] theorem setAgent_ctxAt (s : State) (a : Nat) (x : Agent) (u : Nat) : ctxAt (setAgent s a x) u = ctxAt s u := rfl
@[simp] theorem setAgent_taskAt (s : State) (a : Nat) (x : Agent) (u : Nat) : taskAt (setAgent s a x) u = taskAt s u := rfl
@[simp] theorem setAgent_groupAt (s : State) (a : Nat) (x : Agent) (u : Nat) : groupAt (setAgent s a x) u = groupAt s u := rfl
@[simp] theorem setAgent_treeAt (s : State) (a : Nat) (x : Agent) (u v : Nat) : treeAt (setAgent s a x) u v = treeAt s u v := rfl
@[simp] theorem setAgent_queueAt (s : State) (a : Nat) (x : Agent) (u v : Nat) : queueAt (setAgent s a x) u v = queueAt s u v := rfl
@[simp] theorem setAgent_performedAt (s : State) (a : Nat) (x : Agent) (scope : Nat) : performedAt (setAgent s a x) scope = performedAt s scope := rfl
@[simp] theorem setAgent_liveTag (s : State) (a : Nat) (x : Agent) (u : Nat) : liveTag (setAgent s a x) u = liveTag s u := rfl
@[simp] theorem modAgent_ctxAt (s : State) (a : Nat) (f : Agent → Agent) (x : Nat) : ctxAt (modAgent s a f) x = ctxAt s x := rfl
@[simp] theorem modAgent_taskAt (s : State) (a : Nat) (f : Agent → Agent) (x : Nat) : taskAt (modAgent s a f) x = taskAt s x := rfl
@[simp] theorem modAgent_groupAt (s : State) (a : Nat) (f : Agent → Agent) (x : Nat) : groupAt (modAgent s a f) x = groupAt s x := rfl
@[simp] theorem modAgent_treeAt (s : State) (a : Nat) (f : Agent → Agent) (x y : Nat) : treeAt (modAgent s a f) x y = treeAt s x y := rfl
@[simp] theorem modAgent_queueAt (s : State) (a : Nat) (f : Agent → Agent) (x y : Nat) : queueAt (modAgent s a f) x y = queueAt s x y := rfl
@[simp] theorem modAgent_performedAt (s : State) (a : Nat) (f : Agent → Agent) (scope : Nat) : performedAt (modAgent s a f) scope = performedAt s scope := rfl
@[simp] theorem modAgent_liveTag (s : State) (a : Nat) (f : Agent → Agent) (x : Nat) : liveTag (modAgent s a f) x = liveTag s x := rfl
@[simp] theorem setStrand_ctxAt (s : State) (a k : Nat) (t : Strand) (x : Nat) : ctxAt (setStrand s a k t) x = ctxAt s x := rfl
@[simp] theorem setStrand_taskAt (s : State) (a k : Nat) (t : Strand) (x : Nat) : taskAt (setStrand s a k t) x = taskAt s x := rfl
@[simp] theorem setStrand_groupAt (s : State) (a k : Nat) (t : Strand) (x : Nat) : groupAt (setStrand s a k t) x = groupAt s x := rfl
@[simp] theorem setStrand_treeAt (s : State) (a k : Nat) (t : Strand) (x y : Nat) : treeAt (setStrand s a k t) x y = treeAt s x y := rfl
@[simp] theorem setStrand_queueAt (s : State) (a k : Nat) (t : Strand) (x y : Nat) : queueAt (setStrand s a k t) x y = queueAt s x y := rfl
@[simp] theorem setStrand_performedAt (s : State) (a k : Nat) (t : Strand) (scope : Nat) : performedAt (setStrand s a k t) scope = performedAt s scope := rfl
@[simp] theorem setStrand_liveTag (s : State) (a k : Nat) (t : Strand) (x : Nat) : liveTag (setStrand s a k t) x = liveTag s x := rfl
@[simp] theorem modStrand_ctxAt (s : State) (a k : Nat) (f : Strand → Strand) (x : Nat) : ctxAt (modStrand s a k f) x = ctxAt s x := rfl
@[simp] theorem modStrand_taskAt (s : State) (a k : Nat) (f : Strand → Strand) (x : Nat) : taskAt (modStrand s a k f) x = taskAt s x := rfl
@[simp] theorem modStrand_groupAt (s : State) (a k : Nat) (f : Strand → Strand) (x : Nat) : groupAt (modStrand s a k f) x = groupAt s x := rfl
@[simp] theorem modStrand_treeAt (s : State) (a k : Nat) (f : Strand → Strand) (x y : Nat) : treeAt (modStrand s a k f) x y = treeAt s x y := rfl
@[simp] theorem modStrand_queueAt (s : State) (a k : Nat) (f : Strand → Strand) (x y : Nat) : queueAt (modStrand s a k f) x y = queueAt s x y := rfl
@[simp] theorem modStrand_performedAt (s : State) (a k : Nat) (f : Strand → Strand) (scope : Nat) : performedAt (modStrand s a k f) scope = performedAt s scope := rfl
@[simp] theorem modStrand_liveTag (s : State) (a k : Nat) (f : Strand → Strand) (x : Nat) : liveTag (modStrand s a k f) x = liveTag s x := rfl
@[simp] theorem modCur_ctxAt (s : State) (f : Strand → Strand) (x : Nat) : ctxAt (modCur s f) x = ctxAt s x := rfl
@[simp] theorem modCur_taskAt (s : State) (f : Strand → Strand) (x : Nat) : taskAt (modCur s f) x = taskAt s x := rfl
@[simp] theorem modCur_groupAt (s : State) (f : Strand → Strand) (x : Nat) : groupAt (modCur s f) x = groupAt s x := rfl
@[simp] theorem modCur_treeAt (s : State) (f : Strand → Strand) (x y : Nat) : treeAt (modCur s f) x y = treeAt s x y := rfl
@[simp] theorem modCur_queueAt (s : State) (f : Strand → Strand) (x y : Nat) : queueAt (modCur s f) x y = queueAt s x y := rfl
@[simp] theorem modCur_performedAt (s : State) (f : Strand → Strand) (scope : Nat) : performedAt (modCur s f) scope = performedAt s scope := rfl
@[simp] theorem modCur_liveTag (s : State) (f : Strand → Strand) (x : Nat) : liveTag (modCur s f) x = liveTag s x := rfl
@[simp] theorem modCurAgent_ctxAt (s : State) (f : Agent → Agent) (x : Nat) : ctxAt (modCurAgent s f) x = ctxAt s x := rfl
@[simp] theorem modCurAgent_taskAt (s : State) (f : Agent → Agent) (x : Nat) : taskAt (modCurAgent s f) x = taskAt s x := rfl
@[simp] theorem modCurAgent_groupAt (s : State) (f : Agent → Agent) (x : Nat) : groupAt (modCurAgent s f) x = groupAt s x := rfl
@[simp] theorem modCurAgent_treeAt (s : State) (f : Agent → Agent) (x y : Nat) : treeAt (modCurAgent s f) x y = treeAt s x y := rfl
@[simp] theorem modCurAgent_queueAt (s : State) (f : Agent → Agent) (x y : Nat) : queueAt (modCurAgent s f) x y = queueAt s x y := rfl
@[simp] theorem modCurAgent_performedAt (s : State) (f : Agent → Agent) (scope : Nat) : performedAt (modCurAgent s f) scope = performedAt s scope := rfl
@[simp] theorem modCurAgent_liveTag (s : State) (f : Agent → Agent) (x : Nat) : liveTag (modCurAgent s f) x = liveTag s x := rfl
@[simp] theorem setReg_ctxAt (s : State) (a k f : Nat) (v : Word) (x : Nat) : ctxAt (setReg s a k f v) x = ctxAt s x := rfl
@[simp] theorem setReg_taskAt (s : State) (a k f : Nat) (v : Word) (x : Nat) : taskAt (setReg s a k f v) x = taskAt s x := rfl
@[simp] theorem setReg_groupAt (s : State) (a k f : Nat) (v : Word) (x : Nat) : groupAt (setReg s a k f v) x = groupAt s x := rfl
@[simp] theorem setReg_treeAt (s : State) (a k f : Nat) (v : Word) (x y : Nat) : treeAt (setReg s a k f v) x y = treeAt s x y := rfl
@[simp] theorem setReg_queueAt (s : State) (a k f : Nat) (v : Word) (x y : Nat) : queueAt (setReg s a k f v) x y = queueAt s x y := rfl
@[simp] theorem setReg_performedAt (s : State) (a k f : Nat) (v : Word) (scope : Nat) : performedAt (setReg s a k f v) scope = performedAt s scope := rfl
@[simp] theorem setReg_liveTag (s : State) (a k f : Nat) (v : Word) (x : Nat) : liveTag (setReg s a k f v) x = liveTag s x := rfl
@[simp] theorem setCurReg_ctxAt (s : State) (f : Nat) (v : Word) (x : Nat) : ctxAt (setCurReg s f v) x = ctxAt s x := rfl
@[simp] theorem setCurReg_taskAt (s : State) (f : Nat) (v : Word) (x : Nat) : taskAt (setCurReg s f v) x = taskAt s x := rfl
@[simp] theorem setCurReg_groupAt (s : State) (f : Nat) (v : Word) (x : Nat) : groupAt (setCurReg s f v) x = groupAt s x := rfl
@[simp] theorem setCurReg_treeAt (s : State) (f : Nat) (v : Word) (x y : Nat) : treeAt (setCurReg s f v) x y = treeAt s x y := rfl
@[simp] theorem setCurReg_queueAt (s : State) (f : Nat) (v : Word) (x y : Nat) : queueAt (setCurReg s f v) x y = queueAt s x y := rfl
@[simp] theorem setCurReg_performedAt (s : State) (f : Nat) (v : Word) (scope : Nat) : performedAt (setCurReg s f v) scope = performedAt s scope := rfl
@[simp] theorem setCurReg_liveTag (s : State) (f : Nat) (v : Word) (x : Nat) : liveTag (setCurReg s f v) x = liveTag s x := rfl
@[simp] theorem modCtx_agentAt (s : State) (c : Nat) (f : Ctx → Ctx) (x : Nat) : agentAt (modCtx s c f) x = agentAt s x := rfl
@[simp] theorem modCtx_strandAt (s : State) (c : Nat) (f : Ctx → Ctx) (x y : Nat) : strandAt (modCtx s c f) x y = strandAt s x y := rfl
@[simp] theorem modCtx_cur (s : State) (c : Nat) (f : Ctx → Ctx) : cur (modCtx s c f) = cur s := rfl
@[simp] theorem modCtx_curAgent (s : State) (c : Nat) (f : Ctx → Ctx) : curAgent (modCtx s c f) = curAgent s := rfl
@[simp] theorem modCtx_taskAt (s : State) (c : Nat) (f : Ctx → Ctx) (x : Nat) : taskAt (modCtx s c f) x = taskAt s x := rfl
@[simp] theorem modCtx_groupAt (s : State) (c : Nat) (f : Ctx → Ctx) (x : Nat) : groupAt (modCtx s c f) x = groupAt s x := rfl
@[simp] theorem modCtx_treeAt (s : State) (c : Nat) (f : Ctx → Ctx) (x y : Nat) : treeAt (modCtx s c f) x y = treeAt s x y := rfl
@[simp] theorem modCtx_queueAt (s : State) (c : Nat) (f : Ctx → Ctx) (x y : Nat) : queueAt (modCtx s c f) x y = queueAt s x y := rfl
@[simp] theorem modCtx_performedAt (s : State) (c : Nat) (f : Ctx → Ctx) (scope : Nat) : performedAt (modCtx s c f) scope = performedAt s scope := rfl
@[simp] theorem modCtx_sbarDone (s : State) (c : Nat) (f : Ctx → Ctx) : sbarDone (modCtx s c f) = sbarDone s := rfl
@[simp] theorem modCtx_physOfName (s : State) (c : Nat) (f : Ctx → Ctx) (x : Nat) : physOfName (modCtx s c f) x = physOfName s x := rfl
@[simp] theorem modTask_agentAt (s : State) (i : Nat) (f : Task → Task) (x : Nat) : agentAt (modTask s i f) x = agentAt s x := rfl
@[simp] theorem modTask_strandAt (s : State) (i : Nat) (f : Task → Task) (x y : Nat) : strandAt (modTask s i f) x y = strandAt s x y := rfl
@[simp] theorem modTask_cur (s : State) (i : Nat) (f : Task → Task) : cur (modTask s i f) = cur s := rfl
@[simp] theorem modTask_curAgent (s : State) (i : Nat) (f : Task → Task) : curAgent (modTask s i f) = curAgent s := rfl
@[simp] theorem modTask_ctxAt (s : State) (i : Nat) (f : Task → Task) (x : Nat) : ctxAt (modTask s i f) x = ctxAt s x := rfl
@[simp] theorem modTask_groupAt (s : State) (i : Nat) (f : Task → Task) (x : Nat) : groupAt (modTask s i f) x = groupAt s x := rfl
@[simp] theorem modTask_treeAt (s : State) (i : Nat) (f : Task → Task) (x y : Nat) : treeAt (modTask s i f) x y = treeAt s x y := rfl
@[simp] theorem modTask_queueAt (s : State) (i : Nat) (f : Task → Task) (x y : Nat) : queueAt (modTask s i f) x y = queueAt s x y := rfl
@[simp] theorem modTask_performedAt (s : State) (i : Nat) (f : Task → Task) (scope : Nat) : performedAt (modTask s i f) scope = performedAt s scope := rfl
@[simp] theorem modTask_sbarDone (s : State) (i : Nat) (f : Task → Task) : sbarDone (modTask s i f) = sbarDone s := rfl
@[simp] theorem modTask_physOfName (s : State) (i : Nat) (f : Task → Task) (x : Nat) : physOfName (modTask s i f) x = physOfName s x := rfl
@[simp] theorem modTask_liveTag (s : State) (i : Nat) (f : Task → Task) (x : Nat) : liveTag (modTask s i f) x = liveTag s x := rfl
@[simp] theorem postCore_agentAt (s : State) (c : Nat) (r : Rec) (x : Nat) : agentAt (postCore s c r) x = agentAt s x := rfl
@[simp] theorem postCore_strandAt (s : State) (c : Nat) (r : Rec) (x y : Nat) : strandAt (postCore s c r) x y = strandAt s x y := rfl
@[simp] theorem postCore_cur (s : State) (c : Nat) (r : Rec) : cur (postCore s c r) = cur s := rfl
@[simp] theorem postCore_curAgent (s : State) (c : Nat) (r : Rec) : curAgent (postCore s c r) = curAgent s := rfl
@[simp] theorem postCore_ctxAt (s : State) (c : Nat) (r : Rec) (x : Nat) : ctxAt (postCore s c r) x = ctxAt s x := rfl
@[simp] theorem postCore_taskAt (s : State) (c : Nat) (r : Rec) (x : Nat) : taskAt (postCore s c r) x = taskAt s x := rfl
@[simp] theorem postCore_groupAt (s : State) (c : Nat) (r : Rec) (x : Nat) : groupAt (postCore s c r) x = groupAt s x := rfl
@[simp] theorem postCore_treeAt (s : State) (c : Nat) (r : Rec) (x y : Nat) : treeAt (postCore s c r) x y = treeAt s x y := rfl
@[simp] theorem postCore_queueAt (s : State) (c : Nat) (r : Rec) (x y : Nat) : queueAt (postCore s c r) x y = queueAt s x y := rfl
@[simp] theorem postCore_performedAt (s : State) (c : Nat) (r : Rec) (scope : Nat) : performedAt (postCore s c r) scope = performedAt s scope := rfl
@[simp] theorem postCore_sbarDone (s : State) (c : Nat) (r : Rec) : sbarDone (postCore s c r) = sbarDone s := rfl
@[simp] theorem postCore_physOfName (s : State) (c : Nat) (r : Rec) (x : Nat) : physOfName (postCore s c r) x = physOfName s x := rfl
@[simp] theorem postCore_liveTag (s : State) (c : Nat) (r : Rec) (x : Nat) : liveTag (postCore s c r) x = liveTag s x := rfl
@[simp] theorem sendReq_ctxAt (accs : List Access) (wants : Bool) (s : State) (x : Nat) : ctxAt (sendReq accs wants s) x = ctxAt s x := rfl
@[simp] theorem sendReq_taskAt (accs : List Access) (wants : Bool) (s : State) (x : Nat) : taskAt (sendReq accs wants s) x = taskAt s x := rfl
@[simp] theorem sendReq_groupAt (accs : List Access) (wants : Bool) (s : State) (x : Nat) : groupAt (sendReq accs wants s) x = groupAt s x := rfl
@[simp] theorem sendReq_treeAt (accs : List Access) (wants : Bool) (s : State) (x y : Nat) : treeAt (sendReq accs wants s) x y = treeAt s x y := rfl
@[simp] theorem sendReq_queueAt (accs : List Access) (wants : Bool) (s : State) (x y : Nat) : queueAt (sendReq accs wants s) x y = queueAt s x y := rfl
@[simp] theorem sendReq_liveTag (accs : List Access) (wants : Bool) (s : State) (x : Nat) : liveTag (sendReq accs wants s) x = liveTag s x := rfl
@[simp] theorem modGroup_agentAt (s : State) (g : Nat) (f : Group → Group) (x : Nat) : agentAt (modGroup s g f) x = agentAt s x := rfl
@[simp] theorem modGroup_strandAt (s : State) (g : Nat) (f : Group → Group) (x y : Nat) : strandAt (modGroup s g f) x y = strandAt s x y := rfl
@[simp] theorem modGroup_cur (s : State) (g : Nat) (f : Group → Group) : cur (modGroup s g f) = cur s := rfl
@[simp] theorem modGroup_curAgent (s : State) (g : Nat) (f : Group → Group) : curAgent (modGroup s g f) = curAgent s := rfl
@[simp] theorem modGroup_ctxAt (s : State) (g : Nat) (f : Group → Group) (x : Nat) : ctxAt (modGroup s g f) x = ctxAt s x := rfl
@[simp] theorem modGroup_taskAt (s : State) (g : Nat) (f : Group → Group) (x : Nat) : taskAt (modGroup s g f) x = taskAt s x := rfl
@[simp] theorem modGroup_treeAt (s : State) (g : Nat) (f : Group → Group) (x y : Nat) : treeAt (modGroup s g f) x y = treeAt s x y := rfl
@[simp] theorem modGroup_queueAt (s : State) (g : Nat) (f : Group → Group) (x y : Nat) : queueAt (modGroup s g f) x y = queueAt s x y := rfl
@[simp] theorem modGroup_performedAt (s : State) (g : Nat) (f : Group → Group) (scope : Nat) : performedAt (modGroup s g f) scope = performedAt s scope := rfl
@[simp] theorem modGroup_sbarDone (s : State) (g : Nat) (f : Group → Group) : sbarDone (modGroup s g f) = sbarDone s := rfl
@[simp] theorem modGroup_physOfName (s : State) (g : Nat) (f : Group → Group) (x : Nat) : physOfName (modGroup s g f) x = physOfName s x := rfl
@[simp] theorem modGroup_liveTag (s : State) (g : Nat) (f : Group → Group) (x : Nat) : liveTag (modGroup s g f) x = liveTag s x := rfl
@[simp] theorem putRdu_agentAt (s : State) (c : RduCall) (x : Nat) : agentAt (putRdu s c) x = agentAt s x := rfl
@[simp] theorem putRdu_strandAt (s : State) (c : RduCall) (x y : Nat) : strandAt (putRdu s c) x y = strandAt s x y := rfl
@[simp] theorem putRdu_cur (s : State) (c : RduCall) : cur (putRdu s c) = cur s := rfl
@[simp] theorem putRdu_curAgent (s : State) (c : RduCall) : curAgent (putRdu s c) = curAgent s := rfl
@[simp] theorem putRdu_ctxAt (s : State) (c : RduCall) (x : Nat) : ctxAt (putRdu s c) x = ctxAt s x := rfl
@[simp] theorem putRdu_taskAt (s : State) (c : RduCall) (x : Nat) : taskAt (putRdu s c) x = taskAt s x := rfl
@[simp] theorem putRdu_groupAt (s : State) (c : RduCall) (x : Nat) : groupAt (putRdu s c) x = groupAt s x := rfl
@[simp] theorem putRdu_treeAt (s : State) (c : RduCall) (x y : Nat) : treeAt (putRdu s c) x y = treeAt s x y := rfl
@[simp] theorem putRdu_queueAt (s : State) (c : RduCall) (x y : Nat) : queueAt (putRdu s c) x y = queueAt s x y := rfl
@[simp] theorem putRdu_performedAt (s : State) (c : RduCall) (scope : Nat) : performedAt (putRdu s c) scope = performedAt s scope := rfl
@[simp] theorem putRdu_sbarDone (s : State) (c : RduCall) : sbarDone (putRdu s c) = sbarDone s := rfl
@[simp] theorem putRdu_physOfName (s : State) (c : RduCall) (x : Nat) : physOfName (putRdu s c) x = physOfName s x := rfl
@[simp] theorem putRdu_liveTag (s : State) (c : RduCall) (x : Nat) : liveTag (putRdu s c) x = liveTag s x := rfl
@[simp] theorem putTree_agentAt (s : State) (t : Nat) (rs : List TreeRec) (x : Nat) : agentAt (putTree s t rs) x = agentAt s x := rfl
@[simp] theorem putTree_strandAt (s : State) (t : Nat) (rs : List TreeRec) (x y : Nat) : strandAt (putTree s t rs) x y = strandAt s x y := rfl
@[simp] theorem putTree_cur (s : State) (t : Nat) (rs : List TreeRec) : cur (putTree s t rs) = cur s := rfl
@[simp] theorem putTree_curAgent (s : State) (t : Nat) (rs : List TreeRec) : curAgent (putTree s t rs) = curAgent s := rfl
@[simp] theorem putTree_ctxAt (s : State) (t : Nat) (rs : List TreeRec) (x : Nat) : ctxAt (putTree s t rs) x = ctxAt s x := rfl
@[simp] theorem putTree_taskAt (s : State) (t : Nat) (rs : List TreeRec) (x : Nat) : taskAt (putTree s t rs) x = taskAt s x := rfl
@[simp] theorem putTree_groupAt (s : State) (t : Nat) (rs : List TreeRec) (x : Nat) : groupAt (putTree s t rs) x = groupAt s x := rfl
@[simp] theorem putTree_queueAt (s : State) (t : Nat) (rs : List TreeRec) (x y : Nat) : queueAt (putTree s t rs) x y = queueAt s x y := rfl
@[simp] theorem putTree_performedAt (s : State) (t : Nat) (rs : List TreeRec) (scope : Nat) : performedAt (putTree s t rs) scope = performedAt s scope := rfl
@[simp] theorem putTree_sbarDone (s : State) (t : Nat) (rs : List TreeRec) : sbarDone (putTree s t rs) = sbarDone s := rfl
@[simp] theorem putTree_physOfName (s : State) (t : Nat) (rs : List TreeRec) (x : Nat) : physOfName (putTree s t rs) x = physOfName s x := rfl
@[simp] theorem putTree_liveTag (s : State) (t : Nat) (rs : List TreeRec) (x : Nat) : liveTag (putTree s t rs) x = liveTag s x := rfl
@[simp] theorem modRow_agentAt (s : State) (r : Nat) (f : Row → Row) (x : Nat) : agentAt (modRow s r f) x = agentAt s x := rfl
@[simp] theorem modRow_strandAt (s : State) (r : Nat) (f : Row → Row) (x y : Nat) : strandAt (modRow s r f) x y = strandAt s x y := rfl
@[simp] theorem modRow_cur (s : State) (r : Nat) (f : Row → Row) : cur (modRow s r f) = cur s := rfl
@[simp] theorem modRow_curAgent (s : State) (r : Nat) (f : Row → Row) : curAgent (modRow s r f) = curAgent s := rfl
@[simp] theorem modRow_ctxAt (s : State) (r : Nat) (f : Row → Row) (x : Nat) : ctxAt (modRow s r f) x = ctxAt s x := rfl
@[simp] theorem modRow_taskAt (s : State) (r : Nat) (f : Row → Row) (x : Nat) : taskAt (modRow s r f) x = taskAt s x := rfl
@[simp] theorem modRow_groupAt (s : State) (r : Nat) (f : Row → Row) (x : Nat) : groupAt (modRow s r f) x = groupAt s x := rfl
@[simp] theorem modRow_treeAt (s : State) (r : Nat) (f : Row → Row) (x y : Nat) : treeAt (modRow s r f) x y = treeAt s x y := rfl
@[simp] theorem modRow_queueAt (s : State) (r : Nat) (f : Row → Row) (x y : Nat) : queueAt (modRow s r f) x y = queueAt s x y := rfl
@[simp] theorem modRow_performedAt (s : State) (r : Nat) (f : Row → Row) (scope : Nat) : performedAt (modRow s r f) scope = performedAt s scope := rfl
@[simp] theorem modRow_sbarDone (s : State) (r : Nat) (f : Row → Row) : sbarDone (modRow s r f) = sbarDone s := rfl
@[simp] theorem modRow_physOfName (s : State) (r : Nat) (f : Row → Row) (x : Nat) : physOfName (modRow s r f) x = physOfName s x := rfl
@[simp] theorem modRow_liveTag (s : State) (r : Nat) (f : Row → Row) (x : Nat) : liveTag (modRow s r f) x = liveTag s x := rfl
@[simp] theorem modBoot_agentAt (s : State) (f : Boot → Boot) (x : Nat) : agentAt (modBoot s f) x = agentAt s x := rfl
@[simp] theorem modBoot_strandAt (s : State) (f : Boot → Boot) (x y : Nat) : strandAt (modBoot s f) x y = strandAt s x y := rfl
@[simp] theorem modBoot_cur (s : State) (f : Boot → Boot) : cur (modBoot s f) = cur s := rfl
@[simp] theorem modBoot_curAgent (s : State) (f : Boot → Boot) : curAgent (modBoot s f) = curAgent s := rfl
@[simp] theorem modBoot_ctxAt (s : State) (f : Boot → Boot) (x : Nat) : ctxAt (modBoot s f) x = ctxAt s x := rfl
@[simp] theorem modBoot_taskAt (s : State) (f : Boot → Boot) (x : Nat) : taskAt (modBoot s f) x = taskAt s x := rfl
@[simp] theorem modBoot_groupAt (s : State) (f : Boot → Boot) (x : Nat) : groupAt (modBoot s f) x = groupAt s x := rfl
@[simp] theorem modBoot_treeAt (s : State) (f : Boot → Boot) (x y : Nat) : treeAt (modBoot s f) x y = treeAt s x y := rfl
@[simp] theorem modBoot_queueAt (s : State) (f : Boot → Boot) (x y : Nat) : queueAt (modBoot s f) x y = queueAt s x y := rfl
@[simp] theorem modBoot_performedAt (s : State) (f : Boot → Boot) (scope : Nat) : performedAt (modBoot s f) scope = performedAt s scope := rfl
@[simp] theorem modBoot_sbarDone (s : State) (f : Boot → Boot) : sbarDone (modBoot s f) = sbarDone s := rfl
@[simp] theorem modBoot_physOfName (s : State) (f : Boot → Boot) (x : Nat) : physOfName (modBoot s f) x = physOfName s x := rfl
@[simp] theorem modBoot_liveTag (s : State) (f : Boot → Boot) (x : Nat) : liveTag (modBoot s f) x = liveTag s x := rfl
@[simp] theorem tick_agentAt (s : State) (x : Nat) : agentAt (tick s) x = agentAt s x := rfl
@[simp] theorem tick_strandAt (s : State) (x y : Nat) : strandAt (tick s) x y = strandAt s x y := rfl
@[simp] theorem tick_cur (s : State) : cur (tick s) = cur s := rfl
@[simp] theorem tick_curAgent (s : State) : curAgent (tick s) = curAgent s := rfl
@[simp] theorem tick_ctxAt (s : State) (x : Nat) : ctxAt (tick s) x = ctxAt s x := rfl
@[simp] theorem tick_taskAt (s : State) (x : Nat) : taskAt (tick s) x = taskAt s x := rfl
@[simp] theorem tick_groupAt (s : State) (x : Nat) : groupAt (tick s) x = groupAt s x := rfl
@[simp] theorem tick_treeAt (s : State) (x y : Nat) : treeAt (tick s) x y = treeAt s x y := rfl
@[simp] theorem tick_queueAt (s : State) (x y : Nat) : queueAt (tick s) x y = queueAt s x y := rfl
@[simp] theorem tick_performedAt (s : State) (scope : Nat) : performedAt (tick s) scope = performedAt s scope := rfl
@[simp] theorem tick_sbarDone (s : State) : sbarDone (tick s) = sbarDone s := rfl
@[simp] theorem tick_physOfName (s : State) (x : Nat) : physOfName (tick s) x = physOfName s x := rfl
@[simp] theorem tick_liveTag (s : State) (x : Nat) : liveTag (tick s) x = liveTag s x := rfl
@[simp] theorem beginWait_ctxAt (s : State) (c : WaitCause) (x : Nat) : ctxAt (beginWait s c) x = ctxAt s x := rfl
@[simp] theorem beginWait_taskAt (s : State) (c : WaitCause) (x : Nat) : taskAt (beginWait s c) x = taskAt s x := rfl
@[simp] theorem beginWait_groupAt (s : State) (c : WaitCause) (x : Nat) : groupAt (beginWait s c) x = groupAt s x := rfl
@[simp] theorem beginWait_treeAt (s : State) (c : WaitCause) (x y : Nat) : treeAt (beginWait s c) x y = treeAt s x y := rfl
@[simp] theorem beginWait_queueAt (s : State) (c : WaitCause) (x y : Nat) : queueAt (beginWait s c) x y = queueAt s x y := rfl
@[simp] theorem beginWait_performedAt (s : State) (c : WaitCause) (scope : Nat) : performedAt (beginWait s c) scope = performedAt s scope := rfl
@[simp] theorem beginWait_liveTag (s : State) (c : WaitCause) (x : Nat) : liveTag (beginWait s c) x = liveTag s x := rfl
@[simp] theorem noteIssue_ctxAt (s : State) (a k : Nat) (x : Nat) : ctxAt (noteIssue s a k) x = ctxAt s x := rfl
@[simp] theorem noteIssue_taskAt (s : State) (a k : Nat) (x : Nat) : taskAt (noteIssue s a k) x = taskAt s x := rfl
@[simp] theorem noteIssue_groupAt (s : State) (a k : Nat) (x : Nat) : groupAt (noteIssue s a k) x = groupAt s x := rfl
@[simp] theorem noteIssue_treeAt (s : State) (a k : Nat) (x y : Nat) : treeAt (noteIssue s a k) x y = treeAt s x y := rfl
@[simp] theorem noteIssue_queueAt (s : State) (a k : Nat) (x y : Nat) : queueAt (noteIssue s a k) x y = queueAt s x y := rfl
@[simp] theorem noteIssue_performedAt (s : State) (a k : Nat) (scope : Nat) : performedAt (noteIssue s a k) scope = performedAt s scope := rfl
@[simp] theorem noteIssue_liveTag (s : State) (a k : Nat) (x : Nat) : liveTag (noteIssue s a k) x = liveTag s x := rfl
@[simp] theorem addWalk_agentAt (w : Walk) (s : State) (x : Nat) : agentAt (addWalk w s) x = agentAt s x := by by_cases h : missRoom s w <;> simp [addWalk, h] <;> rfl
@[simp] theorem addWalk_strandAt (w : Walk) (s : State) (x y : Nat) : strandAt (addWalk w s) x y = strandAt s x y := by by_cases h : missRoom s w <;> simp [addWalk, h] <;> rfl
@[simp] theorem addWalk_cur (w : Walk) (s : State) : cur (addWalk w s) = cur s := by by_cases h : missRoom s w <;> simp [addWalk, h] <;> rfl
@[simp] theorem addWalk_curAgent (w : Walk) (s : State) : curAgent (addWalk w s) = curAgent s := by by_cases h : missRoom s w <;> simp [addWalk, h] <;> rfl
@[simp] theorem addWalk_ctxAt (w : Walk) (s : State) (x : Nat) : ctxAt (addWalk w s) x = ctxAt s x := by by_cases h : missRoom s w <;> simp [addWalk, h] <;> rfl
@[simp] theorem addWalk_taskAt (w : Walk) (s : State) (x : Nat) : taskAt (addWalk w s) x = taskAt s x := by by_cases h : missRoom s w <;> simp [addWalk, h] <;> rfl
@[simp] theorem addWalk_groupAt (w : Walk) (s : State) (x : Nat) : groupAt (addWalk w s) x = groupAt s x := by by_cases h : missRoom s w <;> simp [addWalk, h] <;> rfl
@[simp] theorem addWalk_treeAt (w : Walk) (s : State) (x y : Nat) : treeAt (addWalk w s) x y = treeAt s x y := by by_cases h : missRoom s w <;> simp [addWalk, h] <;> rfl
@[simp] theorem addWalk_queueAt (w : Walk) (s : State) (x y : Nat) : queueAt (addWalk w s) x y = queueAt s x y := by by_cases h : missRoom s w <;> simp [addWalk, h] <;> rfl
@[simp] theorem addWalk_performedAt (w : Walk) (s : State) (scope : Nat) : performedAt (addWalk w s) scope = performedAt s scope := by by_cases h : missRoom s w <;> simp [addWalk, h] <;> rfl
@[simp] theorem addWalk_sbarDone (w : Walk) (s : State) : sbarDone (addWalk w s) = sbarDone s := by by_cases h : missRoom s w <;> simp [addWalk, h] <;> rfl
@[simp] theorem addWalk_physOfName (w : Walk) (s : State) (x : Nat) : physOfName (addWalk w s) x = physOfName s x := by by_cases h : missRoom s w <;> simp [addWalk, h] <;> rfl
@[simp] theorem addWalk_liveTag (w : Walk) (s : State) (x : Nat) : liveTag (addWalk w s) x = liveTag s x := by by_cases h : missRoom s w <;> simp [addWalk, h] <;> rfl
@[simp] theorem setQueue_agentAt (s : State) (c l : Nat) (q : Queue) (x : Nat) : agentAt (setQueue s c l q) x = agentAt s x := rfl
@[simp] theorem setQueue_strandAt (s : State) (c l : Nat) (q : Queue) (x y : Nat) : strandAt (setQueue s c l q) x y = strandAt s x y := rfl
@[simp] theorem setQueue_cur (s : State) (c l : Nat) (q : Queue) : cur (setQueue s c l q) = cur s := rfl
@[simp] theorem setQueue_curAgent (s : State) (c l : Nat) (q : Queue) : curAgent (setQueue s c l q) = curAgent s := rfl
@[simp] theorem setQueue_ctxAt (s : State) (c l : Nat) (q : Queue) (x : Nat) : ctxAt (setQueue s c l q) x = ctxAt s x := rfl
@[simp] theorem setQueue_taskAt (s : State) (c l : Nat) (q : Queue) (x : Nat) : taskAt (setQueue s c l q) x = taskAt s x := rfl
@[simp] theorem setQueue_groupAt (s : State) (c l : Nat) (q : Queue) (x : Nat) : groupAt (setQueue s c l q) x = groupAt s x := rfl
@[simp] theorem setQueue_treeAt (s : State) (c l : Nat) (q : Queue) (x y : Nat) : treeAt (setQueue s c l q) x y = treeAt s x y := rfl
@[simp] theorem setQueue_performedAt (s : State) (c l : Nat) (q : Queue) (scope : Nat) : performedAt (setQueue s c l q) scope = performedAt s scope := rfl
@[simp] theorem setQueue_sbarDone (s : State) (c l : Nat) (q : Queue) : sbarDone (setQueue s c l q) = sbarDone s := rfl
@[simp] theorem setQueue_physOfName (s : State) (c l : Nat) (q : Queue) (x : Nat) : physOfName (setQueue s c l q) x = physOfName s x := rfl
@[simp] theorem setQueue_liveTag (s : State) (c l : Nat) (q : Queue) (x : Nat) : liveTag (setQueue s c l q) x = liveTag s x := rfl
@[simp] theorem modWave_agentAt (s : State) (f : Wave → Wave) (x : Nat) : agentAt (modWave s f) x = agentAt s x := rfl
@[simp] theorem modWave_strandAt (s : State) (f : Wave → Wave) (x y : Nat) : strandAt (modWave s f) x y = strandAt s x y := rfl
@[simp] theorem modWave_cur (s : State) (f : Wave → Wave) : cur (modWave s f) = cur s := rfl
@[simp] theorem modWave_curAgent (s : State) (f : Wave → Wave) : curAgent (modWave s f) = curAgent s := rfl
@[simp] theorem modWave_ctxAt (s : State) (f : Wave → Wave) (x : Nat) : ctxAt (modWave s f) x = ctxAt s x := rfl
@[simp] theorem modWave_taskAt (s : State) (f : Wave → Wave) (x : Nat) : taskAt (modWave s f) x = taskAt s x := rfl
@[simp] theorem modWave_groupAt (s : State) (f : Wave → Wave) (x : Nat) : groupAt (modWave s f) x = groupAt s x := rfl
@[simp] theorem modWave_treeAt (s : State) (f : Wave → Wave) (x y : Nat) : treeAt (modWave s f) x y = treeAt s x y := rfl
@[simp] theorem modWave_queueAt (s : State) (f : Wave → Wave) (x y : Nat) : queueAt (modWave s f) x y = queueAt s x y := rfl
@[simp] theorem modWave_performedAt (s : State) (f : Wave → Wave) (scope : Nat) : performedAt (modWave s f) scope = performedAt s scope := rfl
@[simp] theorem modWave_sbarDone (s : State) (f : Wave → Wave) : sbarDone (modWave s f) = sbarDone s := rfl
@[simp] theorem modWave_physOfName (s : State) (f : Wave → Wave) (x : Nat) : physOfName (modWave s f) x = physOfName s x := rfl
@[simp] theorem modWave_liveTag (s : State) (f : Wave → Wave) (x : Nat) : liveTag (modWave s f) x = liveTag s x := rfl
@[simp] theorem modCkpt_agentAt (s : State) (f : Ckpt → Ckpt) (x : Nat) : agentAt (modCkpt s f) x = agentAt s x := rfl
@[simp] theorem modCkpt_strandAt (s : State) (f : Ckpt → Ckpt) (x y : Nat) : strandAt (modCkpt s f) x y = strandAt s x y := rfl
@[simp] theorem modCkpt_cur (s : State) (f : Ckpt → Ckpt) : cur (modCkpt s f) = cur s := rfl
@[simp] theorem modCkpt_curAgent (s : State) (f : Ckpt → Ckpt) : curAgent (modCkpt s f) = curAgent s := rfl
@[simp] theorem modCkpt_ctxAt (s : State) (f : Ckpt → Ckpt) (x : Nat) : ctxAt (modCkpt s f) x = ctxAt s x := rfl
@[simp] theorem modCkpt_taskAt (s : State) (f : Ckpt → Ckpt) (x : Nat) : taskAt (modCkpt s f) x = taskAt s x := rfl
@[simp] theorem modCkpt_groupAt (s : State) (f : Ckpt → Ckpt) (x : Nat) : groupAt (modCkpt s f) x = groupAt s x := rfl
@[simp] theorem modCkpt_treeAt (s : State) (f : Ckpt → Ckpt) (x y : Nat) : treeAt (modCkpt s f) x y = treeAt s x y := rfl
@[simp] theorem modCkpt_queueAt (s : State) (f : Ckpt → Ckpt) (x y : Nat) : queueAt (modCkpt s f) x y = queueAt s x y := rfl
@[simp] theorem modCkpt_performedAt (s : State) (f : Ckpt → Ckpt) (scope : Nat) : performedAt (modCkpt s f) scope = performedAt s scope := rfl
@[simp] theorem modCkpt_sbarDone (s : State) (f : Ckpt → Ckpt) : sbarDone (modCkpt s f) = sbarDone s := rfl
@[simp] theorem modCkpt_physOfName (s : State) (f : Ckpt → Ckpt) (x : Nat) : physOfName (modCkpt s f) x = physOfName s x := rfl
@[simp] theorem modCkpt_liveTag (s : State) (f : Ckpt → Ckpt) (x : Nat) : liveTag (modCkpt s f) x = liveTag s x := rfl

/-! ### What changes -/

theorem agentAt_setAgent (s : State) (a b : Nat) (x : Agent) : agentAt (setAgent s a x) b = if b = a then x else agentAt s b := mget_mput agent0 s.agents a b x

@[simp] theorem agentAt_setAgent_same (s : State) (a : Nat) (x : Agent) : agentAt (setAgent s a x) a = x := by rw [agentAt_setAgent, if_pos rfl]

theorem agentAt_modAgent (s : State) (a b : Nat) (f : Agent → Agent) : agentAt (modAgent s a f) b = if b = a then f (agentAt s a) else agentAt s b :=
  agentAt_setAgent s a b _

theorem strandAt_modAgent (s : State) (a b k : Nat) (f : Agent → Agent) :
    strandAt (modAgent s a f) b k = if b = a then strandOf (f (agentAt s a)) k else strandAt s b k := by
  unfold strandAt; rw [agentAt_modAgent]; split <;> rfl

theorem strandAt_setStrand (s : State) (a k b j : Nat) (t : Strand) : strandAt (setStrand s a k t) b j = if b = a ∧ j = k then t else strandAt s b j := by
  unfold setStrand
  rw [strandAt_modAgent]
  by_cases h : b = a
  · subst h
    rw [if_pos rfl]
    show mget strand0 (mput (agentAt s b).strands k t) j = _
    rw [mget_mput]
    by_cases hj : j = k
    · simp [hj]
    · simp only [hj, and_false, if_false]; rfl
  · simp [h]

theorem strandAt_modStrand (s : State) (a k b j : Nat) (f : Strand → Strand) :
    strandAt (modStrand s a k f) b j = if b = a ∧ j = k then f (strandAt s a k) else strandAt s b j := strandAt_setStrand s a k b j _

@[simp] theorem cur_modCur (s : State) (f : Strand → Strand) : cur (modCur s f) = f (cur s) := by
  show strandAt (modStrand s s.env.agent s.env.strand f) s.env.agent s.env.strand = _
  rw [strandAt_modStrand, if_pos ⟨rfl, rfl⟩]; rfl

@[simp] theorem curAgent_modCurAgent (s : State) (f : Agent → Agent) : curAgent (modCurAgent s f) = f (curAgent s) := by
  show agentAt (modAgent s s.env.agent f) s.env.agent = _
  rw [agentAt_modAgent, if_pos rfl]; rfl

theorem ctxAt_modCtx (s : State) (c d : Nat) (f : Ctx → Ctx) : ctxAt (modCtx s c f) d = if d = c then f (ctxAt s c) else ctxAt s d := mget_mmod ctx0 s.os.ctxs c d f

/-! ### Registers -/

@[simp] theorem strandAt_setReg (s : State) (a k f : Nat) (v : Word) (b j : Nat) : strandAt (setReg s a k f v) b j = strandAt s b j := by
  unfold setReg
  rw [strandAt_modAgent]
  split
  · rename_i h; subst h; rfl
  · rfl

@[simp] theorem cur_setCurReg (s : State) (f : Nat) (v : Word) : cur (setCurReg s f v) = cur s := strandAt_setReg s _ _ f v _ _

theorem regAt_setReg (s : State) (a k f j : Nat) (v : Word) : regAt (setReg s a k f v) a k j = if j = f then v else regAt s a k j := by
  unfold setReg regAt
  rw [agentAt_modAgent, if_pos rfl]
  show mget 0 (mput (agentAt s a).pool (poolIndex (strandOf (agentAt s a) k) f) v) (poolIndex (strandOf (agentAt s a) k) j) = _
  rw [mget_mput]
  by_cases h : j = f
  · simp [h]
  · rw [if_neg h, if_neg (by unfold poolIndex; omega)]; rfl

/-- A register read after a register is written (03 R87). -/
theorem curReg_setCurReg (s : State) (f j : Nat) (v : Word) : curReg (setCurReg s f v) j = if j = f then v else curReg s j := regAt_setReg s _ _ f j v

end Sys2Proof.Machine
end

