-- ==== Sys2Proof/Laws/Ops.lean ====
section
/-!
SUPPORT. What each shared operation can do, once: waits, acquire and release, what SBAR recorded, words with a status, posted faults, addresses and their checks,
traps and retiring, the memory that operations leave, and the step.
-/

namespace Sys2Proof.Machine

variable {α : Type}

/-! ### Waiting for a condition -/

/-- until' passes where its condition holds, and changes nothing. -/
theorem until_run (c : WaitCause) (p : State → Bool) (s : State) : until' c p s = if p s = true then .ok ((), s) else .error (.wait c id) := by
  simp only [until', getS_bind]
  split <;> rfl

theorem until_ok {c : WaitCause} {p : State → Bool} {s : State} (h : p s = true) : until' c p s = .ok ((), s) := by rw [until_run, if_pos h]
theorem until_wait {c : WaitCause} {p : State → Bool} {s : State} (h : p s = false) : until' c p s = .error (.wait c id) := by simp [until_run, h]

/-! ### What SBAR recorded (04 R126) -/

/-- The record of SBAR spent, where there is one. -/
def sbarSpent (s : State) : State :=
  if (cur s).eng.sbarCp = [] ∧ (cur s).eng.sbarMx = [] then s else modCur s (fun t => { t with eng := { t.eng with sbarCp := [], sbarMx := [] } })

/-- Nothing recorded is always done. -/
theorem sbarDone_nil {s : State} (h1 : (cur s).eng.sbarCp = []) (h2 : (cur s).eng.sbarMx = []) : sbarDone s = true := by
  simp only [sbarDone, h1, h2, List.all_nil, Bool.and_self]

theorem sbarSpent_nil {s : State} (h1 : (cur s).eng.sbarCp = []) (h2 : (cur s).eng.sbarMx = []) : sbarSpent s = s := if_pos ⟨h1, h2⟩

@[simp] theorem sbarSpent_mem (s : State) : (sbarSpent s).mem = s.mem := by unfold sbarSpent; split <;> rfl
@[simp] theorem sbarSpent_env (s : State) : (sbarSpent s).env = s.env := by unfold sbarSpent; split <;> rfl
@[simp] theorem sbarSpent_net (s : State) : (sbarSpent s).net = s.net := by unfold sbarSpent; split <;> rfl

/-- An access passes where what SBAR recorded is done, and spends the record. -/
theorem behindSbar_ok {s : State} (h : sbarDone s = true) : behindSbar s = .ok ((), sbarSpent s) := by
  simp only [behindSbar, getS_bind, h, sbarSpent]; split <;> simp

/-- Otherwise it waits for the engines. -/
theorem behindSbar_wait {s : State} (h : sbarDone s = false) : behindSbar s = .error (.wait .engine id) := by
  simp only [behindSbar, getS_bind, h]
  split
  · rename_i e; rw [sbarDone_nil e.1 e.2] at h; cases h
  · rfl

/-! ### Acquire and release (04 R125) -/

theorem acquire_run (scope : Nat) (s : State) : acquire scope s = .ok ((), modCurAgent s (acquireAgent scope)) := rfl

/-- An acquire at tile or domain scope changes nothing of a tile. -/
theorem acquireAgent_small {scope : Nat} (h : scope < 2) (x : Agent) : acquireAgent scope x = x := if_neg (by omega)

/-- A release waits while an access of the strand has not been performed for the agents of its scope. -/
theorem release_busy {scope : Nat} {s : State} (h : performedAt s scope = false) : release scope s = .error (.wait .response id) := by
  simp [release, h, run_bind]

/-- A release that meets nothing to wait for: every access performed, what SBAR recorded done, and no dirty line where the scope reaches the windows. -/
theorem release_ok {scope : Nat} {s : State} (h1 : performedAt s scope = true) (h2 : sbarDone s = true)
    (h3 : 2 ≤ scope → dirtyLines (curAgent s) = []) : release scope s = .ok ((), sbarSpent s) := by
  by_cases hs : 2 ≤ scope
  · simp [release, h1, run_bind, behindSbar_ok h2, hs, h3 hs]
  · simp [release, h1, run_bind, behindSbar_ok h2, hs]

/-! ### Words with a status (16 R377, R378) -/

theorem streamDone_ok {s : State} (h1 : performedAt s 3 = true) (h2 : sbarDone s = true) : streamDone s = .ok ((), sbarSpent s) := by
  simp [streamDone, run_bind, until_ok (p := fun s => performedAt s 3) h1, behindSbar_ok h2]
theorem streamDone_busy {s : State} (h : performedAt s 3 = false) : streamDone s = .error (.wait .response id) := by
  simp [streamDone, run_bind, until_wait (p := fun s => performedAt s 3) h]

/-- A word with a status waits while accesses of its strand are in flight. -/
theorem answered_busy {g : Guard} {d : Reg} {rd : Exec Word} {x : Word → Exec Word} {s s0 s1 : State} {v : Word} (he : executes (cur s) g = true)
    (h0 : checkDst d s = .ok ((), s0)) (hv : rd s0 = .ok (v, s1)) (h1 : performedAt s1 3 = false) : answered g d rd x s = .error (.wait .response id) := by
  simp [answered, scalar_run_one he h0, run_bind, hv, streamDone_busy h1]

/-- Where the status has come, it goes to D. -/
theorem answered_reply {g : Guard} {d : Reg} {rd : Exec Word} {x : Word → Exec Word} {s s0 s1 t : State} {v : Word} {r : Reply}
    (he : executes (cur s) g = true) (h0 : checkDst d s = .ok ((), s0)) (hv : rd s0 = .ok (v, s1)) (h1 : performedAt s1 3 = true) (h2 : sbarDone s1 = true)
    (hr : replyFor (sbarSpent s1) 0 = some r) (hw : writeReg d r.val (sbarSpent s1) = .ok ((), t)) : answered g d rd x s = .ok (.next, t) := by
  simp [answered, scalar_run_one he h0, run_bind, run_map, hv, streamDone_ok h1 h2, hr, hw]

/-- Where it has not come, the operation runs, and what it answers goes to D. -/
theorem answered_run {g : Guard} {d : Reg} {rd : Exec Word} {x : Word → Exec Word} {s s0 s1 : State} {v : Word} (he : executes (cur s) g = true)
    (h0 : checkDst d s = .ok ((), s0)) (hv : rd s0 = .ok (v, s1)) (h1 : performedAt s1 3 = true) (h2 : sbarDone s1 = true)
    (hr : replyFor (sbarSpent s1) 0 = none) :
    answered g d rd x s = (x v >>= fun w => writeReg d w >>= fun _ => pure .next) (sbarSpent s1) := by
  simp [answered, scalar_run_one he h0, run_bind, hv, streamDone_ok h1 h2, hr]

/-! ### Posted faults and engine instructions (06 R168, 07 R205) -/

theorem raisePosted_none {cls : Nat} {s : State} (h : (cur s).eng.posted.find? (raisable (cur s).eng.posted cls) = none) : raisePosted cls s = .ok ((), s) := by
  by_cases hr : (cur s).reply.isSome = true <;> simp [raisePosted, h, hr]

/-- An instruction that waits for the rest of an effect it has begun raises none. -/
theorem raisePosted_reply {cls : Nat} {s : State} (h : (cur s).reply.isSome = true) : raisePosted cls s = .ok ((), s) := by
  simp [raisePosted, h]

/-- An engine, network or domain instruction that its guard does not let execute does nothing. -/
theorem engine_skip {s : State} {g : Guard} (h : executes (cur s) g = false) (cls : Nat) (ds : List Reg) (x : Exec Ctl) :
    engine g cls ds x s = .ok (.next, s) := by
  simp only [engine, getS_bind, h]; rfl

/-- It raises the posted fault of its class first. -/
theorem engine_raise {s : State} {g : Guard} {cls : Nat} {e : Stop} (h : executes (cur s) g = true) (hp : raisePosted cls s = .error e) (ds : List Reg)
    (x : Exec Ctl) : engine g cls ds x s = .error e := by
  simp [engine, h, run_bind, hp]

/-- With none, it runs as a scalar instruction does. -/
theorem engine_run {s : State} {g : Guard} {cls : Nat} (h : executes (cur s) g = true)
    (hp : (cur s).eng.posted.find? (raisable (cur s).eng.posted cls) = none) (ds : List Reg) (x : Exec Ctl) : engine g cls ds x s = scalar g ds x s := by
  simp [engine, scalar, h, run_bind, raisePosted_none hp]

/-! ### Addresses (03 R87, 04 R119) -/

theorem baseOf_none (s : State) : baseOf 63 s = .ok (0, s) := rfl
theorem baseOf_reg {f : Reg} (h : f ≠ 63) : baseOf f = readReg f := if_neg h

/-- A base or an index in a general register. -/
theorem baseOf_g {f : Reg} (h : f.toNat < 56) (s : State) : baseOf f s = .ok (curReg s f.toNat, s) := by
  rw [baseOf_reg (by intro e; subst e; exact absurd h (by decide)), readReg_g h]

/-- The address of a memory operand from what its base and its index read. -/
theorem effectiveAddress_run {m : MemOp} {s u t : State} {b x : Word} (hb : baseOf m.base s = .ok (b, u)) (hx : baseOf m.idx u = .ok (x, t)) :
    effectiveAddress m s = .ok (b + x * BitVec.ofNat 64 (2 ^ m.scl.toNat) + m.disp.signExtend 64, t) := by
  simp [effectiveAddress, run_bind, run_map, hb, hx]

/-- A misaligned address. -/
theorem checkAddr_misaligned {nd : Need} {a : Word} {al : Nat} (h : a.toNat % al ≠ 0) (s : State) :
    checkAddr nd a al s = .error (.trap ⟨cMISALIGN, some a, BitVec.ofNat 64 (al + nd.extra), none, 0, id, false⟩) := by
  simp [checkAddr, h, run_bind]

/-- An address of the tile's own local store. -/
theorem checkAddr_ls {nd : Need} {a : Word} {al off : Nat} {s : State} (h : a.toNat % al = 0) (hr : regionOf (isCore s.env.agent) a.toNat = .ls off) :
    checkAddr nd a al s = .ok (⟨keyLs s.env.agent off, true, none⟩, s) := by
  simp [checkAddr, h, run_bind, hr]

/-- An address of the tile's own vault. -/
theorem checkAddr_vault {nd : Need} {a : Word} {al off : Nat} {s : State} (h : a.toNat % al = 0)
    (hr : regionOf (isCore s.env.agent) a.toNat = .vault off) : checkAddr nd a al s = .ok (⟨keyVault s.env.agent off, true, none⟩, s) := by
  simp [checkAddr, h, run_bind, hr]

/-- An address of module memory, on a core. -/
theorem checkAddr_module {nd : Need} {a : Word} {al k : Nat} {s : State} (h : a.toNat % al = 0) (hr : regionOf (isCore s.env.agent) a.toNat = .module k) :
    checkAddr nd a al s = .ok (⟨k, false, none⟩, s) := by
  simp [checkAddr, h, run_bind, hr]

/-- An address that no region has. -/
theorem checkAddr_unmapped {nd : Need} {a : Word} {al : Nat} {s : State} (h : a.toNat % al = 0) (hr : regionOf (isCore s.env.agent) a.toNat = .unmapped) :
    checkAddr nd a al s = .error (.trap ⟨nd.mapCause, some a, BitVec.ofNat 64 (1 + nd.extra), none, 0, id, false⟩) := by
  simp [checkAddr, h, run_bind, hr]

/-! ### Traps and retiring (16 R384, 04 R103) -/

/-- A trap with TDEPTH 0: the trap registers, TDEPTH 1, and the PC at TVEC. -/
theorem trapEntry_first {s : State} {a k cause : Nat} {tpc addr info prev : Word} (h : (strandAt s a k).sys.tdepth = 0) :
    trapEntry s a k cause tpc addr info prev =
      setStrand s a k { strandAt s a k with
        st := .ready, cause := none, reply := none, word := none, lastBranch := none, yielded := false, pc := (strandAt s a k).sys.tvec
        sys := { (strandAt s a k).sys with tpc := tpc, tcause := BitVec.ofNat 64 cause, taddr := addr, tinfo := info, tprev := prev, tdepth := 1 } } := by
  simp only [trapEntry, h, if_true]

/-- A trap with TDEPTH not 0: TCAUSE2 and TADDR2, and the strand is FAILED. -/
theorem trapEntry_double {s : State} {a k cause : Nat} {tpc addr info prev : Word} (h : (strandAt s a k).sys.tdepth ≠ 0) :
    trapEntry s a k cause tpc addr info prev =
      failStrand (setStrand s a k { strandAt s a k with
        cause := none, reply := none, word := none
        sys := { (strandAt s a k).sys with tcause2 := BitVec.ofNat 64 cause, taddr2 := addr } }) a k 1 cDOUBLE addr (BitVec.ofNat 64 cause) := by
  simp only [trapEntry, h, if_false]

/-- Outside an epilogue a trap is the strand's own. -/
theorem takeTrap_strand {s : State} {t : Trap} (h : inEpilogue (dropFailedWalks (t.post s)) (t.post s).env.agent (t.post s).env.strand = false) :
    takeTrap s t =
      let u := dropFailedWalks (t.post s)
      trapEntry u u.env.agent u.env.strand t.cause (t.tpc.getD (cur u).pc) (t.addr.getD (cur u).pc) t.info t.prev := by
  have h' : inEpilogue (dropFailedWalks (t.post s)) (dropFailedWalks (t.post s)).env.agent (dropFailedWalks (t.post s)).env.strand = false := h
  simp only [takeTrap, h', Bool.false_eq_true, if_false]

@[simp] theorem dropFailedWalks_cur (s : State) : cur (dropFailedWalks s) = cur s := rfl

@[simp] theorem retire_mem (s : State) (c : Ctl) : (retire s c).mem = s.mem := by cases c <;> rfl
@[simp] theorem retire_net (s : State) (c : Ctl) : (retire s c).net = s.net := by cases c <;> rfl
@[simp] theorem retire_os (s : State) (c : Ctl) : (retire s c).os = s.os := by cases c <;> rfl
@[simp] theorem retire_rel (s : State) (c : Ctl) : (retire s c).rel = s.rel := by cases c <;> rfl
@[simp] theorem retire_light (s : State) (c : Ctl) : (retire s c).light = s.light := by cases c <;> rfl
@[simp] theorem retire_trust (s : State) (c : Ctl) : (retire s c).trust = s.trust := by cases c <;> rfl
@[simp] theorem retire_boot (s : State) (c : Ctl) : (retire s c).boot = s.boot := by cases c <;> rfl
@[simp] theorem retire_env (s : State) (c : Ctl) : (retire s c).env = s.env := by cases c <;> rfl

/-- The PC moves on by 8. -/
theorem pc_retire_next (s : State) : (cur (retire s .next)).pc = (cur s).pc + 8 := by simp [retire]
/-- The PC is the target of a taken branch. -/
theorem pc_retire_jump (s : State) (a : Word) : (cur (retire s (.jump a))).pc = a := by simp [retire]


/-! ### The memory that records, failures and traps leave -/

@[simp] theorem postTile_mem (s : State) (a : Nat) (r : Rec) : (postTile s a r).mem = s.mem := by unfold postTile; split <;> rfl
@[simp] theorem postTile_ckpt (s : State) (a : Nat) (r : Rec) : (postTile s a r).rel.ckpt = s.rel.ckpt := by unfold postTile; split <;> rfl
@[simp] theorem postUnit_mem (s : State) (a kind cause : Nat) (tag : Option Tag) (unit detail : Nat) (addr info : Word) (seq group : Nat) :
    (postUnit s a kind cause tag unit detail addr info seq group).mem = s.mem := postTile_mem _ _ _
@[simp] theorem postPoison_mem (s : State) (a : Nat) (tag : Option Tag) (unit key fn : Nat) : (postPoison s a tag unit key fn).mem = s.mem := postUnit_mem ..

@[simp] theorem failTask_mem (s : State) (i reason cause ftile fstr : Nat) (taddr tinfo : Word) :
    (failTask s i reason cause ftile fstr taddr tinfo).mem = s.mem := by
  unfold failTask
  split
  · rfl
  · split
    · rfl
    · dsimp only; split <;> rfl

@[simp] theorem failStrand_mem (s : State) (a k detail cause : Nat) (addr info : Word) : (failStrand s a k detail cause addr info).mem = s.mem := by
  unfold failStrand
  dsimp only
  split <;> simp

@[simp] theorem trapEntry_mem (s : State) (a k cause : Nat) (tpc addr info prev : Word) : (trapEntry s a k cause tpc addr info prev).mem = s.mem := by
  unfold trapEntry
  dsimp only
  split <;> simp

@[simp] theorem memberFault_mem (s : State) (a reason cause : Nat) (addr : Option Word) (epiw place : Nat) :
    (memberFault s a reason cause addr epiw place).mem = s.mem := by
  unfold memberFault
  dsimp only
  split
  · rfl
  · split <;> rfl

/-- A trap leaves the memory that its kept effects leave. -/
theorem takeTrap_mem (s : State) (t : Trap) : (takeTrap s t).mem = (t.post s).mem := by
  unfold takeTrap
  dsimp only
  split
  · split <;> simp
  · simp

/-! ### Canonical form through the operations over memory -/

theorem wf_barUpdate {m : Memory} (k : Nat) (arrive : Bool) (d : Int) (h : m.wf) : (barUpdate m k arrive d).2.wf := by
  unfold barUpdate
  dsimp only
  split
  · exact h
  · split
    · exact h
    · exact wf_writeWord _ _ h

/-- One access at its home keeps the canonical form. -/
theorem wf_performAccess {s : State} (t : Option Tag) (x : Access) (h : s.mem.wf) : (performAccess s t x).1.mem.wf := by
  unfold performAccess
  dsimp only
  split
  · exact h
  · split
    · exact wf_writeNat _ _ _ h
    · exact h
  · split
    · exact h
    · split
      · exact wf_writeNat _ _ _ h
      · exact h
  · split
    · exact wf_writeWord _ _ (wf_writeWord _ _ h)
    · exact h
  · split
    · exact h
    · split
      · exact wf_barUpdate _ _ _ h
      · exact h

theorem wf_writeBackLine {s : State} (t : Option Tag) (key : Nat) (l : WLine) (h : s.mem.wf) : (writeBackLine s t key l).1.wf := by
  unfold writeBackLine
  split
  · exact h
  · refine wf_foldl (fun m i hm => ?_) _ (wf_foldl (fun m i hm => ?_) _ (wf_foldl (fun m i hm => ?_) _ h))
    · split
      · exact wf_markPoison _ hm
      · exact hm
    · split
      · exact wf_clearPoison _ _ hm
      · exact hm
    · split
      · exact wf_writeByte _ _ hm
      · exact hm

theorem wf_writeBackMany (ls : List (Nat × WLine × Nat × (Nat ⊕ Nat))) {s : State} (h : s.mem.wf) : (writeBackMany ls s).mem.wf := by
  induction ls generalizing s with
  | nil => exact h
  | cons q t ih =>
    show (writeBackMany t _).mem.wf
    apply ih
    dsimp only
    split
    · exact wf_writeBackLine _ _ _ h
    · exact h

/-- Memory after reset is in canonical form. -/
theorem wf_reset : State.reset.mem.wf := ⟨rfl, rfl⟩

/-! ### The step -/

/-- Nothing that can happen leaves a mailbox that held records with more than its room (19 R426). -/
theorem candidates_room {s : State} {e : Ev} (h : e ∈ candidates s) : mailboxWaits s e = false := by
  simpa using (List.mem_filter.mp h).2

/-- Where no mailbox holds a record nothing waits for one. -/
theorem candidates_empty {s : State} (h : s.agents.any (fun p => p.2.ni.fbox != []) = false) : candidates s = offered s := by
  simp only [candidates, mailboxWaits, h, Bool.false_and, Bool.not_false, List.filter_eq_self.mpr, implies_true]

/-- With power, the chosen event runs. -/
theorem step_run {s : State} {e : Ev} (hp : s.env.powered = true) (h : choose s (candidates s) = some e) : step s = e.run (tick s) := by
  simp only [step, hp, h, if_true]

/-- With power and nothing to do, time passes. -/
theorem step_idle {s : State} (hp : s.env.powered = true) (h : choose s (candidates s) = none) : step s = .next (tick s) := by
  simp only [step, hp, h, if_true]

/-- Without power, only POWER_GOOD acts. -/
theorem step_dark {s : State} (hp : s.env.powered = false) : step s = darkStep s := by simp [step, hp]

/-- A latched word runs without a fetch. -/
theorem runStrand_latched {s : State} {w : Word} (h : (cur s).word = some w) : runStrand s = execWord s w := by simp only [runStrand, h]
/-- Otherwise the word is fetched, kept, and runs. -/
theorem runStrand_fetch {s t : State} {w : Word} (h : (cur s).word = none) (hf : fetchWord s = .ok (w, t)) : runStrand s = execWord (keepWord t w) w := by
  simp only [runStrand, h, hf]
/-- A word that decodes runs as its instruction. -/
theorem execWord_ok {s : State} {w : Word} {i : Instr} (h : decodeFor s w = .ok i) : execWord s w = exec i s := by simp only [execWord, h]
/-- One that does not traps. -/
theorem execWord_error {s : State} {w : Word} {e : DecErr} (h : decodeFor s w = .error e) : execWord s w = .next (takeTrap s (decodeTrap e)) := by
  simp only [execWord, h]

end Sys2Proof.Machine
end

