-- ==== Sys2Proof/Laws/PerInstr.lean ====
section
/-!
SUPPORT. One statement about every instruction as syntax: its word's MAJ is one that decode assigns (03 R88). Family Maj.
-/

namespace Sys2Proof

/-! ### The MAJ of an encoded word (03 R79) -/

theorem maj_bit (m : BitVec 8) {i j : Nat} (hi : i < 8) (h : j = i) : m.getLsbD j = m[i] := by subst h; exact BitVec.getLsbD_eq_getElem hi

theorem maj_rrr (m fn g d a b c o) : fld (encRRR m fn g d a b c o) 56 8 = m := by
  unfold encRRR fld
  ext i hi
  simp only [BitVec.getElem_extractLsb', BitVec.getLsbD_append]
  repeat rw [if_neg (by omega)]
  exact maj_bit m hi (by omega)

theorem maj_rri (m fn g d a o) : fld (encRRI m fn g d a o) 56 8 = m := by
  unfold encRRI fld
  ext i hi
  simp only [BitVec.getElem_extractLsb', BitVec.getLsbD_append]
  repeat rw [if_neg (by omega)]
  exact maj_bit m hi (by omega)

theorem maj_mem (m fn g t b i s z o d) : fld (encMEM m fn g t b i s z o d) 56 8 = m := by
  unfold encMEM fld
  ext i hi
  simp only [BitVec.getElem_extractLsb', BitVec.getLsbD_append]
  repeat rw [if_neg (by omega)]
  exact maj_bit m hi (by omega)

theorem maj_vec (m fn g d a b c et rm sat sk gr o) : fld (encVEC m fn g d a b c et rm sat sk gr o) 56 8 = m := by
  unfold encVEC fld
  ext i hi
  simp only [BitVec.getElem_extractLsb', BitVec.getLsbD_append]
  repeat rw [if_neg (by omega)]
  exact maj_bit m hi (by omega)

theorem maj_eng (m fn g a b c o) : fld (encENG m fn g a b c o) 56 8 = m := by
  unfold encENG fld
  ext i hi
  simp only [BitVec.getElem_extractLsb', BitVec.getLsbD_append]
  repeat rw [if_neg (by omega)]
  exact maj_bit m hi (by omega)

theorem maj_br (fn g c a b o) : fld (encBR fn g c a b o) 56 8 = 0x50 := by
  unfold encBR fld
  ext i hi
  simp only [BitVec.getElem_extractLsb', BitVec.getLsbD_append]
  repeat rw [if_neg (by omega)]
  exact maj_bit 0x50 hi (by omega)

end Sys2Proof

namespace Sys2Proof.Laws.Maj

/-- The word of a helm instruction has an assigned MAJ. -/
def Statement (i : Instr) : Prop := isWord i = true → (majInfo (fld (encode i) 56 8).toNat).isSome = true

theorem of_maj {i : Instr} {m : BitVec 8} (h : fld (encode i) 56 8 = m) (hm : (majInfo m.toNat).isSome = true) : Statement i := fun _ => h ▸ hm

theorem add (g : Guard) (d a b : Reg) (w u : BitVec 1) : Statement (.add g d a b w u) := of_maj (maj_rrr ..) rfl
theorem sub (g : Guard) (d a b : Reg) (w u : BitVec 1) : Statement (.sub g d a b w u) := of_maj (maj_rrr ..) rfl
theorem mul (g : Guard) (d a b : Reg) (w u : BitVec 1) : Statement (.mul g d a b w u) := of_maj (maj_rrr ..) rfl
theorem mulh (g : Guard) (d a b : Reg) (w u : BitVec 1) : Statement (.mulh g d a b w u) := of_maj (maj_rrr ..) rfl
theorem div (g : Guard) (d a b : Reg) (w u : BitVec 1) : Statement (.div g d a b w u) := of_maj (maj_rrr ..) rfl
theorem rem (g : Guard) (d a b : Reg) (w u : BitVec 1) : Statement (.rem g d a b w u) := of_maj (maj_rrr ..) rfl
theorem and (g : Guard) (d a b : Reg) (w u : BitVec 1) : Statement (.and g d a b w u) := of_maj (maj_rrr ..) rfl
theorem or (g : Guard) (d a b : Reg) (w u : BitVec 1) : Statement (.or g d a b w u) := of_maj (maj_rrr ..) rfl
theorem xor (g : Guard) (d a b : Reg) (w u : BitVec 1) : Statement (.xor g d a b w u) := of_maj (maj_rrr ..) rfl
theorem andn (g : Guard) (d a b : Reg) (w u : BitVec 1) : Statement (.andn g d a b w u) := of_maj (maj_rrr ..) rfl
theorem shl (g : Guard) (d a b : Reg) (w u : BitVec 1) : Statement (.shl g d a b w u) := of_maj (maj_rrr ..) rfl
theorem shr (g : Guard) (d a b : Reg) (w u : BitVec 1) : Statement (.shr g d a b w u) := of_maj (maj_rrr ..) rfl
theorem sar (g : Guard) (d a b : Reg) (w u : BitVec 1) : Statement (.sar g d a b w u) := of_maj (maj_rrr ..) rfl
theorem rot (g : Guard) (d a b : Reg) (w u : BitVec 1) : Statement (.rot g d a b w u) := of_maj (maj_rrr ..) rfl
theorem min (g : Guard) (d a b : Reg) (w u : BitVec 1) : Statement (.min g d a b w u) := of_maj (maj_rrr ..) rfl
theorem max (g : Guard) (d a b : Reg) (w u : BitVec 1) : Statement (.max g d a b w u) := of_maj (maj_rrr ..) rfl
theorem clz (g : Guard) (d a : Reg) (w u : BitVec 1) : Statement (.clz g d a w u) := of_maj (maj_rrr ..) rfl
theorem ctz (g : Guard) (d a : Reg) (w u : BitVec 1) : Statement (.ctz g d a w u) := of_maj (maj_rrr ..) rfl
theorem popc (g : Guard) (d a : Reg) (w u : BitVec 1) : Statement (.popc g d a w u) := of_maj (maj_rrr ..) rfl
theorem bswap (g : Guard) (d a : Reg) (w u : BitVec 1) : Statement (.bswap g d a w u) := of_maj (maj_rrr ..) rfl
theorem ext (g : Guard) (d a : Reg) (len : BitVec 6) (u : BitVec 1) : Statement (.ext g d a len u) := of_maj (maj_rrr ..) rfl
theorem bfx (g : Guard) (d a : Reg) (pos len : BitVec 6) (u : BitVec 1) : Statement (.bfx g d a pos len u) := of_maj (maj_rrr ..) rfl
theorem bfi (g : Guard) (d a b : Reg) (pos len : BitVec 6) : Statement (.bfi g d a b pos len) := of_maj (maj_rrr ..) rfl
theorem sel (g : Guard) (d a b c : Reg) : Statement (.sel g d a b c) := of_maj (maj_rrr ..) rfl
theorem mov (g : Guard) (d a : Reg) : Statement (.mov g d a) := of_maj (maj_rrr ..) rfl
theorem cmp (g : Guard) (pd : PReg) (a b : Reg) (cond : BitVec 4) (w : BitVec 1) : Statement (.cmp g pd a b cond w) := of_maj (maj_rrr ..) rfl
theorem lea (g : Guard) (d a b : Reg) (pos : BitVec 2) : Statement (.lea g d a b pos) := of_maj (maj_rrr ..) rfl
theorem addImm (g : Guard) (d a : Reg) (imm : BitVec 34) : Statement (.addImm g d a imm) := of_maj (maj_rri ..) rfl
theorem subImm (g : Guard) (d a : Reg) (imm : BitVec 34) : Statement (.subImm g d a imm) := of_maj (maj_rri ..) rfl
theorem mulImm (g : Guard) (d a : Reg) (imm : BitVec 34) : Statement (.mulImm g d a imm) := of_maj (maj_rri ..) rfl
theorem mulhImm (g : Guard) (d a : Reg) (imm : BitVec 34) : Statement (.mulhImm g d a imm) := of_maj (maj_rri ..) rfl
theorem divImm (g : Guard) (d a : Reg) (imm : BitVec 34) : Statement (.divImm g d a imm) := of_maj (maj_rri ..) rfl
theorem remImm (g : Guard) (d a : Reg) (imm : BitVec 34) : Statement (.remImm g d a imm) := of_maj (maj_rri ..) rfl
theorem andImm (g : Guard) (d a : Reg) (imm : BitVec 34) : Statement (.andImm g d a imm) := of_maj (maj_rri ..) rfl
theorem orImm (g : Guard) (d a : Reg) (imm : BitVec 34) : Statement (.orImm g d a imm) := of_maj (maj_rri ..) rfl
theorem xorImm (g : Guard) (d a : Reg) (imm : BitVec 34) : Statement (.xorImm g d a imm) := of_maj (maj_rri ..) rfl
theorem andnImm (g : Guard) (d a : Reg) (imm : BitVec 34) : Statement (.andnImm g d a imm) := of_maj (maj_rri ..) rfl
theorem shlImm (g : Guard) (d a : Reg) (n : BitVec 6) : Statement (.shlImm g d a n) := of_maj (maj_rri ..) rfl
theorem shrImm (g : Guard) (d a : Reg) (n : BitVec 6) : Statement (.shrImm g d a n) := of_maj (maj_rri ..) rfl
theorem sarImm (g : Guard) (d a : Reg) (n : BitVec 6) : Statement (.sarImm g d a n) := of_maj (maj_rri ..) rfl
theorem rotImm (g : Guard) (d a : Reg) (n : BitVec 6) : Statement (.rotImm g d a n) := of_maj (maj_rri ..) rfl
theorem minImm (g : Guard) (d a : Reg) (imm : BitVec 34) : Statement (.minImm g d a imm) := of_maj (maj_rri ..) rfl
theorem maxImm (g : Guard) (d a : Reg) (imm : BitVec 34) : Statement (.maxImm g d a imm) := of_maj (maj_rri ..) rfl
theorem cmpImm (g : Guard) (pd : PReg) (a : Reg) (cond : BitVec 4) (imm : BitVec 30) : Statement (.cmpImm g pd a cond imm) := of_maj (maj_rri ..) rfl
theorem leaImm (g : Guard) (d a : Reg) (imm : BitVec 34) : Statement (.leaImm g d a imm) := of_maj (maj_rri ..) rfl
theorem movi (g : Guard) (d : Reg) (imm : BitVec 34) : Statement (.movi g d imm) := of_maj (maj_rri ..) rfl
theorem movhi (g : Guard) (d a : Reg) (imm : BitVec 30) : Statement (.movhi g d a imm) := of_maj (maj_rri ..) rfl
theorem fadd (g : Guard) (d a b : Reg) (rm : BitVec 3) : Statement (.fadd g d a b rm) := of_maj (maj_rrr ..) rfl
theorem fsub (g : Guard) (d a b : Reg) (rm : BitVec 3) : Statement (.fsub g d a b rm) := of_maj (maj_rrr ..) rfl
theorem fmul (g : Guard) (d a b : Reg) (rm : BitVec 3) : Statement (.fmul g d a b rm) := of_maj (maj_rrr ..) rfl
theorem ffma (g : Guard) (d a b c : Reg) (rm : BitVec 3) : Statement (.ffma g d a b c rm) := of_maj (maj_rrr ..) rfl
theorem fdiv (g : Guard) (d a b : Reg) (rm : BitVec 3) : Statement (.fdiv g d a b rm) := of_maj (maj_rrr ..) rfl
theorem fsqrt (g : Guard) (d a : Reg) (rm : BitVec 3) : Statement (.fsqrt g d a rm) := of_maj (maj_rrr ..) rfl
theorem fmin (g : Guard) (d a b : Reg) : Statement (.fmin g d a b) := of_maj (maj_rrr ..) rfl
theorem fmax (g : Guard) (d a b : Reg) : Statement (.fmax g d a b) := of_maj (maj_rrr ..) rfl
theorem fcmp (g : Guard) (pd : PReg) (a b : Reg) (cond : BitVec 4) : Statement (.fcmp g pd a b cond) := of_maj (maj_rrr ..) rfl
theorem fcvt (g : Guard) (d a : Reg) (rm : BitVec 3) (sat : BitVec 1) (dt st : BitVec 4) (w64 : BitVec 1) : Statement (.fcvt g d a rm sat dt st w64) := of_maj (maj_rrr ..) rfl
theorem fclass (g : Guard) (d a : Reg) : Statement (.fclass g d a) := of_maj (maj_rrr ..) rfl
theorem pset (g : Guard) (pd : PReg) (count : BitVec 7) : Statement (.pset g pd count) := of_maj (maj_rrr ..) rfl
theorem plim (g : Guard) (pd : PReg) (a b : Reg) : Statement (.plim g pd a b) := of_maj (maj_rrr ..) rfl
theorem pmin (g : Guard) (pd pa pb : PReg) : Statement (.pmin g pd pa pb) := of_maj (maj_rrr ..) rfl
theorem pmax (g : Guard) (pd pa pb : PReg) : Statement (.pmax g pd pa pb) := of_maj (maj_rrr ..) rfl
theorem prd (g : Guard) (d : Reg) (pa : PReg) : Statement (.prd g d pa) := of_maj (maj_rrr ..) rfl
theorem grd (g : Guard) (d a : Reg) (imm : BitVec 34) : Statement (.grd g d a imm) := of_maj (maj_rri ..) rfl
theorem gwr (g : Guard) (d a : Reg) (imm : BitVec 34) : Statement (.gwr g d a imm) := of_maj (maj_rri ..) rfl
theorem ld (g : Guard) (t : Reg) (size : BitVec 3) (o : Ord) (m : MemOp) : Statement (.ld g t size o m) := of_maj (maj_mem ..) rfl
theorem st (g : Guard) (t : Reg) (size : BitVec 3) (o : Ord) (m : MemOp) : Statement (.st g t size o m) := of_maj (maj_mem ..) rfl
theorem ldp (g : Guard) (t : Reg) (o : Ord) (m : MemOp) : Statement (.ldp g t o m) := of_maj (maj_mem ..) rfl
theorem stp (g : Guard) (t : Reg) (o : Ord) (m : MemOp) : Statement (.stp g t o m) := of_maj (maj_mem ..) rfl
theorem amoadd (g : Guard) (t base idx : Reg) (size : BitVec 3) (o : Ord) (disp : BitVec 18) : Statement (.amoadd g t base idx size o disp) := of_maj (maj_mem ..) rfl
theorem amomin (g : Guard) (t base idx : Reg) (uns : BitVec 1) (size : BitVec 3) (o : Ord) (disp : BitVec 18) : Statement (.amomin g t base idx uns size o disp) := of_maj (maj_mem ..) rfl
theorem amomax (g : Guard) (t base idx : Reg) (uns : BitVec 1) (size : BitVec 3) (o : Ord) (disp : BitVec 18) : Statement (.amomax g t base idx uns size o disp) := of_maj (maj_mem ..) rfl
theorem amoand (g : Guard) (t base idx : Reg) (size : BitVec 3) (o : Ord) (disp : BitVec 18) : Statement (.amoand g t base idx size o disp) := of_maj (maj_mem ..) rfl
theorem amoor (g : Guard) (t base idx : Reg) (size : BitVec 3) (o : Ord) (disp : BitVec 18) : Statement (.amoor g t base idx size o disp) := of_maj (maj_mem ..) rfl
theorem amoxor (g : Guard) (t base idx : Reg) (size : BitVec 3) (o : Ord) (disp : BitVec 18) : Statement (.amoxor g t base idx size o disp) := of_maj (maj_mem ..) rfl
theorem amoswp (g : Guard) (t base idx : Reg) (size : BitVec 3) (o : Ord) (disp : BitVec 18) : Statement (.amoswp g t base idx size o disp) := of_maj (maj_mem ..) rfl
theorem amocas (g : Guard) (t base idx : Reg) (size : BitVec 3) (o : Ord) (disp : BitVec 18) : Statement (.amocas g t base idx size o disp) := of_maj (maj_mem ..) rfl
theorem amofadd (g : Guard) (t base idx : Reg) (o : Ord) (disp : BitVec 18) : Statement (.amofadd g t base idx o disp) := of_maj (maj_mem ..) rfl
theorem fence (g : Guard) (o : Ord) : Statement (.fence g o) := of_maj (maj_mem ..) rfl
theorem sbar (g : Guard) (mask : BitVec 18) : Statement (.sbar g mask) := of_maj (maj_mem ..) rfl
theorem br (g : Guard) (off : BitVec 30) : Statement (.br g off) := of_maj (maj_br ..) rfl
theorem bc (g : Guard) (cond : BitVec 4) (a b : Reg) (off : BitVec 30) : Statement (.bc g cond a b off) := of_maj (maj_br ..) rfl
theorem bp (g : Guard) (z : BitVec 1) (pa : PReg) (off : BitVec 30) : Statement (.bp g z pa off) := of_maj (maj_br ..) rfl
theorem call (g : Guard) (a : Reg) (off : BitVec 30) : Statement (.call g a off) := of_maj (maj_br ..) rfl
theorem ret (g : Guard) (a : Reg) : Statement (.ret g a) := of_maj (maj_br ..) rfl
theorem jmpr (g : Guard) (a : Reg) (off : BitVec 30) : Statement (.jmpr g a off) := of_maj (maj_br ..) rfl
theorem loop (g : Guard) (a : Reg) (off : BitVec 30) : Statement (.loop g a off) := of_maj (maj_br ..) rfl
theorem exit (g : Guard) (abandon : BitVec 1) : Statement (.exit g abandon) := of_maj (maj_rri ..) rfl
theorem yield (g : Guard) : Statement (.yield g) := of_maj (maj_rri ..) rfl
theorem nop (g : Guard) : Statement (.nop g) := of_maj (maj_rri ..) rfl
theorem trap (g : Guard) (n : BitVec 34) : Statement (.trap g n) := of_maj (maj_rri ..) rfl
theorem brk (g : Guard) (n : BitVec 34) : Statement (.brk g n) := of_maj (maj_rri ..) rfl
theorem vadd (g : Guard) (vd va vb : VReg) (et : BitVec 4) (rm : BitVec 3) (sat : BitVec 1) : Statement (.vadd g vd va vb et rm sat) := of_maj (maj_vec ..) rfl
theorem vsub (g : Guard) (vd va vb : VReg) (et : BitVec 4) (rm : BitVec 3) (sat : BitVec 1) : Statement (.vsub g vd va vb et rm sat) := of_maj (maj_vec ..) rfl
theorem vmul (g : Guard) (vd va vb : VReg) (et : BitVec 4) (rm : BitVec 3) (sat : BitVec 1) : Statement (.vmul g vd va vb et rm sat) := of_maj (maj_vec ..) rfl
theorem vfma (g : Guard) (vd va vb vc : VReg) (et : BitVec 4) (rm : BitVec 3) (sat : BitVec 1) : Statement (.vfma g vd va vb vc et rm sat) := of_maj (maj_vec ..) rfl
theorem vfms (g : Guard) (vd va vb vc : VReg) (et : BitVec 4) (rm : BitVec 3) (sat : BitVec 1) : Statement (.vfms g vd va vb vc et rm sat) := of_maj (maj_vec ..) rfl
theorem vmin (g : Guard) (vd va vb : VReg) (et : BitVec 4) : Statement (.vmin g vd va vb et) := of_maj (maj_vec ..) rfl
theorem vmax (g : Guard) (vd va vb : VReg) (et : BitVec 4) : Statement (.vmax g vd va vb et) := of_maj (maj_vec ..) rfl
theorem vabs (g : Guard) (vd va : VReg) (et : BitVec 4) (sat : BitVec 1) : Statement (.vabs g vd va et sat) := of_maj (maj_vec ..) rfl
theorem vneg (g : Guard) (vd va : VReg) (et : BitVec 4) (sat : BitVec 1) : Statement (.vneg g vd va et sat) := of_maj (maj_vec ..) rfl
theorem vclamp (g : Guard) (vd va vb vc : VReg) (et : BitVec 4) : Statement (.vclamp g vd va vb vc et) := of_maj (maj_vec ..) rfl
theorem vexp2 (g : Guard) (vd va : VReg) (et : BitVec 4) (rm : BitVec 3) : Statement (.vexp2 g vd va et rm) := of_maj (maj_vec ..) rfl
theorem vlog2 (g : Guard) (vd va : VReg) (et : BitVec 4) (rm : BitVec 3) : Statement (.vlog2 g vd va et rm) := of_maj (maj_vec ..) rfl
theorem vrcp (g : Guard) (vd va : VReg) (et : BitVec 4) (rm : BitVec 3) : Statement (.vrcp g vd va et rm) := of_maj (maj_vec ..) rfl
theorem vrsq (g : Guard) (vd va : VReg) (et : BitVec 4) (rm : BitVec 3) : Statement (.vrsq g vd va et rm) := of_maj (maj_vec ..) rfl
theorem vtanh (g : Guard) (vd va : VReg) (et : BitVec 4) (rm : BitVec 3) : Statement (.vtanh g vd va et rm) := of_maj (maj_vec ..) rfl
theorem verf (g : Guard) (vd va : VReg) (et : BitVec 4) (rm : BitVec 3) : Statement (.verf g vd va et rm) := of_maj (maj_vec ..) rfl
theorem vand (g : Guard) (vd va vb : VReg) (et : BitVec 4) : Statement (.vand g vd va vb et) := of_maj (maj_vec ..) rfl
theorem vor (g : Guard) (vd va vb : VReg) (et : BitVec 4) : Statement (.vor g vd va vb et) := of_maj (maj_vec ..) rfl
theorem vxor (g : Guard) (vd va vb : VReg) (et : BitVec 4) : Statement (.vxor g vd va vb et) := of_maj (maj_vec ..) rfl
theorem vnot (g : Guard) (vd va : VReg) (et : BitVec 4) : Statement (.vnot g vd va et) := of_maj (maj_vec ..) rfl
theorem vshl (g : Guard) (vd va vb : VReg) (et : BitVec 4) (imm : BitVec 7) : Statement (.vshl g vd va vb et imm) := of_maj (maj_vec ..) rfl
theorem vshr (g : Guard) (vd va vb : VReg) (et : BitVec 4) (imm : BitVec 7) : Statement (.vshr g vd va vb et imm) := of_maj (maj_vec ..) rfl
theorem vsar (g : Guard) (vd va vb : VReg) (et : BitVec 4) (imm : BitVec 7) : Statement (.vsar g vd va vb et imm) := of_maj (maj_vec ..) rfl
theorem vmulh (g : Guard) (vd va vb : VReg) (et : BitVec 4) : Statement (.vmulh g vd va vb et) := of_maj (maj_vec ..) rfl
theorem vcmp (g : Guard) (pd : PReg) (va vb : VReg) (et cond : BitVec 4) : Statement (.vcmp g pd va vb et cond) := of_maj (maj_vec ..) rfl
theorem vsel (g : Guard) (vd va vb : VReg) (et : BitVec 4) (x : PReg) : Statement (.vsel g vd va vb et x) := of_maj (maj_vec ..) rfl
theorem vcvt (g : Guard) (vd va : VReg) (et : BitVec 4) (rm : BitVec 3) (sat : BitVec 1) (part : BitVec 2) (st : BitVec 4) : Statement (.vcvt g vd va et rm sat part st) := of_maj (maj_vec ..) rfl
theorem vmov (g : Guard) (vd va : VReg) (et : BitVec 4) : Statement (.vmov g vd va et) := of_maj (maj_vec ..) rfl
theorem vbcast (g : Guard) (vd : VReg) (gs : Reg) (et : BitVec 4) : Statement (.vbcast g vd gs et) := of_maj (maj_vec ..) rfl
theorem vext (g : Guard) (gd : Reg) (va : VReg) (et : BitVec 4) (i : BitVec 7) : Statement (.vext g gd va et i) := of_maj (maj_vec ..) rfl
theorem vins (g : Guard) (vd : VReg) (gs : Reg) (et : BitVec 4) (i : BitVec 7) : Statement (.vins g vd gs et i) := of_maj (maj_vec ..) rfl
theorem viota (g : Guard) (vd : VReg) (gs : Reg) (et : BitVec 4) : Statement (.viota g vd gs et) := of_maj (maj_vec ..) rfl
theorem vcond (g : Guard) (x : PReg) : Statement (.vcond g x) := of_maj (maj_vec ..) rfl
theorem vshup (g : Guard) (vd va : VReg) (et : BitVec 4) (skew : BitVec 5) : Statement (.vshup g vd va et skew) := of_maj (maj_vec ..) rfl
theorem vshdn (g : Guard) (vd va : VReg) (et : BitVec 4) (skew : BitVec 5) : Statement (.vshdn g vd va et skew) := of_maj (maj_vec ..) rfl
theorem vrot (g : Guard) (vd va : VReg) (et : BitVec 4) (skew : BitVec 5) : Statement (.vrot g vd va et skew) := of_maj (maj_vec ..) rfl
theorem vscan (g : Guard) (vd va : VReg) (et : BitVec 4) (rm : BitVec 3) (sat : BitVec 1) (op : BitVec 7) : Statement (.vscan g vd va et rm sat op) := of_maj (maj_vec ..) rfl
theorem vred (g : Guard) (vd va : VReg) (et : BitVec 4) (rm : BitVec 3) (sat : BitVec 1) (op : BitVec 7) : Statement (.vred g vd va et rm sat op) := of_maj (maj_vec ..) rfl
theorem vmaxi (g : Guard) (vd va : VReg) (gi : Reg) (et : BitVec 4) : Statement (.vmaxi g vd va gi et) := of_maj (maj_vec ..) rfl
theorem vperm (g : Guard) (vd va vb : VReg) (et : BitVec 4) (skew : BitVec 5) : Statement (.vperm g vd va vb et skew) := of_maj (maj_vec ..) rfl
theorem vpack (g : Guard) (vd va vb : VReg) (et : BitVec 4) (rm : BitVec 3) (sat : BitVec 1) : Statement (.vpack g vd va vb et rm sat) := of_maj (maj_vec ..) rfl
theorem vunpk (g : Guard) (vd va : VReg) (et : BitVec 4) (h : BitVec 1) : Statement (.vunpk g vd va et h) := of_maj (maj_vec ..) rfl
theorem vscale (g : Guard) (vd va : VReg) (gs : Reg) (et : BitVec 4) (rm : BitVec 3) (sat : BitVec 1) (inv : BitVec 1) : Statement (.vscale g vd va gs et rm sat inv) := of_maj (maj_vec ..) rfl
theorem vqnt (g : Guard) (vd va : VReg) (gs : Reg) (et : BitVec 4) (rm : BitVec 3) (h : BitVec 1) : Statement (.vqnt g vd va gs et rm h) := of_maj (maj_vec ..) rfl
theorem vld (g : Guard) (vt : VReg) (size : BitVec 3) (o : Ord) (m : MemOp) : Statement (.vld g vt size o m) := of_maj (maj_mem ..) rfl
theorem vst (g : Guard) (vt : VReg) (size : BitVec 3) (o : Ord) (m : MemOp) : Statement (.vst g vt size o m) := of_maj (maj_mem ..) rfl
theorem vldff (g : Guard) (vt : VReg) (size : BitVec 3) (m : MemOp) : Statement (.vldff g vt size m) := of_maj (maj_mem ..) rfl
theorem vlds (g : Guard) (vt : VReg) (size : BitVec 3) (o : Ord) (m : MemOp) : Statement (.vlds g vt size o m) := of_maj (maj_mem ..) rfl
theorem vsts (g : Guard) (vt : VReg) (size : BitVec 3) (o : Ord) (m : MemOp) : Statement (.vsts g vt size o m) := of_maj (maj_mem ..) rfl
theorem vgath (g : Guard) (vt : VReg) (size : BitVec 3) (o : Ord) (base : Reg) (vi : VReg) (scl : BitVec 2) (disp : BitVec 18) : Statement (.vgath g vt size o base vi scl disp) := of_maj (maj_mem ..) rfl
theorem vscat (g : Guard) (vt : VReg) (size : BitVec 3) (o : Ord) (base : Reg) (vi : VReg) (scl : BitVec 2) (disp : BitVec 18) : Statement (.vscat g vt size o base vi scl disp) := of_maj (maj_mem ..) rfl
theorem vldb (g : Guard) (vt : VReg) (size : BitVec 3) (o : Ord) (m : MemOp) : Statement (.vldb g vt size o m) := of_maj (maj_mem ..) rfl
theorem mxcfg (g : Guard) (f : BitVec 9) (mode bank : BitVec 2) : Statement (.mxcfg g f mode bank) := of_maj (maj_eng ..) rfl
theorem mxzero (g : Guard) (bank : BitVec 2) : Statement (.mxzero g bank) := of_maj (maj_eng ..) rfl
theorem mxldw (g : Guard) (a : Reg) (sc : BitVec 1) (kq wt : BitVec 3) (buf : BitVec 1) : Statement (.mxldw g a sc kq wt buf) := of_maj (maj_eng ..) rfl
theorem mxpass (g : Guard) (a b : Reg) (mhalf : BitVec 1) (at' : BitVec 2) (asc zf : BitVec 1) (nm1 : BitVec 7) (buf : BitVec 1) (bank : BitVec 2) : Statement (.mxpass g a b mhalf at' asc zf nm1 buf bank) := of_maj (maj_eng ..) rfl
theorem mxarm (g : Guard) (a b : Reg) (slot : BitVec 3) : Statement (.mxarm g a b slot) := of_maj (maj_eng ..) rfl
theorem mxdisarm (g : Guard) (slot : BitVec 3) : Statement (.mxdisarm g slot) := of_maj (maj_eng ..) rfl
theorem mxdrain (g : Guard) (a b c : Reg) (cs : Compl) (bank : BitVec 2) : Statement (.mxdrain g a b c cs bank) := of_maj (maj_eng ..) rfl
theorem mxramp (g : Guard) (n : BitVec 16) : Statement (.mxramp g n) := of_maj (maj_eng ..) rfl
theorem mxwait (g : Guard) (n : BitVec 8) : Statement (.mxwait g n) := of_maj (maj_eng ..) rfl
theorem mxpert (g : Guard) (a : Reg) (n m : BitVec 7) (bank : BitVec 2) : Statement (.mxpert g a n m bank) := of_maj (maj_eng ..) rfl
theorem mxstat (g : Guard) (a : Reg) (bank : BitVec 2) : Statement (.mxstat g a bank) := of_maj (maj_eng ..) rfl
theorem cpy (g : Guard) (a b c : Reg) (cs : Compl) (ctslot ct : BitVec 1) : Statement (.cpy g a b c cs ctslot ct) := of_maj (maj_eng ..) rfl
theorem cpy2d (g : Guard) (a b c : Reg) (cs : Compl) : Statement (.cpy2d g a b c cs) := of_maj (maj_eng ..) rfl
theorem cpyg (g : Guard) (a b c : Reg) (cs : Compl) (arr : BitVec 1) : Statement (.cpyg g a b c cs arr) := of_maj (maj_eng ..) rfl
theorem cpys (g : Guard) (a b c : Reg) (cs : Compl) : Statement (.cpys g a b c cs) := of_maj (maj_eng ..) rfl
theorem cpyf (g : Guard) (a b c : Reg) (cs : Compl) : Statement (.cpyf g a b c cs) := of_maj (maj_eng ..) rfl
theorem cpym (g : Guard) (a b c : Reg) (cs : Compl) (km1 : BitVec 4) : Statement (.cpym g a b c cs km1) := of_maj (maj_eng ..) rfl
theorem cpstat (g : Guard) (a : Reg) (tag : BitVec 12) : Statement (.cpstat g a tag) := of_maj (maj_eng ..) rfl
theorem cpwait (g : Guard) (n : BitVec 10) : Statement (.cpwait g n) := of_maj (maj_eng ..) rfl
theorem ctcfg (g : Guard) (a b c : Reg) (slot : BitVec 1) : Statement (.ctcfg g a b c slot) := of_maj (maj_eng ..) rfl
theorem wopen (g : Guard) (a b c : Reg) (w : BitVec 4) : Statement (.wopen g a b c w) := of_maj (maj_eng ..) rfl
theorem wadv (g : Guard) (a : Reg) (cs : Compl) (w : BitVec 4) : Statement (.wadv g a cs w) := of_maj (maj_eng ..) rfl
theorem wsync (g : Guard) (a : Reg) (cs : Compl) (w : BitVec 4) : Statement (.wsync g a cs w) := of_maj (maj_eng ..) rfl
theorem wclose (g : Guard) (cs : Compl) (w : BitVec 4) : Statement (.wclose g cs w) := of_maj (maj_eng ..) rfl
theorem binit (g : Guard) (a : Reg) (p1 : BitVec 1) (count : BitVec 7) : Statement (.binit g a p1 count) := of_maj (maj_eng ..) rfl
theorem bexp (g : Guard) (a b : Reg) : Statement (.bexp g a b) := of_maj (maj_eng ..) rfl
theorem barv (g : Guard) (a b : Reg) (scope : BitVec 2) (exp : BitVec 1) : Statement (.barv g a b scope exp) := of_maj (maj_eng ..) rfl
theorem bwait (g : Guard) (a b : Reg) (scope : BitVec 2) : Statement (.bwait g a b scope) := of_maj (maj_eng ..) rfl
theorem btest (g : Guard) (pc : PReg) (a b : Reg) (scope : BitVec 2) : Statement (.btest g pc a b scope) := of_maj (maj_eng ..) rfl
theorem qbind (g : Guard) (a : Reg) (kind : BitVec 4) (n : BitVec 3) : Statement (.qbind g a kind n) := of_maj (maj_eng ..) rfl
theorem qstat (g : Guard) (a : Reg) (n : BitVec 3) : Statement (.qstat g a n) := of_maj (maj_eng ..) rfl
theorem snd (g : Guard) (a b : Reg) (s : SendOp) : Statement (.snd g a b s) := of_maj (maj_eng ..) rfl
theorem sndv (g : Guard) (a : Reg) (vb : VReg) (s : SendOp) : Statement (.sndv g a vb s) := of_maj (maj_eng ..) rfl
theorem rdopen (g : Guard) (a b c : Reg) (base : BitVec 9) (all sat : BitVec 1) (ty op : BitVec 4) : Statement (.rdopen g a b c base all sat ty op) := of_maj (maj_eng ..) rfl
theorem rdcs (g : Guard) (a b : Reg) : Statement (.rdcs g a b) := of_maj (maj_eng ..) rfl
theorem rdcb (g : Guard) (a b c : Reg) : Statement (.rdcb g a b c) := of_maj (maj_eng ..) rfl
theorem rdres (g : Guard) (a b : Reg) (cs : Compl) (rq : BitVec 1) : Statement (.rdres g a b cs rq) := of_maj (maj_eng ..) rfl
theorem inj (g : Guard) (a b : Reg) : Statement (.inj g a b) := of_maj (maj_eng ..) rfl
theorem injc (g : Guard) (a b : Reg) : Statement (.injc g a b) := of_maj (maj_eng ..) rfl
theorem wbhdr (g : Guard) (va : VReg) (b : Reg) : Statement (.wbhdr g va b) := of_maj (maj_eng ..) rfl
theorem wbpop (g : Guard) (a b : Reg) : Statement (.wbpop g a b) := of_maj (maj_eng ..) rfl
theorem wbrel (g : Guard) (b : Reg) : Statement (.wbrel g b) := of_maj (maj_eng ..) rfl
theorem wdrive (g : Guard) (a b c : Reg) : Statement (.wdrive g a b c) := of_maj (maj_eng ..) rfl
theorem wdstop (g : Guard) : Statement (.wdstop g) := of_maj (maj_eng ..) rfl
theorem dsync (g : Guard) (l : BitVec 2) : Statement (.dsync g l) := of_maj (maj_eng ..) rfl
theorem darv (g : Guard) (l : BitVec 2) : Statement (.darv g l) := of_maj (maj_eng ..) rfl
theorem dwait (g : Guard) (l : BitVec 2) : Statement (.dwait g l) := of_maj (maj_eng ..) rfl
theorem spawn (g : Guard) (a b c : Reg) (base8 : BitVec 6) (size8 s : BitVec 3) : Statement (.spawn g a b c base8 size8 s) := of_maj (maj_eng ..) rfl
theorem swait (g : Guard) (s : BitVec 3) : Statement (.swait g s) := of_maj (maj_eng ..) rfl
theorem mfs (g : Guard) (d : Reg) (num : BitVec 12) : Statement (.mfs g d num) := of_maj (maj_rri ..) rfl
theorem mts (g : Guard) (a : Reg) (num : BitVec 12) : Statement (.mts g a num) := of_maj (maj_rri ..) rfl
theorem topo (g : Guard) (d : Reg) (w : BitVec 1) : Statement (.topo g d w) := of_maj (maj_rri ..) rfl
theorem syscall (g : Guard) (d a : Reg) (lode : BitVec 1) (svc : BitVec 16) : Statement (.syscall g d a lode svc) := of_maj (maj_rri ..) rfl
theorem tqpush (g : Guard) (d a : Reg) (lvl : BitVec 2) : Statement (.tqpush g d a lvl) := of_maj (maj_rri ..) rfl
theorem tret (g : Guard) : Statement (.tret g) := of_maj (maj_rri ..) rfl
theorem tqpop (g : Guard) (d a : Reg) (lvl : BitVec 2) (cx : BitVec 6) : Statement (.tqpop g d a lvl cx) := of_maj (maj_rri ..) rfl
theorem tqdone (g : Guard) (d a : Reg) (cx : BitVec 6) : Statement (.tqdone g d a cx) := of_maj (maj_rri ..) rfl
theorem tqcancel (g : Guard) (d a : Reg) (cx : BitVec 6) : Statement (.tqcancel g d a cx) := of_maj (maj_rri ..) rfl
theorem tqresume (g : Guard) (d : Reg) (lvl : BitVec 2) (cx : BitVec 6) : Statement (.tqresume g d lvl cx) := of_maj (maj_rri ..) rfl
theorem place (g : Guard) (d a : Reg) (cx : BitVec 6) : Statement (.place g d a cx) := of_maj (maj_rri ..) rfl
theorem cxnew (g : Guard) (d : Reg) (sealed : BitVec 1) (cx : BitVec 6) : Statement (.cxnew g d sealed cx) := of_maj (maj_rri ..) rfl
theorem cxkill (g : Guard) (d : Reg) (cx : BitVec 6) : Statement (.cxkill g d cx) := of_maj (maj_rri ..) rfl
theorem cxreclaim (g : Guard) (d : Reg) (cx : BitVec 6) : Statement (.cxreclaim g d cx) := of_maj (maj_rri ..) rfl
theorem cxsave (g : Guard) (d : Reg) (vlt lsall : BitVec 1) (cx : BitVec 6) : Statement (.cxsave g d vlt lsall cx) := of_maj (maj_rri ..) rfl
theorem cxload (g : Guard) (d : Reg) (cx : BitVec 6) : Statement (.cxload g d cx) := of_maj (maj_rri ..) rfl
theorem preempt (g : Guard) (d : Reg) (cx : BitVec 6) : Statement (.preempt g d cx) := of_maj (maj_rri ..) rfl
theorem tlbinv (g : Guard) (d a : Reg) (npg : BitVec 20) (mode : BitVec 2) (cx : BitVec 6) : Statement (.tlbinv g d a npg mode cx) := of_maj (maj_rri ..) rfl
theorem nameinv (g : Guard) (d a : Reg) (all : BitVec 1) : Statement (.nameinv g d a all) := of_maj (maj_rri ..) rfl
theorem halt (g : Guard) (d : Reg) (us : BitVec 20) : Statement (.halt g d us) := of_maj (maj_rri ..) rfl
theorem cfgw (g : Guard) (d a : Reg) : Statement (.cfgw g d a) := of_maj (maj_rri ..) rfl
theorem recchk (g : Guard) (d a : Reg) : Statement (.recchk g d a) := fun h => Bool.noConfusion h
theorem cfgr (g : Guard) (d a : Reg) : Statement (.cfgr g d a) := of_maj (maj_rri ..) rfl
theorem gtabw (g : Guard) (d a : Reg) (grp : BitVec 8) : Statement (.gtabw g d a grp) := of_maj (maj_rri ..) rfl
theorem ttabw (g : Guard) (d a : Reg) (tree : BitVec 9) : Statement (.ttabw g d a tree) := of_maj (maj_rri ..) rfl
theorem errinjWrite (g : Guard) (a : Reg) : Statement (.errinjWrite g a) := fun h => Bool.noConfusion h
theorem faultansWrite (g : Guard) (a : Reg) : Statement (.faultansWrite g a) := fun h => Bool.noConfusion h
theorem rowstateKill (g : Guard) (a : Reg) : Statement (.rowstateKill g a) := fun h => Bool.noConfusion h
theorem remapstatRebuild (g : Guard) (a : Reg) : Statement (.remapstatRebuild g a) := fun h => Bool.noConfusion h
theorem ckptCheckpoint (g : Guard) (a : Reg) : Statement (.ckptCheckpoint g a) := fun h => Bool.noConfusion h
theorem ckptRestore (g : Guard) (a : Reg) : Statement (.ckptRestore g a) := fun h => Bool.noConfusion h
theorem strandStart (task : Nat) : Statement (.strandStart task) := fun h => Bool.noConfusion h
theorem commandCompletion (agent strand : Nat) (cpe : Bool) : Statement (.commandCompletion agent strand cpe) := fun h => Bool.noConfusion h
theorem copyLanding (agent entry piece : Nat) : Statement (.copyLanding agent entry piece) := fun h => Bool.noConfusion h
theorem drainStep (agent : Nat) : Statement (.drainStep agent) := fun h => Bool.noConfusion h
theorem windowFill (agent entry : Nat) : Statement (.windowFill agent entry) := fun h => Bool.noConfusion h
theorem triggeredPass (agent : Nat) : Statement (.triggeredPass agent) := fun h => Bool.noConfusion h
theorem passResultHeld (agent run : Nat) : Statement (.passResultHeld agent run) := fun h => Bool.noConfusion h
theorem rampUpEnd (agent : Nat) : Statement (.rampUpEnd agent) := fun h => Bool.noConfusion h
theorem rampDownEnd (agent : Nat) : Statement (.rampDownEnd agent) := fun h => Bool.noConfusion h
theorem rampGapExpiry (agent : Nat) : Statement (.rampGapExpiry agent) := fun h => Bool.noConfusion h
theorem messageLanding (msg : Nat) : Statement (.messageLanding msg) := fun h => Bool.noConfusion h
theorem phaseRelease (agent strand level : Nat) (peers : Bool) : Statement (.phaseRelease agent strand level peers) := fun h => Bool.noConfusion h
theorem nameWalk (agent name : Nat) : Statement (.nameWalk agent name) := fun h => Bool.noConfusion h
theorem linkRetry (tile port : Nat) (fails : Nat) : Statement (.linkRetry tile port fails) := fun h => Bool.noConfusion h
theorem routerLost (tile : Nat) (fromInside : Bool) : Statement (.routerLost tile fromInside) := fun h => Bool.noConfusion h
theorem callAdmission (router group : Nat) : Statement (.callAdmission router group) := fun h => Bool.noConfusion h
theorem partialCombine (router group pos : Nat) : Statement (.partialCombine router group pos) := fun h => Bool.noConfusion h
theorem rootRounding (router group : Nat) : Statement (.rootRounding router group) := fun h => Bool.noConfusion h
theorem completionToken (agent group : Nat) : Statement (.completionToken agent group) := fun h => Bool.noConfusion h
theorem callReplay (group cause pos : Nat) : Statement (.callReplay group cause pos) := fun h => Bool.noConfusion h
theorem calldlExpiry (router group : Nat) : Statement (.calldlExpiry router group) := fun h => Bool.noConfusion h
theorem ringHop (group : Nat) : Statement (.ringHop group) := fun h => Bool.noConfusion h
theorem beaconRequest (request : Nat) : Statement (.beaconRequest request) := fun h => Bool.noConfusion h
theorem beaconSend (group : Nat) : Statement (.beaconSend group) := fun h => Bool.noConfusion h
theorem blockArrival (group agent : Nat) (bad : Bool) : Statement (.blockArrival group agent bad) := fun h => Bool.noConfusion h
theorem replayToken (group : Nat) : Statement (.replayToken group) := fun h => Bool.noConfusion h
theorem releaseCredit (group : Nat) : Statement (.releaseCredit group) := fun h => Bool.noConfusion h
theorem chainWalk (group : Nat) : Statement (.chainWalk group) := fun h => Bool.noConfusion h
theorem branchCondition (group : Nat) : Statement (.branchCondition group) := fun h => Bool.noConfusion h
theorem markWrite (group : Nat) : Statement (.markWrite group) := fun h => Bool.noConfusion h
theorem blockInvocation (agent : Nat) : Statement (.blockInvocation agent) := fun h => Bool.noConfusion h
theorem epilogueEnd (agent : Nat) : Statement (.epilogueEnd agent) := fun h => Bool.noConfusion h
theorem chainStopToken (group : Nat) : Statement (.chainStopToken group) := fun h => Bool.noConfusion h
theorem chainEndUnit (group agent : Nat) : Statement (.chainEndUnit group agent) := fun h => Bool.noConfusion h
theorem chainLeave (agent : Nat) : Statement (.chainLeave agent) := fun h => Bool.noConfusion h
theorem tailObserved (cx lvl : Nat) : Statement (.tailObserved cx lvl) := fun h => Bool.noConfusion h
theorem dependenceCounterZero (task : Nat) : Statement (.dependenceCounterZero task) := fun h => Bool.noConfusion h
theorem taskPlacement (cx : Nat) : Statement (.taskPlacement cx) := fun h => Bool.noConfusion h
theorem prefetch (task : Nat) : Statement (.prefetch task) := fun h => Bool.noConfusion h
theorem taskRetirement (task : Nat) : Statement (.taskRetirement task) := fun h => Bool.noConfusion h
theorem watchdog (task : Nat) : Statement (.watchdog task) := fun h => Bool.noConfusion h
theorem killMarker (cx checkpoint : Nat) : Statement (.killMarker cx checkpoint) := fun h => Bool.noConfusion h
theorem killAcknowledgement (cx : Nat) : Statement (.killAcknowledgement cx) := fun h => Bool.noConfusion h
theorem orphan (response : Nat) : Statement (.orphan response) := fun h => Bool.noConfusion h
theorem reclaimMarker (cx : Nat) : Statement (.reclaimMarker cx) := fun h => Bool.noConfusion h
theorem stopMarker (agent : Nat) : Statement (.stopMarker agent) := fun h => Bool.noConfusion h
theorem preemptDrained (cx : Nat) : Statement (.preemptDrained cx) := fun h => Bool.noConfusion h
theorem tlbinvMarker (op agent : Nat) : Statement (.tlbinvMarker op agent) := fun h => Bool.noConfusion h
theorem translationWalk (walk : Nat) : Statement (.translationWalk walk) := fun h => Bool.noConfusion h
theorem translationTimeout (token : Nat) : Statement (.translationTimeout token) := fun h => Bool.noConfusion h
theorem syscallAnswer (agent strand : Nat) (ans : Word) : Statement (.syscallAnswer agent strand ans) := fun h => Bool.noConfusion h
theorem haltTimeout (agent strand : Nat) : Statement (.haltTimeout agent strand) := fun h => Bool.noConfusion h
theorem faultRecord (core : Nat) : Statement (.faultRecord core) := fun h => Bool.noConfusion h
theorem cxlMemRead (port : Nat) (line : Nat) : Statement (.cxlMemRead port line) := fun h => Bool.noConfusion h
theorem cxlMemWrite (port : Nat) (line : Nat) (data : Line) (mask : BitVec 64) : Statement (.cxlMemWrite port line data mask) := fun h => Bool.noConfusion h
theorem hostSnoop (port : Nat) (addr : Nat) (data : Line) : Statement (.hostSnoop port addr data) := fun h => Bool.noConfusion h
theorem mailboxGo (port : Nat) (attest : Bool) (len op : Nat) (payload : List Byte) : Statement (.mailboxGo port attest len op payload) := fun h => Bool.noConfusion h
theorem mgmtCommand (port : Nat) (code : Byte) (answer : List Byte) : Statement (.mgmtCommand port code answer) := fun h => Bool.noConfusion h
theorem certificateChain (port : Nat) : Statement (.certificateChain port) := fun h => Bool.noConfusion h
theorem attestationReport (port : Nat) : Statement (.attestationReport port) := fun h => Bool.noConfusion h
theorem signatureCheck (port : Nat) : Statement (.signatureCheck port) := fun h => Bool.noConfusion h
theorem bootstatRead (port : Nat) : Statement (.bootstatRead port) := fun h => Bool.noConfusion h
theorem convoyFormation (port : Nat) : Statement (.convoyFormation port) := fun h => Bool.noConfusion h
theorem revocationOrder (port : Nat) : Statement (.revocationOrder port) := fun h => Bool.noConfusion h
theorem mailboxAnswer (port : Nat) (attest : Bool) : Statement (.mailboxAnswer port attest) := fun h => Bool.noConfusion h
theorem ulnenuFrame (cx inc gen sender kind no : Nat) (cipher : List Byte) (tag : BitVec 128) : Statement (.ulnenuFrame cx inc gen sender kind no cipher tag) := fun h => Bool.noConfusion h
theorem peerCopyLanding (cx inc name offset : Nat) (data : List Byte) (bar : Option Nat) : Statement (.peerCopyLanding cx inc name offset data bar) := fun h => Bool.noConfusion h
theorem correctedError (array : Nat) (unit : Nat) : Statement (.correctedError array unit) := fun h => Bool.noConfusion h
theorem uncorrectableError (key : Nat) : Statement (.uncorrectableError key) := fun h => Bool.noConfusion h
theorem scrub (key : Nat) (found : Bool) : Statement (.scrub key found) := fun h => Bool.noConfusion h
theorem hueDrift (agent rcv : Nat) : Statement (.hueDrift agent rcv) := fun h => Bool.noConfusion h
theorem hueUnlock (agent rcv : Nat) : Statement (.hueUnlock agent rcv) := fun h => Bool.noConfusion h
theorem hueRelock (agent rcv : Nat) : Statement (.hueRelock agent rcv) := fun h => Bool.noConfusion h
theorem receiverLost (agent rcv : Nat) : Statement (.receiverLost agent rcv) := fun h => Bool.noConfusion h
theorem tileDeclaredDead (tile : Nat) : Statement (.tileDeclaredDead tile) := fun h => Bool.noConfusion h
theorem shiftRemapWave (row : Nat) : Statement (.shiftRemapWave row) := fun h => Bool.noConfusion h
theorem waveDrained : Statement (.waveDrained) := fun h => Bool.noConfusion h
theorem waveRepaired : Statement (.waveRepaired) := fun h => Bool.noConfusion h
theorem fullRebuild : Statement (.fullRebuild) := fun h => Bool.noConfusion h
theorem checkpointQuiesced : Statement (.checkpointQuiesced) := fun h => Bool.noConfusion h
theorem checkpointCommit : Statement (.checkpointCommit) := fun h => Bool.noConfusion h
theorem checkpointFailed : Statement (.checkpointFailed) := fun h => Bool.noConfusion h
theorem powerGood : Statement (.powerGood) := fun h => Bool.noConfusion h
theorem selfTestOverrun (field : Nat) : Statement (.selfTestOverrun field) := fun h => Bool.noConfusion h
theorem calibrationComplete : Statement (.calibrationComplete) := fun h => Bool.noConfusion h
theorem calibrationOverrun : Statement (.calibrationOverrun) := fun h => Bool.noConfusion h
theorem serviceSwitch : Statement (.serviceSwitch) := fun h => Bool.noConfusion h
theorem laserUnitLoss (u : Nat) : Statement (.laserUnitLoss u) := fun h => Bool.noConfusion h
theorem thermalThrottle (field : Nat) : Statement (.thermalThrottle field) := fun h => Bool.noConfusion h
theorem throttleLift (field : Nat) : Statement (.throttleLift field) := fun h => Bool.noConfusion h
theorem thermalPowerDown (field : Nat) : Statement (.thermalPowerDown field) := fun h => Bool.noConfusion h
theorem powerLoss : Statement (.powerLoss) := fun h => Bool.noConfusion h
theorem requestAtHome (request : Nat) : Statement (.requestAtHome request) := fun h => Bool.noConfusion h
theorem responseLanding (response : Nat) : Statement (.responseLanding response) := fun h => Bool.noConfusion h
theorem passEnd (agent : Nat) : Statement (.passEnd agent) := fun h => Bool.noConfusion h
theorem cxloadComplete (cx : Nat) : Statement (.cxloadComplete cx) := fun h => Bool.noConfusion h
theorem cxsaveComplete (cx : Nat) : Statement (.cxsaveComplete cx) := fun h => Bool.noConfusion h
theorem nameinvAcknowledgement : Statement (.nameinvAcknowledgement) := fun h => Bool.noConfusion h
theorem checkpointRestoreComplete : Statement (.checkpointRestoreComplete) := fun h => Bool.noConfusion h
theorem contextFreed (cx : Nat) : Statement (.contextFreed cx) := fun h => Bool.noConfusion h
theorem receiverRetune (agent rcv : Nat) : Statement (.receiverRetune agent rcv) := fun h => Bool.noConfusion h
theorem selfTestEnd (dead : List Nat) (trims : List (Nat × Word)) : Statement (.selfTestEnd dead trims) := fun h => Bool.noConfusion h
theorem laserUnitRelit (u : Nat) : Statement (.laserUnitRelit u) := fun h => Bool.noConfusion h

end Sys2Proof.Laws.Maj
end

