-- ==== Sys2Proof/Tests/Slice0.lean ====
section
/-!
SUPPORT. Tests: words that decode, terms that are refused, single steps, and for every statement with hypotheses a state and operands that meet them.
-/

namespace Sys2Proof.Tests

open Sys2Proof Sys2Proof.Machine Sys2Proof.Spec

-- One theorem at a time: each proof runs in the kernel and needs its own stack.
set_option Elab.async false

/-! ### States and checks -/

/-- Tile 0 with name 0 and a READY strand 0 of context 0, 56 registers and privilege U, at VA 2^48. -/
def tile : State := loadTile { State.reset with boot := { State.reset.boot with stage := 4 } }
/-- Binnacle core 0 with a READY strand of privilege L at module address 64 KiB. -/
def core0 : State := let s := loadCore { State.reset with boot := { State.reset.boot with stage := 4 } }; { s with env := { s.env with agent := coreBase } }
/-- Registers of the current strand set. -/
def regs (l : List (Nat × Word)) (s : State) : State := l.foldl (fun s p => setCurReg s p.1 p.2) s
/-- Vector registers of the current strand set. -/
def vregs (l : List (Nat × Line)) (s : State) : State := modCur s (fun t => l.foldl (fun t p => { t with vregs := mput t.vregs p.1 p.2 }) t)
/-- Predicates of the current strand set. -/
def preds (l : List (Nat × Nat)) (s : State) : State := modCur s (fun t => l.foldl (fun t p => { t with preds := mput t.preds p.1 (BitVec.ofNat 7 p.2) }) t)

/-- The outcome is a next state with a property. -/
def after (o : Host.Outcome State Fault Refusal) (p : State → Bool) : Bool := match o with | .next t => p t | _ => false
/-- The outcome is that next state. -/
def goes (o : Host.Outcome State Fault Refusal) (t : State) : Bool := after o (fun u => u == t)
/-- The instruction goes to the state that a statement gives. -/
def same (o p : Host.Outcome State Fault Refusal) : Bool := match p with | .next t => goes o t | _ => false

/-- A computation answers a value and a state. -/
def okB {α : Type} [DecidableEq α] (x : Exec α) (s : State) (a : α) (t : State) : Bool := match x s with | .ok (b, u) => b == a && u == t | .error _ => false
theorem ok_of {α : Type} [DecidableEq α] {x : Exec α} {s t : State} {a : α} (h : okB x s a t = true) : x s = .ok (a, t) := by
  unfold okB at h
  split at h
  · rename_i b u e; rw [Bool.and_eq_true, beq_iff_eq, beq_iff_eq] at h; rw [e, h.1, h.2]
  · cases h
/-- Source fields give values. -/
def readsB : List Reg → State → List Word → State → Bool
  | [], s, vs, t => vs == [] && t == s
  | r :: rs, s, v :: vs, t => (match readReg r s with | .ok (w, u) => w == v && readsB rs u vs t | .error _ => false)
  | _ :: _, _, [], _ => false
theorem reads_of {rs : List Reg} {s t : State} {vs : List Word} (h : readsB rs s vs t = true) : readsAll rs s vs t := by
  induction rs generalizing s vs with
  | nil => simp only [readsB, Bool.and_eq_true, beq_iff_eq] at h; exact h
  | cons r rs ih =>
    cases vs with
    | nil => cases h
    | cons v vs =>
      simp only [readsB] at h
      split at h
      · rename_i w u e
        rw [Bool.and_eq_true, beq_iff_eq] at h
        exact ⟨v, vs, u, by rw [e, h.1], ih h.2, rfl⟩
      · cases h
/-- A base field gives a value. -/
theorem base_of {f : Reg} {s t : State} {v : Word} (h : okB (baseOf f) s v t = true) : baseRead f s v t := by
  have e := ok_of h
  unfold baseRead
  split
  · rename_i hf; subst hf; cases e; exact ⟨rfl, rfl⟩
  · rename_i hf; rw [baseOf_reg hf] at e; exact e

/-- Each instruction puts its value into g3, and the PC moves on. -/
def gives (s : State) (l : List (Instr × Word)) : Bool := l.all (fun p => after (exec p.1 s) (fun t => curReg t 3 == p.2 && (cur t).pc == (cur s).pc + 8))
/-- Each instruction puts its number into p3. -/
def givesP (s : State) (l : List (Instr × Nat)) : Bool := l.all (fun p => after (exec p.1 s) (fun t => predOf (cur t) 3 == p.2))

/-! ### Decoding (03 R79 to R89): for every word of R88, the word with its fields in their places is the instruction

Fields stand in the order of R80, each word has guard p5 negated where its instruction accepts that, and the values differ from field to field. -/

/-- A word from its fields, each with its lowest bit. -/
def word (fields : List (Nat × Nat)) : Nat := fields.foldl (fun w f => w + f.2 * 2 ^ f.1) 0
/-- Bits 63:52 (R79): MAJ, PG 5, PN 1. -/
def top (maj : Nat) : List (Nat × Nat) := [(56, maj), (53, 5), (52, 1)]
def rrr (maj fn d a b c mod : Nat) : Nat := word (top maj ++ [(42, fn), (36, d), (30, a), (24, b), (18, c), (0, mod)])
def rri (maj fn d a imm : Nat) : Nat := word (top maj ++ [(46, fn), (40, d), (34, a), (0, imm)])
def mem (maj fn t base idx scl size ord scope disp : Nat) : Nat :=
  word (top maj ++ [(46, fn), (40, t), (34, base), (28, idx), (26, scl), (23, size), (20, ord), (18, scope), (0, disp)])
def brw (fn cond a b off : Nat) : Nat := word (top 0x50 ++ [(46, fn), (42, cond), (36, a), (30, b), (0, off)])
def vec (maj fn vd va vb vc et rm sat skew g imm : Nat) : Nat :=
  word (top maj ++ [(46, fn), (41, vd), (36, va), (31, vb), (26, vc), (22, et), (19, rm), (18, sat), (13, skew), (7, g), (0, imm)])
def eng (maj fn a b c imm : Nat) : Nat := word (top maj ++ [(46, fn), (40, a), (34, b), (28, c), (0, imm)])
def sys (maj fn d a imm : Nat) : Nat := word (top maj ++ [(46, fn), (40, d), (34, a), (0, imm)])

/-- The guard of a word without one. -/
def g0 : Guard := ⟨0, 0⟩
/-- The guard of those words. -/
def g : Guard := ⟨5, 1⟩
/-- The same without PN. -/
def gp : Guard := ⟨5, 0⟩
def noPn (w : Nat) : Nat := w - 2 ^ 52

/-- Every word of a list is its instruction. -/
def decodes (l : List (Nat × Instr)) : Bool := l.all (fun p => decide (decodeTableWord 64 p.1 = some p.2))
/-- And its instruction has that word. -/
def encodes (l : List (Nat × Instr)) : Bool := l.all (fun p => (encode p.2).toNat == p.1)

def words01 : List (Nat × Instr) :=
  [(rrr 0x01 0 1 2 3 0 1, .add g 1 2 3 1 0), (rrr 0x01 1 1 2 3 0 2, .sub g 1 2 3 0 1), (rrr 0x01 2 1 2 3 0 3, .mul g 1 2 3 1 1),
   (rrr 0x01 3 1 2 3 0 2, .mulh g 1 2 3 0 1), (rrr 0x01 4 1 2 3 0 1, .div g 1 2 3 1 0), (rrr 0x01 5 1 2 3 0 2, .rem g 1 2 3 0 1),
   (rrr 0x01 6 1 2 3 0 1, .and g 1 2 3 1 0), (rrr 0x01 7 1 2 3 0 2, .or g 1 2 3 0 1), (rrr 0x01 8 1 2 3 0 1, .xor g 1 2 3 1 0),
   (rrr 0x01 9 1 2 3 0 2, .andn g 1 2 3 0 1), (rrr 0x01 10 1 2 3 0 1, .shl g 1 2 3 1 0), (rrr 0x01 11 1 2 3 0 2, .shr g 1 2 3 0 1),
   (rrr 0x01 12 1 2 3 0 1, .sar g 1 2 3 1 0), (rrr 0x01 13 1 2 3 0 2, .rot g 1 2 3 0 1), (rrr 0x01 14 1 2 3 0 1, .min g 1 2 3 1 0),
   (rrr 0x01 15 1 2 3 0 2, .max g 1 2 3 0 1)] ++
  [(rrr 0x01 16 1 2 0 0 1, .clz g 1 2 1 0), (rrr 0x01 17 1 2 0 0 2, .ctz g 1 2 0 1), (rrr 0x01 18 1 2 0 0 1, .popc g 1 2 1 0),
   (rrr 0x01 19 1 2 0 0 2, .bswap g 1 2 0 1), (rrr 0x01 20 1 2 0 0 (9 * 64 + 2), .ext g 1 2 9 1),
   (rrr 0x01 21 1 2 0 0 (7 * 4096 + 9 * 64 + 2), .bfx g 1 2 7 9 1), (rrr 0x01 22 1 2 3 0 (7 * 4096 + 9 * 64), .bfi g 1 2 3 7 9),
   (rrr 0x01 23 1 2 3 4 0, .sel g 1 2 3 4), (rrr 0x01 24 1 2 0 0 0, .mov g 1 2), (rrr 0x01 25 1 2 3 0 (9 * 4 + 1), .cmp g 1 2 3 9 1),
   (rrr 0x01 26 1 2 3 0 (3 * 4096), .lea g 1 2 3 3)]

def words21 : List (Nat × Instr) :=
  [(rri 0x21 0 1 2 0x3FFFFFFFD, .addImm g 1 2 (-3)), (rri 0x21 1 1 2 5, .subImm g 1 2 5), (rri 0x21 2 1 2 6, .mulImm g 1 2 6),
   (rri 0x21 3 1 2 7, .mulhImm g 1 2 7), (rri 0x21 4 1 2 8, .divImm g 1 2 8), (rri 0x21 5 1 2 9, .remImm g 1 2 9),
   (rri 0x21 6 1 2 10, .andImm g 1 2 10), (rri 0x21 7 1 2 11, .orImm g 1 2 11), (rri 0x21 8 1 2 12, .xorImm g 1 2 12),
   (rri 0x21 9 1 2 13, .andnImm g 1 2 13), (rri 0x21 10 1 2 63, .shlImm g 1 2 63), (rri 0x21 11 1 2 32, .shrImm g 1 2 32),
   (rri 0x21 12 1 2 31, .sarImm g 1 2 31), (rri 0x21 13 1 2 1, .rotImm g 1 2 1), (rri 0x21 14 1 2 14, .minImm g 1 2 14),
   (rri 0x21 15 1 2 15, .maxImm g 1 2 15), (rri 0x21 25 1 2 (9 * 2 ^ 30 + 0x3FFFFFFE), .cmpImm g 1 2 9 (-2)), (rri 0x21 26 1 2 16, .leaImm g 1 2 16),
   (rri 0x22 0 1 0 17, .movi g 1 17), (rri 0x22 1 1 2 18, .movhi g 1 2 18)]

def words03 : List (Nat × Instr) :=
  [(rrr 0x03 0 1 2 3 0 (1 * 2 ^ 15), .fadd g 1 2 3 1), (rrr 0x03 1 1 2 3 0 (2 * 2 ^ 15), .fsub g 1 2 3 2), (rrr 0x03 2 1 2 3 0 (3 * 2 ^ 15), .fmul g 1 2 3 3),
   (rrr 0x03 3 1 2 3 4 (4 * 2 ^ 15), .ffma g 1 2 3 4 4), (rrr 0x03 4 1 2 3 0 (5 * 2 ^ 15), .fdiv g 1 2 3 5), (rrr 0x03 5 1 2 0 0 (6 * 2 ^ 15), .fsqrt g 1 2 6),
   (rrr 0x03 6 1 2 3 0 0, .fmin g 1 2 3), (rrr 0x03 7 1 2 3 0 0, .fmax g 1 2 3), (rrr 0x03 8 1 2 3 0 (13 * 4), .fcmp g 1 2 3 13),
   (rrr 0x03 9 1 2 0 0 (1 * 2 ^ 15 + 2 ^ 14 + 5 * 2 ^ 10 + 4 * 2 ^ 6 + 2), .fcvt g 1 2 1 1 5 4 1), (rrr 0x03 10 1 2 0 0 0, .fclass g 1 2),
   (rrr 0x04 0 1 0 0 0 64, .pset g 1 64), (rrr 0x04 1 1 2 3 0 0, .plim g 1 2 3), (rrr 0x04 2 1 2 3 0 0, .pmin g 1 2 3), (rrr 0x04 3 1 2 3 0 0, .pmax g 1 2 3),
   (rrr 0x04 4 1 2 0 0 0, .prd g 1 2), (rri 0x05 0 1 2 0x3FFFFFFFF, .grd g 1 2 (-1)), (rri 0x05 1 1 2 5, .gwr g 1 2 5)]

def words40 : List (Nat × Instr) :=
  [(mem 0x40 0 1 2 3 3 6 1 2 0x3FFFF, .ld g 1 6 ⟨1, 2⟩ ⟨2, 3, 3, -1⟩), (mem 0x40 1 1 2 63 0 4 2 3 5, .st g 1 4 ⟨2, 3⟩ ⟨2, 63, 0, 5⟩),
   (mem 0x40 2 4 63 3 1 3 1 1 6, .ldp g 4 ⟨1, 1⟩ ⟨63, 3, 1, 6⟩), (mem 0x40 3 4 2 3 2 3 2 2 7, .stp g 4 ⟨2, 2⟩ ⟨2, 3, 2, 7⟩),
   (mem 0x41 0 1 2 3 0 2 1 2 5, .amoadd g 1 2 3 2 ⟨1, 2⟩ 5), (mem 0x41 1 1 2 3 1 3 2 3 5, .amomin g 1 2 3 1 3 ⟨2, 3⟩ 5),
   (mem 0x41 2 1 2 3 0 6 3 1 5, .amomax g 1 2 3 0 6 ⟨3, 1⟩ 5), (mem 0x41 3 1 2 3 0 3 4 0 5, .amoand g 1 2 3 3 ⟨4, 0⟩ 5),
   (mem 0x41 4 1 2 3 0 2 1 2 6, .amoor g 1 2 3 2 ⟨1, 2⟩ 6), (mem 0x41 5 1 2 3 0 6 1 2 7, .amoxor g 1 2 3 6 ⟨1, 2⟩ 7),
   (mem 0x41 6 1 63 3 0 3 1 2 8, .amoswp g 1 63 3 3 ⟨1, 2⟩ 8), (mem 0x41 7 1 2 3 0 3 3 2 9, .amocas g 1 2 3 3 ⟨3, 2⟩ 9),
   (mem 0x41 8 1 2 3 0 2 1 2 10, .amofadd g 1 2 3 ⟨1, 2⟩ 10), (mem 0x42 0 0 0 0 0 0 2 3 0, .fence g ⟨2, 3⟩), (mem 0x42 1 0 0 0 0 0 0 0 0x20001, .sbar g 0x20001)]

def words50 : List (Nat × Instr) :=
  [(brw 0 0 0 0 0x3FFFFFFE, .br g (-2)), (brw 1 9 1 2 3, .bc g 9 1 2 3), (brw 2 1 7 0 4, .bp g 1 7 4), (brw 3 0 1 0 5, .call g 1 5), (brw 4 0 1 0 0, .ret g 1),
   (brw 5 0 1 0 6, .jmpr g 1 6), (brw 6 0 1 0 7, .loop g 1 7), (sys 0x52 0 0 0 1, .exit g 1), (sys 0x52 1 0 0 0, .yield g), (sys 0x52 2 0 0 0, .nop g),
   (sys 0x52 3 0 0 0x3FFFFFFFF, .trap g 0x3FFFFFFFF), (sys 0x52 4 0 0 5, .brk g 5)]

def words60 : List (Nat × Instr) :=
  [(vec 0x60 0 1 2 3 0 0 1 1 0 0 0, .vadd g 1 2 3 0 1 1), (vec 0x60 1 1 2 3 0 1 2 0 0 0 0, .vsub g 1 2 3 1 2 0), (vec 0x60 2 1 2 3 0 5 0 1 0 0 0, .vmul g 1 2 3 5 0 1),
   (vec 0x60 3 1 2 3 4 2 3 1 0 0 0, .vfma g 1 2 3 4 2 3 1), (vec 0x60 4 1 2 3 4 0 4 1 0 0 0, .vfms g 1 2 3 4 0 4 1), (vec 0x60 5 1 2 3 0 6 0 0 0 0 0, .vmin g 1 2 3 6),
   (vec 0x60 6 1 2 3 0 7 0 0 0 0 0, .vmax g 1 2 3 7), (vec 0x60 7 1 2 0 0 8 0 1 0 0 0, .vabs g 1 2 8 1), (vec 0x60 8 1 2 0 0 9 0 1 0 0 0, .vneg g 1 2 9 1),
   (vec 0x60 9 1 2 3 4 10 0 0 0 0 0, .vclamp g 1 2 3 4 10), (vec 0x61 0 1 2 0 0 0 1 0 0 0 0, .vexp2 g 1 2 0 1), (vec 0x61 1 1 2 0 0 1 2 0 0 0 0, .vlog2 g 1 2 1 2),
   (vec 0x61 2 1 2 0 0 2 3 0 0 0 0, .vrcp g 1 2 2 3), (vec 0x61 3 1 2 0 0 0 4 0 0 0 0, .vrsq g 1 2 0 4), (vec 0x61 4 1 2 0 0 1 5 0 0 0 0, .vtanh g 1 2 1 5),
   (vec 0x61 5 1 2 0 0 2 6 0 0 0 0, .verf g 1 2 2 6)] ++
  [(vec 0x62 0 1 2 3 0 5 0 0 0 0 0, .vand g 1 2 3 5), (vec 0x62 1 1 2 3 0 6 0 0 0 0 0, .vor g 1 2 3 6), (vec 0x62 2 1 2 3 0 7 0 0 0 0 0, .vxor g 1 2 3 7),
   (vec 0x62 3 1 2 0 0 8 0 0 0 0 0, .vnot g 1 2 8), (vec 0x62 4 1 2 3 0 9 0 0 0 0 0, .vshl g 1 2 3 9 0), (vec 0x62 5 1 2 0 0 10 0 0 0 0 (64 + 5), .vshr g 1 2 0 10 69),
   (vec 0x62 6 1 2 0 0 5 0 0 0 0 (64 + 31), .vsar g 1 2 0 5 95), (vec 0x62 7 1 2 3 0 6 0 0 0 0 0, .vmulh g 1 2 3 6),
   (noPn (vec 0x63 0 1 2 3 0 3 0 0 0 0 13), .vcmp gp 1 2 3 3 13), (vec 0x63 1 1 2 3 0 4 0 0 0 0 7, .vsel g 1 2 3 4 7),
   (vec 0x63 2 1 2 0 0 5 1 1 0 0 (16 + 7), .vcvt g 1 2 5 1 1 1 7), (vec 0x63 3 1 2 0 0 6 0 0 0 0 0, .vmov g 1 2 6), (vec 0x63 4 1 0 0 0 7 0 0 0 9 0, .vbcast g 1 9 7),
   (vec 0x63 5 0 2 0 0 8 0 0 0 9 15, .vext g 9 2 8 15), (vec 0x63 6 1 0 0 0 9 0 0 0 8 31, .vins g 1 8 9 31), (vec 0x63 7 1 0 0 0 10 0 0 0 7 0, .viota g 1 7 10),
   (vec 0x63 8 0 0 0 0 0 0 0 0 0 3, .vcond g 3)]

def words64 : List (Nat × Instr) :=
  [(vec 0x64 0 1 2 0 0 0 0 0 15 0 0, .vshup g 1 2 0 15), (vec 0x64 1 1 2 0 0 1 0 0 17 0 0, .vshdn g 1 2 1 (-15)), (vec 0x64 2 1 2 0 0 2 0 0 31 0 0, .vrot g 1 2 2 (-1)),
   (vec 0x64 3 1 2 0 0 0 1 1 15 0 0, .vscan g 1 2 0 1 1 0), (vec 0x64 4 1 2 0 0 5 0 0 15 0 5, .vred g 1 2 5 0 0 5), (vec 0x64 5 1 2 0 0 6 0 0 15 9 0, .vmaxi g 1 2 9 6),
   (vec 0x64 6 1 2 3 0 7 0 0 30 0 0, .vperm g 1 2 3 7 (-2)), (vec 0x65 0 1 2 3 0 3 1 1 0 0 0, .vpack g 1 2 3 3 1 1), (vec 0x65 1 1 2 0 0 4 0 0 0 0 1, .vunpk g 1 2 4 1),
   (vec 0x65 2 1 2 0 0 1 2 1 0 9 1, .vscale g 1 2 9 1 2 1 1), (vec 0x65 3 1 2 0 0 4 3 0 0 8 1, .vqnt g 1 2 8 4 3 1),
   (mem 0x66 0 31 2 3 1 0 1 1 5, .vld g 31 0 ⟨1, 1⟩ ⟨2, 3, 1, 5⟩), (mem 0x66 1 1 2 63 0 1 2 2 6, .vst g 1 1 ⟨2, 2⟩ ⟨2, 63, 0, 6⟩),
   (noPn (mem 0x66 2 1 2 3 2 2 0 0 7), .vldff gp 1 2 ⟨2, 3, 2, 7⟩), (mem 0x66 3 1 2 3 3 0 1 3 8, .vlds g 1 0 ⟨1, 3⟩ ⟨2, 3, 3, 8⟩),
   (mem 0x66 4 1 2 63 1 1 2 1 9, .vsts g 1 1 ⟨2, 1⟩ ⟨2, 63, 1, 9⟩), (mem 0x66 5 1 2 31 2 2 1 2 10, .vgath g 1 2 ⟨1, 2⟩ 2 31 2 10),
   (mem 0x66 6 1 63 3 3 0 2 3 11, .vscat g 1 0 ⟨2, 3⟩ 63 3 3 11), (mem 0x66 7 1 2 3 0 1 1 1 12, .vldb g 1 1 ⟨1, 1⟩ ⟨2, 3, 0, 12⟩)]

/-- A completion specifier (R166): BR, Q, BAR, TAG. -/
def spec166 (br q bar tag low : Nat) : Nat := br * 2 ^ 22 + q * 2 ^ 21 + bar * 2 ^ 20 + tag * 2 ^ 8 + low

def words80 : List (Nat × Instr) :=
  [(eng 0x80 0 0 0 0 (0x101 * 16 + 1 * 4 + 2), .mxcfg g 0x101 1 2), (eng 0x80 1 0 0 0 3, .mxzero g 3), (eng 0x80 2 1 0 0 (128 + 5 * 16 + 1 * 2 + 1), .mxldw g 1 1 5 1 1),
   (eng 0x80 3 1 2 0 (2 ^ 14 + 2 * 2 ^ 12 + 2 ^ 10 + 127 * 8 + 4 + 1), .mxpass g 1 2 1 2 0 1 127 1 1), (eng 0x80 4 1 2 0 7, .mxarm g 1 2 7), (eng 0x80 5 0 0 0 6, .mxdisarm g 6),
   (eng 0x80 6 1 2 3 (spec166 4 1 1 0xABC 2), .mxdrain g 1 2 3 ⟨4, 1, 1, 0xABC⟩ 2), (eng 0x80 7 0 0 0 0xFFFE, .mxramp g 0xFFFE), (eng 0x80 8 0 0 0 0xFE, .mxwait g 0xFE),
   (eng 0x80 9 1 0 0 (101 * 2 ^ 9 + 99 * 4 + 1), .mxpert g 1 101 99 1), (eng 0x80 10 1 0 0 2, .mxstat g 1 2),
   (eng 0x81 0 1 2 3 (spec166 4 1 1 5 3), .cpy g 1 2 3 ⟨4, 1, 1, 5⟩ 1 1), (eng 0x81 1 1 2 4 (spec166 0 1 0 5 0), .cpy2d g 1 2 4 ⟨0, 1, 0, 5⟩),
   (eng 0x81 2 1 2 4 (spec166 5 0 1 6 1), .cpyg g 1 2 4 ⟨5, 0, 1, 6⟩ 1), (eng 0x81 3 1 2 4 (spec166 0 0 0 7 0), .cpys g 1 2 4 ⟨0, 0, 0, 7⟩),
   (eng 0x81 4 1 2 3 (spec166 6 0 1 8 0), .cpyf g 1 2 3 ⟨6, 0, 1, 8⟩), (eng 0x81 5 1 2 4 (spec166 0 1 0 9 15), .cpym g 1 2 4 ⟨0, 1, 0, 9⟩ 15),
   (eng 0x81 6 1 0 0 0xABC, .cpstat g 1 0xABC), (eng 0x81 7 0 0 0 0x3FE, .cpwait g 0x3FE)] ++
  [(eng 0x82 0 1 2 3 1, .ctcfg g 1 2 3 1), (eng 0x82 1 1 2 3 14, .wopen g 1 2 3 14), (eng 0x82 2 1 0 0 (spec166 4 1 1 5 13), .wadv g 1 ⟨4, 1, 1, 5⟩ 13),
   (eng 0x82 3 1 0 0 (spec166 0 1 0 6 12), .wsync g 1 ⟨0, 1, 0, 6⟩ 12), (eng 0x82 4 0 0 0 (spec166 5 0 1 7 11), .wclose g ⟨5, 0, 1, 7⟩ 11),
   (eng 0x83 0 1 0 0 (128 + 126), .binit g 1 1 126), (eng 0x83 1 1 2 0 0, .bexp g 1 2), (eng 0x83 2 1 2 0 (2 * 256 + 1), .barv g 1 2 2 1),
   (eng 0x83 3 1 2 0 (3 * 256), .bwait g 1 2 3), (eng 0x83 4 1 2 3 (1 * 256), .btest g 3 1 2 1)]

def wordsA0 : List (Nat × Instr) :=
  [(eng 0xA0 0 1 0 0 (4 * 8 + 7), .qbind g 1 4 7), (eng 0xA0 1 1 0 0 6, .qstat g 1 6),
   (eng 0xA0 2 1 2 0 (2 * 2 ^ 18 + 2 ^ 17 + 3 * 2 ^ 15 + 2 ^ 14 + 13 * 2 ^ 10 + 512), .snd g 1 2 ⟨2, 1, 3, 1, 13, 512⟩),
   (eng 0xA0 3 1 31 0 (14 * 2 ^ 10 + 8), .sndv g 1 31 ⟨0, 0, 0, 0, 14, 8⟩), (eng 0xA1 0 1 2 3 (188 * 2 ^ 10 + 2 ^ 9 + 2 ^ 8 + 1 * 16), .rdopen g 1 2 3 188 1 1 1 0),
   (eng 0xA1 1 1 2 0 0, .rdcs g 1 2), (eng 0xA1 2 1 2 3 0, .rdcb g 1 2 3), (eng 0xA1 3 1 2 0 (spec166 4 1 1 5 1), .rdres g 1 2 ⟨4, 1, 1, 5⟩ 1),
   (eng 0xA2 0 1 2 0 0, .inj g 1 2), (eng 0xA2 1 1 2 0 0, .injc g 1 2), (eng 0xA2 2 31 2 0 0, .wbhdr g 31 2), (eng 0xA2 3 1 2 0 0, .wbpop g 1 2),
   (eng 0xA2 4 0 2 0 0, .wbrel g 2), (eng 0xA2 5 1 2 3 0, .wdrive g 1 2 3), (eng 0xA2 6 0 0 0 0, .wdstop g), (eng 0xA3 0 0 0 0 3, .dsync g 3),
   (eng 0xA3 1 0 0 0 2, .darv g 2), (eng 0xA3 2 0 0 0 1, .dwait g 1), (eng 0xA3 3 1 2 3 (62 * 64 + 7 * 8 + 5), .spawn g 1 2 3 62 7 5), (eng 0xA3 4 0 0 0 6, .swait g 6)]

def wordsC0 : List (Nat × Instr) :=
  [(sys 0xC0 0 1 0 0x2B0, .mfs g 1 0x2B0), (sys 0xC0 1 0 2 0x141, .mts g 2 0x141), (sys 0xC0 2 1 0 1, .topo g 1 1), (sys 0xC0 3 1 2 (2 ^ 33 + 0xFFFE), .syscall g 1 2 1 0xFFFE),
   (sys 0xC0 4 1 2 3, .tqpush g 1 2 3), (sys 0xC0 5 0 0 0, .tret g), (sys 0xC1 0 1 2 (2 * 64 + 61), .tqpop g 1 2 2 61), (sys 0xC1 1 1 2 60, .tqdone g 1 2 60),
   (sys 0xC1 2 1 2 59, .tqcancel g 1 2 59), (sys 0xC1 3 1 0 (3 * 64 + 58), .tqresume g 1 3 58), (sys 0xC1 4 1 2 57, .place g 1 2 57), (sys 0xC1 5 1 0 (64 + 56), .cxnew g 1 1 56),
   (sys 0xC1 6 1 0 55, .cxkill g 1 55), (sys 0xC1 7 1 0 54, .cxreclaim g 1 54), (sys 0xC1 8 1 0 (64 + 53), .cxsave g 1 0 1 53), (sys 0xC1 9 1 0 52, .cxload g 1 52),
   (sys 0xC1 10 1 0 51, .preempt g 1 51), (sys 0xC1 11 1 2 (0xABCDE * 256 + 1 * 64 + 50), .tlbinv g 1 2 0xABCDE 1 50), (sys 0xC1 12 1 2 64, .nameinv g 1 2 1),
   (sys 0xC1 13 1 0 0xFFFFE, .halt g 1 0xFFFFE), (sys 0xC2 0 1 2 0, .cfgw g 1 2), (sys 0xC2 1 1 2 0, .cfgr g 1 2), (sys 0xC2 2 1 2 0xFE, .gtabw g 1 2 0xFE),
   (sys 0xC2 3 1 2 0x1FE, .ttabw g 1 2 0x1FE)]

theorem test_decode_integer : decodes words01 = true := by decide +kernel
theorem test_decode_immediate : decodes words21 = true := by decide +kernel
theorem test_decode_float_predicate : decodes words03 = true := by decide +kernel
theorem test_decode_memory : decodes words40 = true := by decide +kernel
theorem test_decode_control : decodes words50 = true := by decide +kernel
theorem test_decode_vector : decodes words60 = true := by decide +kernel
theorem test_decode_lanes_vector_memory : decodes words64 = true := by decide +kernel
theorem test_decode_engines : decodes words80 = true := by decide +kernel
theorem test_decode_network : decodes wordsA0 = true := by decide +kernel
theorem test_decode_system : decodes wordsC0 = true := by decide +kernel

/-- The encoder writes the same words. -/
theorem test_encode : [words01, words21, words03, words40, words50, words60, words64, words80, wordsA0, wordsC0].all encodes = true := by decide +kernel

/-- The worked encodings that the spec prints (03 R78; 04, 05, 06, 07 and 16, worked encodings). -/
theorem test_decode_printed :
    decodes [(0x5200800000000000, .nop g0), (0x2106420480000005, .cmpImm g0 2 1 2 5), (0x2200410400004000, .movhi g0 1 1 0x4000),
      (0x0300245180009400, .fcvt g0 5 6 1 0 5 0 0), (0x05000953FFFFFFFF, .grd g0 9 20 (-1)), (0x4000840BF1800020, .ldp g0 4 ⟨0, 0⟩ ⟨2, 63, 0, 32⟩),
      (0x4101C40851B80000, .amocas g0 4 2 5 3 ⟨3, 2⟩ 0), (0x4200000000280000, .fence g0 ⟨2, 2⟩), (0x500180603FFFFFFE, .loop g0 6 (-2)),
      (0x60000A6380400000, .vadd g0 5 6 7 1 0 0), (0x640104300001E000, .vred g0 2 3 0 0 0 0), (0x640042200003C000, .vshdn g0 1 2 0 (-2)),
      (0x6300044280000002, .vcmp g0 2 4 5 0 2), (0x63008C7000400000, .vcvt g0 6 7 1 0 0 0 0), (0x6301120000000600, .vbcast g0 9 12 0),
      (0x6500D4B000C00280, .vqnt g0 10 11 5 3 0 0), (0x6600030BF1000040, .vld g0 3 2 ⟨0, 0⟩ ⟨2, 63, 0, 64⟩), (0x6680882BF1000000, .vldff ⟨4, 0⟩ 8 2 ⟨10, 63, 0, 0⟩)] = true := by
  decide +kernel
theorem test_decode_printed_engines :
    decodes [(0x8000400000000002, .mxzero g0 2), (0x8000C824000003F9, .mxpass g0 8 9 0 0 0 0 127 0 1), (0x80018A2CC0200500, .mxdrain g0 10 11 12 ⟨0, 1, 0, 5⟩ 0),
      (0x8100041461D00300, .cpy g0 4 5 6 ⟨7, 0, 1, 3⟩ 0 0), (0x8101C00000000000, .cpwait g0 0), (0x8200441460000003, .wopen g0 4 5 6 3), (0x8300030000000001, .binit g0 3 0 1),
      (0x8300830000000100, .barv g0 3 0 1 0), (0x8300C31000000000, .bwait g0 3 4 0), (0xA000040000000009, .qbind g0 4 1 1), (0xA00000000000002A, .qbind g0 0 5 2),
      (0xA000841400000C10, .snd g0 4 5 ⟨0, 0, 0, 0, 3, 16⟩), (0xA00084140000CC10, .snd g0 4 5 ⟨0, 0, 1, 1, 3, 16⟩), (0xA100041460000200, .rdopen g0 4 5 6 0 1 0 0 0),
      (0xA100441C00000000, .rdcs g0 4 7), (0xA100842090000000, .rdcb g0 4 8 9), (0xA100C42802D00700, .rdres g0 4 10 ⟨11, 0, 1, 7⟩ 0), (0xA200041400000000, .inj g0 4 5),
      (0xA201001800000000, .wbrel g0 6), (0xC000405400000020, .mts g0 21 0x20), (0xC000840000000000, .topo g0 4 0), (0xC001031000000002, .tqpush g0 3 4 2),
      (0xC001400000000000, .tret g0), (0xC101820000000005, .cxkill g0 2 5), (0xC200061C00000000, .cfgw g0 6 7), (0xC200820C00000005, .gtabw g0 2 3 5)] = true := by
  decide +kernel
/-! ### Terms that no word says: one for each check of WellFormed, which refuses it -/

def refused (l : List Instr) : Bool := l.all (fun i => !wellFormed i)

/-- Fields, conditions, counts and predicates of the scalar instructions (04 R108 to R115, 03 R83 to R86). -/
theorem test_refused_scalar :
    refused [.bfx g0 1 2 60 4 0, .bfi g0 1 2 3 1 63, .cmp g0 0 1 2 0 0, .cmp g0 1 1 2 10 0, .cmpImm g0 0 1 0 5, .cmpImm g0 1 1 10 5, .fadd g0 1 2 3 7, .fsub g0 1 2 3 7,
      .fmul g0 1 2 3 7, .ffma g0 1 2 3 4 7, .fdiv g0 1 2 3 7, .fsqrt g0 1 2 7, .fcmp g0 0 1 2 0, .fcmp g0 1 1 2 14, .fcvt g0 1 2 7 0 0 5 0, .fcvt g0 1 2 0 0 2 5 0,
      .fcvt g0 1 2 0 0 11 5 0, .fcvt g0 1 2 0 0 5 2 0, .fcvt g0 1 2 0 0 0 6 1, .pset g0 0 1, .pset g0 1 65, .plim g0 0 1 2, .pmin g0 0 1 2, .pmax g0 0 1 2] = true := by
  decide

/-- Sizes, orders, scopes, pairs and absent indexes of the memory instructions (04 R117, R121, R125, R126). -/
theorem test_refused_memory :
    refused [.ld g0 1 7 ⟨0, 0⟩ ⟨1, 63, 0, 0⟩, .ld g0 1 3 ⟨2, 0⟩ ⟨1, 63, 0, 0⟩, .ld g0 1 3 ⟨0, 1⟩ ⟨1, 63, 0, 0⟩, .ld g0 1 3 ⟨4, 1⟩ ⟨1, 63, 0, 0⟩, .st g0 1 7 ⟨0, 0⟩ ⟨1, 63, 0, 0⟩,
      .st g0 1 3 ⟨1, 0⟩ ⟨1, 63, 0, 0⟩, .ldp g0 2 ⟨4, 0⟩ ⟨1, 63, 0, 0⟩, .ldp g0 3 ⟨0, 0⟩ ⟨1, 63, 0, 0⟩, .ldp g0 56 ⟨0, 0⟩ ⟨1, 63, 0, 0⟩, .stp g0 2 ⟨1, 0⟩ ⟨1, 63, 0, 0⟩,
      .stp g0 3 ⟨0, 0⟩ ⟨1, 63, 0, 0⟩, .amoadd g0 1 2 3 4 ⟨1, 0⟩ 0, .amoadd g0 1 2 3 3 ⟨0, 0⟩ 0, .amoadd g0 1 2 3 3 ⟨5, 0⟩ 0, .amoadd g0 1 2 63 3 ⟨1, 0⟩ 0,
      .amomin g0 1 2 3 1 2 ⟨1, 0⟩ 0, .amomax g0 1 2 3 1 6 ⟨1, 0⟩ 0, .amocas g0 56 2 3 3 ⟨1, 0⟩ 0, .amofadd g0 1 2 3 ⟨0, 0⟩ 0, .amofadd g0 1 2 63 ⟨1, 0⟩ 0, .fence g0 ⟨0, 0⟩,
      .fence g0 ⟨4, 0⟩, .sbar g0 0, .bc g0 10 1 2 0, .loop g0 56 0] = true := by decide

/-- Element types, rounding, saturation, lanes and indices of the vector instructions (05 R136, R137, R146 to R162). -/
theorem test_refused_vector :
    refused [.vadd g0 1 2 3 3 0 0, .vadd g0 1 2 3 0 7 0, .vadd g0 1 2 3 5 1 0, .vfma g0 1 2 3 4 11 0 0, .vmin g0 1 2 3 4, .vabs g0 1 2 3 0, .vclamp g0 1 2 3 4 15,
      .vexp2 g0 1 2 3 0, .vexp2 g0 1 2 0 7, .vand g0 1 2 3 0, .vmulh g0 1 2 3 11, .vshl g0 1 2 3 5 64, .vshl g0 1 2 3 5 1, .vcmp g 1 2 3 0 0, .vcmp g0 0 2 3 0 0,
      .vcmp g0 1 2 3 0 14, .vcmp g0 1 2 3 5 10, .vsel g0 1 2 3 11 1, .vext g0 1 2 0 16, .vins g0 1 2 7 64, .vcvt g0 1 2 0 7 0 0 5, .vcvt g0 1 2 0 0 0 0 11,
      .vcvt g0 1 2 0 0 0 1 5, .vcvt g0 1 2 1 0 0 2 0, .viota g0 1 2 0] = true := by decide
theorem test_refused_lanes :
    refused [.vshup g0 1 2 0 (-1), .vshdn g0 1 2 0 1, .vshdn g0 1 2 0 (-16), .vrot g0 1 2 0 (-16), .vperm g0 1 2 3 0 1, .vperm g0 1 2 3 0 (-16), .vscan g0 1 2 0 0 0 3,
      .vscan g0 1 2 5 0 1 1, .vscan g0 1 2 0 1 0 1, .vred g0 1 2 5 0 0 6, .vred g0 1 2 0 0 0 3, .vmaxi g0 1 2 3 3, .vpack g0 1 2 3 0 0 0, .vpack g0 1 2 3 6 1 0, .vunpk g0 1 2 5 0,
      .vscale g0 1 2 3 5 0 0 0, .vqnt g0 1 2 3 1 0 0, .vqnt g0 1 2 3 3 7 0, .vld g0 1 3 ⟨0, 0⟩ ⟨1, 63, 0, 0⟩, .vld g0 1 0 ⟨2, 0⟩ ⟨1, 63, 0, 0⟩,
      .vst g0 1 0 ⟨1, 0⟩ ⟨1, 63, 0, 0⟩, .vldff g0 1 0 ⟨1, 63, 0, 0⟩, .vldff g 1 0 ⟨1, 63, 0, 0⟩, .vldff gp 1 3 ⟨1, 63, 0, 0⟩, .vgath g0 1 3 ⟨0, 0⟩ 1 2 0 0,
      .vscat g0 1 0 ⟨1, 0⟩ 1 2 0 0] = true := by decide

/-- Subfields of the engine, network and system words (06, 07, 16). -/
theorem test_refused_engines :
    refused [.mxcfg g0 0 2 0, .mxldw g0 1 0 0 3 0, .mxldw g0 1 1 2 0 0, .mxldw g0 1 1 1 2 0, .mxpass g0 1 2 0 3 0 0 0 0 0, .mxpass g0 1 2 1 0 0 0 0 0 0,
      .mxpass g0 1 2 0 2 1 0 0 0 0, .mxdrain g0 1 2 3 ⟨4, 0, 0, 0⟩ 0, .cpy g0 1 2 3 ⟨4, 1, 0, 0⟩ 0 0, .cpy2d g0 1 2 3 ⟨0, 0, 0, 0⟩, .cpyg g0 1 2 56 ⟨0, 0, 0, 0⟩ 0,
      .cpym g0 1 2 4 ⟨1, 0, 0, 0⟩ 0, .barv g0 1 2 0 0, .btest g0 0 1 2 0, .qbind g0 1 9 0, .qbind g0 1 5 0, .snd g0 1 2 ⟨1, 0, 0, 0, 0, 1⟩, .snd g0 1 2 ⟨0, 0, 1, 0, 0, 1⟩,
      .snd g0 1 2 ⟨0, 0, 0, 0, 0, 0⟩, .snd g0 1 2 ⟨0, 0, 0, 0, 0, 513⟩, .sndv g0 1 2 ⟨0, 0, 0, 0, 0, 9⟩, .rdopen g0 1 2 3 189 0 0 0 0, .rdopen g0 1 2 3 0 0 0 8 0,
      .rdopen g0 1 2 3 0 0 0 0 7, .rdopen g0 1 2 3 0 0 0 0 4, .rdopen g0 1 2 3 0 0 1 4 0, .rdopen g0 1 2 3 0 0 1 0 1, .rdres g0 1 2 ⟨4, 0, 0, 0⟩ 0, .wdrive g0 56 2 3,
      .spawn g0 1 2 3 0 0 1, .tlbinv g0 1 2 1 3 0, .tlbinv g0 1 2 0 2 1] = true := by decide

/-- Words that are refused at each step of 03 R90: the step decides, and the field. -/
def decodeFails (w : Nat) (priv size : Nat) (bad : Bool) (reason field : Nat) : Bool :=
  match decode (BitVec.ofNat 64 w) priv size with
  | .error e => e.priv == bad && e.reason == reason && e.field == field
  | .ok _ => false
theorem test_refused_words :
    decodeFails 0 2 56 false 1 56 ∧ decodeFails (2 ^ 64 - 1) 2 56 false 1 56 ∧ decodeFails (sys 0x52 5 0 0 0) 2 56 false 2 46 ∧
      decodeFails (rrr 0x01 27 0 0 0 0 0) 2 56 false 2 42 ∧ decodeFails (rri 0x21 16 1 2 0) 2 56 false 2 46 ∧ decodeFails (sys 0xC1 6 2 0 5) 0 56 true 1 0 ∧
      decodeFails (sys 0xC2 0 1 2 0) 1 56 true 2 0 ∧ decodeFails (mem 0x40 0 1 2 63 0 7 0 0 0) 0 56 false 3 23 ∧ decodeFails (sys 0x52 2 0 0 1) 0 56 false 4 0 ∧
      decodeFails (rrr 0x01 0 1 24 2 0 0) 0 24 false 5 30 := by decide +kernel
/-- The fields that R474 names for step 7. -/
theorem test_refused_words_step7 :
    decodeFails (eng 0xA1 0 1 2 3 4) 0 56 false 6 4 ∧ decodeFails (eng 0xA1 0 1 2 3 (256 + 4 * 16)) 0 56 false 6 8 ∧
      decodeFails (vec 0x63 0 1 2 3 0 0 0 0 0 0 0) 0 56 false 6 52 ∧ decodeFails (noPn (mem 0x66 2 1 2 63 0 0 0 0 0) - 5 * 2 ^ 53) 0 56 false 6 53 ∧
      decodeFails (mem 0x66 2 1 2 63 0 0 0 0 0) 0 56 false 6 52 ∧ decodeFails (rrr 0x01 21 1 2 0 0 (60 * 4096 + 4 * 64)) 0 56 false 6 12 := by decide +kernel

/-! ### Scalar instructions -/

/-- g1 = -7, g2 = 3, g4 = 8, g5 = 0. -/
def ints : State := regs [(1, -7), (2, 3), (4, 8)] tile

/-- Hand calculation from 04 R106 to R108. -/
theorem test_integer : gives ints
    [(.add g0 3 1 2 0 0, -4), (.sub g0 3 1 2 0 0, -10), (.mul g0 3 1 2 0 0, -21), (.mulh g0 3 1 2 0 0, -1), (.mulh g0 3 1 2 0 1, 2), (.div g0 3 1 2 0 0, -2),
     (.div g0 3 1 2 1 1, 1431655763), (.rem g0 3 1 2 0 0, -1), (.rem g0 3 1 2 1 0, -1), (.and g0 3 1 2 0 0, 1), (.or g0 3 1 2 0 0, -5), (.xor g0 3 1 2 0 0, -6),
     (.andn g0 3 1 2 0 0, -8), (.shl g0 3 1 2 0 0, -56), (.shr g0 3 1 2 0 0, 0x1FFFFFFFFFFFFFFF), (.shr g0 3 1 2 1 0, 0x1FFFFFFF), (.sar g0 3 1 2 0 0, -1),
     (.rot g0 3 1 2 0 0, 0xFFFFFFFFFFFFFFCF), (.min g0 3 1 2 0 0, -7), (.min g0 3 1 2 0 1, 3), (.max g0 3 1 2 0 0, 3), (.max g0 3 1 2 1 1, 0xFFFFFFF9),
     (.clz g0 3 2 0 0, 62), (.clz g0 3 5 1 0, 32), (.ctz g0 3 4 0 0, 3), (.ctz g0 3 5 0 0, 64), (.popc g0 3 1 0 0, 62), (.bswap g0 3 2 0 0, 0x0300000000000000),
     (.bswap g0 3 2 1 0, 0x03000000)] = true := by decide +kernel
/-- The two corners of 04 R107. -/
theorem test_division_corners : gives ints [(.div g0 3 1 5 0 0, -1), (.rem g0 3 1 5 0 0, -7), (.div g0 3 1 5 1 1, 0xFFFFFFFF)] = true ∧
    gives (regs [(1, 0x8000000000000000), (2, -1)] tile) [(.div g0 3 1 2 0 0, 0x8000000000000000), (.rem g0 3 1 2 0 0, 0)] = true := by decide +kernel
theorem test_fields : gives ints
    [(.ext g0 3 1 2 0, 1), (.ext g0 3 1 3 0, -7), (.bfx g0 3 1 1 3 0, -4), (.bfx g0 3 1 1 3 1, 12), (.bfi g0 3 2 1 4 3, 0xFFFFFFFFFFFFFF39), (.sel g0 3 1 2 5, 3),
     (.sel g0 3 1 2 4, -7), (.mov g0 3 1, -7), (.lea g0 3 1 2 3, 17), (.leaImm g0 3 1 8, 1), (.movi g0 3 (-1), -1), (.movhi g0 3 2 0x3FFFFFFF, 0xFFFFFFFC00000003)] = true := by
  decide +kernel
theorem test_immediate : gives ints
    [(.addImm g0 3 1 (-3), -10), (.subImm g0 3 1 (-3), -4), (.mulImm g0 3 1 5, -35), (.mulhImm g0 3 1 5, -1), (.divImm g0 3 1 (-3), 2), (.divImm g0 3 1 0, -1),
     (.remImm g0 3 1 4, -3), (.andImm g0 3 1 15, 9), (.orImm g0 3 1 6, -1), (.xorImm g0 3 1 (-1), 6), (.andnImm g0 3 1 (-8), 1), (.shlImm g0 3 2 62, 0xC000000000000000),
     (.shrImm g0 3 1 60, 15), (.sarImm g0 3 1 1, -4), (.rotImm g0 3 2 63, 0x8000000000000001), (.minImm g0 3 1 (-8), -8), (.maxImm g0 3 1 (-8), -7)] = true := by decide +kernel
/-- Hypotheses of IntegerResult: a register form, a count, a field with POS + LEN = 63. -/
theorem witness_IntegerResult :
    (arithForm (.add g0 3 1 2 1 0)).isSome ∧ (countForm (.clz g0 3 1 0 0)).isSome ∧ (moveForm (.bfx g0 3 1 60 3 0)).isSome ∧ wellFormed (.bfx g0 3 1 60 3 0) = true ∧
    executes (cur ints) g0 = true ∧ checkDst 3 ints = .ok ((), ints) ∧ readsAll [1, 2] ints [-7, 3] ints ∧ writeReg 3 (-4) ints = .ok ((), setCurReg ints 3 (-4)) ∧
    isG 3 ∧ (∀ r ∈ [(1 : Reg), 2], isG r) :=
  ⟨by decide, by decide, by decide, by decide, by decide, ok_of (by decide +kernel), reads_of (by decide +kernel), ok_of (by decide +kernel), by decide, by decide⟩

theorem test_predicates :
    givesP (preds [(4, 40), (5, 9)] ints)
      [(.cmp g0 3 1 2 2 0, 1), (.cmp g0 3 1 2 4 0, 0), (.cmp g0 3 1 2 9 1, 1), (.cmp g0 3 1 1 0 0, 1), (.cmpImm g0 3 1 6 (-7), 1), (.cmpImm g0 3 1 8 (-7), 1),
       (.cmpImm g0 3 2 4 (-1), 1), (.pset g0 3 64, 64), (.plim g0 3 2 1, 10), (.plim g0 3 1 2, 0), (.pmin g0 3 4 5, 9), (.pmax g0 3 4 0, 64)] = true ∧
      gives (preds [(4, 40)] ints) [(.prd g0 3 4, 40), (.prd g0 3 0, 64)] = true := by decide +kernel
theorem witness_PredicateResult :
    wellFormed (.cmp g0 3 1 2 9 0) = true ∧ (predForm (.cmp g0 3 1 2 9 0)).isSome ∧ wellFormed (.pset g0 3 64) = true ∧ (predForm (.pset g0 3 64)).isSome ∧
    executes (cur ints) g0 = true ∧ readsAll [1, 2] ints [-7, 3] ints ∧ readsAll [] ints [] ints :=
  ⟨by decide, by decide, by decide, by decide, by decide, reads_of (by decide +kernel), rfl, rfl⟩

/-- g1 = 1.0, g2 = 2.0, g4 = 4.0, g5 = +0, g6 = -5.0, g7 a signalling NaN, g8 = -0. -/
def floats : State := regs [(1, 0x3F800000), (2, 0x40000000), (4, 0x40800000), (6, 0xC0A00000), (7, 0x7F800001), (8, 0x80000000)] tile
/-- Flags after an instruction. -/
def flagsOf (i : Instr) (s : State) : Word := match exec i s with | .next t => (cur t).sys.fpflags | _ => 0xFF

/-- Exact cases of 04 R112, and the conversions and classes of R113 and R114. -/
theorem test_float : gives floats
    [(.fadd g0 3 1 2 0, 0x40400000), (.fsub g0 3 1 2 0, 0xBF800000), (.fmul g0 3 2 4 0, 0x41000000), (.ffma g0 3 2 4 1 0, 0x41100000), (.fdiv g0 3 1 4 0, 0x3E800000),
     (.fdiv g0 3 1 5 0, 0x7F800000), (.fsqrt g0 3 4 0, 0x40000000), (.fsqrt g0 3 8 0, 0x80000000), (.fmin g0 3 1 2, 0x3F800000), (.fmax g0 3 1 2, 0x40000000),
     (.fcvt g0 3 6 1 0 5 0 0, -5), (.fcvt g0 3 6 1 0 5 0 1, -5), (.fcvt g0 3 4 0 0 1 0 0, 0x4080), (.fclass g0 3 8, 8), (.fclass g0 3 7, 256), (.fclass g0 3 1, 64)] = true := by
  decide +kernel
/-- Flags (02 R55): invalid for a NaN to an integer and for a signalling NaN, divide by zero; FCMP on a quiet comparison raises none. -/
theorem test_float_flags : flagsOf (.fadd g0 3 7 1 0) floats = 1 ∧ flagsOf (.fdiv g0 3 1 5 0) floats = 2 ∧ flagsOf (.fcvt g0 3 7 1 0 5 0 0) floats = 1 ∧
    flagsOf (.fcmp g0 3 1 2 2) floats = 0 ∧ flagsOf (.fcmp g0 3 7 2 2) floats = 1 ∧ givesP floats [(.fcmp g0 3 1 2 2, 1), (.fcmp g0 3 5 8 0, 1), (.fcmp g0 3 7 2 13, 1)] = true := by
  decide +kernel
/-- The same strand with the traps of FPCTL<8:4> enabled. -/
def floatTraps : State := modCur floats (fun t => { t with sys := { t.sys with fpctl := 0x1F0, tvec := 0x1000 } })
theorem witness_FloatInstructions :
    (fpForm (.fdiv g0 3 1 5 6)).isSome ∧ executes (cur floatTraps) g0 = true ∧ checkDst 3 floatTraps = .ok ((), floatTraps) ∧
    readsAll [1, 5] floatTraps [0x3F800000, 0] floatTraps ∧ fpTraps (cur floatTraps) 2 = true ∧ fpTraps (cur floats) 2 = false ∧
    goes (exec (.fdiv g0 3 1 5 6) floatTraps) (fpTrap floatTraps floatTraps 2 0) = true ∧
    writeReg 3 0x7F800000 floats = .ok ((), setCurReg floats 3 0x7F800000) ∧ wellFormed (.fcmp g0 3 7 2 13) = true ∧
    readsAll [7, 2] floatTraps [0x7F800001, 0x40000000] floatTraps ∧ goes (exec (.fcmp g0 3 7 2 13) floatTraps) (fpTrap floatTraps floatTraps 1 0) = true :=
  ⟨by decide, by decide, ok_of (by decide +kernel), reads_of (by decide +kernel), by decide, by decide, by decide +kernel, ok_of (by decide +kernel), by decide,
    reads_of (by decide +kernel), by decide +kernel⟩

/-- The strand of 04 R116: ALLOC.SIZE 24. -/
def small : State := regs [(20, 0), (7, 77), (9, 5)] (modCur tile (fun t => { t with size := 24, sys := { t.sys with tvec := 0x1000 } }))
/-- The worked example of 04 R116: GRD of g[0 - 1] traps, and g[8 - 1] reads g7. -/
theorem test_indexed :
    after (exec (.grd g0 9 20 (-1)) small) (fun t => (cur t).sys.tcause == 3 && (cur t).sys.taddr == -1 && (cur t).sys.tinfo == 24 && (cur t).pc == 0x1000) = true ∧
    after (exec (.grd g0 9 20 (-1)) (regs [(20, 8)] small)) (fun t => curReg t 9 == 77) = true ∧
    after (exec (.gwr g0 9 20 23) small) (fun t => curReg t 23 == 5) = true ∧ after (exec (.gwr g0 9 20 24) small) (fun t => (cur t).sys.tinfo == 24 + 64) = true := by
  decide +kernel
theorem witness_IndexedRegister :
    executes (cur small) g0 = true ∧ checkDst 9 small = .ok ((), small) ∧ readReg 20 small = .ok (0, small) ∧ readsAll [20, 9] small [0, 5] small ∧
    (let i : Int := (0 : Word).toInt + (23 : BitVec 34).toInt; 0 ≤ i ∧ i < 24) ∧ (let i : Int := (0 : Word).toInt + (24 : BitVec 34).toInt; ¬ (0 ≤ i ∧ i < 24)) ∧
    writeReg 9 (curReg small 23) small = .ok ((), setCurReg small 9 (curReg small 23)) :=
  ⟨by decide, ok_of (by decide +kernel), ok_of (by decide +kernel), reads_of (by decide +kernel), by decide, by decide, ok_of (by decide +kernel)⟩

/-! ### Operands, guards, words, steps -/

/-- Ports q0 unbound, q1 a source with two elements and a due one, q2 a sink, q3 an empty source. -/
def ports : State :=
  let s := modCur tile (fun t => { t with qb := [(1, ⟨1, 2⟩), (2, ⟨2, 0⟩), (3, ⟨1, 3⟩)] })
  modCurAgent s (fun x => { x with ni := { x.ni with chans := [(2, ⟨[⟨41, none⟩, ⟨42, none⟩], [], [⟨43, none⟩], false⟩)] } })
theorem witness_OperandAccess :
    isG 0 ∧ isG 55 ∧ ¬ isG 56 ∧ ¬ isG 63 ∧ ¬ isSource (bindingOf (cur ports) 0).kind.toNat ∧ ¬ isSource (bindingOf (cur ports) 2).kind.toNat ∧
    isSource (bindingOf (cur ports) 3).kind.toNat ∧ endpoint (curAgent ports) 0 (bindingOf (cur ports) 3) = [] ∧ isSource (bindingOf (cur ports) 1).kind.toNat ∧
    endpoint (curAgent ports) 0 (bindingOf (cur ports) 1) = [⟨41, none⟩, ⟨42, none⟩] ∧
    (match readReg 57 ports with | .ok (v, t) => v == 41 && endpoint (curAgent t) 0 ⟨1, 2⟩ == [⟨42, none⟩, ⟨43, none⟩] | _ => false) = true := by decide +kernel
/-- An unbound port traps with its number; a sink that is read says so (01 R25). -/
theorem test_ports :
    after (exec (.mov g0 3 56) ports) (fun t => (cur t).sys.tcause == 0x0A && (cur t).sys.tinfo == 0) = true ∧
    after (exec (.mov g0 3 58) ports) (fun t => (cur t).sys.tcause == 0x0A && (cur t).sys.tinfo == 5) = true ∧
    after (exec (.mov g0 3 59) ports) (fun t => (cur t).st == .waiting && (cur t).cause == some .operand) = true ∧
    after (exec (.add g0 3 57 57 0 0) ports) (fun t => curReg t 3 == 83) = true := by decide +kernel

/-- A guard whose predicate is 0. -/
theorem witness_GuardSkips :
    isWord (.exit ⟨3, 0⟩ 1) = true ∧ vectorMaj (majOf (encode (.exit ⟨3, 0⟩ 1))) = false ∧ executes (cur tile) (guardOf (encode (.exit ⟨3, 0⟩ 1))) = false ∧
    goes (exec (.exit ⟨3, 0⟩ 1) tile) (retire tile .next) = true ∧ executes (cur tile) ⟨0, 1⟩ = false ∧ goes (exec (.tret ⟨0, 1⟩) tile) (retire tile .next) = true := by decide +kernel

theorem witness_DecodeOfEncode : isWord (.ldp g 54 ⟨1, 3⟩ ⟨63, 63, 3, -1⟩) = true ∧ wellFormed (.ldp g 54 ⟨1, 3⟩ ⟨63, 63, 3, -1⟩) = true ∧
    fits 56 (.ldp g 54 ⟨1, 3⟩ ⟨63, 63, 3, -1⟩) = true := by decide
theorem witness_EncodeOfDecode : decode 0x5200800000000000 0 8 = .ok (.nop g0) := rfl

/-- A strand at a word that decode refuses. -/
def atVec : State := modCur tile (fun t => { t with sys := { t.sys with tvec := 0x1000 } })
theorem witness_WordsAndRefusals :
    (majTable.all (fun r => r.1 != majOf 0)) = true ∧ (majTable.all (fun r => r.1 != majOf (BitVec.allOnes 64))) = true ∧
    ((0x21, List.range 16 ++ [25, 26], 0) ∈ majTable ∧ majOf 0x2104000000000000 = 0x21 ∧ fnNum 0x2104000000000000 ∉ List.range 16 ++ [25, 26]) ∧
    ((0xC1, List.range 14, 1) ∈ majTable ∧ majOf 0xC101800000000000 = 0xC1 ∧ fnNum 0xC101800000000000 ∈ List.range 14 ∧ 0 < 1) ∧
    decodeFails 0 0 56 false 1 56 = true ∧ (cur atVec).priv = 0 ∧ (cur atVec).size = 56 ∧ inEpilogue atVec atVec.env.agent atVec.env.strand = false ∧
    (cur atVec).sys.tdepth = 0 ∧ atVec.net.walks = [] ∧
    after (execWord atVec 0) (fun t => (cur t).pc == 0x1000 && (cur t).sys.tcause == 1 && (cur t).sys.tpc == BitVec.ofNat 64 loadVa && (cur t).sys.tinfo == 56 * 1024 + 1) = true := by
  decide +kernel

/-- ADD g3, g1, g2 placed where the next step fetches: on the machine after reset, and on the tile of these tests. -/
def addWord : Nat := 0x0100003042000000
theorem test_step_after_reset :
    after (step (State.reset.withFetchWord 64 addWord)) (fun t => (strandAt t 0 0).pc == BitVec.ofNat 64 (loadVa + 8) && (strandAt t 0 0).hasRun) = true := by decide +kernel
theorem witness_StepRunsDecoded :
    let s := ints.withFetchWord 64 addWord
    let n := noteIssue (tick s) 0 0
    let c := { n with env := { n.env with agent := 0, strand := 0 } }
    s.env.powered = true ∧ choose s (candidates s) = some (.issue 0) ∧ issueChoice (tick s) 0 = some 0 ∧ (cur c).word = none ∧
      (match fetchWord c with | .ok (w, u) => w.toNat == addWord && (match decodeFor (keepWord u w) w with | .ok i => i == .add g0 3 1 2 0 0 | .error _ => false) | _ => false) = true ∧
      after (step s) (fun t => curReg t 3 == -4) = true := by decide +kernel
theorem witness_StepNeverRefuses : State.reset.env.powered = true ∧ ({ State.reset with env := { State.reset.env with powered := false } } : State).env.inputs = [] := by decide
/-! ### Traps and control flow -/

/-- A computation traps with a cause, TADDR and TINFO. -/
def stopB {α : Type} (x : Exec α) (s : State) (cause : Nat) (addr : Word) (info : Nat) : Bool :=
  match x s with | .error (.trap t) => t.cause == cause && t.addr == some addr && t.info == BitVec.ofNat 64 info | _ => false

/-- A strand in its trap handler, of no task and of task 7. -/
def inHandler : State := modCur atVec (fun t => { t with sys := { t.sys with tdepth := 1, tpc := 0x2000 } })
def task7 : Task := { (default : Task) with id := 7, st := .running, tag := liveTag tile 0 }
def inTask (s : State) : State := modCur { s with os := { s.os with tasks := [task7] } } (fun t => { t with task := some 7 })
theorem witness_TrapAndDoubleTrap :
    (strandAt atVec 0 0).sys.tdepth = 0 ∧ (strandAt inHandler 0 0).sys.tdepth ≠ 0 ∧ isCore 0 = false ∧ (strandAt inHandler 0 0).task = none ∧
    (strandAt (inTask inHandler) 0 0).sys.tdepth ≠ 0 ∧ (strandAt (inTask inHandler) 0 0).task = some 7 ∧
    (match taskAt (inTask inHandler) 7 with | some x => x.retire == none | none => false) = true ∧
    (let u := trapEntry (inTask inHandler) 0 0 6 0 0x40 0 0
     (strandAt u 0 0).st = .failed ∧ (agentAt u 0).ni.fbox.length = 1 ∧ (match taskAt u 7 with | some y => y.reason == 6 && y.cause == 0x15 && y.tinfo == 6 | none => false) = true) := by
  decide +kernel
/-- TRAP saves the next PC, BREAK its own; TRET goes to TPC and leaves TDEPTH (16 R383, 04 R134). -/
theorem test_trap :
    after (exec (.trap g0 5) atVec) (fun t => (cur t).sys.tpc == BitVec.ofNat 64 (loadVa + 8) && (cur t).sys.tcause == 0x0D && (cur t).sys.tinfo == 5 && (cur t).pc == 0x1000) = true ∧
    after (exec (.brk g0 5) atVec) (fun t => (cur t).sys.tpc == BitVec.ofNat 64 loadVa && (cur t).sys.tcause == 0x0E && (cur t).sys.tdepth == 1) = true ∧
    after (exec (.tret g0) inHandler) (fun t => (cur t).pc == 0x2000 && (cur t).sys.tdepth == 1) = true := by decide +kernel
theorem witness_TrapAndReturn :
    executes (cur atVec) g0 = true ∧ inEpilogue atVec atVec.env.agent atVec.env.strand = false ∧ atVec.net.walks = [] ∧ executes (cur atVec) ⟨0, 1⟩ = false := by decide

/-- The PC a branch leads to, from VA 2^48. -/
def lands (i : Instr) (s : State) (off : Int) : Bool := after (exec i s) (fun t => (cur t).pc == BitVec.ofInt 64 (loadVa + off))
theorem test_branches :
    lands (.br g0 (-2)) ints (-16) ∧ lands (.bc g0 2 1 2 3) ints 24 ∧ lands (.bc g0 4 1 2 3) ints 8 ∧ lands (.bp g0 0 4 3) (preds [(4, 1)] ints) 24 ∧
    lands (.bp g0 1 4 3) ints 24 ∧ lands (.bp g0 1 0 3) ints 8 ∧ lands (.call g0 3 5) ints 40 ∧
    after (exec (.call g0 3 5) ints) (fun t => curReg t 3 == BitVec.ofNat 64 (loadVa + 8)) ∧ after (exec (.ret g0 4) ints) (fun t => (cur t).pc == 8) ∧
    after (exec (.jmpr g0 4 (-1)) ints) (fun t => (cur t).pc == 0) ∧ after (exec (.ret g0 2) atVec) (fun t => (cur t).pc == 0) := by decide +kernel
theorem test_loop : lands (.loop g0 2 (-2)) ints (-16) ∧ after (exec (.loop g0 2 (-2)) ints) (fun t => curReg t 2 == 2) ∧ lands (.loop g0 2 (-2)) (regs [(2, 1)] ints) 8 ∧
    after (exec (.loop g0 5 (-2)) ints) (fun t => curReg t 5 == -1 && (cur t).pc == BitVec.ofNat 64 (loadVa - 16)) := by decide +kernel
theorem witness_BranchResult :
    executes (cur ints) g0 = true ∧ (9 : BitVec 4).toNat < 10 ∧ readsAll [1, 2] ints [-7, 3] ints ∧ checkDst 3 ints = .ok ((), ints) ∧
    writeReg 3 ((cur ints).pc + 8) ints = .ok ((), setCurReg ints 3 ((cur ints).pc + 8)) ∧ readReg 4 ints = .ok (8, ints) ∧ (8 : Word).toNat % 8 = 0 ∧
    readReg 2 ints = .ok (3, ints) ∧ (3 : Word).toNat % 8 ≠ 0 ∧ after (exec (.ret g0 2) ints) (fun t => (cur t).sys.tcause == 4 && (cur t).sys.taddr == 3 && (cur t).sys.tinfo == 8) = true ∧
    isG 55 :=
  ⟨by decide, by decide, reads_of (by decide +kernel), ok_of (by decide +kernel), ok_of (by decide +kernel), ok_of (by decide +kernel), by decide, ok_of (by decide +kernel),
    by decide, by decide +kernel, by decide⟩

/-! ### Memory -/

/-- Addresses, each with the outcome of a doubleword load's checks: none for the own memory, or the cause and TINFO (10 R273, 04 R119). -/
def checkedAs (s : State) (nd : Need) (l : List (Nat × Option (Nat × Nat))) : Bool := l.all (fun p =>
  match p.2 with
  | none => (match checkAddr nd (BitVec.ofNat 64 p.1) 8 s with | .ok (q, t) => q.own && localKey s (BitVec.ofNat 64 p.1) == some q.key && t == s | _ => false)
  | some c => localKey s (BitVec.ofNat 64 p.1) == none && stopB (checkAddr nd (BitVec.ofNat 64 p.1) 8) s c.1 (BitVec.ofNat 64 p.1) c.2)
/-- A page with R and W beside the one of the tile's code. -/
def page : Nat := loadVa + 0x10000
def rwLeaf : Word := 0x20327
/-- Context 0 owns names 0 and 1 (rectangle of two columns); name 1 is tile 1, known to the tile; name 2 would be outside. -/
def placed : State :=
  let s := modCtx tile 0 (fun v => { v with region := 1 <<< 7 })
  modAgent (modAgent s 1 (fun x => { x with name := some 1 })) 0 (fun x => { x with
    tlb := ⟨liveTag tile 0, page, 4, rwLeaf⟩ :: x.tlb, ni := { x.ni with names := [⟨1, 0x80000400⟩] } })
theorem test_regions :
    checkedAs placed needLoad [(0, none), (0x2FFFF8, none), (0x300000, some (6, 1)), (0x7FFFF8, some (6, 1)), (0x800000, none), (0xFFFFF8, none), (0x1000000, some (6, 1)),
      (2 ^ 45, some (6, 1)), (2 ^ 46 - 8, some (6, 1)), (2 ^ 46 + 2 ^ 37, some (6, 1)), (2 ^ 48 - 8, some (6, 1)), (2 ^ 56, some (6, 1)), (2 ^ 64 - 8, some (6, 1)),
      (2 ^ 46 + 2 * 2 ^ 23, some (9, 2)), (2 ^ 46 + 9216 * 2 ^ 23, some (9, 9216)), (loadVa, some (6, 3))] = true ∧
    checkedAs placed needStore [(0x300000, some (7, 1)), (loadVa, some (7, 3))] = true ∧
    stopB (checkAddr needLoad 0x2FFFFC 8) placed 4 0x2FFFFC 8 = true := by decide +kernel
theorem witness_AddressAndChecks :
    (0x2FFFFC : Word).toNat % 8 ≠ 0 ∧ localKey placed 0x2FFFF8 = some (keyLs 0 0x2FFFF8) ∧ localKey placed 0xFFFFF8 = some (keyVault 0 0x7FFFF8) ∧
    (isCore core0.env.agent = true ∧ inModule (192 * 2 ^ 30 - 8) = true ∧ inModule (192 * 2 ^ 30) = false) ∧
    (isCore placed.env.agent = false ∧ localKey placed 0x300000 = none ∧ (0x300000 : Nat) < 2 ^ 46) ∧
    ((2 ^ 46 + 2 * 2 ^ 23) / 2 ^ 23 % 2 ^ 14 = 2 ∧ inRegion (ctxAt placed 0).region 2 = false) ∧
    ((2 ^ 46 + 2 ^ 23) / 2 ^ 23 % 2 ^ 14 = 1 ∧ inRegion (ctxAt placed 0).region 1 = true ∧ (curAgent placed).ni.names.find? (fun e => e.name == 1) = some ⟨1, 0x80000400⟩ ∧
      entryPhys 0x80000400 = some 1) ∧
    (match checkAddr needLoad (BitVec.ofNat 64 (2 ^ 46 + 2 ^ 23 + 0x18)) 8 placed with | .ok (p, t) => p == ⟨keyVault 1 0x18, false, none⟩ && t.mem == placed.mem | _ => false) = true ∧
    (placed.net.walks = [] ∧ tlbFind placed 0 (liveTag tile 0) page 1 false = some ⟨liveTag tile 0, page, 4, rwLeaf⟩ ∧ leafR rwLeaf = true ∧ leafW rwLeaf = true ∧ leafEnc rwLeaf = false) ∧
    (match checkAddr needAtomic (BitVec.ofNat 64 (page + 0x18)) 8 placed with | .ok (p, _) => p == ⟨0x20018, false, some (page + 0x18)⟩ | _ => false) = true ∧
    (tlbFind placed 0 (liveTag tile 0) loadVa 1 false).isSome ∧ leafR loadLeaf = false ∧ leafW loadLeaf = false := by decide +kernel
/-- The same page with ENC: the frame has to be sealed to the context (18 R407). -/
def sealedPage (ok : Bool) : State :=
  let s := modAgent placed 0 (fun x => { x with tlb := [⟨liveTag tile 0, page, 4, rwLeaf ||| 0x80⟩] })
  if ok then { s with trust := { s.trust with seals := [(2, 0)] } } else s
theorem witness_AddressAndChecks_enc :
    leafEnc (rwLeaf ||| 0x80) = true ∧ sealOf (sealedPage true) 0x20000 = some 0 ∧ sealOf (sealedPage false) 0x20000 = none ∧
    (match checkAddr needLoad (BitVec.ofNat 64 page) 8 (sealedPage true) with | .ok (p, _) => p.key == 0x20000 | _ => false) = true ∧
    stopB (checkAddr needLoad (BitVec.ofNat 64 page) 8) (sealedPage false) 6 (BitVec.ofNat 64 page) 3 = true ∧
    stopB (checkAddr needStore (BitVec.ofNat 64 page) 8) (sealedPage false) 7 (BitVec.ofNat 64 page) 3 = true := by decide +kernel

/-- Two words of the local store, at 0x100 and 0x108, the second poisoned, and registers that name them. -/
def data : State :=
  let s := regs [(1, 0x100), (2, 1), (4, 0x1122334455667788), (5, 0xFFEEDDCCBBAA9988), (8, 0x2FFFF8), (9, BitVec.ofNat 64 page), (10, BitVec.ofNat 64 (2 ^ 46 + 2 ^ 23))] placed
  let m := writeWord (writeWord s.mem (keyLs 0 0x100) 0x80FF7F01F2F3F4F5) (keyLs 0 0x108) 5
  setMem s { m with poison := [keyLs 0 0x108 / 8] }
def m1 : MemOp := ⟨1, 63, 0, 0⟩
theorem witness_LocalAccess :
    sbarDone data = true ∧ [((0 : Nat), (0x100 : Word)), (1, 0x108)].map (fun e => localKey data e.2) = [keyLs 0 0x100, keyLs 0 0x108].map some ∧
    (∀ e ∈ [((0 : Nat), (0x100 : Word)), (1, 0x108)], e.2.toNat % 8 = 0 ∧ replyFor data e.1 = none) ∧ localPoison (afterSbar data) (keyLs 0 0x100) 8 = false ∧
    localPoison (afterSbar data) (keyLs 0 0x108) 8 = true ∧
    ([((0 : Nat), (0x100 : Word)), (1, 0x108)].zip [keyLs 0 0x100, keyLs 0 0x108] = [((0, 0x100), keyLs 0 0x100)] ++ ((1, 0x108), keyLs 0 0x108) :: []) ∧
    stopB (loadElems [(0, 0x100), (1, 0x108)] 8 8 true (fun i => i * 2 ^ 16) 0) data 0x10 0x108 (2 ^ 16) = true ∧
    okB (loadElems [(0, 0x100)] 8 8 true (fun _ => 0) 0) data [(0, 0x80FF7F01F2F3F4F5)] data = true ∧ inEpilogue data 0 0 = false ∧
    homeBusy data (keyLs 0 0x100) = false ∧ homeBusy data (keyLs 0 0x108) = false ∧ (0x2FFFF8 : Word).toNat % 8 = 0 ∧ localKey data 0x2FFFF8 = some (keyLs 0 0x2FFFF8) ∧
    okB (storeElems (pure ()) [(0, 0x2FFFF8, 7)] 8 8 true (fun _ => 0)) data () (sendReq [⟨keyLs 0 0x2FFFF8, 8, .write, 7, 0, 0⟩] false data) = true ∧
    (performAccess data none ⟨keyLs 0 0x2FFFF8, 8, .write, 7, 0, 0⟩).1 == setMem data (writeNat data.mem (keyLs 0 0x2FFFF8) 8 7) := by decide +kernel

/-- Sizes and signs of 04 R118: bytes 0xF5, 0xF4F5, 0xF2F3F4F5 at 0x100. -/
theorem test_load : gives data
    [(.ld g0 3 0 ⟨0, 0⟩ m1, 0xF5), (.ld g0 3 1 ⟨0, 0⟩ m1, 0xF4F5), (.ld g0 3 2 ⟨0, 0⟩ m1, 0xF2F3F4F5), (.ld g0 3 3 ⟨1, 2⟩ m1, 0x80FF7F01F2F3F4F5), (.ld g0 3 4 ⟨4, 0⟩ m1, -11),
     (.ld g0 3 5 ⟨0, 0⟩ m1, 0xFFFFFFFFFFFFF4F5), (.ld g0 3 6 ⟨0, 0⟩ m1, 0xFFFFFFFFF2F3F4F5), (.ld g0 3 0 ⟨0, 0⟩ ⟨1, 2, 2, 2⟩, 0xFF), (.ld g0 3 0 ⟨0, 0⟩ ⟨63, 1, 0, 7⟩, 0x80)] = true := by
  decide +kernel
theorem test_load_traps :
    after (exec (.ld g0 3 3 ⟨0, 0⟩ ⟨1, 2, 0, 0⟩) data) (fun t => (cur t).sys.tcause == 4 && (cur t).sys.taddr == 0x101 && (cur t).sys.tinfo == 8) = true ∧
    after (exec (.ld g0 3 3 ⟨0, 0⟩ ⟨1, 63, 0, 8⟩) data) (fun t => (cur t).sys.tcause == 0x10 && (cur t).sys.taddr == 0x108 && (agentAt t 0).ni.fbox.length == 1) = true ∧
    after (exec (.ldp g0 4 ⟨0, 0⟩ m1) data) (fun t => (cur t).sys.tcause == 0x10 && (cur t).sys.taddr == 0x100 && curReg t 4 == 0x1122334455667788) = true ∧
    after (exec (.ldp g0 4 ⟨0, 0⟩ ⟨1, 63, 0, 0x10⟩) data) (fun t => curReg t 4 == 0 && curReg t 5 == 0) = true ∧
    after (exec (.ld g0 3 3 ⟨0, 0⟩ ⟨9, 63, 0, 0⟩) data) (fun t => (cur t).st == .waiting && t.net.reqs.length == 1) = true := by decide +kernel
/-- The state with a reply to element 0. -/
def replied (bad : Bool) (s : State) : State := modCur s (fun t => { t with reply := some [⟨0, 0x99, bad, 0, 0⟩] })
theorem witness_LoadResult :
    wellFormed (.ld g0 3 3 ⟨0, 0⟩ m1) = true ∧ executes (cur data) g0 = true ∧ sbarDone data = true ∧ checkDst 3 data = .ok ((), data) ∧ addressOf m1 data 0x100 data ∧
    ((0x101 : Word).toNat % bytesOf 3 ≠ 0 ∧ (0x100 : Word).toNat % bytesOf 3 = 0 ∧ localKey data 0x100 = some (keyLs 0 0x100) ∧ replyFor data 0 = none ∧
      homeBusy (afterSbar data) (keyLs 0 0x100) = false ∧ localPoison (afterSbar data) (keyLs 0 0x100) 8 = false ∧ localPoison (afterSbar data) (keyLs 0 0x108) 8 = true) ∧
    (∃ p s3, checkAddr needLoad (BitVec.ofNat 64 page) 8 data = .ok (p, s3) ∧ elsewhere s3 p 8 ⟨0, 0⟩ ∧ replyFor s3 0 = none) ∧
    (∃ p s3, checkAddr needLoad (BitVec.ofNat 64 (2 ^ 46 + 2 ^ 23)) 8 (replied true data) = .ok (p, s3) ∧ elsewhere s3 p 8 ⟨0, 0⟩ ∧ (replyFor s3 0).isSome) ∧
    after (exec (.ld g0 3 3 ⟨0, 0⟩ ⟨10, 63, 0, 0⟩) (replied false data)) (fun t => curReg t 3 == 0x99) = true ∧
    after (exec (.ld g0 3 3 ⟨0, 0⟩ ⟨10, 63, 0, 0⟩) (replied true data)) (fun t => (cur t).sys.tcause == 0x10) = true ∧
    wellFormed (.ldp g0 4 ⟨0, 0⟩ m1) = true ∧ replyFor data 1 = none :=
  ⟨by decide, by decide, by decide +kernel, ok_of (by decide +kernel), ⟨0x100, 0, data, base_of (by decide +kernel), base_of (by decide +kernel), by decide⟩,
    by decide +kernel, ⟨_, _, rfl, by decide +kernel, by decide +kernel⟩, ⟨_, _, rfl, by decide +kernel, by decide +kernel⟩, by decide +kernel, by decide +kernel, by decide,
    by decide +kernel⟩

/-- The first request in flight performs its next n accesses at its home. -/
def performs : Nat → State → State
  | 0, s => s
  | n + 1, s => match execRequestAtHome 0 s with | .next t => performs n t | _ => s
/-- A word of memory after a store, once its home has performed it. -/
def stored (i : Instr) (s : State) (key : Nat) (w : Word) : Bool :=
  after (exec i s) (fun t => readWord (performs 4 t).mem key == w && (performs 4 t).net.reqs == [] && t.mem == s.mem && (cur t).pc == (cur s).pc + 8)
theorem test_store :
    stored (.st g0 4 0 ⟨0, 0⟩ m1) data (keyLs 0 0x100) 0x80FF7F01F2F3F488 ∧ stored (.st g0 4 5 ⟨2, 3⟩ m1) data (keyLs 0 0x100) 0x80FF7F01F2F37788 ∧
    stored (.st g0 4 3 ⟨0, 0⟩ ⟨1, 63, 0, 8⟩) data (keyLs 0 0x108) 0x1122334455667788 ∧ stored (.stp g0 4 ⟨0, 0⟩ m1) data (keyLs 0 0x108) 0xFFEEDDCCBBAA9988 ∧
    after (exec (.st g0 4 3 ⟨0, 0⟩ ⟨1, 63, 0, 8⟩) data) (fun t => (performs 1 t).mem.poison == []) ∧
    after (exec (.st g0 4 2 ⟨0, 0⟩ ⟨1, 63, 0, 8⟩) data) (fun t => (performs 1 t).mem.poison.length == 1) ∧
    stored (.st g0 4 3 ⟨0, 0⟩ ⟨8, 63, 0, 0⟩) data (keyLs 0 0x2FFFF8) 0x1122334455667788 ∧
    after (exec (.st g0 4 3 ⟨0, 0⟩ ⟨8, 63, 0, 8⟩) data) (fun t => (cur t).sys.tcause == 7 && (cur t).sys.tinfo == 1 && t.mem == data.mem) := by decide +kernel
theorem witness_StoreResult :
    wellFormed (.st g0 4 3 ⟨2, 2⟩ m1) = true ∧ executes (cur data) g0 = true ∧ sbarDone data = true ∧ addressOf m1 data 0x100 data ∧
    readReg 4 data = .ok (0x1122334455667788, data) ∧ released true ⟨2, 2⟩ data ∧ (0x100 : Word).toNat % bytesOf 3 = 0 ∧ localKey data 0x100 = some (keyLs 0 0x100) ∧
    inEpilogue data data.env.agent data.env.strand = false ∧
    (∃ p s3, checkAddr needStore (BitVec.ofNat 64 page) 8 data = .ok (p, s3) ∧ released true ⟨2, 2⟩ s3 ∧ sbarDone s3 = true ∧ goesHome s3 p 8 ⟨2, 2⟩) ∧
    after (exec (.st g0 4 3 ⟨2, 2⟩ ⟨9, 63, 0, 0⟩) data) (fun t => t.net.reqs.length == 1 && (cur t).st == .ready) = true ∧
    wellFormed (.stp g0 4 ⟨2, 2⟩ m1) = true ∧ (0x108 : Word).toNat % 16 ≠ 0 ∧ (0x100 : Word).toNat % 16 = 0 :=
  ⟨by decide, by decide, by decide +kernel, ⟨0x100, 0, data, base_of (by decide +kernel), base_of (by decide +kernel), by decide⟩, ok_of (by decide +kernel), by decide +kernel,
    by decide, by decide +kernel, by decide +kernel, ⟨_, _, rfl, by decide +kernel, by decide +kernel, by decide +kernel, fun _ _ => .inl (by decide)⟩, by decide +kernel, by decide, by decide, by decide⟩

/-- g1 = 0x200, where a doubleword holds 7; g4 = -2; g6 = 7. -/
def cells : State := let s := regs [(1, 0x200), (4, -2), (6, 7), (7, 0x3F800000)] placed; setMem s (writeWord s.mem (keyLs 0 0x200) 7)
/-- Old value in T, new value in memory. -/
def swaps (i : Instr) (old new : Word) : Bool := after (exec i cells) (fun t => curReg t 3 == old && readWord t.mem (keyLs 0 0x200) == new)
/-- Hand calculation from 04 R122. -/
theorem test_atomics :
    swaps (.amoadd g0 3 1 4 3 ⟨4, 0⟩ 0) 7 5 ∧ swaps (.amomin g0 3 1 4 0 3 ⟨4, 0⟩ 0) 7 (-2) ∧ swaps (.amomin g0 3 1 4 1 3 ⟨4, 0⟩ 0) 7 7 ∧ swaps (.amomax g0 3 1 4 0 6 ⟨4, 0⟩ 0) 7 7 ∧
    swaps (.amomax g0 3 1 4 0 2 ⟨4, 0⟩ 0) 7 0xFFFFFFFE ∧ swaps (.amoand g0 3 1 4 3 ⟨1, 0⟩ 0) 7 6 ∧ swaps (.amoor g0 3 1 4 3 ⟨2, 3⟩ 0) 7 (-1) ∧
    swaps (.amoxor g0 3 1 4 3 ⟨3, 0⟩ 0) 7 (-7) ∧ swaps (.amoswp g0 3 1 4 2 ⟨4, 0⟩ 0) 7 0xFFFFFFFE ∧ swaps (.amofadd g0 3 1 7 ⟨4, 0⟩ 4) 0 0x3F80000000000007 ∧
    after (exec (.amocas g0 6 1 4 3 ⟨3, 2⟩ 0) cells) (fun t => curReg t 6 == 7 && readWord t.mem (keyLs 0 0x200) == -2) ∧
    after (exec (.amocas g0 7 1 4 3 ⟨3, 2⟩ 0) cells) (fun t => curReg t 7 == 7 && readWord t.mem (keyLs 0 0x200) == 7) := by decide +kernel
theorem witness_AtomicResult :
    wellFormed (.amocas g0 6 1 4 3 ⟨3, 2⟩ 0) = true ∧ (atomicForm (.amocas g0 6 1 4 3 ⟨3, 2⟩ 0)).isSome ∧ executes (cur cells) g0 = true ∧ checkDst 6 cells = .ok ((), cells) ∧
    baseRead 1 cells 0x200 cells ∧ readReg 4 cells = .ok (-2, cells) ∧ readReg 6 cells = .ok (7, cells) ∧ released True ⟨3, 2⟩ cells ∧ sbarDone cells = true ∧
    ((0x204 : Word).toNat % bytesOf 3 ≠ 0 ∧ (0x200 : Word).toNat % bytesOf 3 = 0 ∧ localKey cells 0x200 = some (keyLs 0 0x200) ∧ replyFor cells 0 = none ∧
      homeBusy (afterSbar cells) (keyLs 0 0x200) = false ∧ poisoned cells.mem (keyLs 0 0x200) 8 = false ∧ poisoned (markPoison cells.mem (keyLs 0 0x200)) (keyLs 0 0x200) 8 = true) ∧
    (∃ p s4, checkAddr needAtomic (BitVec.ofNat 64 page) 8 cells = .ok (p, s4) ∧ p.own = false ∧ replyFor s4 0 = none) ∧
    (∃ p s4, checkAddr needAtomic (BitVec.ofNat 64 page) 8 (replied false cells) = .ok (p, s4) ∧ p.own = false ∧ (replyFor s4 0).isSome) :=
  ⟨by decide, by decide, by decide, ok_of (by decide +kernel), base_of (by decide +kernel), ok_of (by decide +kernel), ok_of (by decide +kernel), by decide +kernel, by decide +kernel,
    by decide +kernel, ⟨_, _, rfl, by decide +kernel, by decide +kernel⟩, ⟨_, _, rfl, by decide +kernel, by decide +kernel⟩⟩

/-- The strand with a copy queued, as SBAR records it, and with a request in flight. -/
def copying : State := modCur tile (fun t => { t with eng := { t.eng with cpq := [⟨0, 0, 0, 0, 0, none, false, 0, ⟨none, false, 0⟩, 0, 0⟩] } })
def flying : State := sendReq [⟨0x20000, 8, .read, 0, 0, 0⟩] true tile
theorem witness_FenceExitYield :
    executes (cur tile) g0 = true ∧ wellFormed (.fence g0 ⟨2, 3⟩) = true ∧ wellFormed (.fence g0 ⟨1, 0⟩) = true ∧ performedAt flying 3 = false ∧
    goes (exec (.fence g0 ⟨2, 3⟩) flying) (beginWait flying .response) = true ∧
    (performedAt tile 3 = true ∧ sbarDone tile = true ∧ dirtyLines (curAgent tile) = [] ∧ (cur tile).eng.posted = []) ∧
    after (exec (.sbar g0 0x10000) copying) (fun t => (cur t).eng.sbarCp == [(0, 0)]) = true ∧
    after (exec (.ld g0 3 3 ⟨0, 0⟩ ⟨63, 63, 0, 0⟩) (modCur copying (fun t => { t with eng := { t.eng with sbarCp := [(0, 0)] } }))) (fun t => (cur t).st == .waiting) = true ∧
    (cur copying).eng.cpq ≠ [] ∧ after (exec (.exit g0 0) copying) (fun t => (cur t).st == .draining) = true ∧
    after (exec (.exit g0 1) copying) (fun t => (cur t).st == .inactive && (cur t).eng.abandoned == 1) = true ∧ after (exec (.yield g0) tile) (fun t => (cur t).yielded) = true ∧
    goes (exec (.nop g0) tile) (retire tile .next) = true := by decide +kernel
/-! ### The vector column -/

/-- A vector register from its elements of w bits, the lowest first. -/
def lineOf (w : Nat) (l : List Nat) : Line := BitVec.ofNat 512 (l.zipIdx.map (fun p => p.1 % 2 ^ w * 2 ^ (w * p.2))).sum
/-- v1 = 1.0, 2.0; v2 = 2.0, 3.0 (FP32); v4 = 5, -7; v5 = 3, 2 (INT32); v6 = +0, +∞ (FP32). -/
def vecs : State :=
  vregs [(1, lineOf 32 [0x3F800000, 0x40000000]), (2, lineOf 32 [0x40000000, 0x40400000]), (4, lineOf 32 [5, 2 ^ 32 - 7]), (5, lineOf 32 [3, 2]), (6, lineOf 32 [0, 0x7F800000])]
    (preds [(4, 1), (5, 3)] (regs [(5, 128), (6, 0x1FF)] tile))
/-- The first elements of v3 after each instruction. -/
def givesV (s : State) (w : Nat) (l : List (Instr × List Nat)) : Bool :=
  l.all (fun p => after (exec p.1 s) (fun t => (List.range p.2.length).map (velem (cur t) w 3) == p.2 && (cur t).pc == (cur s).pc + 8))
/-- Hand calculation from 05 R142, R143: 1 + 2 = 3, 2 + 3 = 5, and so on. -/
theorem test_vector_float : givesV vecs 32
    [(.vadd g0 3 1 2 0 0 0, [0x40400000, 0x40A00000, 0]), (.vsub g0 3 1 2 0 0 0, [0xBF800000, 0xBF800000]), (.vmul g0 3 1 2 0 0 0, [0x40000000, 0x40C00000]),
     (.vfma g0 3 1 2 1 0 0 0, [0x40400000, 0x41000000]), (.vfms g0 3 1 2 1 0 0 0, [0x3F800000, 0x40800000]), (.vmin g0 3 1 2 0, [0x3F800000, 0x40000000]),
     (.vmax g0 3 1 2 0, [0x40000000, 0x40400000]), (.vneg g0 3 1 0 0, [0xBF800000, 0xC0000000]), (.vabs g0 3 1 0 0, [0x3F800000, 0x40000000]),
     (.vclamp g0 3 1 2 1 0, [0x3F800000, 0x40000000]), (.vadd ⟨4, 0⟩ 3 1 2 0 0 0, [0x40400000, 0]), (.vadd ⟨4, 1⟩ 3 1 2 0 0 0, [0, 0x40A00000])] = true := by decide +kernel
theorem test_vector_integer : givesV vecs 32
    [(.vadd g0 3 4 5 5 0 0, [8, 2 ^ 32 - 5]), (.vsub g0 3 5 4 8 0 1, [0, 0]), (.vmul g0 3 4 5 5 0 0, [15, 2 ^ 32 - 14]), (.vfma g0 3 4 5 5 5 0 0, [18, 2 ^ 32 - 12]),
     (.vmin g0 3 4 5 5, [3, 2 ^ 32 - 7]), (.vmin g0 3 4 5 8, [3, 2]), (.vabs g0 3 4 5 0, [5, 7]), (.vneg g0 3 4 5 0, [2 ^ 32 - 5, 7]), (.vand g0 3 4 5 5, [1, 0]),
     (.vor g0 3 4 5 5, [7, 2 ^ 32 - 5]), (.vxor g0 3 4 5 5, [6, 2 ^ 32 - 5]), (.vnot g0 3 5 5, [2 ^ 32 - 4, 2 ^ 32 - 3]), (.vshl g0 3 4 5 5 0, [40, 2 ^ 32 - 28]),
     (.vshr g0 3 4 0 5 (64 + 28), [0, 15]), (.vsar g0 3 4 0 5 (64 + 1), [2, 2 ^ 32 - 4]), (.vmulh g0 3 4 4 8, [0, 2 ^ 32 - 14]), (.vmulh g0 3 4 4 5, [0, 0])] = true := by decide +kernel
/-- The special values of 05 R145, and exact powers of two. -/
theorem test_vector_special : givesV vecs 32
    [(.vexp2 g0 3 1 0 0, [0x40000000, 0x40800000]), (.vlog2 g0 3 1 0 0, [0, 0x3F800000, 0xFF800000]), (.vrcp g0 3 1 0 0, [0x3F800000, 0x3F000000, 0x7F800000]),
     (.vrsq g0 3 6 0 0, [0x7F800000, 0]), (.vtanh g0 3 6 0 0, [0, 0x3F800000]), (.verf g0 3 6 0 0, [0, 0x3F800000])] = true ∧
    flagsOf (.vrcp g0 3 1 0 0) vecs = 2 := by decide +kernel
theorem test_vector_moves : givesV vecs 32
    [(.vsel g0 3 1 2 0 4, [0x3F800000, 0x40400000]), (.vcvt g0 3 1 5 1 0 0 0, [1, 2]), (.vmov g0 3 4 8, [5, 2 ^ 32 - 7]), (.vbcast g0 3 5 0, [128, 128, 128]),
     (.vins g0 3 5 0 1, [0, 128, 0]), (.viota g0 3 5 8, [128, 129, 130]), (.vshup g0 3 4 0 1, [0, 5, 2 ^ 32 - 7]), (.vshdn g0 3 4 0 (-1), [2 ^ 32 - 7, 0]),
     (.vrot g0 3 4 0 (-1), [2 ^ 32 - 7, 0]), (.vperm g0 3 4 5 0 (-2), [0, 0, 5]), (.vscan g0 3 4 5 0 0 0, [5, 2 ^ 32 - 2, 2 ^ 32 - 2]), (.vscale g0 3 1 5 0 0 0 0, [0x40000000, 0x40800000]),
     (.vscale g0 3 1 5 0 0 0 1, [0x3F000000, 0x3F800000])] = true ∧
    givesV vecs 16 [(.vpack g0 3 1 2 1 0 0, [0x3F80, 0x4000]), (.vcvt g0 3 1 1 0 0 1 0, [0])] = true ∧ givesV vecs 32 [(.vunpk g0 3 2 1 0, [0, 0x40000000, 0])] = true ∧
    gives vecs [(.vext g0 3 4 5 1, -7), (.vext g0 3 4 8 1, 0xFFFFFFF9)] = true := by decide +kernel
/-- VRED puts the total into element E - 1; VMAXI the greatest and its index; VCMP counts the elements before the first that fails. -/
theorem test_vector_reduce :
    after (exec (.vred g0 3 4 5 0 0 0) vecs) (fun t => velem (cur t) 32 3 15 == 2 ^ 32 - 2 && velem (cur t) 32 3 0 == 0) = true ∧
    after (exec (.vmaxi g0 3 1 7 0) vecs) (fun t => velem (cur t) 32 3 15 == 0x40000000 && curReg t 7 == 1) = true ∧
    givesP vecs [(.vcmp g0 3 2 1 0 6, 2), (.vcmp ⟨5, 0⟩ 3 4 4 5 0, 3), (.vcmp g0 3 4 5 5 2, 0)] = true := by decide +kernel
/-- The worked example of 05 R157: one block to E4M3. -/
theorem test_vqnt :
    after (exec (.vqnt g0 10 11 5 3 0 0) (vregs [(11, lineOf 16 [0x4596, 0x4180, 0xC0A0])] tile)) (fun t =>
      curReg t 5 == 0x83 && (List.range 4).map (velem (cur t) 8 10) == [0x79, 0x38, 0xAA, 0] && (cur t).sys.fpflags == 0x10) = true := by decide +kernel

theorem witness_VectorElements :
    elemOf 8 (putElem 8 (lineOf 8 [1, 2]) 63 0x1FF) 63 = 0xFF ∧ (63 : Nat) < 512 / 8 ∧ elemOf 32 (lineOf 32 [5, 6]) 15 = 0 ∧ (15 : Nat) < 512 / 32 ∧
    (5 : Nat) ∉ [((4 : Nat), (1 : Nat)), (6, 2)].map Prod.fst ∧ actives (cur vecs) ⟨5, 0⟩ 16 = [0, 1, 2] ∧ actives (cur vecs) ⟨5, 1⟩ 5 = [3, 4] := by decide +kernel
/-- v1 = 1.0 and then zeros divides by zero in element 2 (05 R145), trapped under FPCTL; the same without the traps. -/
theorem witness_VectorDataResult :
    wellFormed (.vrcp g0 3 1 0 5) = true ∧ (vecForm (.vrcp g0 3 1 0 5)).isSome ∧ wellFormed (.vsel g0 3 1 2 0 4) = true ∧ (vecMove (.vsel g0 3 1 2 0 4)).isSome ∧
    fpTraps (cur (modCur vecs (fun t => { t with sys := { t.sys with fpctl := 0x1F0 } }))) 2 = true ∧ fpTraps (cur vecs) 2 = false ∧
    after (exec (.vrcp g0 3 1 0 0) (modCur vecs (fun t => { t with sys := { t.sys with fpctl := 0x1F0 } }))) (fun t => (cur t).sys.tcause == 0x0C && (cur t).sys.tinfo == 2 + 64 * 2) = true := by
  decide +kernel
theorem witness_VectorAndScalarResult :
    (10 : BitVec 4).toNat ≤ 10 ∧ readReg 5 vecs = .ok (128, vecs) ∧ checkDst 7 vecs = .ok ((), vecs) ∧ writeReg 7 9 vecs = .ok ((), setCurReg vecs 7 9) ∧
    activeAt (cur vecs) g0 16 15 = true ∧ activeAt (cur vecs) ⟨4, 0⟩ 16 15 = false ∧ executes (cur vecs) ⟨4, 0⟩ = true ∧ wellFormed (.vcmp ⟨5, 0⟩ 3 1 2 0 13) = true ∧
    goes (exec (.vext ⟨4, 0⟩ 7 4 5 1) vecs) (retire vecs .next) = true ∧ goes (exec (.vcond ⟨4, 0⟩ 4) vecs) (retire vecs .next) = true ∧
    flagsOf (.vcmp g0 3 4 4 0 0) (vregs [(4, lineOf 32 [0x7F800001])] vecs) = 1 :=
  ⟨by decide, ok_of (by decide +kernel), ok_of (by decide +kernel), ok_of (by decide +kernel), by decide +kernel, by decide +kernel, by decide +kernel, by decide, by decide +kernel,
    by decide +kernel, by decide +kernel⟩
theorem witness_VectorReduceAndScale :
    wellFormed (.vred g0 3 4 5 0 0 5) = true ∧ wellFormed (.vmaxi g0 3 1 7 2) = true ∧ checkDst 7 vecs = .ok ((), vecs) ∧ wellFormed (.vscale g0 3 1 6 2 6 1 1) = true ∧
    readReg 6 vecs = .ok (0x1FF, vecs) ∧ wellFormed (.vqnt g0 3 1 7 4 6 1) = true ∧ writeReg 7 1 vecs = .ok ((), setCurReg vecs 7 1) ∧
    givesV vecs 32 [(.vscale g0 3 1 6 0 0 0 0, [0x7FC00000, 0x7FC00000])] = true :=
  ⟨by decide, by decide, ok_of (by decide +kernel), by decide, ok_of (by decide +kernel), by decide, ok_of (by decide +kernel), by decide +kernel⟩

/-! ### Vector memory -/

/-- Words 10 to 13 at 0x100 of the local store, the word at 0x110 poisoned; v5 = 3, 2 as indexes; p5 = 3, p6 = 6, p7 = 1. -/
def vdata : State :=
  let s := preds [(6, 6), (7, 1)] (regs [(1, 0x100), (2, 8), (7, 0x2FFFF8)] vecs)
  let m := [(0x100, 10), (0x104, 11), (0x108, 12), (0x10C, 13)].foldl (fun m p => writeNat m (keyLs 0 p.1) 4 p.2) s.mem
  setMem s { m with poison := [keyLs 0 0x110 / 8] }
theorem test_vector_load : givesV vdata 32
    [(.vld ⟨5, 0⟩ 3 2 ⟨0, 0⟩ m1, [10, 11, 12, 0]), (.vgath ⟨7, 0⟩ 3 2 ⟨0, 0⟩ 1 5 2 0, [13, 0]),
     (.vldb ⟨5, 0⟩ 3 2 ⟨0, 0⟩ m1, [10, 10, 10, 0]), (.vldff ⟨6, 0⟩ 3 2 m1, [10, 11, 12, 13, 0])] = true ∧
    givesV (preds [(4, 2)] vdata) 32 [(.vlds ⟨4, 0⟩ 3 2 ⟨1, 2⟩ ⟨1, 2, 0, 0⟩, [10, 12, 0])] = true ∧
    after (exec (.vldff ⟨6, 0⟩ 3 2 m1) vdata) (fun t => predOf (cur t) 6 == 4) = true ∧
    after (exec (.vld ⟨6, 0⟩ 3 2 ⟨0, 0⟩ m1) vdata) (fun t => (cur t).sys.tcause == 0x10 && (cur t).sys.taddr == 0x110 && (cur t).sys.tinfo == 4 * 2 ^ 16) = true := by decide +kernel
theorem test_vector_store :
    stored (.vst ⟨5, 0⟩ 4 2 ⟨0, 0⟩ m1) vdata (keyLs 0 0x100) 0xFFFFFFF900000005 ∧ stored (.vsts ⟨5, 0⟩ 4 2 ⟨0, 0⟩ ⟨1, 2, 0, 0⟩) vdata (keyLs 0 0x108) 0x0000000DFFFFFFF9 ∧
    stored (.vscat ⟨5, 0⟩ 4 2 ⟨2, 2⟩ 1 5 2 0) vdata (keyLs 0 0x108) 0x00000005FFFFFFF9 := by decide +kernel
/-- Elements 0 and 1 at 0x100, and the last word of the local store. -/
def twoEls : List (Nat × Word) := [(0, 0x100), (1, 0x104)]
def twoKeys : List Nat := [keyLs 0 0x100, keyLs 0 0x104]
/-- p4 = 2 selects them. -/
def vtwo : State := preds [(4, 2)] vdata
theorem witness_VectorMemory :
    wellFormed (.vld ⟨4, 0⟩ 3 2 ⟨1, 2⟩ m1) = true ∧ (vmemForm (.vld ⟨4, 0⟩ 3 2 ⟨1, 2⟩ m1)).isSome ∧ contiguousEls ⟨4, 0⟩ 2 m1 vtwo twoEls vtwo ∧ sbarDone vtwo = true ∧
    (∀ e ∈ twoEls, e.2.toNat % 4 = 0) ∧ twoEls.map (fun e => localKey vtwo e.2) = twoKeys.map some ∧ ownEls vtwo 4 twoEls twoKeys ∧
    (∀ k ∈ twoKeys, homeBusy (afterSbar vtwo) k = false ∧ localPoison (afterSbar vtwo) k 4 = false) ∧ localPoison (afterSbar vtwo) (keyLs 0 0x110) 4 = true ∧
    wellFormed (.vst ⟨4, 0⟩ 3 2 ⟨2, 3⟩ m1) = true ∧ released true ⟨2, 3⟩ vtwo ∧ inEpilogue vtwo vtwo.env.agent vtwo.env.strand = false ∧
    stridedEls ⟨4, 0⟩ 2 ⟨1, 2, 1, 0⟩ vtwo [(0, 0x100), (1, 0x110)] vtwo ∧ indexedEls ⟨4, 0⟩ 2 1 5 2 0 vtwo [(0, 0x10C), (1, 0x108)] vtwo :=
  ⟨by decide, by decide, ⟨0x100, ⟨0x100, 0, vtwo, base_of (by decide +kernel), base_of (by decide +kernel), by decide⟩, by decide +kernel⟩, by decide +kernel, by decide +kernel,
    by decide +kernel, ⟨by decide +kernel, by decide +kernel⟩, by decide +kernel, by decide +kernel, by decide, by decide +kernel, by decide +kernel,
    ⟨0x100, 8, vtwo, base_of (by decide +kernel), base_of (by decide +kernel), by decide +kernel⟩, ⟨0x100, base_of (by decide +kernel), by decide +kernel⟩⟩
/-- A first-fault load whose third element falls off the local store, and one whose first does. -/
def atEnd : State := preds [(4, 3)] (regs [(1, 0x2FFFF8), (8, 0x300000)] vdata)
theorem witness_SpecialVectorLoads :
    wellFormed (.vldb g0 3 2 ⟨1, 1⟩ m1) = true ∧ addressOf m1 vtwo 0x100 vtwo ∧ (actives (cur vtwo) ⟨3, 0⟩ 16 = [] ∧ (actives (cur vtwo) ⟨4, 0⟩ 16).head? = some 0) ∧
    (0x100 : Word).toNat % 4 = 0 ∧ localKey vtwo 0x100 = some (keyLs 0 0x100) ∧ replyFor vtwo 0 = none ∧ (homeBusy (afterSbar vtwo) (keyLs 0 0x100) = false ∧ localPoison (afterSbar vtwo) (keyLs 0 0x100) 4 = false) ∧
    localPoison (afterSbar vtwo) (keyLs 0 0x110) 4 = true ∧ wellFormed (.vldff ⟨4, 0⟩ 3 2 m1) = true ∧
    contiguousEls ⟨4, 0⟩ 2 m1 atEnd ([(0, 0x2FFFF8), (1, 0x2FFFFC)] ++ [(2, 0x300000)]) atEnd ∧ ownEls atEnd 4 [(0, 0x2FFFF8), (1, 0x2FFFFC)] [keyLs 0 0x2FFFF8, keyLs 0 0x2FFFFC] ∧
    (∀ k ∈ [keyLs 0 0x2FFFF8, keyLs 0 0x2FFFFC], homeBusy (afterSbar atEnd) k = false ∧ localPoison (afterSbar atEnd) k 4 = false) ∧
    (∃ t, checkAddr (needFirst 2) 0x300000 4 (afterSbar atEnd) = .error (.trap t)) ∧
    after (exec (.vldff ⟨4, 0⟩ 3 2 m1) atEnd) (fun t => predOf (cur t) 4 == 2 && (cur t).pc == (cur atEnd).pc + 8) = true ∧
    after (exec (.vldff ⟨4, 0⟩ 3 2 ⟨8, 63, 0, 0⟩) atEnd) (fun t => (cur t).sys.tcause == 6 && (cur t).sys.tinfo == 1) = true ∧
    after (exec (.vldff ⟨4, 0⟩ 3 2 ⟨1, 63, 0, 0⟩) (regs [(1, 0x110)] atEnd)) (fun t => (cur t).sys.tcause == 0x10 && (cur t).sys.taddr == 0x110) = true :=
  ⟨by decide, ⟨0x100, 0, vtwo, base_of (by decide +kernel), base_of (by decide +kernel), by decide⟩, by decide +kernel, by decide, by decide +kernel, by decide +kernel, by decide +kernel,
    by decide +kernel, by decide, ⟨0x2FFFF8, ⟨0x2FFFF8, 0, atEnd, base_of (by decide +kernel), base_of (by decide +kernel), by decide⟩, by decide +kernel⟩,
    ⟨by decide +kernel, by decide +kernel⟩, by decide +kernel, ⟨_, rfl⟩, by decide +kernel, by decide +kernel, by decide +kernel⟩

/-! ### Engines -/

/-- The values of source fields, computed. -/
def vals : List Reg → State → Option (List Word × State)
  | [], s => some ([], s)
  | r :: rs, s => (match readReg r s with | .ok (v, u) => (vals rs u).map (fun p => (v :: p.1, p.2)) | .error _ => none)
/-- A strand with posted faults. -/
def withPosted (l : List Posted) (s : State) : State := modCur s (fun t => { t with eng := { t.eng with posted := l } })
/-- Two engine faults and one of the network. -/
def faulty : State := withPosted [⟨0x0B, 5, 1⟩, ⟨0x13, 6, 2⟩, ⟨0x0B, 7, 3⟩] tile
theorem witness_PostedFaultRaised :
    raiseClass (.mxdisarm g0 3) = some (g0, 0) ∧ raiseClass (.rdcs g0 1 2) = some (g0, 1) ∧ raiseClass (.darv g0 1) = some (g0, 3) ∧ raiseClass (.exit g0 0) = some (g0, 4) ∧
    raiseClass (.snd g0 1 2 default) = none ∧ executes (cur faulty) g0 = true ∧
    (cur faulty).reply = none ∧ (cur faulty).eng.posted.find? (raises (cur faulty).eng.posted 0) = some ⟨0x0B, 5, 1⟩ ∧ ((cur faulty).eng.posted.find? (raises (cur faulty).eng.posted 4)).isSome ∧ (cur faulty).eng.posted.find? (raises (cur faulty).eng.posted 3) = none ∧
    after (exec (.cpwait g0 0) faulty) (fun t => (cur t).sys.tcause == 0x0B && (cur t).sys.taddr == 5 && (cur t).sys.tinfo == 2 ^ 56 + 1 && (cur t).eng.posted == [⟨0x13, 6, 2⟩]) = true ∧
    after (exec (.exit g0 0) faulty) (fun t => (cur t).sys.tcause == 0x0B && (cur t).eng.posted == [⟨0x13, 6, 2⟩]) = true := by decide +kernel

/-- g1 = 0x1000, g2 = a descriptor of 4 rows of stride 128 at 0x2000, g3 = the control word of a drain of FP32, g4 = 0x4000, g5 = 0x8000, g6 = an odd address. -/
def pushers : State :=
  regs [(1, 0x1000), (2, BitVec.ofNat 64 (0x2000 + 128 * 2 ^ 22 + 3 * 2 ^ 38)), (3, BitVec.ofNat 64 (127 * 2 ^ 32 + 4 * 2 ^ 8)), (4, 0x4000), (5, 0x8000), (6, 0x1001), (7, 1), (8, 0), (9, 2 ^ 40), (10, 2 ^ 31)]
    tile
/-- The statement of a matrix command at a state, computed. -/
def mxRight (s : State) (i : Instr) : Bool :=
  match mxForm i with
  | none => false
  | some x =>
    match vals x.srcs s with
    | none => false
    | some (vs, s1) =>
      let mode := x.mode s vs
      match x.bad s vs with
      | some c => goes (exec i s) (pushTrap s x.fn 0 x.tag c)
      | none => goes (exec i s) (retire (kickMxe (queueMx (x.op s (drawOf true mode s1) vs) (afterDraw true mode s1)) s.env.agent) .next)
/-- Whether the push is refused, and with which CODE. -/
def mxBad (s : State) (i : Instr) : Option Nat := (mxForm i).bind (fun x => (vals x.srcs s).bind (fun p => x.bad s p.1))
def cs0 : Compl := ⟨0, 0, 0, 9⟩
def mxGood : List Instr :=
  [.mxcfg g0 5 1 2, .mxpass g0 4 2 0 0 0 0 3 0 1, .mxarm g0 7 2 4, .mxdisarm g0 4, .mxdrain g0 4 5 3 cs0 1, .mxdrain g0 4 5 3 ⟨6, 1, 1, 9⟩ 1, .mxramp g0 9]
def mxWrong : List (Instr × Nat) := [(.mxldw g0 6 0 7 2 0, 3), (.mxpert g0 1 3 3 0, 7), (.mxdrain g0 6 4 3 cs0 1, 3), (.mxarm g0 10 2 4, 3)]
theorem witness_MatrixCommands_push :
    (mxGood.all (fun i => wellFormed i && (mxForm i).isSome && mxRight pushers i && (mxBad pushers i).isNone)) = true ∧
    (executes (cur pushers) g0 = true ∧ noPosted pushers 0 ∧ (cur pushers).eng.mxq.length < 2) ∧
    (mxWrong.all (fun p => wellFormed p.1 && mxBad pushers p.1 == some p.2 && mxRight pushers p.1)) = true ∧
    (wellFormed (.mxzero g0 1) = true ∧ (mxForm (.mxzero g0 1)).isSome ∧ mxBad pushers (.mxzero g0 1) = none ∧
      wellFormed (.mxldw g0 1 1 3 1 0) = true ∧ (mxForm (.mxldw g0 1 1 3 1 0)).isSome ∧ mxBad pushers (.mxldw g0 1 1 3 1 0) = none) ∧
    after (exec (.mxldw g0 6 0 7 2 0) pushers) (fun t => (cur t).sys.tcause == 0x0B && (cur t).sys.tinfo == 2 ^ 40 + 2 * 2 ^ 34 + 3) = true := by decide +kernel
/-- The queue with two commands. -/
def full : State := modCur tile (fun t => { t with eng := { t.eng with
  mxq := [⟨.ramp 1, 0, 0⟩, ⟨.ramp 2, 0, 1⟩], cpq := [default, default], copies := [⟨3, 9, 2, 5, 640⟩] } })
theorem witness_MatrixCommands :
    (2 ≤ (cur full).eng.mxq.length ∧ goes (exec (.mxramp g0 9) full) (beginWait full .engine) = true) ∧
    ((cur flying).eng.mxq.length < 2 ∧ after (exec (.mxramp g0 9) flying) (fun t => (cur t).st == .ready && t.net.reqs.length == 1) = true) ∧
    (mxOpen full = 2 ∧ mxOpen full ≤ (2 : BitVec 8).toNat ∧ (1 : BitVec 8).toNat < mxOpen full ∧ goes (exec (.mxwait g0 1) full) (beginWait full .engine) = true ∧
      goes (exec (.mxwait g0 2) full) (retire full .next) = true) ∧
    checkDst 3 full = .ok ((), full) ∧ after (exec (.mxstat g0 3 1) full) (fun t => curReg t 3 == 2 * 2 ^ 48) = true :=
  ⟨by decide +kernel, by decide +kernel, by decide +kernel, ok_of (by decide +kernel), by decide +kernel⟩

/-- g1 = 0x1000, g2 = 0x2000, g3 = 64 bytes; g4, g5 a list of 2 elements at 0x3000; g6, g7 an MSCAT list; g8 and g9 make a CPY2D; g10 a base in the module, g11 its window. -/
def copiers : State :=
  regs [(1, 0x1000), (2, 0x2000), (3, 64), (4, 0x3000), (5, 2 * 2 ^ 32 + 2), (6, 0x100), (7, 0x200), (8, 16 * 2 ^ 32 + 4), (9, 0x100000001), (10, 2 ^ 48), (11, 8), (12, 4096), (13, 0x3002)] tile
/-- The statement of a copy or window command at a state, computed. -/
def cpRight (s : State) (i : Instr) : Bool :=
  match cpForm i with
  | none => false
  | some x =>
    match vals x.srcs s with
    | none => false
    | some (vs, s1) =>
      let c := x.cmd s vs
      if x.bad c then goes (exec i s) (pushTrap s c.fn.toNat 1 c.dn.tag 3) else goes (exec i s) (retire (kickCpe (queueCp c s1) s.env.agent) .next)
def cpBad (s : State) (i : Instr) : Bool := match cpForm i with | none => true | some x => (match vals x.srcs s with | none => true | some (vs, _) => x.bad (x.cmd s vs))
def cpGood : List Instr :=
  [.cpy g0 1 2 3 cs0 0 0, .cpy g0 1 2 3 ⟨1, 1, 1, 9⟩ 1 1, .cpy2d g0 1 2 8 cs0, .cpyg g0 1 2 4 ⟨0, 1, 0, 9⟩ 1, .cpys g0 1 2 4 cs0, .cpyf g0 1 2 3 cs0, .cpym g0 1 2 6 cs0 3,
   .wopen g0 10 11 12 3, .wadv g0 3 cs0 3, .wsync g0 3 cs0 3, .wclose g0 cs0 3]
def cpWrong : List Instr := [.cpyg g0 1 2 4 cs0 1, .cpyg g0 1 2 12 cs0 0, .cpy g0 1 2 10 cs0 0 0, .wopen g0 1 11 12 3, .wopen g0 10 11 13 3]
theorem witness_CopyCommands_push :
    (cpGood.all (fun i => wellFormed i && (cpForm i).isSome && !cpBad copiers i && cpRight copiers i)) = true ∧
    (cpWrong.all (fun i => wellFormed i && (cpForm i).isSome && cpBad copiers i && cpRight copiers i)) = true ∧
    executes (cur copiers) g0 = true ∧ noPosted copiers 0 ∧ (cur copiers).eng.cpq.length < 2 := by decide +kernel

/-- g1 = strides of two tiles in each direction, g2 = g3 = 0, g4 = the same with C1 = 0. -/
def tiled : State := regs [(1, 0x2000200020002), (4, 0x2000200000002)] tile
theorem witness_CopyCommands :
    (2 ≤ (cur full).eng.cpq.length ∧ goes (exec (.wclose g0 cs0 3) full) (beginWait full .engine) = true) ∧
    (cpOpen full = 2 ∧ goes (exec (.cpwait g0 1) full) (beginWait full .engine) = true ∧ goes (exec (.cpwait g0 1023) full) (retire full .next) = true) ∧
    (checkDst 3 full = .ok ((), full) ∧ writeReg 3 7 full = .ok ((), setCurReg full 3 7) ∧ checkDst 3 tile = .ok ((), tile)) ∧
    gives full [(.cpstat g0 3 9, 2 * 2 ^ 61 + 5 * 2 ^ 40 + 640), (.cpstat g0 3 8, 0)] = true ∧
    readsAll [1, 2, 3] tiled [0x2000200020002, 0, 0] tiled ∧
    after (exec (.ctcfg g0 1 2 3 1) tiled) (fun t => (mget? (cur t).eng.ct 1).isSome) = true ∧ readsAll [4, 2, 3] tiled [0x2000200000002, 0, 0] tiled ∧
    goes (exec (.ctcfg g0 4 2 3 1) tiled) (pushTrap tiled 0x20 1 0 3) = true :=
  ⟨by decide +kernel, by decide +kernel, ⟨ok_of (by decide +kernel), ok_of (by decide +kernel), ok_of (by decide +kernel)⟩, by decide +kernel, reads_of (by decide +kernel),
    by decide +kernel, reads_of (by decide +kernel), by decide +kernel⟩

/-! ### Barriers -/

/-- Toggle, arrivals and bytes of the barrier at 0, before and after an update of a barrier with 1 arrival expected per phase. -/
def barAt (w : Word) : Memory := writeWord (writeWord ⟨[], []⟩ 0 w) 8 1
def barOf (w : Word) (arrive : Bool) (d : Int) : Nat × Word := let r := barUpdate (barAt w) 0 arrive d; (r.1, readWord r.2 0)
/-- Hand calculation from 06 R201. -/
theorem test_barUpdate :
    barOf 0x0200000000000000 true 5 = (0, 0x0100000000000005) ∧ barOf 0x0100000000000000 true 0 = (0, 0x8100000000000000) ∧ barOf 0x8000000000000005 false (-5) = (0, 0x0100000000000000) ∧
    barOf 0x0100000000000000 true (-1) = (0, 0x00FFFFFFFFFFFFFF) ∧ barOf 0x0000000000000001 true 0 = (2, 0x0000000000000001) ∧
    barOf 0x007FFFFFFFFFFFFF false 1 = (1, 0x007FFFFFFFFFFFFF) ∧ barOf 0x0080000000000000 false (-1) = (1, 0x0080000000000000) := by decide +kernel

/-- A barrier of two arrivals at 0x200 (g1); g2 = 0; g3 = -3; g4 = 0x208; g5 = 0x300000; g6 = 1; g7 = a poisoned one at 0x210; g8 = one with no arrival left at 0x220. -/
def barriers : State :=
  let s := regs [(1, 0x200), (2, 0), (3, -3), (4, 0x208), (5, 0x300000), (6, 1), (7, 0x210), (8, 0x220)] tile
  let m := writeWord (writeWord s.mem (keyLs 0 0x200) 0x0200000000000000) (keyLs 0 0x208) 2
  setMem s { m with poison := [keyLs 0 0x218 / 8] }
def barK : Nat := keyLs 0 0x200
/-- The instruction leaves that word in the barrier at once. -/
def updated (i : Instr) (w : Word) : Bool := after (exec i barriers) (fun t => readWord t.mem barK == w && (cur t).pc == (cur barriers).pc + 8)
theorem test_barriers :
    stored (.binit g0 1 1 64) barriers barK 0xC000000000000000 ∧ stored (.binit g0 1 0 3) barriers (keyLs 0 0x208) 3 ∧ updated (.bexp g0 1 3) 0x02FFFFFFFFFFFFFD ∧
    updated (.barv g0 1 0 0 0) 0x0100000000000000 ∧ updated (.barv g0 1 3 2 1) 0x01FFFFFFFFFFFFFD ∧
    after (exec (.barv g0 8 0 0 0) barriers) (fun t => (cur t).sys.tcause == 0x12 && (cur t).sys.taddr == 0x220 && (cur t).sys.tinfo == 2) ∧
    after (exec (.bexp g0 7 3) barriers) (fun t => (cur t).sys.tcause == 0x10) ∧ after (exec (.btest g0 3 1 2 0) barriers) (fun t => predOf (cur t) 3 == 0) ∧
    after (exec (.btest g0 3 1 6 0) barriers) (fun t => predOf (cur t) 3 == 1) := by decide +kernel
theorem witness_BarrierInstructions :
    (executes (cur barriers) g0 = true ∧ noPosted barriers 0 ∧ sbarDone barriers = true ∧ isCore barriers.env.agent = false) ∧
    readsAll [4, 3] barriers [0x208, -3] barriers ∧ readsAll [5, 3] barriers [0x300000, -3] barriers ∧
    ((0x208 : Word).toNat % 16 ≠ 0 ∧ (0x300000 : Word).toNat % 16 = 0 ∧ localKey barriers 0x300000 = none ∧ (0x300000 : Word).toNat < 2 ^ 46) ∧
    after (exec (.bexp g0 4 3) barriers) (fun t => (cur t).sys.tcause == 4 && (cur t).sys.taddr == 0x208 && (cur t).sys.tinfo == 16) = true ∧
    after (exec (.bwait g0 5 3 0) barriers) (fun t => (cur t).sys.tcause == 6 && (cur t).sys.tinfo == 4) = true ∧
    after (exec (.barv g0 5 3 0 1) barriers) (fun t => (cur t).sys.tcause == 7 && (cur t).sys.tinfo == 4) = true ∧
    readReg 1 barriers = .ok (0x200, barriers) ∧ ownBarrier barriers 0x200 barK ∧ readsAll [1, 3] barriers [0x200, -3] barriers ∧ readsAll [1] barriers [0x200] barriers ∧
    replyFor barriers 0 = none ∧ released true ⟨2, 3⟩ barriers ∧ poisoned barriers.mem barK 16 = false ∧ poisoned barriers.mem (keyLs 0 0x210) 16 = true ∧
    ((barUpdate barriers.mem barK false (-3)).1 = 0 ∧ (barUpdate barriers.mem (keyLs 0 0x220) true (-3)).1 = 2) ∧
    (readsAll [1, 6] barriers [0x200, 1] barriers ∧ homeBusy (afterSbar barriers) barK = false ∧ after (exec (.bwait g0 1 6 0) barriers) (fun t => (cur t).pc == (cur barriers).pc + 8) = true) ∧
    (readsAll [1, 2] barriers [0x200, 0] barriers ∧ goes (exec (.bwait g0 1 2 0) barriers) (beginWait barriers .barrier) = true) ∧ (3 : PReg) ≠ 0 :=
  ⟨by decide +kernel, reads_of (by decide +kernel), reads_of (by decide +kernel), by decide +kernel, by decide +kernel, by decide +kernel, by decide +kernel, ok_of (by decide +kernel),
    by decide +kernel, reads_of (by decide +kernel), reads_of (by decide +kernel), by decide +kernel, by decide +kernel, by decide +kernel, by decide +kernel, by decide +kernel,
    ⟨reads_of (by decide +kernel), by decide +kernel, by decide +kernel⟩, ⟨reads_of (by decide +kernel), by decide +kernel⟩, by decide⟩
/-- The barriers with an answer that says done, with one that says CODE 2, and with a poisoned one. -/
def answered (bad : Bool) (code : Nat) : State := modCur barriers (fun t => { t with reply := some [⟨0, 0x8000000000000000, bad, code, 0x4000⟩] })
theorem witness_BarrierAnswers :
    (replyFor (answered false 0) 0).isSome ∧ executes (cur (answered false 0)) g0 = true ∧ noPosted (answered false 0) 0 ∧ readsAll [1, 3] (answered false 0) [0x200, -3] (answered false 0) ∧
    after (exec (.bexp g0 1 3) (answered false 0)) (fun t => (cur t).pc == (cur barriers).pc + 8 && t.mem == barriers.mem) = true ∧
    after (exec (.barv g0 1 3 0 1) (answered false 2)) (fun t => (cur t).sys.tcause == 0x12 && (cur t).sys.tinfo == 2) = true ∧
    after (exec (.bexp g0 1 3) (answered true 0)) (fun t => (cur t).sys.tcause == 0x10 && (cur t).sys.taddr == 0x200) = true ∧
    after (exec (.btest g0 3 1 2 0) (answered false 0)) (fun t => predOf (cur t) 3 == 1) = true :=
  ⟨by decide +kernel, by decide +kernel, by decide +kernel, reads_of (by decide +kernel), by decide +kernel, by decide +kernel, by decide +kernel, by decide +kernel⟩
/-- A write of the barrier in flight, and a barrier whose second word alone is poisoned: BTEST reads the first, BWAIT both. -/
def busyBarrier : State := sendReq [⟨barK, 8, .write, 0, 0, 0⟩] false barriers
theorem witness_BarrierResult_homes :
    homeBusy busyBarrier barK = true ∧ ownBarrier busyBarrier 0x200 barK ∧ sbarDone busyBarrier = true ∧
    goes (exec (.bwait g0 1 6 0) busyBarrier) (beginWait busyBarrier .response) = true ∧
    poisoned barriers.mem (keyLs 0 0x210) 8 = false ∧ poisoned barriers.mem (keyLs 0 0x210) 16 = true ∧
    after (exec (.btest g0 3 7 2 0) barriers) (fun t => (cur t).pc == (cur barriers).pc + 8) = true ∧
    after (exec (.bwait g0 7 2 0) barriers) (fun t => (cur t).sys.tcause == 0x10) = true := by decide +kernel
def coreBarrier : State := regs [(1, BitVec.ofNat 64 (2 ^ 60)), (2, 0)] core0
theorem witness_BarrierAddress_core :
    readsAll [1, 2] coreBarrier [BitVec.ofNat 64 (2 ^ 60), 0] coreBarrier ∧ executes (cur coreBarrier) g0 = true ∧ noPosted coreBarrier 0 ∧ replyFor coreBarrier 0 = none ∧
    isCore coreBarrier.env.agent = true ∧ inModule (2 ^ 60) = false ∧
    after (exec (.bwait g0 1 2 0) coreBarrier) (fun t => (cur t).sys.tcause == 6 && (cur t).sys.tinfo == 1) = true :=
  ⟨reads_of (by decide +kernel), by decide +kernel, by decide +kernel, by decide +kernel, by decide +kernel, by decide +kernel, by decide +kernel⟩

/-! ### Ports and messages -/

/-- Channel 3 with overflow, bound at port 2 of the strand; g1 = 3, g2 = 16, g4 = 0x4000. -/
def bound : State := modCurAgent (modCur (regs [(1, 3), (2, 16), (4, 0x4000)] tile) (fun t => { t with qb := [(2, ⟨1, 3⟩)] }))
  (fun x => { x with ni := { x.ni with chans := [(3, ⟨[⟨7, none⟩, ⟨8, none⟩], [], [], true⟩)] } })
theorem test_port_binding :
    gives bound [(.qstat g0 3 2, 2 ^ 28 + 2 ^ 16 + 2), (.qstat g0 3 5, 0)] = true ∧
    after (exec (.qbind g0 1 1 5) bound) (fun t => (cur t).qb == [(5, ⟨1, 3⟩)] && !(mget chan0 (curAgent t).ni.chans 3).ovf) = true ∧
    after (exec (.qbind g0 0 0 2) bound) (fun t => (cur t).qb == []) = true ∧
    after (exec (.qbind g0 4 2 1) bound) (fun t => (cur t).sys.tcause == 0x0A && (cur t).sys.tinfo == 18) = true ∧ wellFormed (.qbind g0 4 2 1) = true ∧
    after (exec (.add g0 3 58 58 0 0) bound) (fun t => curReg t 3 == 15) = true := by decide +kernel
theorem witness_PortBinding :
    executes (cur bound) g0 = true ∧ readReg 1 bound = .ok (3, bound) ∧ readReg 2 bound = .ok (16, bound) ∧ (16 : Nat) ≤ (16 : Word).toNat ∧ (3 : Word).toNat < 16 ∧
    checkDst 3 bound = .ok ((), bound) ∧ writeReg 3 (BitVec.ofNat 64 (2 ^ 28 + 2 ^ 16 + 2)) bound = .ok ((), setCurReg bound 3 (BitVec.ofNat 64 (2 ^ 28 + 2 ^ 16 + 2))) :=
  ⟨by decide, ok_of (by decide +kernel), ok_of (by decide +kernel), by decide, by decide, ok_of (by decide +kernel), ok_of (by decide +kernel)⟩

/-- g1 = name 1, g2 = 0x100, g5 = 0x104, g6 = the last word of the local store, g7 = 2^14; v2 = 1, 2, 3. -/
def sender : State := vregs [(2, lineOf 64 [1, 2, 3])] (regs [(1, 1), (2, 0x100), (5, 0x104), (6, 0x2FFFF8), (7, 2 ^ 14)] (setMem placed (writeWord placed.mem (keyLs 0 0x100) 9)))
def op2 : SendOp := ⟨0, 0, 0, 0, 5, 2⟩
def relOp : SendOp := ⟨3, 1, 2, 1, 5, 1⟩
/-- The NI takes n elements of tile 0's send buffer. -/
def drains : Nat → State → State
  | 0, s => s
  | n + 1, s => drains n (drainSend s 0)
/-- The messages in flight when the NI has taken the buffered elements. -/
def sent (i : Instr) (s : State) (l : List (Nat × BitVec 4 × List Word)) : Bool :=
  after (exec i s) (fun t => t.net.msgs == [] && (cur t).pc == (cur s).pc + 8 && (drains 9 t).net.msgs.map (fun m => (m.dst, m.ch, m.elems)) == l &&
    (agentAt (drains 9 t) 0).ni.sbuf == [])
theorem test_send :
    sent (.snd g0 1 2 op2) sender [(1, 5, [9, 0])] ∧ sent (.sndv g0 1 2 { op2 with count := 3 }) sender [(1, 5, [1, 2, 3])] ∧
    sent (.sndv g0 1 2 op2) { sender with os := { sender.os with maxmsg := 2 } } [(1, 5, [1, 2])] ∧
    sent (.snd g0 1 2 { op2 with count := 9 }) { sender with os := { sender.os with maxmsg := 2 } } [(1, 5, [9, 0, 0, 0, 0, 0, 0, 0]), (1, 5, [0])] ∧
    after (exec (.snd g0 1 5 op2) sender) (fun t => (cur t).sys.tcause == 4 && (cur t).sys.taddr == 0x104 && (cur t).sys.tinfo == 8) ∧
    after (exec (.snd g0 1 6 op2) sender) (fun t => (cur t).sys.tcause == 6 && (cur t).sys.tinfo == 1) ∧
    after (exec (.snd g0 7 2 op2) sender) (fun t => (cur t).sys.tcause == 9 && (cur t).sys.tinfo == 0) ∧
    after (exec (.sndv g0 7 2 op2) sender) (fun t => (cur t).sys.tcause == 9 && (cur t).sys.taddr == 2 ^ 14) := by decide +kernel
theorem witness_SendInstructions :
    (0 < elemsPerMsg sender ∧ elemsPerMsg sender = 120 ∧ relOp.rel = 1 ∧ (cur sender).reply = none) ∧ executes (cur sender) g0 = true ∧ readsAll [1, 2] sender [1, 0x100] sender ∧ readsAll [1, 5] sender [1, 0x104] sender ∧
    readsAll [1, 6] sender [1, 0x2FFFF8] sender ∧ readsAll [7, 2] sender [2 ^ 14, 0x100] sender ∧
    ((0x104 : Word).toNat % 8 ≠ 0 ∧ 0x300000 < (0x2FFFF8 : Word).toNat + 8 * op2.count.toNat ∧ 2 ^ 14 ≤ (2 ^ 14 : Word).toNat) ∧
    destTile 1 sender = .ok (1, sender) ∧ sbarDone sender = true ∧ (released true ⟨2, 1⟩ (afterSbar sender) ∧ homeBusy (afterSbar sender) (keyLs 0 0x100) = false) ∧
    (∀ i, i < 2 → poisonedAt sender.mem (keyLs 0 0x100 + 8 * i) = false) ∧ readReg 1 sender = .ok (1, sender) :=
  ⟨by decide +kernel, by decide, reads_of (by decide +kernel), reads_of (by decide +kernel), reads_of (by decide +kernel), reads_of (by decide +kernel), by decide,
    ok_of (by decide +kernel), by decide +kernel, by decide +kernel, by decide +kernel, ok_of (by decide +kernel)⟩

/-! ### Reduction calls -/

/-- Tile 0 is the root and a member of tree 5 of context 0 (SUM of INT32), with an open call of two elements, one given, on group 6, and one with its RDRES on group 7. -/
def member (g : Nat) : Nat × BitVec 128 := (g, BitVec.ofNat 128 (2 ^ 44 + 5 * 2 ^ 41 + 2 ^ 40 + 4 * 2 ^ 28))
def call6 : OpenCall := ⟨6, 9, 0, 4, false, true, 0, 2, 1, [⟨0, 1, none, 5, 0⟩], none, 0, false, 0⟩
def call7 : OpenCall := { call6 with group := 7, given := 2, res := some ⟨0x400, false, ⟨none, false, 0⟩, 0⟩ }
def calling : State :=
  let s := regs [(1, 5), (2, 9), (3, 2), (4, 512), (5, 6), (6, 7), (7, 0x102), (8, 0x2FFFFC), (9, 0x200), (10, 1), (11, 2 ^ 20 + 1), (12, 8)] tile
  modCurAgent { s with net := { s.net with trees := [member 5, member 6, member 7] } } (fun x => { x with calls := [call6, call7] })
/-- A precise REDUCE_ABORT with a REASON. -/
def aborted (i : Instr) (seq grp reason : Nat) : Bool := goes (exec i calling) (match aborts calling seq grp reason with | .next t => t | _ => calling)
theorem test_calls :
    after (exec (.rdopen g0 1 2 3 0 1 0 4 0) calling) (fun t => (agentAt t 0).calls.map (fun c => (c.group, c.seq, c.len)) == [(6, 9, 2), (7, 9, 2), (5, 9, 2)]) ∧
    aborted (.rdopen g0 4 2 3 0 1 0 4 0) 9 0 4 ∧ aborted (.rdopen g0 1 2 0 0 1 0 4 0) 9 5 4 ∧ aborted (.rdopen g0 1 2 11 0 1 0 4 0) 9 5 4 ∧ aborted (.rdopen g0 12 2 3 0 1 0 4 0) 9 8 6 ∧
    goes (exec (.rdopen g0 5 2 3 0 1 0 4 0) calling) (beginWait calling .other) ∧
    after (exec (.rdcs g0 5 7) calling) (fun t => (agentAt t 0).calls.map (·.given) == [2, 2]) ∧ aborted (.rdcs g0 6 7) 9 7 5 ∧ aborted (.rdcs g0 1 7) 0 5 5 ∧
    after (exec (.rdcb g0 5 9 10) calling) (fun t => (agentAt t 0).calls.map (·.given) == [2, 2]) ∧ aborted (.rdcb g0 5 9 3) 9 6 4 ∧ aborted (.rdcb g0 5 9 0) 9 6 4 ∧
    after (exec (.rdcb g0 5 7 10) calling) (fun t => (cur t).sys.tcause == 4 && (cur t).sys.tinfo == 4) ∧ aborted (.rdres g0 6 9 default 0) 9 7 5 ∧
    after (exec (.rdres g0 5 9 default 0) calling) (fun t => (agentAt t 0).calls.all (fun c => c.res.isSome)) := by decide +kernel
theorem witness_ReductionCall :
    (executes (cur calling) g0 = true ∧ noPosted calling 1) ∧ readsAll [1, 2, 3] calling [5, 9, 2] calling ∧ readsAll [4, 2, 3] calling [512, 9, 2] calling ∧
    (512 ≤ (512 : Word).toNat ∧ 2 ^ 20 < (2 ^ 20 + 1 : Word).toNat ∧ (teState (treeAt calling 0 5) = 1 ∧ (cur calling).tag = some (teTag (treeAt calling 0 5)) ∧ teHas (treeAt calling 0 5) 4 = true) ∧
      teState (treeAt calling 0 8) ≠ 1 ∧ callOf (curAgent calling) 5 = none ∧ (callOf (curAgent calling) 6).isSome ∧ (curAgent calling).calls.length < 8) ∧
    readsAll [5, 7] calling [6, 0x102] calling ∧ readsAll [6, 7] calling [7, 0x102] calling ∧
    (callOf (curAgent calling) 6 = some call6 ∧ call6.given < call6.len ∧ callOf (curAgent calling) 7 = some call7 ∧ call7.len ≤ call7.given ∧ call7.res ≠ none ∧ call6.res = none) ∧
    (readsAll [5, 9, 10] calling [6, 0x200, 1] calling ∧ readsAll [5, 9, 3] calling [6, 0x200, 2] calling ∧ readsAll [5, 7, 10] calling [6, 0x102, 1] calling ∧
      readsAll [5, 8, 10] calling [6, 0x2FFFFC, 1] calling) ∧
    ((1 : Word).toNat ≤ call6.len - call6.given ∧ ¬ (2 : Word).toNat ≤ call6.len - call6.given ∧ (0x102 : Word).toNat % 4 ≠ 0 ∧ performedAt calling 0 = true ∧ sbarDone calling = true) ∧
    readsAll ([5, 9] ++ barSrc default) calling [6, 0x200] calling ∧ readsAll ([6, 9] ++ barSrc default) calling [7, 0x200] calling ∧
    (receives calling 0 call6 = true ∧ (0x200 : Word).toNat % 8 = 0 ∧ (0x102 : Word).toNat % 8 ≠ 0 ∧ 0x300000 < (0x2FFFF8 : Nat) + (2 * 4 + 7) / 8 * 8 + 8) :=
  ⟨by decide +kernel, reads_of (by decide +kernel), reads_of (by decide +kernel), by decide +kernel, reads_of (by decide +kernel), reads_of (by decide +kernel), by decide +kernel,
    ⟨reads_of (by decide +kernel), reads_of (by decide +kernel), reads_of (by decide +kernel), reads_of (by decide +kernel)⟩, by decide +kernel, reads_of (by decide +kernel),
    reads_of (by decide +kernel), by decide +kernel⟩

/-! ### Light -/

/-- Slots 1, 2 and 3 hold blocks of group 9: ordinary, ordinary with an uncorrectable codeword, and a chain's. Bank 0, 16 weights of 128 channels, no scales. -/
def slotOf (use : SlotUse) (bad : Bool) : Slot :=
  ⟨9, 4, 0x40, lineOf 64 [9 * 2 ^ 22], [(0, 0xAB), (1, 0xCD)], 2048, bad, false, use, false, false, none, some (0, 0)⟩
def lit : State :=
  modCurAgent (regs [(1, 0x40), (2, 9), (3, 1), (4, 2), (5, 8), (6, 0x50), (7, 0x2FFFC0), (8, 256), (9, 0x80), (10, 0x300000), (11, 3)] tile)
    (fun x => { x with rx := { x.rx with slots := [(1, slotOf .ordinary false), (2, slotOf .ordinary true), (3, slotOf .chain false)] }, ni := { x.ni with whq := [headerElem 1 (slotOf .ordinary false)] } })
/-- The request queue of group 9 is full. -/
def litFull : State := { lit with light := { lit.light with pending := List.replicate 16 ⟨0, false, 9, none, 0, 0, false, none⟩ } }
/-- A chain owns the MXE. -/
def litChain : State := modCurAgent lit (fun x => { x with rx := { x.rx with chain := some ⟨9, 1, 3, 8, 0x80, 0, none, false, 0, none, none, none⟩ } })
/-- The trap of an instruction at lit. -/
def litTrap (i : Instr) (cause : Nat) (addr : Word) (info : Nat) : Bool := goes (exec i lit) (match trapsAt lit cause addr info with | .next t => t | _ => lit)
theorem test_light :
    after (exec (.injc g0 1 2) lit) (fun t => t.light.pending == [⟨0x40, true, 9, (cur lit).tag, 0, 0, false, none⟩]) ∧ litTrap (.inj g0 6 2) 4 0x50 64 ∧
    goes (exec (.inj g0 1 2) litFull) (beginWait litFull .other) ∧ after (exec (.wbhdr g0 5 3) lit) (fun t => mget 0 (cur t).vregs 5 == lineOf 64 [9 * 2 ^ 22]) ∧
    litTrap (.wbhdr g0 5 5) 0x0F 8 (2 ^ 10) ∧ after (exec (.wbhdr g0 5 11) lit) (fun t => (cur t).sys.tcause == 0x0F && (cur t).sys.tinfo == 2 ^ 8 + 3) ∧
    after (exec (.wbrel g0 3) lit) (fun t => (agentAt t 0).rx.slots.length == 2) ∧ goes (exec (.wbrel g0 11) lit) (retire lit .next) ∧
    litTrap (.wbpop g0 6 3) 4 0x50 64 ∧ litTrap (.wbpop g0 7 3) 7 0x2FFFC0 1 ∧
    after (exec (.wbpop g0 1 4) lit) (fun t => (cur t).sys.tcause == 0x0F && (cur t).sys.tinfo == 2 ^ 9 + 2) := by decide +kernel
theorem test_drive :
    after (exec (.wdrive g0 55 2 9) lit) (fun t => (cur t).st == .parked && (match (agentAt t 0).rx.chain with | some c => c.group == 9 && c.dest == 55 && c.table == 0x80 | none => false) &&
      ((agentAt t 0).rx.slots.map (fun p => p.2.use)) == [.chain, .ordinary, .chain] && (agentAt t 0).ni.whq == []) ∧
    litTrap (.wdrive g0 55 8 9) 8 256 (23 * 2 ^ 24) ∧ litTrap (.wdrive g0 55 2 1) 4 0x40 128 ∧ litTrap (.wdrive g0 55 2 10) 6 0x300000 1 ∧
    goes (exec (.wdrive g0 55 2 9) litChain) (beginWait litChain .other) ∧
    after (exec (.wdstop g0) litChain) (fun t => match (agentAt t 0).rx.chain with | some c => c.stop | none => false) := by decide +kernel
theorem witness_LightInstructions :
    executes (cur lit) g0 = true ∧ readsAll [1, 2] lit [0x40, 9] lit ∧ readsAll [6, 2] lit [0x50, 9] lit ∧
    ((0x50 : Word).toNat % 64 ≠ 0 ∧ 16 ≤ injectCount litFull 9 ∧ injectCount lit 9 < 16 ∧ released true ⟨2, 2⟩ lit ∧ sbarDone lit = true ∧ homeBusy (afterSbar lit) (keyLs 0 0x40) = false) ∧
    readsAll [1, 2] litFull [0x40, 9] litFull ∧ readReg 5 lit = .ok (8, lit) ∧ readReg 3 lit = .ok (1, lit) ∧ readReg 4 lit = .ok (2, lit) ∧ readReg 11 lit = .ok (3, lit) ∧
    (ordinarySlot lit 1 (slotOf .ordinary false) ∧ ordinarySlot lit 2 (slotOf .ordinary true) ∧ mget? (curAgent lit).rx.slots 3 = some (slotOf .chain false)) ∧
    readReg 1 lit = .ok (0x40, lit) ∧ readReg 6 lit = .ok (0x50, lit) ∧ readReg 7 lit = .ok (0x2FFFC0, lit) ∧
    readsAll [2, 9] lit [9, 0x80] lit ∧ readsAll [8, 9] lit [256, 0x80] lit ∧ readsAll [2, 1] lit [9, 0x40] lit ∧ readsAll [2, 10] lit [9, 0x300000] lit ∧
    ((curAgent litChain).rx.chain ≠ none ∧ (curAgent lit).rx.chain = none) ∧ readsAll [2, 9] litChain [9, 0x80] litChain :=
  ⟨by decide, reads_of (by decide +kernel), reads_of (by decide +kernel), by decide +kernel, reads_of (by decide +kernel), ok_of (by decide +kernel), ok_of (by decide +kernel),
    ok_of (by decide +kernel), ok_of (by decide +kernel), by decide +kernel, ok_of (by decide +kernel), ok_of (by decide +kernel), ok_of (by decide +kernel), reads_of (by decide +kernel),
    reads_of (by decide +kernel), reads_of (by decide +kernel), reads_of (by decide +kernel), by decide +kernel, reads_of (by decide +kernel)⟩

/-! ### Domains and strands -/

/-- A member of the domain of levels 0 and 3; the same with an arrival at level 0, and with a reply. -/
def inDom : State := modCur tile (fun t => { t with dom := [(0, 2 ^ 55), (3, 2 ^ 55)] })
def arrived0 : State := modCur inDom (fun t => { t with arrived := [(0, true)] })
def woken : State := modCur inDom (fun t => { t with reply := some [] })
theorem witness_DomainPhase :
    (executes (cur inDom) g0 = true ∧ noPosted inDom 3 ∧ inDomain inDom 1 = false ∧ inDomain inDom 0 = true ∧ arrivedAt arrived0 0 = true ∧ arrivedAt inDom 0 = false) ∧
    goes (exec (.dsync g0 1) inDom) (retire inDom .next) = true ∧ after (exec (.dwait g0 0) arrived0) (fun t => (cur t).st == .waiting && (cur t).cause == some .domain && (cur t).reply == some []) = true ∧
    ((cur inDom).reply = none ∧ goes (exec (.dwait g0 0) inDom) (retire inDom .next) = true) ∧ after (exec (.dwait g0 0) woken) (fun t => (cur t).pc == (cur inDom).pc + 8) = true ∧
    goes (exec (.darv g0 0) arrived0) (beginWait arrived0 .domain) = true ∧ after (exec (.darv g0 0) inDom) (fun t => (cur t).arrived == [(0, true)] && (cur t).pc == (cur inDom).pc + 8) = true ∧
    after (exec (.dsync g0 0) inDom) (fun t => (cur t).arrived == [(0, true)] && (cur t).st == .waiting && (cur t).pc == (cur inDom).pc) = true ∧
    ((cur woken).reply ≠ none ∧ after (exec (.dsync g0 0) woken) (fun t => (cur t).arrived == [] && (cur t).pc == (cur inDom).pc + 8) = true) ∧
    (released true ⟨1, scopeOfLevel 0⟩ inDom ∧ released true ⟨1, scopeOfLevel 3⟩ inDom ∧ sbarDone inDom = true ∧ (cur inDom).reply = none) := by decide +kernel

/-- Strand 2 runs on registers 56 to 63; g1 = a PC, g2 = 7, g3 = a seed, g4 = no multiple of 8. -/
def spawner : State :=
  modCurAgent (regs [(1, 0x1000), (2, 7), (3, 99), (4, 0x1004)] tile) (fun x =>
    { x with strands := mput (mput x.strands 2 { strand0 with st := .ready, base := 56, size := 8, hasRun := true }) 3 { strand0 with hasRun := true } })
theorem test_spawn :
    after (exec (.spawn g0 1 2 3 8 2 1) spawner) (fun t => let u := strandAt t 0 1
      u.st == .ready && u.pc == 0x1000 && u.base == 64 && u.size == 16 && u.sys.seed == 99 && mget 0 (agentAt t 0).pool 64 == 7 && mget 0 (agentAt t 0).pool 65 == 0) = true ∧
    after (exec (.spawn g0 4 2 3 8 2 1) spawner) (fun t => (cur t).sys.tcause == 4 && (cur t).sys.taddr == 0x1004) = true ∧
    after (exec (.spawn g0 1 2 3 7 1 1) spawner) (fun t => (cur t).sys.tcause == 3 && (cur t).sys.taddr == 56 && (cur t).sys.tinfo == 136) = true ∧
    after (exec (.spawn g0 1 2 3 63 2 1) spawner) (fun t => (cur t).sys.tcause == 3 && (cur t).sys.taddr == 504) = true ∧
    goes (exec (.spawn g0 1 2 3 8 2 2) spawner) (beginWait spawner .other) = true := by decide +kernel
theorem witness_SpawnResult :
    (executes (cur spawner) g0 = true ∧ noPosted spawner 3) ∧ readsAll [1, 2, 3] spawner [0x1000, 7, 99] spawner ∧ readsAll [4, 2, 3] spawner [0x1004, 7, 99] spawner ∧
    ((strandOf (curAgent spawner) 2).st ≠ .inactive ∧ (strandOf (curAgent spawner) 1).st = .inactive ∧ (0x1004 : Word).toNat % 8 ≠ 0) ∧
    (512 < 8 * (63 : BitVec 6).toNat + 8 * (2 : BitVec 3).toNat ∧
      (curAgent spawner).strands.any (fun p => p.2.st != .inactive && decide (p.2.base.toNat < 64) && decide (56 < p.2.base.toNat + p.2.size.toNat)) = true ∧
      (curAgent spawner).strands.all (fun p => p.2.st == .inactive || decide (80 ≤ p.2.base.toNat) || decide (p.2.base.toNat + p.2.size.toNat ≤ 64)) = true ∧
      performedAt spawner 0 = true ∧ sbarDone spawner = true) ∧
    ((strandOf (curAgent spawner) 1).hasRun = false ∧ goes (exec (.swait g0 1) spawner) (retire spawner .next) = true ∧ goes (exec (.swait g0 0) spawner) (retire spawner .next) = true ∧
      (strandOf (curAgent spawner) 3).hasRun = true ∧ after (exec (.swait g0 3) spawner) (fun t => (cur t).pc == (cur spawner).pc + 8) = true ∧
      (strandOf (curAgent spawner) 2).hasRun = true ∧ goes (exec (.swait g0 2) spawner) (beginWait spawner .other) = true) :=
  ⟨by decide +kernel, reads_of (by decide +kernel), reads_of (by decide +kernel), by decide +kernel, by decide +kernel, by decide +kernel⟩
/-- Room for one more element, and for none. -/
def crowded (n : Nat) : State := modCurAgent sender (fun x => { x with ni := { x.ni with sbuf := List.replicate n ⟨newMsg 1 5 false 0 none sender, 7, true⟩ } })
/-- A SNDV of two words with room for one waits with the other, which it places when there is room again (07 R213). -/
def half : State := match exec (.sndv g0 1 2 op2) (crowded 63) with | .next t => { drains 1 t with env := t.env } | _ => tile
theorem witness_SendWaits :
    (curAgent (crowded 63)).ni.sbuf.length = 63 ∧ (curAgent (crowded 64)).ni.sbuf.length = 64 ∧ goes (exec (.sndv g0 1 2 op2) (crowded 64)) (beginWait (crowded 64) .sink) = true ∧
    (cur half).st = .waiting ∧ (cur half).cause = some .sink ∧ (∃ l, (cur half).reply = some l ∧ l.map (·.val) = [2] ∧ l.length ≤ 64 - (curAgent half).ni.sbuf.length) ∧
    readReg 1 half = .ok (1, half) ∧
    after (exec (.sndv g0 1 2 op2) half) (fun t => (cur t).pc == (cur sender).pc + 8 && (curAgent t).ni.sbuf.length == 64 && ((curAgent t).ni.sbuf.getLast?.map (·.elem)) == some 2) = true :=
  ⟨by decide +kernel, by decide +kernel, by decide +kernel, by decide +kernel, by decide +kernel, ⟨_, rfl, by decide +kernel, by decide +kernel⟩, ok_of (by decide +kernel), by decide +kernel⟩
/-- The buffered elements end in one message each, which the NI goes on with or begins (07 R214). -/
theorem witness_MessagesKeepElements :
    (curAgent (crowded 2)).ni.sbuf ≠ [] ∧ (∀ m ∈ (crowded 2).net.msgs, ¬ openMsg 0 0 m) ∧
    (let t := { crowded 2 with net := { (crowded 2).net with msgs := [{ newMsg 1 5 false 0 none sender with whole := false }] } }
     openMsg 0 0 { newMsg 1 5 false 0 none sender with whole := false } ∧ (drainSend t 0).net.msgs.map (fun m => (m.elems, m.whole)) = [([7], true)]) := by decide +kernel

/-! ### System registers -/

/-- Core 0 with register 4 and 5: a value for most registers, and one with 6 in its lowest bits. -/
def firm : State := regs [(4, 0x1F5), (5, 6), (6, 2 ^ 63 + 3), (7, 0x00FFFFFFFFFFFFFF)] core0
/-- MTS of register r, then MFS: what is read back. -/
def backs (s : State) (num : BitVec 12) (r : Reg) (w : Word) : Bool := after (exec (.mts g0 r num) s) (fun t => after (exec (.mfs g0 3 num) t) (fun u => curReg u 3 == w))
/-- 01 R39 to R43: what is read after reset, and what is read back. -/
theorem test_mfs : gives tile [(.mfs g0 3 0, 0), (.mfs g0 3 1, 0), (.mfs g0 3 4, 56), (.mfs g0 3 5, 0), (.mfs g0 3 0x33, 0), (.mfs g0 3 0x40, 0), (.mfs g0 3 0x60, 0)] = true ∧
    gives core0 [(.mfs g0 3 5, 2), (.mfs g0 3 0x110, 16), (.mfs g0 3 0x120, 2000), (.mfs g0 3 0x2A1, 0)] = true := by decide +kernel
theorem test_mts :
    backs firm 0x10 4 0x1F5 ∧ backs firm 0x11 7 0x1F ∧ backs firm 0x20 7 0x00FFFFFFFFFFFFF8 ∧ backs firm 0x26 7 1 ∧ backs firm 0x50 7 0x00FFFFFFFFFFFFFF ∧
    backs firm 0x102 7 0x00FFFFFFFFFFF000 ∧ backs firm 0x140 7 0x00FFFFFFFFFFF00F ∧ backs firm 0x247 7 0x00FFFFFFFC000000 ∧
    after (exec (.mts g0 5 0x10) firm) (fun t => (cur t).sys.tcause == 1 && (cur t).sys.tinfo == 34 * 1024 + 6) = true ∧
    after (exec (.mts g0 5 0) firm) (fun t => (cur t).sys.tcause == 1 && (cur t).sys.tinfo == 6) = true ∧
    after (exec (.mts g0 5 0x100) tile) (fun t => (cur t).sys.tcause == 2 && (cur t).sys.tinfo == 2) = true ∧
    after (exec (.mfs g0 3 0x120) tile) (fun t => (cur t).sys.tcause == 2 && (cur t).sys.tinfo == 1) = true ∧
    after (exec (.mfs g0 3 7) tile) (fun t => (cur t).sys.tcause == 1 && (cur t).sys.tinfo == 6) = true := by decide +kernel
/-- Context 7 is sealed and of no convoy. -/
def sealed7 : State := modCtx firm 7 (fun v => { v with st := 1, sealed := true })
theorem witness_SystemRegisters :
    (executes (cur tile) g0 = true ∧ executes (cur firm) g0 = true) ∧ checkDst 3 tile = .ok ((), tile) ∧ writeReg 3 7 tile = .ok ((), setCurReg tile 3 7) ∧
    ((cur tile).priv.toNat < sysNeeds 0x120 false ∧ sysNeeds 7 false ≤ (cur tile).priv.toNat ∧ 7 ∉ sysNumbers ∧ sysNeeds 6 false ≤ (cur tile).priv.toNat ∧ 6 ∈ sysNumbers) ∧
    readReg 5 tile = .ok (0, tile) ∧ readReg 5 firm = .ok (6, firm) ∧ readReg 4 firm = .ok (0x1F5, firm) ∧ readReg 6 firm = .ok (2 ^ 63 + 3, firm) ∧
    ((cur tile).priv.toNat < sysNeeds 0x100 true ∧ sysNeeds 0x28 true ≤ (cur firm).priv.toNat ∧ 0x28 ∉ sysWritable ∧ 0x10 ∈ sysWritable ∧ sysBad 0x10 6 = true ∧ sysBad 0x10 0x1F5 = false) ∧
    ([0x141, 0x290, 0x292, 0x2A0].all (fun n => n ∈ sysWritable && !sysBad n (2 ^ 63 + 3)) = true ∧ sysBad 0x292 (2 ^ 29 + 17 * 2 ^ 24) = true ∧ sysBad 0x291 (48 * 16) = true ∧
      sysBad 0x291 (47 * 16 + 11) = false ∧ sysBad 0x110 1 = true ∧ sysBad 0x110 64 = false ∧ sysBad 0x110 65 = true ∧ sysBad 0x280 (2 ^ 62) = true ∧ sysBad 0x280 (3 * 2 ^ 60) = false) ∧
    goes (exec (.ckptRestore g0 6) firm) (retire (sysActs 0x2A0 (2 ^ 63 + 3) firm) .next) = true ∧ goes (exec (.mts g0 6 0x290) firm) (retire (sysActs 0x290 (2 ^ 63 + 3) firm) .next) = true ∧
    goes (exec (.faultansWrite g0 6) firm) (retire (sysActs 0x141 (2 ^ 63 + 3) firm) .next) = true ∧
    (ringApproved firm 7 (2 ^ 63 + 3) = true ∧ ringApproved sealed7 7 (2 ^ 63 + 3) = false ∧ goes (exec (.mts g0 6 0x247) sealed7) (retire sealed7 .next) = true) :=
  ⟨by decide, ok_of (by decide +kernel), ok_of (by decide +kernel), by decide +kernel, ok_of (by decide +kernel), ok_of (by decide +kernel), ok_of (by decide +kernel), ok_of (by decide +kernel),
    by decide +kernel, by decide +kernel, by decide +kernel, by decide +kernel, by decide +kernel, by decide +kernel⟩
/-- Every register is read as the statement says. -/
theorem test_sysValue : sysNumbers.all (fun n => goes (exec (.mfs g0 3 (BitVec.ofNat 12 n)) firm) (retire (setCurReg firm 3 (sysValue firm n)) .next)) = true := by decide +kernel
theorem test_topo : gives tile [(.topo g0 3 0, BitVec.ofNat 64 (2 ^ 59 + 128 * 2 ^ 26 + 72 * 2 ^ 19)), (.topo g0 3 1, BitVec.ofNat 64 (8 * 2 ^ 20 + 6 * 2 ^ 16 + 17 * 2 ^ 11 + 12 * 2 ^ 7 + 16))] = true := by
  decide +kernel

/-! ### Services and queues -/

/-- The word retires with a status word in g3. -/
def answers (i : Instr) (s : State) (code value : Nat) : Bool := after (exec i s) (fun t => curReg t 3 == codeWord code value && (cur t).pc == (cur s).pc + 8)
theorem begins_of {g : Guard} {d : Reg} {srcs : List Reg} {vs : List Word} {s : State} (h : executes (cur s) g = true) (e : okB (checkDst d) s () s = true)
    (f : readsB srcs s vs s = true) (q : drained s ∧ replyFor (afterSbar s) 0 = none) : begins g d srcs s vs (afterSbar s) :=
  ⟨h, s, s, ok_of e, reads_of f, q.1, rfl, q.2⟩

/-- A reply to the word under way. -/
def told (w : Word) (s : State) : State := modCur s (fun t => { t with reply := some [⟨0, w, false, 0, 0⟩] })
/-- A record waits at core 0's fault ring. -/
def ringFull : State := setMem (modCurAgent core0 (fun x => { x with faultbox := 0x40006 })) (writeWord core0.mem 0x40000 1)
theorem test_syscall :
    after (exec (.syscall g0 3 2 1 7) tile) (fun t => (cur t).st == .waiting && t.os.svc == [⟨0, 0, (cur tile).tag, true, 7, 0⟩]) = true ∧
    after (exec (.syscall g0 3 2 1 7) (told 9 tile)) (fun t => curReg t 3 == 9 && (cur t).pc == (cur tile).pc + 8) = true := by decide +kernel
theorem test_halt :
    goes (exec (.halt g0 3 0) core0) (beginWait core0 .service) = true ∧ goes (exec (.halt g0 3 5) core0) (beginWait core0 .halt) = true ∧
    after (exec (.halt g0 3 0) ringFull) (fun t => curReg t 3 == 1) = true ∧ after (exec (.halt g0 3 5) (told 0 core0)) (fun t => curReg t 3 == 2) = true := by decide +kernel

/-- Context 0 with its tables at 1 MiB (the virtual region maps to the module's first 4 GiB) and its queue headers at 256 KiB: queue 0 has TAIL 3 and a ring of 4. -/
def withTables (s : State) : State :=
  let s := modCtx s 0 (fun v => { v with st := 1, inc := 3, region := 0x201, qhdr := BitVec.ofNat 64 (2 ^ 48 + 0x40000), ptroot := 0x100000 })
  setMem s ([(0x10, 0x201), (0x20, 2 ^ 48 + 0x40000), (0x100080, 0x110001), (0x110000, 0x327), (0x40000, 3), (0x40048, 2 ^ 48 + 0x50002), (0x50040, 0x77), (0x400C8, 2 ^ 48 + 0x50002)].foldl (fun m p => writeWord m p.1 (BitVec.ofNat 64 p.2)) s.mem)
/-- The same for the tile's strand, which holds context 0, and for the core, whose registers name a record's place and a completion record; queue 0 is FROZEN there. -/
def pusher : State :=
  let s := withTables (regs [(1, 0x100), (2, 0x104)] tile)
  setQueue (modCur { s with net := { s.net with fieldTlb := [(0, [⟨liveTag s 0, 2 ^ 48, 1, 0x327⟩])] } } (fun t => { t with tag := some (liveTag s 0) })) 0 0 ⟨1, false, false, 1⟩
def queues : State :=
  let s := withTables (regs [(1, 0x30000), (2, 0x30008), (4, 0x80), (5, 2 ^ 14), (6, 300)] core0)
  setQueue { s with net := { s.net with fieldTlb := [(0, [⟨liveTag s 0, 2 ^ 48, 1, 0x327⟩])] } } 0 0 ⟨1, true, true, 1⟩
/-- The queue full, and FROZEN. -/
def pushFull : State := setQueue { pusher with mem := writeWord pusher.mem 0x40000 5 } 0 0 ⟨1, false, false, 1⟩
def pushFrozen : State := setQueue pusher 0 0 ⟨1, true, false, 1⟩
/-- The first step of TQPUSH as its statement has it, computed: the state in which the record stands in its slot. -/
def pushCopies (s : State) (ga : Word) : Option State :=
  match loadElems ((List.range 8).map (fun j => (j, ga + BitVec.ofNat 64 (8 * j)))) 8 8 true (fun _ => 0) 4 (afterSbar s) with
  | .error _ => none
  | .ok (ws, s3) =>
    match (cur s).tag with
    | none => none
    | some tag =>
      let c := tag.cx.toNat
      let u := beginWait s .service
      match (readHeader s3 c 0).run s3, (readHeader u c 0).run u with
      | .ok (tail, ring), .ok (tail', ring') =>
        let slot := ring / 2 ^ 6 % 2 ^ 51 * 2 ^ 6 + 64 * (tail % 2 ^ (ring % 16))
        let push := fun (s : State) => tquWrite s (liveTag s c) slot (ws.flatMap (fun w => natBytes 8 (BitVec.ofNat 64 w.2).toNat))
        match (tquPage (liveTag s3 c) slot 2 false).run s3, (tquPage (liveTag u c) slot 2 false).run u, push u with
        | .ok _, .ok _, (s5, true) =>
          if tail' = tail ∧ ring' = ring ∧ queueAt u c 0 = queueAt s3 c 0 ∧ (push s3).2 = true ∧ pushing s3 (4 * c) = false then
            some (modCur s5 (fun t => { t with st := .ready, cause := none, reply := some (t.reply.getD [] ++ [⟨2 ^ 20, BitVec.ofNat 64 tail, false, 0, 4 * c⟩]) }))
          else none
        | _, _, _ => none
      | _, _ => none
/-- The same computed for the second step: TAIL moves on. -/
def pushEnds (s : State) : Bool :=
  match replyFor s (2 ^ 20), (cur s).tag with
  | some r, some tag =>
    match (readHeader s tag.cx.toNat 0).run s with
    | .ok (tail, _) =>
      match tquPut s (liveTag s tag.cx.toNat) (headerVa s tag.cx.toNat 0) (tail + 1) with
      | (s5, true) => tail == r.val.toNat && goes (exec (.tqpush g0 3 1 0) s) (retire (setCurReg s5 3 (codeWord 0 tail)) .next)
      | _ => false
    | _ => false
  | _, _ => false
def pushWorks (s : State) (ga : Word) : Bool :=
  match pushCopies s ga with
  | some t => goes (exec (.tqpush g0 3 1 0) s) t && pushEnds t
  | none => false
/-- A push whose record stands in slot 3, and the same after a host's write of TAIL. -/
def pushMid : State := modCur pusher (fun t => { t with reply := some [⟨2 ^ 20, 3, false, 0, 0⟩] })
def pushRaced : State := { pushMid with mem := writeWord pushMid.mem 0x40000 4 }
theorem test_tqpush :
    pushWorks pusher 0x100 = true ∧ answers (.tqpush g0 3 1 0) pushMid 0 3 ∧ after (exec (.tqpush g0 3 1 0) pushMid) (fun t => readWord t.mem 0x40000 == 4) ∧
    answers (.tqpush g0 3 1 0) pushRaced 2 0 ∧
    after (exec (.tqpush g0 3 1 0) pushRaced) (fun t => (queueAt t 0 0).frozen && (queueAt t 0 0).fault && readWord t.mem 0x40000 == 4 &&
      (mget [] t.rel.recs 0).any (fun r => r.w0.extractLsb' 56 8 == 10 && r.w1.extractLsb' 48 8 == 2 && r.w3 == 4)) ∧
    answers (.tqpush g0 3 1 0) pushFull 1 0 ∧ answers (.tqpush g0 3 1 0) pushFrozen 2 0 ∧
    after (exec (.tqpush g0 3 2 0) pusher) (fun t => (cur t).sys.tcause == 4 && (cur t).sys.taddr == 0x104 && (cur t).sys.tinfo == 64) := by decide +kernel
theorem witness_ServiceInstructions :
    (executes (cur tile) g0 = true ∧ released true ⟨2, 3⟩ tile ∧ sbarDone tile = true ∧ performedAt tile 3 = true ∧ (∀ r ∈ tile.os.svc, r.agent ≠ tile.env.agent ∨ r.strand ≠ tile.env.strand)) ∧
    checkDst 3 tile = .ok ((), tile) ∧ readReg 2 tile = .ok (0, tile) ∧ (replyFor (afterSbar (told 9 tile)) 0).isSome ∧ replyFor (afterSbar tile) 0 = none ∧
    (mailboxFull (afterSbar core0) coreBase = false ∧ mailboxFull (afterSbar ringFull) coreBase = true) ∧
    statusForm (.cxkill g0 3 5) = some (g0, 3, []) ∧ (performedAt (sendReq [⟨0x20000, 8, .read, 0, 0, 0⟩] true core0) 3 = false ∧ drained core0 ∧
      (replyFor (afterSbar (told 9 core0)) 0).isSome ∧ answers (.cxkill g0 3 5) (told (codeWord 4 8) core0) 4 8) ∧
    checkDst 3 pusher = .ok ((), pusher) ∧ readReg 1 pusher = .ok (0x100, pusher) ∧ readReg 2 pusher = .ok (0x104, pusher) ∧
    (pushWorks pusher 0x100 = true ∧ (replyFor pushMid (2 ^ 20)).isSome ∧ (replyFor pushRaced (2 ^ 20)).isSome ∧ (queueAt pushFrozen 0 0).frozen = true ∧ (queueAt pushFull 0 0).frozen = false ∧ 5 - (queueAt pushFull 0 0).head = 2 ^ 2) :=
  ⟨by decide +kernel, ok_of (by decide +kernel), ok_of (by decide +kernel), by decide +kernel, by decide +kernel, by decide +kernel, by decide, by decide +kernel, ok_of (by decide +kernel),
    ok_of (by decide +kernel), ok_of (by decide +kernel), by decide +kernel⟩

/-- A tracked task of context 0 whose completion record is at 0x80. -/
def tracked (st : TaskSt) : Task := { (default : Task) with id := 7, st := st, tag := ⟨0, 3⟩, record := [0, 0, 0, 0, 0, 0, 0, 0x80] }
def tasked (st : TaskSt) : State := { queues with os := { queues.os with tasks := [tracked st] } }
theorem test_queue_words :
    answers (.tqpop g0 3 1 0 0) queues 0 1 ∧ after (exec (.tqpop g0 3 1 0 0) queues) (fun t => readWord t.mem 0x30000 == 0x77 && (queueAt t 0 0).head == 2 && readWord t.mem 0x40040 == 2) ∧
    answers (.tqpop g0 3 1 1 0) queues 3 0 ∧ answers (.tqpop g0 3 1 0 9) queues 3 0 ∧ answers (.tqpop g0 3 1 0 0) (setQueue queues 0 0 ⟨3, true, false, 3⟩) 8 0 ∧
    after (exec (.tqpop g0 3 2 0 0) queues) (fun t => (cur t).sys.tcause == 4 && (cur t).sys.tinfo == 64) ∧ answers (.tqresume g0 3 0 0) queues 0 0 ∧
    after (exec (.tqresume g0 3 0 0) queues) (fun t => !(queueAt t 0 0).frozen && !(queueAt t 0 0).fault && readWord t.mem 0x40048 == BitVec.ofNat 64 (2 ^ 48 + 0x50002)) ∧
    answers (.tqresume g0 3 0 5) queues 3 0 := by decide +kernel
theorem test_task_words :
    answers (.tqdone g0 3 4 0) (tasked .waiting) 0 0 ∧ answers (.tqdone g0 3 4 0) (tasked .running) 3 0 ∧ answers (.tqdone g0 3 1 0) (tasked .waiting) 8 0 ∧
    answers (.tqcancel g0 3 4 0) (tasked .prefetch) 0 0 ∧ answers (.tqcancel g0 3 4 0) (tasked .running) 3 0 ∧ answers (.tqcancel g0 3 4 9) (tasked .prefetch) 3 0 ∧
    answers (.place g0 3 5 0) (tasked .placing) 5 0 ∧ answers (.place g0 3 6 0) (tasked .queued) 8 0 ∧ answers (.place g0 3 6 0) (tasked .placing) 5 0 := by decide +kernel
/-- A task of one tile is in placement, and tile 1 holds name 1. -/
def placing : State := modAgent (regs [(7, 1)] (tasked .placing)) 1 (fun x => { x with name := some 1 })
theorem test_place : answers (.place g0 3 7 0) placing 0 0 ∧ after (exec (.place g0 3 7 0) placing) (fun t => t.os.tasks.map (fun t => (t.st, t.origin)) == [(.prefetch, 1)]) := by decide +kernel
theorem witness_QueueWords :
    (begins g0 3 [] queues [] (afterSbar queues) ∧ begins g0 3 [1] queues [0x30000] (afterSbar queues) ∧ begins g0 3 [2] queues [0x30008] (afterSbar queues) ∧
      begins g0 3 [4] (tasked .waiting) [0x80] (afterSbar (tasked .waiting)) ∧ begins g0 3 [7] placing [1] (afterSbar placing) ∧ begins g0 3 [5] placing [2 ^ 14] (afterSbar placing) ∧ begins g0 3 [6] placing [300] (afterSbar placing)) ∧
    writeReg 3 (codeWord 3 0) (afterSbar queues) = .ok ((), setCurReg (afterSbar queues) 3 (codeWord 3 0)) ∧
    ((ctxAt (afterSbar queues) 0).st ≠ 0 ∧ (ctxAt (afterSbar queues) 9).st = 0 ∧ (∀ t ∈ (afterSbar queues).os.tasks, t.tag.cx = 0 → ¬ (t.retire = some .cancelled ∧ t.reason = 8))) ∧
    (∃ p s3, checkAddr needStore 0x30000 8 (refreshCtx (afterSbar queues) 0) = .ok (p, s3) ∧ plainTo s3 (cur s3).tag p.key = true ∧ (queueAt s3 0 0).frozen = true ∧ (queueAt s3 0 1).frozen = false ∧
      ∃ tail ring, (readHeader s3 0 0).run s3 = .ok (tail, ring) ∧ (queueAt s3 0 0).head < tail ∧ tail ≤ 3 ∧
        ∃ bs bad, (tquBytes (liveTag s3 0) (ring / 2 ^ 6 % 2 ^ 51 * 2 ^ 6 + 64 * ((queueAt s3 0 0).head % 2 ^ (ring % 16))) 64).run s3 = .ok (bs, bad)) ∧
    (taskByCompl (tasked .waiting) 0 0x80 = some (tracked .waiting) ∧ taskByCompl (tasked .running) 0 0x80 = some (tracked .running) ∧ taskByCompl (tasked .waiting) 0 0x81 = none ∧
      (tracked .waiting).retire = none ∧ (tracked .waiting).st ∈ [TaskSt.waiting, .queued] ∧ (tracked .running).st ∉ [TaskSt.waiting, .queued]) ∧
    ((afterSbar placing).rel.wave = none ∧ placingTask (afterSbar placing) 0 = some (tracked .placing) ∧ placingTask (tasked .queued) 0 = none ∧
      (1 ∈ origins (afterSbar placing) (tracked .placing) ∧ rectFree (afterSbar placing) (tracked .placing) 1 = true) ∧ 300 ∉ origins (afterSbar placing) (tracked .placing)) :=
  ⟨⟨begins_of (by decide +kernel) (by decide +kernel) (by decide +kernel) (by decide +kernel), begins_of (by decide +kernel) (by decide +kernel) (by decide +kernel) (by decide +kernel),
      begins_of (by decide +kernel) (by decide +kernel) (by decide +kernel) (by decide +kernel), begins_of (by decide +kernel) (by decide +kernel) (by decide +kernel) (by decide +kernel),
      begins_of (by decide +kernel) (by decide +kernel) (by decide +kernel) (by decide +kernel), begins_of (by decide +kernel) (by decide +kernel) (by decide +kernel) (by decide +kernel),
      begins_of (by decide +kernel) (by decide +kernel) (by decide +kernel) (by decide +kernel)⟩,
    ok_of (by decide +kernel), by decide +kernel,
    ⟨_, _, rfl, by decide +kernel, by decide +kernel, by decide +kernel, _, _, rfl, by decide +kernel, by decide +kernel, _, _, rfl⟩, by decide +kernel,
    by decide +kernel⟩

/-! ### Contexts -/

/-- Contexts: 0 LIVE, 1 STOPPED, 2 with an older incarnation, 3 with two, 9 FREE. -/
def contexts : State :=
  let put := fun (c : Nat) (v : Ctx) (s : State) => modCtx s c (fun _ => v)
  put 1 { ctx0 with st := 2 } (put 2 { ctx0 with st := 1, inc := 5, ov1 := true, old1 := 4 } (put 3 { ctx0 with st := 1, inc := 5, ov1 := true, old1 := 4, ov2 := true, old2 := 3 } queues))
/-- The word began an operation: the strand waits for it. -/
def starts (i : Instr) (k : OpKind) (c : Nat) : Bool := goes (exec i contexts) (match awaits contexts id k c with | .next t => t | _ => contexts)
theorem test_context_words :
    answers (.cxnew g0 3 0 0) contexts 3 0 ∧ answers (.cxnew g0 3 0 9) contexts 0 0 ∧ after (exec (.cxnew g0 3 0 9) contexts) (fun t => (ctxAt t 9).st == 1) ∧
    answers (.cxkill g0 3 9) contexts 3 0 ∧ after (exec (.cxkill g0 3 2) contexts) (fun t => (ctxAt t 2).inc == 6 && (cur t).st == .waiting && t.os.ops.length == 1) ∧
    after (exec (.cxkill g0 3 3) contexts) (fun t => t.os.ops == [⟨.reclaim, 3, coreBase, 8, 0, []⟩]) ∧ answers (.cxreclaim g0 3 9) contexts 3 0 ∧
    answers (.cxreclaim g0 3 0) contexts 0 0 ∧ starts (.cxreclaim g0 3 2) .reclaim 2 ∧ answers (.cxsave g0 3 1 1 0) contexts 3 0 ∧ answers (.cxload g0 3 0) contexts 3 0 ∧
    after (exec (.cxsave g0 3 1 0 1) contexts) (fun t => t.os.ops == [⟨.save false true, 1, coreBase, 0, 0, []⟩] && (cur t).st == .waiting) ∧ starts (.cxload g0 3 1) .load 1 ∧ answers (.preempt g0 3 1) contexts 3 0 ∧ after (exec (.preempt g0 3 0) contexts) (fun t => t.os.ops == [⟨.preempt, 0, coreBase, 0, 0, []⟩] && (cur t).st == .waiting) := by decide +kernel
theorem test_invalidations :
    starts (.nameinv g0 3 6 1) (.nameinv 300 true) 64 ∧ starts (.tlbinv g0 3 6 7 2 0) (.tlbinv 2 300 7) 64 ∧ answers (.tlbinv g0 3 6 7 0 9) contexts 3 0 ∧
    answers (.tlbinv g0 3 6 7 0 0) contexts 5 0 ∧ answers (.tlbinv g0 3 6 0 0 0) contexts 5 0 ∧ starts (.tlbinv g0 3 6 0 1 0) (.tlbinv 1 300 0) 0 := by decide +kernel
theorem witness_ContextWords :
    (begins g0 3 [] contexts [] (afterSbar contexts) ∧ begins g0 3 [6] contexts [300] (afterSbar contexts) ∧ begins g0 3 [1] contexts [0x30000] (afterSbar contexts)) ∧ afterSbar contexts = contexts ∧
    (contexts.rel.wave = none ∧ (∀ c < 64, noOpBut contexts c [] ∧ notHeld contexts c) ∧ (ctxAt contexts 0).st = 1 ∧ (ctxAt contexts 1).st = 2 ∧ (ctxAt contexts 9).st = 0 ∧
      (ctxAt contexts 3).ov1 = true ∧ (ctxAt contexts 3).ov2 = true ∧ (ctxAt contexts 2).ov2 = false ∧ (ctxAt contexts 2).ov1 = true) ∧
    writeReg 3 0 contexts = .ok ((), setCurReg contexts 3 0) :=
  ⟨⟨begins_of (by decide +kernel) (by decide +kernel) (by decide +kernel) (by decide +kernel), begins_of (by decide +kernel) (by decide +kernel) (by decide +kernel) (by decide +kernel),
      begins_of (by decide +kernel) (by decide +kernel) (by decide +kernel) (by decide +kernel)⟩, by decide +kernel, by decide +kernel, ok_of (by decide +kernel)⟩
/-- A SEALED context needs a convoy, by Lodestar's choice among those of this wafer: none without convoys, and one where they are all alike. -/
def convoyed : State :=
  { contexts with trust := { contexts.trust with convoys := List.replicate (Config.freeNat contexts.env.fresh + 1) { (default : Convoy) with id := 77, gen := 1 } } }
theorem witness_ContextWords_sealed : (nameConvoy contexts).1 = none ∧ (nameConvoy convoyed).1 = some 77 := by
  have h : contexts.trust.convoys = [] := by decide +kernel
  exact ⟨by simp [nameConvoy, freshNat, h], by simp [nameConvoy, freshNat, convoyed, belongs, show (default : Convoy).gone = false from rfl]⟩

/-! ### Configuration and tables -/

/-- Core 0 with addresses of tile 0's configuration space (word 5, RECCHK, its result, a register that is none), of tile 17 (fused off), and a value. -/
def cfg : State :=
  let s := regs [(1, 5), (2, 0x1FFF8), (4, 0x1FFF9), (5, 0x1FFEF), (6, 0x1FFF0), (7, 2 ^ 17), (8, 77), (9, 2 ^ 32)] core0
  { s with boot := { s.boot with fuses := { s.boot.fuses with off := [17] } } }
/-- One word staged, and the RECCHK value of it. -/
def cfgStaged : State := regs [(8, BitVec.ofNat 64 (crc32c (natBytes 8 77) * 2 ^ 32 + 1))] (modAgent cfg 0 (fun x => { x with cfg := { x.cfg with staged := [(5, 77)] } }))
theorem test_cfgw :
    after (exec (.cfgw g0 8 1) cfg) (fun t => (agentAt t 0).cfg.staged == [(5, 77)] && (cur t).pc == (cur cfg).pc + 8) = true ∧
    after (exec (.cfgw g0 8 2) cfgStaged) (fun t => (agentAt t 0).cfg.result == 1 && (agentAt t 0).cfg.words == [(5, 77)] && (agentAt t 0).cfg.staged == []) = true ∧
    after (exec (.recchk g0 1 2) cfgStaged) (fun t => (agentAt t 0).cfg.result == 2 && (agentAt t 0).cfg.words == [] && (agentAt t 0).cfg.staged == []) = true ∧
    after (exec (.cfgw g0 8 6) cfg) (fun t => (cur t).sys.tcause == 7 && (cur t).sys.taddr == 0x1FFF0 && (cur t).sys.tinfo == 1) = true ∧
    after (exec (.cfgw g0 8 7) cfg) (fun t => (cur t).sys.tcause == 7 && (cur t).sys.tinfo == 7) = true := by decide +kernel
theorem test_cfgr :
    gives cfgStaged [(.cfgr g0 3 1, 0), (.cfgr g0 3 2, 0), (.cfgr g0 3 4, 1)] = true ∧
    gives (modAgent cfg 0 (fun x => { x with cfg := { x.cfg with words := [(5, 6)], result := 2 } })) [(.cfgr g0 3 1, 6), (.cfgr g0 3 4, 2 * 2 ^ 56)] = true ∧
    after (exec (.cfgr g0 3 9) cfg) (fun t => (cur t).sys.tcause == 6 && (cur t).sys.tinfo == 1) = true ∧
    after (exec (.cfgr g0 3 7) cfg) (fun t => (cur t).sys.tcause == 6 && (cur t).sys.tinfo == 7) = true := by decide +kernel
/-- A root router's entry for context 0, incarnation 3: its tile is the one member, the operation is 1. -/
def entry1 : Nat := 3 * 2 ^ 46 + 2 ^ 44 + 6 * 2 ^ 41 + 2 ^ 40 + 2 ^ 32
/-- The words of an image have come back from the module; tile 1 has name 1 and is the member of tree 5. -/
def image (l : List Nat) : State :=
  let s := modAgent (regs [(1, 0x30000), (6, 0x30004)] contexts) 1 (fun x => { x with name := some 1 })
  modCur { s with net := { s.net with trees := [(517, BitVec.ofNat 128 entry1)] } } (fun t => { t with reply := some (l.zipIdx.map (fun p => ⟨p.2 + 1, BitVec.ofNat 64 p.1, false, 0, 0⟩)) })
/-- A group of tile 1 on hue 0 of beacon 0 with release tree 5; one with release tree 4; one that is freed; tree 6 of tile 1; a tree of too many routers; an empty one. -/
def groupIm : State := image [3 * 2 ^ 46 + 2 ^ 43 + 5 * 2 ^ 31 + 1, 1, 0, 0, 1 + 15 * 2 ^ 18]
def groupBad : State := image [3 * 2 ^ 46 + 2 ^ 43 + 4 * 2 ^ 31 + 1, 1, 0, 0, 1 + 15 * 2 ^ 18]
def groupDead : State := image [2 * 2 ^ 46 + 2 ^ 43 + 5 * 2 ^ 31 + 1, 1, 0, 0, 1 + 15 * 2 ^ 18]
def groupFree : State := image [0, 0, 0, 0]
def treeIm : State := image [1, 1, entry1, 0]
def treeBig : State := image [9217]
def treeNone : State := image [0]
theorem test_tables :
    answers (.gtabw g0 3 1 9) groupIm 0 0 ∧ after (exec (.gtabw g0 3 1 9) groupIm) (fun t => (groupAt t 9).st == 1 && (groupAt t 9).owner == ⟨0, 3⟩ && (groupAt t 9).words == [BitVec.ofNat 32 (1 + 15 * 2 ^ 18)]) ∧
    answers (.gtabw g0 3 1 9) groupFree 0 0 ∧ answers (.gtabw g0 3 1 9) groupBad 5 7 ∧ answers (.gtabw g0 3 1 9) groupDead 4 0 ∧ answers (.ttabw g0 3 1 6) treeIm 0 0 ∧
    after (exec (.ttabw g0 3 1 6) treeIm) (fun t => treeAt t 1 6 == BitVec.ofNat 128 entry1) ∧ answers (.ttabw g0 3 1 6) treeBig 5 0 ∧ answers (.ttabw g0 3 1 6) treeNone 0 0 ∧
    after (exec (.gtabw g0 3 6 9) groupIm) (fun t => (cur t).sys.tcause == 4 && (cur t).sys.tinfo == 64) ∧
    after (exec (.ttabw g0 3 1 6) (image [])) (fun t => (cur t).st == .waiting && t.net.reqs.length == 1) := by decide +kernel
/-- Words of an image, computed. -/
def imageB (k n : Nat) (s : State) (ws : List Nat) : Bool := match imageWords 0x30000 k n s with | .ok (l, t) => l == ws.map (BitVec.ofNat 64) && t == s | .error _ => false
theorem image_of {k n : Nat} {s : State} {ws : List Nat} (h : imageB k n s ws = true) : imageWords 0x30000 k n s = .ok (ws.map (BitVec.ofNat 64), s) := by
  unfold imageB at h
  split at h
  · rename_i l t e; rw [Bool.and_eq_true, beq_iff_eq, beq_iff_eq] at h; rw [e, h.1, h.2]
  · cases h
theorem witness_ConfigWords :
    (executes (cur cfg) g0 = true ∧ drained cfg ∧ afterSbar cfg = cfg) ∧ readsAll [8, 1] (afterSbar cfg) [77, 5] cfg ∧
    readsAll [8, 6] (afterSbar cfg) [77, 0x1FFF0] cfg ∧ readsAll [8, 7] (afterSbar cfg) [77, 2 ^ 17] cfg ∧ readsAll [8, 4] (afterSbar cfg) [77, 0x1FFF9] cfg ∧
    checkDst 3 cfg = .ok ((), cfg) ∧ readReg 9 (afterSbar cfg) = .ok (2 ^ 32, cfg) ∧ readReg 1 (afterSbar cfg) = .ok (5, cfg) ∧ readReg 7 (afterSbar cfg) = .ok (2 ^ 17, cfg) ∧
    ((17 : Nat) ∈ cfg.boot.fuses.off ∧ cfg.rel.wave = none ∧ cfg.rel.errinj.getLsbD 59 = false) ∧
    (begins g0 3 [1] groupIm [0x30000] (afterSbar groupIm) ∧ begins g0 3 [6] groupIm [0x30004] (afterSbar groupIm) ∧ begins g0 3 [1] treeIm [0x30000] (afterSbar treeIm) ∧ begins g0 3 [1] treeBig [0x30000] (afterSbar treeBig)) ∧
    (afterSbar groupIm = groupIm ∧ afterSbar treeIm = treeIm ∧ afterSbar treeBig = treeBig) ∧
    (imageWords 0x30000 0 4 groupIm = .ok ([3 * 2 ^ 46 + 2 ^ 43 + 5 * 2 ^ 31 + 1, 1, 0, 0].map (BitVec.ofNat 64), groupIm) ∧
      imageWords 0x30000 4 1 groupIm = .ok ([1 + 15 * 2 ^ 18].map (BitVec.ofNat 64), groupIm)) ∧
    (imageWords 0x30000 0 1 treeIm = .ok ([1].map (BitVec.ofNat 64), treeIm) ∧ imageWords 0x30000 1 3 treeIm = .ok ([1, entry1, 0].map (BitVec.ofNat 64), treeIm)) ∧
    (imageWords 0x30000 0 1 treeBig = .ok ([9217].map (BitVec.ofNat 64), treeBig) ∧ 9216 < (9217 : Word).toNat) :=
  ⟨by decide +kernel, reads_of (by decide +kernel), reads_of (by decide +kernel), reads_of (by decide +kernel), reads_of (by decide +kernel), ok_of (by decide +kernel),
    ok_of (by decide +kernel), ok_of (by decide +kernel), ok_of (by decide +kernel), by decide +kernel,
    ⟨begins_of (by decide +kernel) (by decide +kernel) (by decide +kernel) (by decide +kernel), begins_of (by decide +kernel) (by decide +kernel) (by decide +kernel) (by decide +kernel),
      begins_of (by decide +kernel) (by decide +kernel) (by decide +kernel) (by decide +kernel), begins_of (by decide +kernel) (by decide +kernel) (by decide +kernel) (by decide +kernel)⟩,
    by decide +kernel,
    ⟨image_of (by decide +kernel), image_of (by decide +kernel)⟩, ⟨image_of (by decide +kernel), image_of (by decide +kernel)⟩, ⟨image_of (by decide +kernel), by decide⟩⟩
/-- What Lodestar approves for a SEALED owner is a free choice: with either answer the word has its effect or CODE 6. -/
def groupSealed : State := modCtx groupIm 0 (fun v => { v with sealed := true })
theorem witness_ConfigWords_sealed : sealedOwner groupSealed ⟨0, 3⟩ = true ∧ sealedOwner groupIm ⟨0, 3⟩ = false ∧ liveOwner groupSealed ⟨0, 3⟩ = true := by decide +kernel
/-- A wave at its step 5. -/
def groupWave : State := { groupIm with rel := { groupIm.rel with wave := some ⟨0, 0, 5, [], [], [9], [6], false⟩ } }
theorem test_table_wave : answers (.gtabw g0 3 1 9) groupWave 0 0 ∧ after (exec (.gtabw g0 3 1 9) groupWave) (fun t => match t.rel.wave with | some w => w.groups == [] && w.trees == [6] | none => false) := by
  decide +kernel
/-- A wave of another row, one that switches, and one of the tile's own row, which the access waits for. -/
def cfgWave (row : Nat) (sw : Bool) : State := { cfg with rel := { cfg.rel with wave := some { (default : Wave) with row := row, switch := sw } } }
/-- The tile of the record check has a running task; its record has run over. -/
def cfgBusy : State := modAgent { cfgStaged with os := { cfgStaged.os with tasks := [task7] } } 0 (fun x => { x with task := some 7 })
def cfgOver : State := modAgent cfgStaged 0 (fun x => { x with cfg := { x.cfg with ovf := true } })
theorem witness_ConfigWords_wave :
    ((cfgWave 7 false).rel.wave.isSome ∧ after (exec (.cfgw g0 8 1) (cfgWave 7 false)) (fun t => (agentAt t 0).cfg.staged == [(5, 77)]) ∧
      after (exec (.cfgr g0 3 1) (cfgWave 0 true)) (fun t => curReg t 3 == 0)) ∧
    after (exec (.cfgw g0 8 2) cfgBusy) (fun t => (agentAt t 0).cfg.result == 4 && (agentAt t 0).cfg.staged == []) ∧ after (exec (.cfgw g0 8 2) cfgOver) (fun t => (agentAt t 0).cfg.result == 3 && (agentAt t 0).cfg.staged == [] && !(agentAt t 0).cfg.ovf) = true := by decide +kernel
theorem witness_DomainAndConfigComplete :
    (executes (cur inDom) g0 = true ∧ noPosted inDom 3 ∧ inDomain inDom 0 = true ∧ arrivedAt inDom 0 = false ∧ inDomain inDom 3 = true ∧ arrivedAt inDom 3 = false ∧ (cur inDom).reply = none ∧
      released true ⟨1, scopeOfLevel 0⟩ inDom) ∧
    (executes (cur cfg) g0 = true ∧ isG 1 ∧ isG 8 ∧ drained cfg ∧ cfg.rel.wave = none ∧ (agentAt (afterSbar cfg) 0).cfg.staged.length < 4096 ∧ cfg.rel.errinj.getLsbD 59 = false) ∧
    (curReg cfg 1 = packed [(26, 0), (21, 0), (17, 0), (0, 5)] ∧ curReg cfg 2 = packed [(26, 0), (21, 0), (17, 0), (0, 0x1FFF8)] ∧ curReg cfg 4 = packed [(26, 0), (21, 0), (17, 0), (0, 0x1FFF9)] ∧
      204 * 0 + 17 * 0 + 0 ∉ cfg.boot.fuses.off) := by decide +kernel

/-! ### Events of the engines -/

/-- Words of activations (tokens of 16 E4M3 ones) at 0x1000, and weights of E4M3 ones in a block of 16 rows in receive slot 1. -/
def ones : SMap Byte := (List.range 16).map (fun k => (128 * k, 0x38))
def passing : MxOp := .pass 0x1000 16 0 0 0 0 0 0 1
def hits : Fired := ⟨3, 0, 0, 1, 9, 4, 7, true, false⟩
def pushed (op : MxOp) (p : RunPhase) : MxRun := ⟨⟨op, 0, 0⟩, none, p, 0, 0, 0⟩
def fired (p : RunPhase) : MxRun := ⟨⟨passing, 0, 0⟩, some hits, p, 0, 0, 0⟩
def mxState (arr : ArrSt) (runs : List MxRun) : State :=
  let s := setMem tile (writeBytes (writeBytes tile.mem (keyLs 0 0x1000) (List.replicate 16 0x38)) (keyLs 0 0x2000) (List.replicate 16 0x38))
  modAgent s 0 (fun x => { x with
    mx := { x.mx with arr := arr, runs := runs, banks := [(1, { bank0 with float := false, f := 0 })] }
    rx := { x.rx with slots := [(1, { (default : Slot) with group := 9, seq := 4, hdr := 0, body := ones, len := 2048 })] } })
/-- 16 products of ones: 16 times 2^18 units of 2^-18 in EXACT mode; 16 products of ones in BF16 are 16.0 in FLOAT mode (06 R176, 02 R61, R65). -/
theorem test_passElem :
    (passElem (mxState .warm []).mem 0 { bank0 with float := false, f := 0 } ⟨0, 0, 0, ones⟩ ⟨0x1000, 16, false, 0, false, false, 1⟩ 0x1000 0 (elem0, false, false)).1.v = 0x400000 ∧
    (passElem (writeBytes (Memory.mk [] []) (keyLs 0 0x1000) ((List.range 32).map (fun i => if i % 2 = 0 then 0x80 else 0x3F))) 0 { bank0 with float := true }
      ⟨2, 0, 0, (List.range 16).flatMap (fun k => [(128 * k, 0x80), (128 * k + 1, 0x3F)])⟩ ⟨0x1000, 32, false, 2, false, false, 1⟩ 0x1000 0 (elem0, false, false)).1.v = 0x41800000 := by decide +kernel
def drainCmd : MxOp := .drain 0x4000 16 (BitVec.ofNat 64 (127 * 2 ^ 32 + 0 * 2 ^ 24 + 0 * 2 ^ 16 + 1 * 2 ^ 8)) 1 0 0 ⟨none, true, 9⟩
theorem witness_EngineEvents_matrix :
    (nextFired (agentAt (mxState .cold [fired .waiting]) 0) = some (fired .waiting) ∧
      passFault (bankOf (agentAt (mxState .cold [fired .waiting]) 0) 1) (runWeights (agentAt (mxState .cold [fired .waiting]) 0) (fired .waiting)) (passArgs passing) = none) ∧
    after (exec (.triggeredPass 0) (mxState .cold [fired .waiting])) (fun t => (agentAt t 0).mx.arr == .rampUp && (agentAt t 0).mx.runs.map (·.phase) == [.ramping]) = true ∧
    ((runWeights (agentAt (mxState .warm [fired .waiting]) 0) (fired .waiting)).isSome ∧ (mxState .warm []).mem.poison = []) ∧
    (passFault { bank0 with float := true } (runWeights (agentAt (mxState .warm [fired .waiting]) 0) (fired .waiting)) (passArgs passing) = some 5 ∧
      after (exec (.triggeredPass 0) (modAgent (mxState .cold [fired .waiting]) 0 (fun x => setBank x 1 { bank0 with float := true })))
        (fun t => (agentAt t 0).mx.runs == [] && (cur t).eng.posted.map (fun p => (p.cause, p.info.toNat % 2 ^ 20)) == [(0x0B, 5)]) = true) ∧
    ((agentAt (mxState .rampUp [pushed passing .ramping]) 0).mx.runs.find? (fun r => r.phase == .ramping) = some (pushed passing .ramping) ∧
      after (exec (.rampUpEnd 0) (mxState .rampUp [pushed passing .ramping])) (fun t => (agentAt t 0).mx.arr == .warm) = true ∧
      after (exec (.rampUpEnd 0) (mxState .rampUp [])) (fun t => (agentAt t 0).mx.arr == .rampDown) = true ∧
      after (exec (.rampDownEnd 0) (mxState .rampDown [])) (fun t => (agentAt t 0).mx.arr == .cold) = true) ∧
    after (exec (.rampGapExpiry 0) (modMx (mxState .warm []) 0 (fun m => { m with decl := 3 }))) (fun t => (agentAt t 0).mx.arr == .rampDown && (agentAt t 0).mx.decl == 0) = true := by decide +kernel
theorem witness_EngineEvents_results :
    after (exec (.passEnd 0) (mxState .warm [pushed passing .running])) (fun t => (agentAt t 0).mx.runs.map (·.phase) == [.holding] && (agentAt t 0).mx.arr == .rampDown) = true ∧
    after (exec (.passEnd 0) (mxState .warm [pushed passing .running, fired .waiting])) (fun t => (agentAt t 0).mx.runs.map (·.phase) == [.holding, .running]) = true ∧
    nextFired (agentAt (modMx (mxState .warm [pushed passing .running, fired .waiting]) 0 (fun m => { m with runs := modFirst (· == pushed passing .running) (fun r => { r with phase := .holding }) m.runs })) 0) =
      some (fired .waiting) ∧
    after (exec (.passResultHeld 0 0) (mxState .warm [pushed passing .holding])) (fun t => (agentAt t 0).mx.runs.map (·.phase) == [.finished]) = true ∧
    after (exec (.passResultHeld 0 1) (mxState .warm [pushed passing .holding, fired .holding])) (fun t => (agentAt t 0).mx.runs == [pushed passing .holding] &&
      (cur t).eng.mcq == [⟨BitVec.ofNat 64 (2 ^ 48 + 3 * 2 ^ 45 + 7 * 2 ^ 24 + 4), none⟩]) = true ∧
    mcqRoom (mxState .warm []) 0 0 = true ∧
    (drainRun (agentAt (mxState .cold [pushed drainCmd .running]) 0) = some (pushed drainCmd .running) ∧
      after (exec (.drainStep 0) (mxState .cold [pushed drainCmd .running])) (fun t => (agentAt t 0).mx.runs.map (·.phase) == [.finished]) = true) ∧
    (mxCompletable (mxState .cold [pushed (.ramp 3) .finished]) 0 0 = some (pushed (.ramp 3) .finished) ∧
      after (exec (.commandCompletion 0 0 false) (mxState .cold [pushed (.ramp 3) .finished])) (fun t => (agentAt t 0).mx.runs == []) = true) := by decide +kernel

/-- A copy of 16 bytes from 0x1000 to 0x2000 of the local store with queue tag 9; one of a corner turn whose shape does not fit; windows. -/
def copyOf (fn : BitVec 6) (a b c c1 : Word) (k : Nat) : CpCmd := ⟨fn, a, b, c, c1, none, false, k, ⟨none, true, 9⟩, 0, 3⟩
def running (c : CpCmd) : CpRun := ⟨c, [], 0, none, none, 0, [], [], false, false⟩
def window : Window := ⟨BitVec.ofNat 64 page, 64, 0, 1, 0, 0, 0, [], liveTag tile 0⟩
def filling : Window := { window with head := 1, lines := [⟨0, .filling, 0, 0, 0, 0, 0⟩] }
def cpState (r : CpRun) (w : Option Window) : State :=
  let s := setMem placed (writeNat placed.mem (keyLs 0 0x1000) 8 0x1122334455667788)
  modCur (modCp s 0 (fun c => { c with table := [r], wins := match w with | some v => [(3, v)] | none => [] })) (fun t => { t with eng := { t.eng with copies := [⟨3, 9, 2, 0, 0⟩] } })
def copy16 : CpRun := running (copyOf 0 0x2000 0x1000 16 0 0)
theorem test_copy :
    after (exec (.copyLanding 0 0 0) (cpState copy16 none)) (fun t => readNat t.mem (keyLs 0 0x2000) 8 == 0x1122334455667788 && (agentAt t 0).cp.table.map (fun r => (r.finished, r.bytes)) == [(true, 16)]) = true ∧
    after (exec (.copyLanding 0 0 0) (cpState (running (copyOf 4 0x2000 0xAABBCCDD 4 0 0)) none)) (fun t => readNat t.mem (keyLs 0 0x2000) 8 == 0xAABBCCDD) = true ∧
    after (exec (.copyLanding 0 0 0) (cpState (running (copyOf 1 0x2000 0x1000 (2 * 2 ^ 32 + 4) 8 0)) none)) (fun t => readNat t.mem (keyLs 0 0x2000) 8 == 0x55667788 && readNat t.mem (keyLs 0 0x2008) 4 == 0x55667788) = true ∧
    after (exec (.copyLanding 0 0 0) (cpState (running (copyOf 0 0x300000 0x1000 16 0 0)) none)) (fun t => (cur t).eng.posted.map (fun p => (p.cause, p.addr, p.info)) ==
      [(0x0B, 0x300000, BitVec.ofNat 64 (2 ^ 52 + 2 ^ 32 + 9 * 2 ^ 20 + 2))]) = true := by decide +kernel
theorem witness_EngineEvents_copies :
    (pieceReady (cpState copy16 none) 0 copy16 0 = true ∧ shapeBad copy16.cmd = false ∧ (readList (cpState copy16 none) 0 copy16).2 = some [] ∧
      (takeSource (cpState copy16 none) 0 copy16 []).2.isSome) ∧
    (shapeBad { copy16.cmd with ct := some ⟨2, 2, 2, 2, 0, 0, 0⟩ } = true ∧ shapeBad { copy16.cmd with ct := some ⟨2, 2, 2, 1, 0, 0, 0⟩ } = false ∧
      after (exec (.copyLanding 0 0 0) (cpState (running { copy16.cmd with ct := some ⟨2, 2, 2, 2, 0, 0, 0⟩ }) none))
        (fun t => (cur t).eng.posted.map (fun p => p.info.toNat % 2 ^ 20) == [8]) = true) ∧
    (let r := running (copyOf 0x22 1 0 0 0 3)
     fillReady (cpState r (some window)) 0 r = true ∧ winCap window = 64 ∧
      after (exec (.windowFill 0 0) (cpState r (some window))) (fun t => (agentAt t 0).cp.wins.map (fun p => p.2.lines.map (·.st)) == [[.filling]]) = true ∧
      after (exec (.windowFill 0 0) (cpState r (some filling))) (fun t => (agentAt t 0).cp.wins.map (fun p => p.2.lines.map (·.st)) == [[.valid]]) = true ∧
      after (exec (.windowFill 0 0) (cpState (running (copyOf 0x22 65 0 0 0 3)) (some window))) (fun t => (cur t).eng.posted.map (fun p => p.info.toNat % 2 ^ 20) == [3]) = true) ∧
    (let r := { copy16 with finished := true, bytes := 16 }
     cpCompletable (cpState r none) 0 0 = some r ∧
      after (exec (.commandCompletion 0 0 true) (cpState r none)) (fun t => (agentAt t 0).cp.table == [] && (cur t).eng.ccq == [⟨BitVec.ofNat 64 (9 * 2 ^ 52 + 16), none⟩] &&
        (cur t).eng.copies.map (·.st) == [3]) = true) ∧
    (let r := { running (copyOf 2 0 0 0 0 0) with pend := [4] }
     cpCompletable (cpState r none) 0 0 = some r ∧ after (exec (.commandCompletion 0 0 true) (cpState r none)) (fun t => (cur t).eng.ccq == [⟨BitVec.ofNat 64 (9 * 2 ^ 52 + 2 * 2 ^ 48 + 4), none⟩]) = true) ∧
    (let r := running (copyOf 0x21 (BitVec.ofNat 64 page) 1 64 0 3)
     cpCompletable (cpState r none) 0 0 = some r ∧ after (exec (.commandCompletion 0 0 true) (cpState r none)) (fun t => (agentAt t 0).cp.wins.map (fun p => (p.1, p.2.size)) == [(3, 1)]) = true) ∧
    (let r := running (copyOf 0x24 0 0 0 0 3)
     cpCompletable (cpState r (some window)) 0 0 = some r ∧ after (exec (.commandCompletion 0 0 true) (cpState r (some window))) (fun t => (agentAt t 0).cp.wins == []) = true) := by decide +kernel

/-! ### Events of the mesh -/

/-- Tile 1 runs task 7 of context 0; a message of two words to its channel 5, and one behind it from the same tile. -/
def message (tag : Tag) (bsp : Bool) : Msg := ⟨0, 0, 1, tag, 5, bsp, 2, some 3, false, [7, 8], true, default, 1⟩
def meshOf (l : List Msg) : State :=
  let s := inTask placed
  { modAgent s 1 (fun x => { x with task := some 7, strands := [(0, { strand0 with st := .ready, tag := some (liveTag tile 0), task := some 7 })] }) with net := { s.net with msgs := l } }
theorem test_message :
    after (exec (.messageLanding 0) (meshOf [message (liveTag tile 0) false])) (fun t => t.net.msgs == [] && (chanOf (agentAt t 1) 5).q == [⟨7, some 3⟩, ⟨8, none⟩]) = true ∧
    after (exec (.messageLanding 0) (meshOf [message (liveTag tile 0) true])) (fun t => t.net.msgs == [] && (chanOf (agentAt t 1) 5).q == [] && ((chanOf (agentAt t 1) 5).nxt.map (fun e => (e.lvl, e.elem.val))) == [(2, 7), (2, 8)]) = true ∧
    after (exec (.messageLanding 0) (meshOf [message ⟨0, 5⟩ false])) (fun t => t.net.msgs == [] && (chanOf (agentAt t 1) 5).q == []) = true := by decide +kernel
/-- A hook of KIND 1 on the NI port of tile 1 after a number of flits. -/
def hookAt (skip : Nat) : Word := BitVec.ofNat 64 (2 ^ 60 + 2 ^ 59 + skip * 2 ^ 38 + 4 * 2 ^ 35 + 2 ^ 24)
def hooked (skip : Nat) : State := let s := meshOf [message (liveTag tile 0) false]; { s with rel := { s.rel with errinj := hookAt skip } }
theorem test_hook :
    after (exec (.messageLanding 0) (hooked 1)) (fun t => t.rel.errinj == hookAt 1 - BitVec.ofNat 64 (2 ^ 59) && (agentAt t 1).ni.fbox.map (fun r => (r.w0.toNat / 2 ^ 56, r.w3)) == [(12, hookAt 1)] && (chanOf (agentAt t 1) 5).q.length == 2) = true ∧
    after (exec (.messageLanding 0) (hooked 2)) (fun t => t.rel.errinj == hookAt 2 && t.rel.errSkip == 2 && (agentAt t 1).ni.fbox == []) = true := by decide +kernel
/-- A strand whose phase of level 0 is due. -/
def phased : State := modCur (modAgent (inTask placed) 0 (fun x => { x with task := some 7 })) (fun t => { t with dom := [(0, 2 ^ 55)], arrived := [(0, true)] })
/-- A request of tile 0 that reads module memory, wanted; and its response. -/
def reading (tag : Option Tag) : Req := ⟨0, 0, 0, tag, [⟨0x20000, 8, .read, 0, 0, 0⟩], [], true, default, 0, false⟩
def requesting (tag : Option Tag) (resp : Bool) : State :=
  let s := modCur (setMem placed (writeWord placed.mem 0x20000 77)) (fun t => { t with st := .waiting })
  if resp then { s with net := { s.net with resps := [{ reading tag with todo := [], res := [⟨0, 77, false, 0, 0x20000⟩] }] } } else { s with net := { s.net with reqs := [reading tag] } }
theorem witness_MeshEvents :
    ((meshOf [message (liveTag tile 0) false]).net.msgs[0]? = some (message (liveTag tile 0) false) ∧ staleAt (meshOf []) 1 (some ⟨0, 5⟩) = true ∧ staleAt (meshOf []) 1 (some (liveTag tile 0)) = false ∧
      (match taskOf (meshOf []) 1 with | some t => t == task7 | none => false) = true ∧ task7.st = .running ∧ (chanOf (agentAt (meshOf []) 1) 5).q.length + 2 ≤ chanCap) ∧
    (let s := modAgent (meshOf [message (liveTag tile 0) false]) 1 (fun x => { x with ni := { x.ni with chans := [(5, { chan0 with q := List.replicate 511 ⟨1, none⟩ })] } })
     chanCap < (chanOf (agentAt s 1) 5).q.length + 2 ∧ goes (exec (.messageLanding 0) s) s = true ∧ openMsg 0 0 { message (liveTag tile 0) false with whole := false }) ∧
    (phaseReady phased 0 0 0 false = true ∧ withholds phased 0 = false ∧ after (exec (.phaseRelease 0 0 0 false) phased) (fun t => (cur t).arrived.all (fun p => !p.2)) = true) ∧
    (let s := modAgent placed 0 (fun x => { x with ni := { x.ni with nwalks := [4] } })
     4 ∈ (agentAt s 0).ni.nwalks ∧ after (exec (.nameWalk 0 4) s) (fun t => (agentAt t 0).ni.nwalks == [] && ((agentAt t 0).ni.names.map (·.name)) == [4, 1]) = true) ∧
    (reqReady (requesting (some (liveTag tile 0)) false) 0 = some (reading (some (liveTag tile 0))) ∧ staleAt (requesting none false) 0 (some (liveTag tile 0)) = false ∧
      after (exec (.requestAtHome 0) (requesting (some (liveTag tile 0)) false)) (fun t => t.net.reqs == [] && t.net.resps.map (fun r => r.res.map (·.val)) == [[77]]) = true ∧
      staleAt (requesting none false) 0 (some ⟨0, 5⟩) = true ∧ after (exec (.requestAtHome 0) (requesting (some ⟨0, 5⟩) false)) (fun t => t.net.reqs == [] && t.net.resps == []) = true) ∧
    (after (exec (.responseLanding 0) (requesting (some (liveTag tile 0)) true)) (fun t => t.net.resps == [] && (cur t).st == .ready && (cur t).reply == some [⟨0, 77, false, 0, 0x20000⟩]) = true ∧
      after (exec (.orphan 0) (requesting (some ⟨0, 5⟩) true)) (fun t => t.net.resps == [] && mget 0 (agentAt t 0).ni.orphans 0 == 1) = true) := by decide +kernel
/-- A checkpoint that is armed withholds the phase of level 3. -/
def armed : State :=
  let s := modCur phased (fun t => { t with dom := [(3, 2 ^ 55)], arrived := [(3, true)] })
  { s with rel := { s.rel with ckpt := { s.rel.ckpt with op := 1, st := 1 } }, net := { s.net with l3 := [(0, [7])] } }
theorem witness_MeshEvents_withheld : phaseReady armed 0 0 3 false = true ∧ withholds armed 3 = true ∧
    after (exec (.phaseRelease 0 0 3 false) armed) (fun t => t.rel.ckpt.withheld == [0] && (cur t).arrived == [(3, true)]) = true := by decide +kernel
/-- A store to host memory before and after its host port's checkpoint; two answers to one strand; an access in the tile's own memory, not answered. -/
def toHost (past : Bool) : State :=
  { requesting none false with net := { placed.net with reqs := [{ reading (some (liveTag tile 0)) with todo := [⟨2 ^ 60 + 64, 8, .write, 5, 0, 0⟩], wants := false, past := past }] } }
def toOwn : State :=
  { requesting none false with net := { placed.net with reqs := [{ reading (some (liveTag tile 0)) with todo := [⟨keyLs 0 0x100, 8, .write, 5, 0, 0⟩], wants := false }] } }
theorem witness_MeshEvents_homes :
    (homeUnit (2 ^ 60 + 64) = hostUnit ∧ staleAt (toHost false) hostUnit (some (liveTag tile 0)) = false ∧
      after (exec (.requestAtHome 0) (toHost false)) (fun t => t.net.reqs.map (·.past) == [true]) = true ∧
      after (exec (.requestAtHome 0) (toHost true)) (fun t => t.net.reqs == [] && readWord t.mem (2 ^ 60 + 64) == 5 && t.net.resps.length == 1) = true) ∧
    after (exec (.requestAtHome 0) toOwn) (fun t => t.net.reqs == [] && t.net.resps == [] && readWord t.mem (keyLs 0 0x100) == 5) = true ∧
    (let s := requesting (some (liveTag tile 0)) true
     let two := { s with net := { s.net with resps := s.net.resps ++ s.net.resps } }
     moreComing two 0 0 = true ∧ after (exec (.responseLanding 0) two) (fun t => (cur t).st == .waiting && ((cur t).reply.map (·.length)) == some 1) = true) ∧
    heldBack (cpState copy16 none) 0 copy16 (listKeys 0 copy16.cmd) = false ∧ reqReady (meshOf []) 3 = none := by decide +kernel

/-! ### Events of reduction calls -/

/-- The call of two elements, 5 and 7, of tile 0 on tree 5, whose root it is; the calls at router 0; tokens. -/
def call5 : OpenCall := { call6 with group := 5, given := 2, vals := [⟨0, 1, none, 5, 0⟩, ⟨1, 1, none, 7, 0⟩], res := some ⟨0x400, false, ⟨none, true, 9⟩, 0⟩ }
def atRouter (out : List PVal) : RduCall := ⟨0, 5, ⟨0, 0⟩, 9, 0, 4, false, true, 2, true, none, 0, 2000, out, 0, 0, false⟩
def reducing (c : OpenCall) (rdus : List RduCall) (tokens : List CallToken) : State :=
  modAgent { tile with net := { tile.net with trees := [member 5], rdus := rdus, tokens := tokens } } 0 (fun x => { x with calls := [c] })
def token (abort : Nat) (posted : Bool) : CallToken := ⟨⟨0, 0⟩, 0, 5, 9, if abort = 0 then some [5, 7] else none, 0, abort, posted, none⟩
/-- 5 and 7 as partials. -/
def ints57 : List PVal := [pvalOf 0 4 5 0, pvalOf 0 4 7 1]
/-- The member has sent its contributions to its router. -/
def offered (c : OpenCall) : State := contributePacket (reducing c [] []) 0 5
/-- They are at the router, where the call is admitted and some positions are combined. -/
def combining (out : List PVal) : State := let s := offered call5; { s with net := { s.net with rdus := [atRouter out] } }
theorem test_call_at_router :
    ((offered call5).net.packets.map (fun k => (k.router, k.port, k.hdr.pos, k.hdr.nel, k.vals)) == [(0, 4, 0, 2, ints57)]) = true ∧
    after (exec (.callAdmission 0 5) (offered call5)) (fun t => t.net.rdus == [atRouter []]) = true ∧
    after (exec (.callAdmission 0 5) (offered { call5 with op := 1 })) (fun t => t.net.rdus == [] && t.net.tokens.map (·.abort) == [1]) = true ∧
    after (exec (.partialCombine 0 5 1) (combining (ints57.take 1))) (fun t => t.net.rdus.map (fun c => c.out.map (·.num)) == [[5, 7]]) = true ∧
    after (exec (.rootRounding 0 5) (reducing call5 [atRouter ints57] [])) (fun t => t.net.rdus == [] && t.net.tokens == [token 0 false]) = true := by decide +kernel
theorem test_call_token :
    after (exec (.completionToken 0 5) (reducing call5 [] [token 0 false])) (fun t => readNat t.mem (keyLs 0 0x400) 8 == 7 * 2 ^ 32 + 5 && readNat t.mem (keyLs 0 0x408) 8 == 9 * 2 ^ 32 &&
      (agentAt t 0).calls == [] && (cur t).eng.ceq == [⟨BitVec.ofNat 64 (2 ^ 56 + 9 * 2 ^ 44 + 9), none⟩]) = true ∧
    after (exec (.completionToken 0 5) (reducing call5 [] [token 3 false])) (fun t => (cur t).eng.posted.map (fun p => (p.cause, p.info)) == [(0x11, BitVec.ofNat 64 (9 * 2 ^ 32 + 5 * 2 ^ 16 + 3))] &&
      t.net.tokens == [token 3 true]) = true := by decide +kernel
/-- A sum of FP32 infinities of both signs is a NaN with the invalid flag, and one of a positive overflow rounds up (02 R66, R70). -/
theorem test_rounding :
    (roundPVal 0 0 false (joinAll 0 0 [pvalOf 0 0 0x7F800000 0, pvalOf 0 0 0xFF800000 1])).1 = [0x7FC00000] ∧
    (roundPVal 0 0 false (joinAll 0 0 [pvalOf 0 0 0x3F800000 0, pvalOf 0 0 0x40000000 1])).1 = [0x40400000] ∧
    (joinAll 3 4 [pvalOf 3 4 7 0, pvalOf 3 4 9 1, pvalOf 3 4 9 2]).idx = 1 := by decide +kernel
/-- A result queue takes what it has room for. -/
def callQ : OpenCall := { call5 with res := some ⟨2, true, ⟨none, true, 9⟩, 0⟩ }
/-- A poisoned buffer. -/
def callPoison : OpenCall := { call5 with vals := [⟨0, 2, some 0x500, 0, 0⟩] }
def poisonedCall : State := let s := reducing callPoison [atRouter []] []; setMem s { s.mem with poison := [keyLs 0 0x500 / 8] }
theorem witness_CallEvents :
    (teState (treeAt (reducing call5 [] []) 0 5) = 1 ∧ teRing (treeAt (reducing call5 [] []) 0 5) = false ∧ childPorts (treeAt (reducing call5 [] []) 0 5) = [4] ∧
      teBkv (treeAt (reducing call5 [] []) 0 5) = false ∧ (usedPorts (treeAt (offered call5) 0 5) none).all (fun p => (firstPacket (offered call5) 0 5 p).isSome) = true ∧ (rduOf (offered call5) 0 5).any (·.admitted) = false) ∧
    ((usedPorts (treeAt (combining []) 0 5) none).map (fun p => portVal (combining []) 0 5 p 1) = [some (pvalOf 0 4 7 1)] ∧ rduOf (combining []) 0 5 = some (atRouter [])) ∧
    (let t := contributePacket poisonedCall 0 5; (agentAt t 0).calls.map (·.missing) = [true] ∧ (agentAt t 0).ni.fbox.length = 1) ∧
    ((rootReady (reducing call5 [atRouter ints57] []) 0 5).isSome ∧ rootReady (reducing call5 [atRouter (ints57.take 1)] []) 0 5 = none ∧ sampleMismatch (reducing call5 [atRouter ints57] []) 5 (atRouter ints57) = none) ∧
    (tokenCall (reducing call5 [] []) (token 0 false) = some call5 ∧ receives (reducing call5 [] []) 0 call5 = true ∧
      eventRoom (reducing call5 [] []) 0 ⟨0x400, false, ⟨none, true, 9⟩, 0⟩ = true) ∧
    after (exec (.completionToken 0 5) (reducing call5 [] [token 3 true])) (fun t => t.net.tokens == [] && (agentAt t 0).calls == []) = true ∧
    (queueTaken (reducing callQ [] [token 0 false]) (token 0 false) 2 = false ∧
      after (exec (.completionToken 0 5) (reducing callQ [] [token 0 false])) (fun t => (mget [] (agentAt t 0).ni.rqs 2).map (·.val) == [5, 7, 0x900000000] && t.net.tokens.map (·.rest) == [some []]) = true) ∧
    (hasDeadline (offered call5) 0 5 = true ∧ groupStopped (offered call5) 5 = false ∧ ringWaits (reducing call5 [] []) 0 5 = none) ∧
    (treeRoot (reducing call5 [atRouter []] []) 5 = some 0 ∧ attemptBegun (reducing call5 [atRouter []] []) 5 = true ∧
      after (exec (.callReplay 5 0 0) (reducing call5 [atRouter []] [])) (fun t => t.net.rdus == [] && t.net.atts == [(5, ⟨1, 1⟩)]) = true ∧
      after (exec (.callReplay 5 2 0) (let s := reducing call5 [atRouter []] []; { s with net := { s.net with atts := [(5, ⟨4, 4⟩)] } })) (fun t => t.net.rdus == [] && t.net.tokens.map (·.abort) == [7]) = true) := by
  decide +kernel
/-- Tree 5 with the children own tile and the neighbour in the East, which has sent nothing. -/
def lonely : State := let s := offered call5; { s with net := { s.net with trees := [(5, BitVec.ofNat 128 (2 ^ 44 + 5 * 2 ^ 41 + 2 ^ 40 + 2 ^ 37 + 4 * 2 ^ 28))] } }
theorem witness_CallEvents_deadline :
    (rduOf lonely 0 5).any (·.admitted) = false ∧ ((childPorts (treeAt lonely 0 5)).findSome? (firstPacket lonely 0 5)).isSome = true ∧ teBkv (treeAt lonely 0 5) = false ∧
    1 ∈ usedPorts (treeAt lonely 0 5) ((rduOf lonely 0 5).bind (·.backup)) ∧ firstPacket lonely 0 5 1 = none ∧ ringWaits lonely 0 5 = none ∧ hasDeadline lonely 0 5 = true ∧
    after (exec (.calldlExpiry 0 5) lonely) (fun t => t.net.tokens.map (·.abort) == [3]) = true := by decide +kernel

/-- Tree 5 of a ring: this wafer, which is at a position and has a root; and what has come from wafer 3. -/
def ringWord (pos : Nat) (root : BitVec 6) : Word := 1#1 ++ 0#6 ++ root ++ 2#6 ++ 3#6 ++ 0#7 ++ BitVec.ofNat 6 pos ++ 0#26
def ringEntry : BitVec 128 := BitVec.ofNat 128 (2 ^ 44 + 5 * 2 ^ 41 + 2 ^ 40 + 4 * 2 ^ 28 + 2 ^ 17)
def ringCome : RingIn := ⟨⟨0, 0⟩, 5, 9, 3, none, 0, 4, ints57, []⟩
def onRing (pos : Nat) (root : BitVec 6) (come : List RingIn) : State :=
  let s := reducing call5 [{ atRouter ints57 with ring := ringWord pos root }] []
  { s with net := { s.net with trees := [(5, ringEntry)], ringIn := come } }
theorem witness_CallEvents_ring :
    (∀ root pos, rootReady (onRing pos root [ringCome]) 0 5 = some { atRouter ints57 with ring := ringWord pos root }) ∧
    (urValid (ringWord 1 Config.waferNumber) = true ∧ urRoot (ringWord 1 Config.waferNumber) = thisWafer ∧ urPos (ringWord 1 Config.waferNumber) ≠ 0 ∧
      urPos (ringWord 0 Config.waferNumber) = 0 ∧ urRoot (ringWord 0 (Config.waferNumber + 1)) ≠ thisWafer) ∧
    treeRoot (onRing 1 7 [ringCome]) 5 = some 0 ∧ teRing (treeAt (onRing 1 7 [ringCome]) 0 5) = true ∧
    hopFrom (onRing 1 7 [ringCome]) 0 5 { atRouter ints57 with ring := ringWord 1 7 } = some ringCome ∧ (ringCome.vals.length = 2 ∧ sampleMismatch (onRing 1 7 [ringCome]) 5 { atRouter ints57 with ring := ringWord 1 7 } = none) ∧ revokedOf (onRing 1 7 [ringCome]) 0 = [] ∧
    (ringWaits (onRing 1 7 []) 0 5).isSome = true ∧ ringOvertaken (onRing 1 7 [ringCome]) 0 5 = false ∧
    after (exec (.calldlExpiry 0 5) (onRing 1 7 [])) (fun t => t.net.rdus.map (·.waited) == [1]) = true := by
  have h : ∀ root pos, teRoot (treeAt (onRing pos root [ringCome]) 0 5) = true := fun root pos => by
    have e : treeAt (onRing pos root [ringCome]) 0 5 = ringEntry := by simp [treeAt, onRing, mget, mget?]
    rw [e]; decide +kernel
  refine ⟨fun root pos => ?_, ⟨?_, ?_, ?_, ?_, ?_⟩, by decide +kernel, by decide +kernel, by decide +kernel, by decide +kernel, by decide +kernel, by decide +kernel, by decide +kernel, by decide +kernel⟩
  · have e : rduOf (onRing pos root [ringCome]) 0 5 = some { atRouter ints57 with ring := ringWord pos root } := by simp [rduOf, onRing, reducing, modAgent, setAgent, atRouter]
    simp [rootReady, e, h, atRouter, ints57]
  all_goals simp only [ringWord, urValid, urRoot, urPos, thisWafer]
  all_goals generalize Config.waferNumber = w
  all_goals revert w; decide +kernel
/-- Two trees of one member mirror each other. -/
def mirrored : State :=
  let e := fun (g m : Nat) => (g, BitVec.ofNat 128 (2 ^ 44 + 5 * 2 ^ 41 + 2 ^ 40 + 4 * 2 ^ 28 + 2 ^ 27 + m * 2 ^ 18))
  let s := reducing call5 [atRouter []] []
  { s with net := { s.net with trees := [e 5 6, e 6 5] } }
theorem witness_CallEvents_mirror :
    treeRoot mirrored 5 = some 0 ∧ teMirv (treeAt mirrored 0 5) = true ∧ treeRoot mirrored (teMgrp (treeAt mirrored 0 5)) = some 0 ∧ teMgrp (treeAt mirrored 0 6) = 5 ∧
    sampledAt 9 192 = true ∧ after (exec (.callReplay 5 1 192) mirrored) (fun t => t.net.atts == [(5, ⟨1, 1⟩)] && (agentAt t 0).ni.fbox.length == 1) = true := by decide +kernel
/-- Position 0 of SEQ 0 is sampled: the mirror tree's sum there is 5, the root's is not. -/
def mismatched (out : List PVal) : State :=
  let s := modAgent mirrored 0 (fun x => { x with calls := [{ call5 with seq := 0 }] })
  { s with net := { s.net with rdus := [{ atRouter out with seq := 0 }] } }
theorem witness_CallEvents_sample :
    rootReady (mismatched [pvalOf 0 4 6 0, pvalOf 0 4 7 1]) 0 5 = some { atRouter [pvalOf 0 4 6 0, pvalOf 0 4 7 1] with seq := 0 } ∧
    sampleMismatch (mismatched [pvalOf 0 4 6 0, pvalOf 0 4 7 1]) 5 { atRouter [pvalOf 0 4 6 0, pvalOf 0 4 7 1] with seq := 0 } = some 0 ∧
    sampleMismatch (mismatched ints57) 5 { atRouter ints57 with seq := 0 } = none ∧
    after (exec (.rootRounding 0 5) (mismatched [pvalOf 0 4 6 0, pvalOf 0 4 7 1])) (fun t => t.net.atts == [(5, ⟨1, 1⟩)] && t.net.tokens == []) = true := by decide +kernel
/-- A member that receives no results, with no RDRES: its call ends with the token. -/
theorem witness_CallEvents_noResults :
    (let s := reducing { call5 with all := false, res := none } [] [token 0 false]
     let s := { s with net := { s.net with trees := [(5, BitVec.ofNat 128 (2 ^ 44 + 4 * 2 ^ 41 + 4 * 2 ^ 28))] } }
     receives s 0 { call5 with all := false, res := none } = false ∧ after (exec (.completionToken 0 5) s) (fun t => (agentAt t 0).calls == [] && t.net.tokens == []) = true) := by decide +kernel

/-! ### Light -/

/-- A block's header and its block: OPC, words 1 and 2, CSEL; no payload, CRC right. -/
def hdrOf (opc : Nat) (succ alt : Word) (csel : Nat) : Line :=
  let h : Line := lineOf 64 [0xB10C * 2 ^ 48 + 2 ^ 40 + opc * 2 ^ 34 + 9 * 2 ^ 22 + 77 * 2 ^ 6, succ.toNat, alt.toNat, csel * 2 ^ 61]
  h ||| BitVec.ofNat 512 (crc32c (natBytes 64 h.toNat) * 2 ^ 288)
def blockOf (seq opc : Nat) (succ : Word) : Block := ⟨seq, BitVec.ofNat 64 page, hdrOf opc succ 0 0, [], 0, none⟩
def request (va : Nat) (chain : Bool) (grp : Word) (tag : Option Tag) : LReq := ⟨BitVec.ofNat 64 va, chain, grp, tag, 0, 0, false, none⟩
def mine (chain : Bool) : LReq := request page chain 9 (some (liveTag tile 0))
/-- Group 9 of the tile's context, of names 0 and 1 with receiver 1 each, with blocks 3 and 4 sent; its beacon holds the page. -/
def group9 (q : List LReq) : Group :=
  { group0 with owner := liveTag tile 0, st := 1, wm1 := 7, mcount := 2, words := [2 ^ 15, 1 + 2 ^ 15], q := q, next := 5, rel := 3, buf := [blockOf 3 8 0, blockOf 4 8 0] }
/-- A group's record, blocks in memory at the page, and light in flight. -/
def shining (e : Group) (hdrs : List Line) (flight : List Flight) : State :=
  let s := setMem placed (writeBytes placed.mem 0x20000 (hdrs.flatMap (fun h => natBytes 64 h.toNat)))
  { s with light := { s.light with groups := [(9, e)], flight := flight, beaconTlb := [(0, [⟨liveTag tile 0, page, 4, rwLeaf ||| 0x10⟩])] } }
/-- Requests on their way. -/
def asking (e : Group) (l : List LReq) : State := let s := shining e [] []; { s with light := { s.light with pending := l } }
/-- The element in the completion queue of the tile's strand. -/
def eventIs (o : Host.Outcome State Fault Refusal) (w : Nat) : Bool := after o (fun t => (cur t).eng.ceq == [⟨BitVec.ofNat 64 w, none⟩])
theorem test_beacon_requests :
    requestReady (asking (group9 []) [mine false]) 0 = some (mine false) ∧ requestReady (asking (group9 []) [mine false, mine true]) 1 = none ∧
    eventIs (exec (.beaconRequest 0) (asking (group9 []) [request page false 9 (some ⟨1, 0⟩)])) (2 ^ 57 + 2 ^ 32 + 9) = true ∧
    eventIs (exec (.beaconRequest 0) (asking { group9 [] with st := 3 } [mine false])) (2 ^ 57 + 2 * 2 ^ 32 + 9) = true ∧
    eventIs (exec (.beaconRequest 0) (asking (group9 []) [request page false 0x109 (some (liveTag tile 0))])) (2 ^ 57 + 4 * 2 ^ 32 + 9) = true ∧
    after (exec (.beaconRequest 0) (asking (group9 []) [mine false])) (fun t => (groupAt t 9).q == [mine false] && t.light.pending == []) = true ∧
    after (exec (.beaconRequest 0) (asking (group9 []) [request page false 9 (some ⟨0, 5⟩)])) (fun t => (groupAt t 9).q == [] && t.light.pending == []) = true := by decide +kernel
theorem test_beacon_sends :
    after (exec (.beaconSend 9) (shining (group9 [mine false]) [hdrOf 8 0 0 0] [])) (fun t => (groupAt t 9).next == 6 && (groupAt t 9).q == [] &&
      t.light.flight == [⟨9, 0, liveTag tile 0, .block (blockOf 5 8 0)⟩, ⟨9, 1, liveTag tile 0, .block (blockOf 5 8 0)⟩]) = true ∧
    after (exec (.beaconSend 9) (shining { group9 [] with resend := some 4 } [] [])) (fun t => (groupAt t 9).resend == none && t.light.flight == [⟨9, 0, liveTag tile 0, .block (blockOf 4 8 0)⟩, ⟨9, 1, liveTag tile 0, .block (blockOf 4 8 0)⟩]) = true ∧
    after (exec (.beaconSend 9) (shining { group9 [mine false] with next := 11 } [] [])) (fun t => (groupAt t 9).bst == .windowFull && t.light.flight == []) = true ∧
    eventIs (exec (.beaconSend 9) (shining { group9 [mine false] with st := 3 } [] [])) (2 ^ 57 + 2 * 2 ^ 32 + 9) = true ∧
    eventIs (exec (.beaconSend 9) (shining (group9 [mine false]) [lineOf 64 [0xB10C * 2 ^ 48]] [])) (2 ^ 57 + 6 * 2 ^ 32 + 9) = true := by decide +kernel
theorem test_crc : crcOk (blockOf 4 8 0) = true ∧ crcOk { blockOf 4 8 0 with hdr := hdrOf 8 0 0 0 ^^^ 64 } = false := by decide +kernel
/-- Block n arrives at tile 0, which expects block 4; its receive slots. -/
def arriving (n : Nat) (slots : SMap Slot) (e : Group) : State :=
  modAgent (shining e [] [⟨9, 0, liveTag tile 0, .block (blockOf n 8 0)⟩]) 0 (fun x => { x with rx := { x.rx with members := [(9, ⟨4, 3, [], []⟩)], slots := slots } })
def fullSlots : SMap Slot := (List.range 8).map (fun i => (i, slotOf .ordinary false))
theorem test_arrival :
    after (exec (.blockArrival 9 0 false) (arriving 4 [] (group9 []))) (fun t => (agentAt t 0).ni.whq == [BitVec.ofNat 64 (9 * 2 ^ 56 + 77 * 2 ^ 40 + 4 * 2 ^ 16)] && (memberOf (agentAt t 0) 9).e == 5) = true ∧
    after (exec (.blockArrival 9 0 true) (arriving 4 [] (group9 []))) (fun t => (groupAt t 9).token == some ⟨4, 0, false, liveTag tile 0⟩) = true ∧
    after (exec (.blockArrival 9 0 false) (arriving 4 fullSlots (group9 []))) (fun t => (groupAt t 9).token == some ⟨4, 0, true, liveTag tile 0⟩) = true ∧
    after (exec (.blockArrival 9 0 false) (arriving 5 [] (group9 []))) (fun t => (agentAt t 0).rx.slots == [] && t.light.flight == []) = true := by decide +kernel
/-- A replay token for block 3 after n replays there. -/
def replaying (n : Nat) : State := shining { group9 [] with token := some ⟨3, 0, false, liveTag tile 0⟩, sameAt := 3, sameN := n } [] []
/-- Both members have released blocks 3 and 4 and beyond. -/
def released : State :=
  let f := fun (x : Agent) => { x with rx := { x.rx with members := [(9, ⟨5, 4, [], []⟩)] } }
  modAgent (modAgent (shining (group9 []) [] []) 0 f) 1 f
theorem test_replay_and_credit :
    after (exec (.replayToken 9) (replaying 15)) (fun t => (groupAt t 9).resend == some 3 && (groupAt t 9).replays == 1) = true ∧
    after (exec (.replayToken 9) (replaying 16)) (fun t => (groupAt t 9).st == 3 && (groupAt t 9).buf == []) = true ∧
    minRelease released 9 = 1 ∧ after (exec (.releaseCredit 9) released) (fun t => (groupAt t 9).rel == 4 && (groupAt t 9).buf.map (·.seq) == [4]) = true := by decide +kernel
/-- Full service, with the receiver 1 of tile 0 in a state. -/
def hued (h : HueSt) : State := setRcv { placed with boot := { placed.boot with pilot := false } } 0 1 h
theorem test_hues :
    after (exec (.hueDrift 0 1) (hued .locked)) (fun t => (rcvOf (agentAt t 0) 1).st == .drifting && (agentAt t 0).ni.fbox.length == 1) = true ∧
    after (exec (.hueUnlock 0 1) (hued .drifting)) (fun t => (rcvOf (agentAt t 0) 1).st == .unlocked) = true ∧
    after (exec (.receiverLost 0 1) (hued .unlocked)) (fun t => declaredDead t 0 || t.rel.wave.isSome) = true ∧
    after (exec (.receiverRetune 0 1) (hued .drifting)) (fun t => (rcvOf (agentAt t 0) 1).st == .locked) = true := by decide +kernel
/-- A strand whose completion queue has room is told of a refusal. -/
theorem witness_LightEvents :
    (let s := asking (group9 []) [mine false]
     requestReady s 0 = some (mine false) ∧ staleAt s (coreBase + 100) (mine false).tag = false ∧ some (groupAt s 9).owner = (mine false).tag ∧ (groupAt s 9).st = gACTIVE ∧
      (mine false).grp.toNat < 256 ∧ (groupAt s 9).sibv ≠ 1 ∧ s.rel.wave = none ∧ (groupAt s 9).walker = none ∧ (groupAt s 9).buf.length = 2) ∧
    staleAt (asking (group9 []) [request page false 9 (some ⟨0, 5⟩)]) (coreBase + 100) (some ⟨0, 5⟩) = true ∧
    (refuse (asking (group9 []) []) (mine false) 1).isSome = true ∧ (refuse (popRequest (shining { group9 [mine false] with st := 3 } [] []) 9) (mine false) 2).isSome = true ∧
    (let s := shining (group9 [mine false]) [hdrOf 8 0 0 0] []
     windowRoom (groupAt s 9) = true ∧ (beaconGroups s 0).find? (hasBlock s) = some 9 ∧ (mine false).block = none ∧ (groupAt s 9).resend = none ∧ (fetchHeader s 9 (mine false).va matches .inl _) = true ∧ (fetchBody s 9 (mine false).va (hdrOf 8 0 0 0) none matches .block _) = true ∧
      windowRoom { group9 [] with next := 11 } = false) ∧
    (let s := arriving 4 [] (group9 [])
     nextFlight s 9 0 = some ⟨9, 0, liveTag tile 0, .block (blockOf 4 8 0)⟩ ∧ (groupAt s 9).owner = liveTag tile 0 ∧ staleAt s 0 (some (groupAt s 9).owner) = false ∧ receivesLight s 9 0 (blockOf 4 8 0) = true ∧ (agentAt s 0).stopped = false ∧
      (memberOf (agentAt s 0) 9).e = 4 ∧ crcOk (blockOf 4 8 0) = true ∧ freeSlotOf (agentAt s 0) = some 0) ∧
    after (exec (.blockArrival 9 0 false) (arriving 4 [] { group9 [] with st := 2 })) (fun t => t.light.flight == [] && (agentAt t 0).rx.slots == []) = true ∧
    freeSlotOf (agentAt (arriving 4 fullSlots (group9 [])) 0) = none ∧
    ((groupAt (replaying 0) 9).token = some ⟨3, 0, false, liveTag tile 0⟩ ∧ seqSub (group9 []).next 3 = 2 ∧ windowOf (group9 []) = 8 ∧ replayCovers (groupAt (replaying 0) 9) 3 = false) ∧ minRelease released 9 ≠ 0 ∧
    (rcvUsed (hued .locked) 0 1 = true ∧ (rcvOf (agentAt (hued .unlocked) 0) 1).st = .unlocked ∧ (agentAt (hued .unlocked) 0).stopped = false ∧ (rcvOf (agentAt (hued .drifting) 0) 1).st = .drifting) := by
  decide +kernel

/-! ### Weight chains -/

/-- A walker at the page, after n blocks. -/
def walkerOf (links : List Word) (n : Nat) (branch : Option (Nat × Line)) (ending : Bool) : Walker := ⟨BitVec.ofNat 64 page, links, n, liveTag tile 0, some (0, 0), branch, ending, if ending then [0, 1] else []⟩
def walking (h : Line) (w : Walker) : State := shining { group9 [] with walker := some w } [h] []
/-- Group 9 with nothing out. -/
def settled (h : Line) (w : Walker) : State := shining { group9 [] with walker := some w, rel := 5, buf := [] } [h] []
/-- The walker that goes on, at an address with a link stack. -/
def goesOn (o : Host.Outcome State Fault Refusal) (va : Nat) (links : List Word) : Bool :=
  after o (fun t => t.light.flight.length == 2 && (groupAt t 9).next == 6 && (match (groupAt t 9).walker with | some w => w.va == BitVec.ofNat 64 va && w.links == links && w.count == 1 && w.branch == none | none => false))
/-- The beacon faults: chain-end units with a REASON. -/
def faults (o : Host.Outcome State Fault Refusal) (reason : Nat) : Bool :=
  after o (fun t => t.light.flight.map (·.what) == [.chainEnd reason (BitVec.ofNat 64 page) 5 5 cDRIVE, .chainEnd reason (BitVec.ofNat 64 page) 5 5 cDRIVE] && (groupAt t 9).walker.any (·.ending))
theorem test_walk :
    after (exec (.chainWalk 9) (shining (group9 [mine true]) [] [])) (fun t => (groupAt t 9).q == [] && (groupAt t 9).walker == some (walkerOf [] 0 none false)) = true ∧
    goesOn (exec (.chainWalk 9) (walking (hdrOf 4 0x1000 0 0) (walkerOf [] 0 none false))) 0x1000 [] = true ∧
    goesOn (exec (.chainWalk 9) (walking (hdrOf 6 0x1000 0x2000 0) (walkerOf [0x40] 0 none false))) 0x1000 [0x2000, 0x40] = true ∧
    goesOn (exec (.chainWalk 9) (walking (hdrOf 7 0 0 0) (walkerOf [0x40] 0 none false))) 0x40 [] = true ∧
    goesOn (exec (.chainWalk 9) (settled (hdrOf 8 0x1000 0 0) (walkerOf [] 0 none false))) 0x1000 [] = true ∧
    after (exec (.chainWalk 9) (walking (hdrOf 10 0 0 0) (walkerOf [] 0 none false))) (fun t => (groupAt t 9).walker == none && (groupAt t 9).next == 6) = true ∧
    after (exec (.chainWalk 9) (walking (hdrOf 9 0x1000 (BitVec.ofNat 64 page) 0) (walkerOf [] 0 none false))) (fun t => (groupAt t 9).marks == [⟨5, BitVec.ofNat 64 page, BitVec.ofNat 64 page, BitVec.ofNat 64 (77 * 2 ^ 48 + 5 * 2 ^ 24 + 1)⟩]) = true := by decide +kernel
theorem test_walk_faults :
    faults (exec (.chainWalk 9) (walking (hdrOf 4 0x1001 0 0) (walkerOf [] 0 none false))) 5 = true ∧
    faults (exec (.chainWalk 9) (walking (hdrOf 5 0x1000 0 4) (walkerOf [] 0 none false))) 4 = true ∧
    faults (exec (.chainWalk 9) (walking (hdrOf 6 0x1000 0 0) (walkerOf [1, 2, 3, 4] 0 none false))) 6 = true ∧
    faults (exec (.chainWalk 9) (walking (hdrOf 7 0 0 0) (walkerOf [] 0 none false))) 7 = true ∧
    faults (exec (.chainWalk 9) (shining { group9 [] with walker := some (walkerOf [] 0 none false), st := 3 } [] [])) 9 = true ∧
    faults (exec (.chainWalk 9) (walking (hdrOf 9 0x1000 4 0) (walkerOf [] 0 none false))) 1 = true := by decide +kernel
/-- A BRANCH went out as block 4, and both members have released block 3, with the condition bits 1 and 0. -/
def branching (csel : Nat) (succ alt : Word) (n : Nat) : State :=
  let f := fun (b : Bool) (x : Agent) => { x with rx := { x.rx with members := [(9, ⟨5, 4, [], [(3, b)]⟩)] } }
  modAgent (modAgent (shining { group9 [] with rel := 4, walker := some (walkerOf [] n (some (4, hdrOf 5 succ alt csel)) false) } [] []) 0 (f true)) 1 (f false)
def branchTo (s : State) (va : Word) : Bool := after (execBranchCondition 9 s) (fun t => (groupAt t 9).walker.any (fun w => w.va == va && w.branch == none))
theorem test_branch :
    branchTo (branching 0 0x1000 0x2000 2) 0x2000 = true ∧ branchTo (branching 1 0x1000 0x2000 2) 0x1000 = true ∧ branchTo (branching 2 0x1000 0x2000 2) 0x1000 = true ∧
    branchTo (branching 3 0x1000 0x2000 2) 0x2000 = true ∧ branchTo (branching 0 0x1000 0x2000 1) 0x1000 = true ∧ faults (exec (.branchCondition 9) (branching 0 0x1000 0 2)) 5 = true := by decide +kernel
/-- A MARK at block 2, which has been released. -/
def marked (va : Nat) (ending : Bool) : State :=
  shining { group9 [] with marks := [⟨2, BitVec.ofNat 64 page, BitVec.ofNat 64 va, 0x1234⟩], walker := if ending then some (walkerOf [] 1 none true) else none } [] []
theorem test_mark :
    after (exec (.markWrite 9) (marked (page + 8) false)) (fun t => readNat t.mem 0x20008 8 == 0x1234 && (groupAt t 9).marks == []) = true ∧
    faults (exec (.markWrite 9) (marked 4 false)) 1 = true := by decide +kernel
/-- A chain on tile 0 that strand 0 is parked in, with a block in slot 2. -/
def chain0 (inv : Option Invocation) : Chain := ⟨9, 0, 3, 0x88, 0x80, 6, inv, false, 0, none, none, some (0, 0)⟩
def chainSlot (opc : Nat) (reading : Bool) : Slot := { slotOf .chain false with hdr := hdrOf opc 0x1000 0 0, body := [], len := 0, reading := reading, inj := some (0, 0) }
def invOf (ramp epi : Bool) : Invocation := ⟨2, 4, false, ramp, epi, []⟩
def chained (opc : Nat) (c : Chain) : State :=
  modCur (modAgent (shining (group9 []) [] []) 0 (fun x => { x with rx := { x.rx with
    slots := [(2, chainSlot opc false)], chain := some c, members := [(9, ⟨5, 4, [], []⟩)], held := [(keyLs 0 0x700, 0x5A)] } })) (fun t => { t with st := .parked, mode := 1 })
/-- The invocation has committed. -/
def committed (o : Host.Outcome State Fault Refusal) (byte : Byte) : Bool :=
  after o (fun t => (agentAt t 0).rx.slots == [] && (memberOf (agentAt t 0) 9).rel == 5 && readByte t.mem (keyLs 0 0x700) == byte && (agentAt t 0).rx.chain.any (fun c => c.blocks == 7 && c.inv == none))
theorem test_invocation :
    committed (exec (.blockInvocation 0) (chained 8 (chain0 none))) 0x5A = true ∧
    after (exec (.blockInvocation 0) (chained 10 (chain0 none))) (fun t => (agentAt t 0).rx.chain.any (fun c => c.leave == some ⟨0, none⟩)) = true ∧
    committed (exec (.epilogueEnd 0) (modCur (chained 4 (chain0 (some (invOf false true)))) (fun t => { t with st := .ready }))) 0x5A = true := by decide +kernel
theorem test_leave :
    after (exec (.chainLeave 0) (chained 8 { chain0 none with leave := some ⟨0, none⟩, inj := none })) (fun t => curReg t 3 == 0x600 && (cur t).st == .ready && (cur t).pc == 0x88 && (agentAt t 0).rx.chain == none) = true ∧
    after (exec (.chainLeave 0) (chained 8 { chain0 none with leave := some ⟨2, some ⟨0x1B, 0x40, 0x99⟩⟩, inj := none })) (fun t => curReg t 3 == 0x602 && (cur t).sys.tcause == 0x1B && (cur t).sys.tpc == 0x88 && (cur t).sys.taddr == 0x40 && (cur t).sys.tinfo == 0x99) = true ∧
    after (exec (.chainLeave 0) (chained 8 { chain0 none with stop := true, inj := none })) (fun t => curReg t 3 == 0x601 && (agentAt t 0).ni.whq.length == 1) = true ∧
    eventIs (exec (.chainLeave 0) (chained 8 { chain0 none with leave := some ⟨0, none⟩ })) (3 * 2 ^ 56 + 9) = true := by decide +kernel
/-- Tile 0 sent a chain-stop token for block 4. -/
def stopped4 : State := chained 8 { chain0 none with stopTok := some (4, ⟨0x1B, 0x44, 18 * 2 ^ 24⟩) }
/-- A chain-end unit is in flight to tile 0. -/
def unitTo (reason seq : Nat) (c : Chain) : State :=
  let s := chained 8 c
  { s with light := { s.light with flight := [⟨9, 0, liveTag tile 0, .chainEnd reason 0x40 seq 5 cDRIVE⟩], groups := [(9, { group9 [] with walker := some (walkerOf [] 1 none true) })] } }
theorem test_chain_end :
    after (exec (.chainStopToken 9) stopped4) (fun t => t.light.flight.map (·.what) == [.chainEnd 18 0x44 4 5 0x1B, .chainEnd 18 0x44 4 5 0x1B] && (groupAt t 9).walker.any (·.ending)) = true ∧
    after (exec (.chainEndUnit 9 0) (unitTo 5 4 (chain0 none))) (fun t => (agentAt t 0).rx.slots == [] && (memberOf (agentAt t 0) 9).rel == 5 && (groupAt t 9).walker.any (fun w => w.confirm == [1]) &&
      (agentAt t 0).rx.chain.any (fun c => c.leave.any (fun l => l.reason == 2 && l.fault.any (fun f => f.addr == 0x40)))) = true ∧
    after (exec (.chainEndUnit 9 0) (unitTo 5 5 (chain0 none))) (fun t => t.light.flight.length == 1) = true := by decide +kernel
theorem witness_ChainEvents :
    (let s := shining (group9 [mine true]) [] []
     s.rel.wave = none ∧ (groupAt s 9).walker = none ∧ (groupAt s 9).q = [mine true] ∧ (groupAt s 9).st = gACTIVE ∧ (mine true).chain = true ∧ (groupAt s 9).resend = none) ∧
    after (exec (.chainWalk 9) (walking (hdrOf 8 0x1000 0 0) (walkerOf [] 0 none false))) (fun t => t == walking (hdrOf 8 0x1000 0 0) (walkerOf [] 0 none false)) = true ∧
    (let w := walkerOf [] 0 none false
     fetchHeader (walking (hdrOf 4 0x1000 0 0) w) 9 w.va matches .inl _) = true ∧
    (walkNext (hdrOf 4 0x1000 0 0) [] = .inr (some (0x1000, [])) ∧ walkNext (hdrOf 4 0x1001 0 0) [] = .inl 5 ∧ hOpc (hdrOf 4 0x1000 0 0) ≠ 9 ∧
      (fetchBody (walking (hdrOf 4 0x1000 0 0) (walkerOf [] 0 none false)) 9 (BitVec.ofNat 64 page) (hdrOf 4 0x1000 0 0) (some (0, 0)) matches .block _) = true) ∧
    (let s := branching 0 0x1000 0x2000 2; (groupAt s 9).st = gACTIVE ∧ seqLt (groupAt s 9).rel 4 = false) ∧
    (let s := marked (page + 8) false
     seqLt 2 (groupAt s 9).rel = true ∧ (markPlace s 9 (BitVec.ofNat 64 (page + 8)) matches .page _) = true ∧ plainTo s (some (groupAt s 9).owner) 0x20008 = true ∧
      (markPlace s 9 4 matches .none) = true ∧ (groupAt s 9).walker = none) := by
  decide +kernel
theorem witness_ChainEvents_tiles :
    (let s := chained 8 (chain0 none)
     mayInvoke (agentAt s 0) false (chain0 none) = true ∧ nextBlock (agentAt s 0) (chain0 none) = some (2, chainSlot 8 false)) ∧
    (let s := modAgent (chained 8 (chain0 (some (invOf true false)))) 0 (fun x => { x with mx := { x.mx with arr := .warm } })
     mayInvoke (agentAt s 0) false (chain0 (some (invOf true false))) = true ∧ mget? (agentAt s 0).rx.slots 2 = some (chainSlot 8 false) ∧ committed (exec (.blockInvocation 0) s) 0x5A = true) ∧
    (let s := modCur (chained 4 (chain0 (some (invOf false true)))) (fun t => { t with st := .ready })
     inEpilogue s 0 0 = true ∧ (strandAt s 0 0).epiLeft = 0 ∧ (strandAt s 0 0).st = .ready ∧ s.net.reqs = []) ∧
    (leaving { chain0 none with stop := true } = some ⟨1, none⟩ ∧ leaving { chain0 none with leave := some ⟨2, some ⟨0x1B, 0x40, 0x99⟩⟩ } = some ⟨2, some ⟨0x1B, 0x40, 0x99⟩⟩ ∧ (agentAt (chained 8 (chain0 none)) 0).stopped = false) ∧
    ((groupAt stopped4 9).walker = none ∧ stopTokens stopped4 9 = [(4, ⟨0x1B, 0x44, 18 * 2 ^ 24⟩)]) ∧
    (let s := unitTo 5 4 (chain0 none)
     nextFlight s 9 0 = some ⟨9, 0, liveTag tile 0, .chainEnd 5 0x40 4 5 cDRIVE⟩ ∧ (groupAt s 9).owner = liveTag tile 0 ∧ staleAt s 0 (some (groupAt s 9).owner) = false ∧ receivesUnit s 9 0 = true ∧ (agentAt s 0).stopped = false ∧ workBelow (agentAt s 0) 9 4 = false ∧ blocksBelow s 9 0 4 = false) ∧
    (let s := unitTo 5 4 (chain0 none)
     let s := { s with light := { s.light with groups := [(9, { group9 [] with owner := ⟨0, 5⟩ })] } }
     staleAt s 0 (some (groupAt s 9).owner) = true ∧ after (exec (.chainEndUnit 9 0) s) (fun t => t.light.flight == []) = true) := by
  decide +kernel
/-- A beacon serves the next of its groups in turn: group 9 with group 8 beside it, which was not served last. -/
def twoGroups (last : Nat) : State :=
  let s := shining (group9 [mine false]) [hdrOf 8 0 0 0] []
  { s with light := { s.light with groups := [(8, { group9 [{ mine false with grp := 8 }] with }), (9, group9 [mine false])], served := [(0, last)] } }
theorem witness_ChainEvents_turn :
    (beaconGroups (twoGroups 9) 0).find? (hasBlock (twoGroups 9)) = some 8 ∧ goes (exec (.beaconSend 9) (twoGroups 9)) (twoGroups 9) = true ∧
    (beaconGroups (twoGroups 8) 0).find? (hasBlock (twoGroups 8)) = some 9 ∧ after (exec (.beaconSend 9) (twoGroups 8)) (fun t => t.light.served == [(0, 9)] && (groupAt t 9).next == 6) = true := by
  decide +kernel
/-- A chain-end unit that its member cannot take comes again; one of another owner's frame is discarded; a task that has failed keeps its chain from new blocks. -/
theorem witness_ChainEvents_again :
    (let s := unitTo 5 4 (chain0 none)
     let s := { s with light := { s.light with flight := ⟨9, 0, liveTag tile 0, .block (blockOf 3 8 0)⟩ :: s.light.flight } }
     nextFlight s 9 0 = some ⟨9, 0, liveTag tile 0, .block (blockOf 3 8 0)⟩) ∧
    (let s := modAgent (unitTo 5 4 (chain0 none)) 0 (fun x => { x with stopped := true })
     (agentAt s 0).stopped = true ∧ goes (exec (.chainEndUnit 9 0) s) (sendUnitAgain s 9 0 ⟨9, 0, liveTag tile 0, .chainEnd 5 0x40 4 5 cDRIVE⟩) = true) ∧
    (let s := unitTo 5 4 (chain0 none)
     let s := { s with light := { s.light with flight := [⟨9, 0, ⟨0, 5⟩, .chainEnd 5 0x40 4 5 cDRIVE⟩] } }
     (⟨0, 5⟩ : Tag) ≠ (groupAt s 9).owner ∧ after (exec (.chainEndUnit 9 0) s) (fun t => t.light.flight == []) = true) ∧
    mayInvoke (agentAt (chained 8 (chain0 none)) 0) true (chain0 none) = false := by decide +kernel

/-! ### The task unit -/

/-- A record: its image, strand 0 with 8 registers, TASKIDX 5, an argument, a seed, DEP and its completion record. -/
def recT (dep : Nat) (wdog : Nat) : List Word :=
  [2 ^ 48 + 0x60000, 2 ^ 42 + 2 ^ 18 + 5 * 2 ^ 10 + 2 ^ 9, 0x1234, 0, 5, 0, dep, 2 ^ 48 + 0x70000 + wdog].map (BitVec.ofNat 64)
/-- An image of a text section of 8 bytes and one TASK record (22 R464, R465). -/
def imageBytes : List Byte :=
  let text := natBytes 8 0xABCD
  let task := natBytes 16 (8 + 2 ^ 72)
  natBytes 64 (2 ^ 32 + 0x4C494D47 + 2 * 2 ^ 96 + 64 * 2 ^ 128) ++
    natBytes 16 (2 ^ 61 + 8 + crc32c text * 2 ^ 96) ++ text ++ natBytes 8 0 ++ natBytes 16 (3 * 2 ^ 60 + 5 * 2 ^ 32 + 1 + crc32c task * 2 ^ 96) ++ task
/-- Tracked as task 7, for name 1, with the text section and 16 bytes for the local store. -/
def taskT (st : TaskSt) : Task :=
  { (default : Task) with id := 7, st := st, tag := ⟨0, 3⟩, record := recT 0 0, origin := 1, image := ⟨0, 0x80, [(0, 2 ^ 48 + 0x60050, 8), (2, 2 ^ 48 + 0x61000, 16)], [], [(0, 8)]⟩ }
/-- Context 0 with tasks and queue 0 with one record; tile 1 has name 1. -/
def tq (l : List Task) (q : Queue) (words : List (Nat × Nat)) : State :=
  let s := modAgent (setQueue { queues with os := { queues.os with tasks := l } } 0 0 q) 1 (fun x => { x with name := some 1, task := if l.any (fun t => t.st == .prefetch || t.st == .running) then some 7 else none })
  let l : List (Nat × Nat) := (recT 0 0).zipIdx.map (fun p => (0x50040 + 8 * p.2, p.1.toNat)) ++ [(0x10, 0x201), (0x20, 2 ^ 48 + 0x40000)] ++ words
  let m := l.foldl (fun m p => writeWord m p.1 (BitVec.ofNat 64 p.2)) (writeBytes s.mem 0x60000 imageBytes)
  setMem s m
def open1 : Queue := ⟨1, false, false, 1⟩
theorem test_tail_observed :
    after (exec (.tailObserved 0 0) (tq [] open1 [(0x40000, 2)])) (fun t => (queueAt t 0 0).head == 2 && t.os.tasks.map (fun x => (x.st, x.reason, x.image.secs, x.image.starts)) == [(.queued, 0, [(0, 2 ^ 48 + 0x60050, 8)], [(0, 8)])]) = true ∧
    after (exec (.tailObserved 0 0) (tq [] open1 [(0x40000, 2), (0x60000, 0)])) (fun t => t.os.tasks.map (fun x => (x.retire, x.reason)) == [(some .failed, 2)]) = true ∧
    after (exec (.tailObserved 0 0) (tq [] open1 [(0x40000, 2), (0x50048, 0)])) (fun t => t.os.tasks.map (fun x => (x.retire, x.reason)) == [(some .failed, 1)]) = true ∧
    after (exec (.tailObserved 0 0) (tq [] open1 [(0x40000, 0)])) (fun t => (queueAt t 0 0).frozen && (queueAt t 0 0).fault && t.rel.recs.map (fun p => p.2.length) == [1]) = true ∧
    after (exec (.tailObserved 0 0) (tq [] open1 [(0x40048, 2 ^ 48 + 0x5000D)])) (fun t => (queueAt t 0 0).frozen && t.rel.recs.length == 1) = true := by decide +kernel
/-- A task that waits for its counter. -/
def counting (n : Nat) (bad : Bool) : State :=
  let s := tq [{ taskT .waiting with counter := true, record := recT (2 ^ 48 + 0x70100) 0 }] open1 [(0x70100, n)]
  if bad then setMem s { s.mem with poison := [0x70100 / 8] } else s
def stOf (o : Host.Outcome State Fault Refusal) (st : TaskSt) (reason : Nat) (retire : Option TaskSt) : Bool := after o (fun t => t.os.tasks.map (fun x => (x.st, x.reason, x.retire)) == [(st, reason, retire)])
theorem test_counter :
    stOf (exec (.dependenceCounterZero 7) (counting 0 false)) .queued 0 none = true ∧ stOf (exec (.dependenceCounterZero 7) (counting 2 false)) .waiting 0 none = true ∧
    stOf (exec (.dependenceCounterZero 7) (counting 0 true)) .waiting 8 (some .cancelled) = true := by decide +kernel
/-- A task too wide for its region, and one whose tile is taken. -/
def wide : Task := { taskT .queued with record := (recT 0 0).set 1 (BitVec.ofNat 64 (5 * 2 ^ 57 + 2 ^ 42)) }
def taken : State := modAgent (tq [taskT .queued] open1 []) 1 (fun x => { x with task := some 8 })
theorem test_placement :
    after (exec (.taskPlacement 0) (tq [taskT .queued] open1 [(0x70000, 9)])) (fun t => t.os.tasks.map (fun x => (x.st, x.origin)) == [(.prefetch, 1)] && (agentAt t 1).task == some 7 && readWord t.mem 0x70000 == 0) = true ∧
    stOf (exec (.taskPlacement 0) (tq [wide] open1 [])) .placing 3 (some .failed) = true ∧ stOf (exec (.taskPlacement 0) taken) .placing 0 none = true := by decide +kernel
theorem test_prefetch_and_start :
    after (exec (.prefetch 7) (tq [taskT .prefetch] open1 [(0x61008, 0x77)])) (fun t => readWord t.mem (keyLs 1 8) == 0x77 && t.os.tasks.map (·.landed) == [true]) = true ∧
    after (exec (.strandStart 7) (tq [{ taskT .prefetch with landed := true }] open1 [])) (fun t =>
      t.os.tasks.map (·.st) == [.running] && (agentAt t 1).strands.map (fun p => (p.1, p.2.st, p.2.pc.toNat, p.2.size, p.2.sys.seed)) == [(0, .ready, 2 ^ 48 + 0x60058, 8, 5)] &&
        (agentAt t 1).pool == [(0, 0x1234)] && mget 0 (strandAt t 1 0).dom 2 == BitVec.ofNat 64 (2 ^ 56 + 2 ^ 55 + 2 ^ 20)) = true := by decide +kernel
theorem test_retirement :
    after (exec (.taskRetirement 7) (tq [taskT .running] open1 [])) (fun t => t.os.tasks == [] && (readWord t.mem 0x70000).toNat == 2 ^ 56 && readWord t.mem 0x70010 == 1 && (agentAt t 1).task == none) = true ∧
    after (exec (.taskRetirement 7) (tq [{ taskT .running with retire := some .failed, reason := 7 }] open1 [])) (fun t => readWord t.mem 0x70000 == BitVec.ofNat 64 (2 * 2 ^ 56 + 7 * 2 ^ 48) && (queueAt t 0 0).frozen) = true ∧
    stOf (exec (.watchdog 7) (tq [{ taskT .running with record := recT 0 3 }] open1 [])) .running 7 (some .failed) = true := by decide +kernel
def tquIs {α : Type} [DecidableEq α] (x : Tqu α) (s : State) (v : α) : Bool := match x.run s with | .ok w => w == v | .error _ => false
def readsNext (s : State) : Bool := match (readNext s 0 0).run s with | .ok _ => true | .error _ => false
theorem witness_TaskEvents :
    (let s := refreshCtx (tq [] open1 [(0x40000, 2)]) 0
     (ctxAt s 0).st ≠ 0 ∧ (queueAt s 0 0).frozen = false ∧ killing s 0 = false ∧ readsNext s = true ∧ tquIs (readHeader s 0 0) s (2, 2 ^ 48 + 0x50002) = true ∧
      ((tquPage (liveTag s 0) (headerVa s 0 0) 1 false).run s matches .ok _) = true) ∧
    (ringLog (2 ^ 48 + 0x5000D) = 13 ∧ tquIs (readHeader (tq [taskT .queued] open1 [(0x40048, 2 ^ 48 + 0x5000D)]) 0 0) (tq [taskT .queued] open1 [(0x40048, 2 ^ 48 + 0x5000D)]) (3, 2 ^ 48 + 0x5000D) = true) ∧
    after (exec (.tailObserved 0 0) (tq [] open1 [(0x40000, 1)])) (fun t => (queueAt t 0 0).last == 1) = true ∧
    (taskAt (counting 0 false) 7 = some { taskT .waiting with counter := true, record := recT (2 ^ 48 + 0x70100) 0 } ∧
      tquIs (tquWord ⟨0, 3⟩ (2 ^ 48 + 0x70100)) (counting 0 false) (0, false) = true ∧ tquIs (tquWord ⟨0, 3⟩ (2 ^ 48 + 0x70100)) (counting 2 false) (2, false) = true ∧
      tquIs (tquWord ⟨0, 3⟩ (2 ^ 48 + 0x70100)) (counting 0 true) (0, true) = true) ∧
    (let s := tq [taskT .queued] open1 []
     mayDispatch s 0 = true ∧ (placingTask s 0 <|> nextTask s 0) = some (taskT .queued) ∧ (queueAt s 0 (taskT .queued).lvl).frozen = false ∧
      (origins s (taskT .queued)).find? (rectFree s (taskT .queued)) = some 1 ∧ origins s wide = [] ∧ (origins taken (taskT .queued)).find? (rectFree taken (taskT .queued)) = none) ∧
    (let s := tq [taskT .prefetch] open1 []
     taskAt s 7 = some (taskT .prefetch) ∧ (taskTiles s 7).length = (taskNames (taskT .prefetch)).length ∧ (loadTiles s (taskT .prefetch)).2 = none ∧ mayDispatch s 0 = true ∧
      (loadTiles s { taskT .prefetch with foot := [(0, 8, 0, 0)] }).2 = some (5, 0)) ∧
    (let s := tq [taskT .running] open1 []
     taskAt s 7 = some (taskT .running) ∧ taskTiles s 7 = [1] ∧ (agentAt s 1).stopped = false ∧ tileQuiet s 1 true = true ∧ tileQuiet s 1 false = true ∧
      (taskT .running).tag = liveTag s 0 ∧ rWdog (recT 0 3) ≠ 0) := by
  decide +kernel

/-! ### Contexts -/

/-- An operation that core 0's strand waits for. -/
def opFor (k : OpKind) (c : Nat) (reached : List Nat) : Op := ⟨k, c, coreBase, 0, 4, reached⟩
/-- Operations in progress, with core 0's strand waiting for the first. -/
def busy (s : State) (l : List Op) : State := modStrand { s with os := { s.os with ops := l } } coreBase 0 (fun t => { t with st := .waiting, cause := some .service })
/-- The status word has reached the strand, and the operation is gone. -/
def ended (o : Host.Outcome State Fault Refusal) (w : Word) : Bool := after o (fun t => t.os.ops == [] && (strandAt t coreBase 0).reply == some [⟨0, w, false, 0, 0⟩])
/-- A kill of context 0, which now has INC 4, has reached some units. -/
def killS (l : List Task) (words : List (Nat × Nat)) (reached : List Nat) : State := busy (modCtx (tq l open1 words) 0 (fun v => { v with inc := 4, ov1 := true, old1 := 3 })) [opFor .kill 0 reached]
theorem test_kill :
    after (exec (.killMarker 0 1) (killS [taskT .running] [] [])) (fun t => t.os.ops.map (·.reached) == [[1]] && (agentAt t 1).strands == []) = true ∧
    after (exec (.killMarker 0 tquUnit) (killS [taskT .running] [] [1])) (fun t => t.os.tasks == [] && (readWord t.mem 0x70000).toNat == 4 * 2 ^ 56 + 10 * 2 ^ 48) = true ∧
    after (exec (.killMarker 0 tquUnit) (killS [] [(0x40000, 1)] [1])) (fun t => t.os.ops.map (·.reached) == [[1, tquUnit]]) = true ∧
    ended (exec (.killAcknowledgement 0) (killS [] [] ([1, tquUnit] ++ gateUnits))) 4 = true := by decide +kernel
/-- A marker at the beacon of group 9, which an older life of context 0 owns. -/
def killLit : State :=
  let s := killS [] [] []
  { s with light := { s.light with groups := [(9, { group9 [mine true] with owner := ⟨0, 3⟩ })], beaconTlb := [(0, [⟨⟨0, 3⟩, page, 4, rwLeaf⟩, ⟨⟨0, 4⟩, page, 4, rwLeaf⟩])] } }
theorem test_kill_beacon : after (exec (.killMarker 0 (beaconUnit 0)) killLit) (fun t => (groupAt t 9).st == 2 && (groupAt t 9).q == [] && (mget [] t.light.beaconTlb 0).map (·.tag.inc) == [4]) = true := by decide +kernel
/-- PREEMPT of context 0, whose region holds tile 1. -/
def preempting (reached : List Nat) (stopped : Bool) : State := busy (modAgent (tq [taskT .running] open1 []) 1 (fun x => { x with stopped := stopped })) [opFor .preempt 0 reached]
theorem test_preempt :
    after (exec (.stopMarker 1) (preempting [] false)) (fun t => (agentAt t 1).stopped && t.os.ops.map (·.reached) == [[1]]) = true ∧
    ended (exec (.preemptDrained 0) (preempting [1] true)) 0 = true ∧
    after (exec (.preemptDrained 0) (preempting [1] true)) (fun t => (ctxAt t 0).st == 2 && t.os.tasks.map (·.st) == [.preempted]) = true := by decide +kernel
def reclaiming (tag : Tag) : State := let s := busy contexts [opFor .reclaim 2 []]; { s with net := { s.net with msgs := [message tag false] } }
/-- A TLBINV of every context has reached some units; tile 1 and the field hold a page. -/
def invalidating (reached : List Nat) : State := busy (modAgent (tq [] open1 []) 1 (fun x => { x with tlb := [⟨⟨0, 3⟩, page, 4, rwLeaf⟩] })) [opFor (.tlbinv 2 0 0) 64 reached]
def invalidating0 : State := busy (tq [] open1 [(24, 0x990000)]) [opFor (.tlbinv 1 0 0) 0 [1, tquUnit]]
theorem test_invalidate :
    after (exec (.reclaimMarker 2) (reclaiming ⟨2, 4⟩)) (fun t => t.os.ops.length == 1) = true ∧ ended (exec (.reclaimMarker 2) (reclaiming ⟨2, 5⟩)) 0 = true ∧
    goes (exec (.tlbinvMarker 0 1) (invalidating [])) (invalidating []) = true ∧
    after (exec (.tlbinvMarker 0 1) (invalidating [fieldUnit 0])) (fun t => (agentAt t 1).tlb == [] && t.os.ops.map (·.reached) == [[fieldUnit 0, 1]]) = true ∧
    ended (exec (.tlbinvMarker 0 (fieldUnit 0)) (invalidating [1, tquUnit])) 0 = true ∧
    after (exec (.tlbinvMarker 0 (fieldUnit 0)) invalidating0) (fun t => (ctxAt t 0).ptroot == 0x990000 && mget [] t.net.fieldTlb 0 == []) = true ∧
    after (exec .nameinvAcknowledgement (busy placed [opFor (.nameinv 1 false) 64 []])) (fun t => (agentAt t 0).ni.names == []) = true ∧
    after (exec (.contextFreed 0) contexts) (fun t => (ctxAt t 0).st == 0 && (ctxAt t 0).inc == 3) = true := by decide +kernel
/-- A strand's walk for a page of context 0. -/
def walkFor (tag : Tag) (va : Nat) (chart : Bool) : Walk := ⟨.strand 0 0, tag, va, 1, false, chart, if chart then some 7 else none, false, false, none⟩
def walked (w : Walk) (words : List (Nat × Nat)) : State := let s := tq [] open1 words; { s with net := { s.net with walks := [w] } }
/-- The same with a poisoned entry. -/
def poisonedTable (key : Nat) : State := let s := walked (walkFor ⟨0, 3⟩ (2 ^ 48) false) []; setMem s (markPoison s.mem key)
theorem test_walks :
    after (exec (.translationWalk 0) (walked (walkFor ⟨0, 3⟩ (2 ^ 48 + 0x1234) false) [(0x110000, 0x023)])) (fun t => t.net.walks == [] && (agentAt t 0).tlb == [⟨⟨0, 3⟩, 2 ^ 48, 1, 0x123⟩] && readWord t.mem 0x110000 == 0x123) = true ∧
    after (exec (.translationWalk 0) (walked (walkFor ⟨0, 3⟩ (2 ^ 48 + 0x1234) false) [(0x110000, 0)])) (fun t => t.net.walks.map (fun w => (w.chart, w.token)) == [(true, some 1)] && t.rel.recs.map (fun p => p.2.map (fun r => r.w0.toNat / 2 ^ 56)) == [[2]]) = true ∧
    after (exec (.translationWalk 0) (walked (walkFor ⟨0, 3⟩ (2 ^ 48 + 0x1234) false) [(0x110000, 2 ^ 60 + 0x123)])) (fun t => t.rel.recs.map (fun p => p.2.map (fun r => r.w1.toNat / 2 ^ 48 % 256)) == [[2]]) = true ∧
    after (exec (.translationWalk 0) (walked (walkFor ⟨0, 2⟩ (2 ^ 48) false) [])) (fun t => t.net.walks == []) = true ∧
    after (exec (.translationWalk 0) (poisonedTable 0x110000)) (fun t => t.net.walks.map (fun w => w.chart) == [true] && t.rel.recs.map (fun p => p.2.map (fun r => (r.w0.toNat / 2 ^ 56, r.w1.toNat / 2 ^ 48 % 256, r.w2))) == [[(3, 1, 0x110000), (2, 2, 0x1000000000000)]]) = true ∧
    after (exec (.translationTimeout 7) (walked (walkFor ⟨0, 3⟩ (2 ^ 48) true) [])) (fun t => t.net.walks.map (fun w => (w.failed, w.chart)) == [(true, false)]) = true := by decide +kernel
/-- A service request of the tile's strand. -/
def asked (lode : Bool) (n : Nat) : State := let s := modCur tile (fun t => { t with st := .waiting, cause := some .service }); { s with os := { s.os with svc := [⟨0, 0, none, lode, n, 0⟩] } }
def halted : State := modCur core0 (fun t => { t with st := .waiting, cause := some .halt })
/-- Records at core 0: one of the MXE, or a TRANSLATE record before it. -/
def posting (ring : Word) (l : List Rec) : State := let s := modAgent core0 coreBase (fun x => { x with faultbox := ring }); { s with rel := { s.rel with recs := [(0, l)] } }
def rec4 : Rec := ⟨BitVec.ofNat 64 (4 * 2 ^ 56), 1, 2, 3, 4, 5⟩
def rec2 : Rec := ⟨BitVec.ofNat 64 (2 * 2 ^ 56), 1, 2, 3, 4, 5⟩
theorem test_answers_and_records :
    after (exec (.syscallAnswer 0 0 77) (asked false 5)) (fun t => (cur t).reply == some [⟨0, 77, false, 0, 0⟩] && (cur t).st == .ready && t.os.svc == []) = true ∧
    after (exec (.syscallAnswer 0 0 77) (asked true 1)) (fun t => (cur t).reply == some [⟨0, 0, false, 0, 0⟩]) = true ∧
    after (exec (.haltTimeout coreBase 0) halted) (fun t => (cur t).reply == some [⟨0, 0, false, 0, 0⟩]) = true ∧
    after (exec (.faultRecord 0) (posting 0x40006 [rec4])) (fun t => readWord t.mem 0x40000 == 1 && readWord t.mem 0x41008 == 1 && t.rel.recs == [(0, [])]) = true ∧
    after (exec (.faultRecord 0) (posting 0 [rec4])) (fun t => t.rel.lostRecs == [(0, 1)] && t.rel.recs == [(0, [])]) = true ∧
    after (exec (.faultRecord 0) (posting 0 [rec2])) (fun t => t.rel.recs == [(0, [rec2])]) = true := by decide +kernel
theorem witness_ContextEvents :
    (let s := killS [taskT .running] [] [1]
     findOp s 0 .kill = some (opFor .kill 0 [1]) ∧ 2 ∉ (opFor .kill 0 [1]).reached ∧ 2 < coreBase ∧ beaconUnit 0 ∉ (opFor .kill 0 [1]).reached ∧ tquUnit ∉ (opFor .kill 0 [1]).reached ∧
      (allTiles s).all (opFor .kill 0 [1]).reached.contains = true ∧ (killQueues (dropOldWalks s 0 4 (fun w => match w with | .tqu _ => true | _ => false)) 0).2 = false) ∧
    (let s := killS [] [(0x40000, 1)] [1]
     (killQueues (dropOldWalks s 0 4 (fun w => match w with | .tqu _ => true | _ => false)) 0).2 = true ∧ (killUnits s).all ([1, tquUnit] ++ gateUnits).contains = true ∧ hostUnit ∈ gateUnits) ∧
    (findOp (reclaiming ⟨2, 5⟩) 2 .reclaim = some (opFor .reclaim 2 []) ∧ (reclaiming ⟨2, 5⟩).rel.wave = none ∧ oldTraffic (reclaiming ⟨2, 5⟩) 2 = false) ∧
    (isCore 1 = false ∧ (preempting [] false).os.ops.any (stopsHere (preempting [] false) 1) = true) ∧
    (let s := preempting [1] true
     findOp s 0 .preempt = some (opFor .preempt 0 [1]) ∧ s.rel.wave = none ∧ regionTiles s 0 = [1] ∧ (regionTiles s 0).all (fun a => (opFor .preempt 0 [1]).reached.contains a && tileDrained s a) = true) ∧
    (let s := invalidating [fieldUnit 0]
     s.os.ops[0]? = some (opFor (.tlbinv 2 0 0) 64 [fieldUnit 0]) ∧ 1 ∈ tlbUnits s ∧ accessesDone s 1 64 = true ∧ fieldReached s (opFor (.tlbinv 2 0 0) 64 [fieldUnit 0]) 1 = true ∧
      (tlbUnits (reach (invUnit s 1 2 0 0 64) (opFor (.tlbinv 2 0 0) 64 [fieldUnit 0]) 1)).all [fieldUnit 0, 1].contains = false) := by
  decide +kernel
theorem witness_ContextEvents_rest :
    (let s := invalidating [1, tquUnit]
     fieldUnit 0 ∈ tlbUnits s ∧ (tlbUnits (reach (invUnit s (fieldUnit 0) 2 0 0 64) (opFor (.tlbinv 2 0 0) 64 [1, tquUnit]) (fieldUnit 0))).all [1, tquUnit, fieldUnit 0].contains = true) ∧
    nameOp (busy placed [opFor (.nameinv 1 false) 64 []]) = some (opFor (.nameinv 1 false) 64 [], 1, false) ∧
    ((ctxAt contexts 0).st = 1 ∧ (ctxAt contexts 0).ov1 = false ∧ (ctxAt contexts 0).ov2 = false ∧ tasksOf contexts 0 = [] ∧ opOn contexts 0 (fun _ => false) = false ∧
      contexts.light.groups = [] ∧ contexts.net.trees = []) ∧
    (walkTable (walked (walkFor ⟨0, 3⟩ (2 ^ 48) false) [(0x110000, 0x023)]) ⟨0, 3⟩ (2 ^ 48) = .leaf 0x110000 1 0x23 ∧ leafAllows 1 false 0x23 = true ∧
      walkTable (walked (walkFor ⟨0, 3⟩ (2 ^ 48) false) [(0x110000, 0)]) ⟨0, 3⟩ (2 ^ 48) = .invalid 1 0 ∧ walkTable (walked (walkFor ⟨0, 3⟩ (2 ^ 48) false) [(0x110000, 9)]) ⟨0, 3⟩ (2 ^ 48) = .malformed 1 9 ∧
      walkTable (poisonedTable 0x110000) ⟨0, 3⟩ (2 ^ 48) = .poisoned 0x110000 1 ∧
      (ctxAt (walked (walkFor ⟨0, 3⟩ (2 ^ 48) false) []) 0).st ≠ 0) ∧
    ((asked true 1).os.svc.find? (fun r => r.agent == 0 && r.strand == 0) = some ⟨0, 0, none, true, 1, 0⟩ ∧ (strandAt halted coreBase 0).cause = some .halt) ∧
    (ringRoom (posting 0x40006 [rec4]) 0 = true ∧ ringRoom (posting 0 [rec4]) 0 = false ∧ isTranslate rec4 = false ∧ mget [] (posting 0 [rec4]).rel.recs 0 = [rec4]) := by
  decide +kernel
/-- A leaf that does not permit the access, with A 0 and with A 1; a kill that Lodestar has ordered, behind its reclaim. -/
def orderedKill : State := { contexts with os := { contexts.os with ops := [⟨.reclaim, 3, coreBase, byOrder, 0, []⟩] } }
theorem witness_ContextEvents_more :
    (let w := walkFor ⟨0, 3⟩ (2 ^ 48) false
     walkTable (walked w [(0x110000, 0x25)]) ⟨0, 3⟩ (2 ^ 48) = .leaf 0x110000 1 0x25 ∧ leafAllows 1 false 0x25 = false ∧ leafA 0x25 = false ∧ leafA 0x125 = true ∧
      after (exec (.translationWalk 0) (walked w [(0x110000, 0x25)])) (fun t => t.net.walks.map (fun w => (w.failed, w.denied)) == [(true, some 0x25)]) = true ∧
      after (exec (.translationWalk 0) (walked w [(0x110000, 0x125)])) (fun t => t.net.walks == [] && (agentAt t 0).tlb.map (·.leaf) == [0x125]) = true) ∧
    (findOp orderedKill 3 .reclaim = some ⟨.reclaim, 3, coreBase, byOrder, 0, []⟩ ∧ oldTraffic orderedKill 3 = false ∧
      after (exec (.reclaimMarker 3) orderedKill) (fun t => t.os.ops.map (·.kind) == [.kill] && (ctxAt t 3).inc == 6) = true) := by decide +kernel
/-- A tile with a dirty line of a window, stopped, or whose task is done: the line goes home first. -/
def dirtyTile (s : State) : State :=
  modAgent s 1 (fun x => { x with cp := { x.cp with wins := [(3, { window with tag := ⟨0, 3⟩, head := 1, lines := [⟨0, .valid, 0, 1, 0, 0, 0x20000⟩] })] } })
theorem witness_flushed :
    (let s := dirtyTile (preempting [1] true)
     tileDirty (agentAt s 1) ≠ [] ∧ (agentAt s 1).stopped = true ∧ goes (exec (.stopMarker 1) s) (flushTile s 1) = true) ∧
    (let s := dirtyTile (tq [taskT .running] open1 [])
     (taskTiles s 7).find? (fun a => tileDirty (agentAt s a) != []) = some 1 ∧ tileQuiet s 1 false = true ∧ goes (exec (.taskRetirement 7) s) (flushTile s 1) = true) := by decide +kernel
/-- Another context's turn comes first. -/
def otherTurn : State := let s := tq [taskT .queued] open1 []; { s with os := { s.os with lastCx := 0 } }
theorem witness_TaskEvents_more :
    ((List.range 64).map (fun i => (otherTurn.os.lastCx + 1 + i) % 64)).find? (hasTurn otherTurn) = some 0 ∧
    ((List.range 64).map (fun i => ((tq [] open1 []).os.lastCx + 1 + i) % 64)).find? (hasTurn (tq [] open1 [])) = none ∧
    (∀ u, (endPages (tq [taskT .queued] open1 []) (taskT .queued)).run (tq [taskT .queued] open1 []) ≠ .error (.walk u)) := by
  refine ⟨by decide +kernel, by decide +kernel, ?_⟩
  have h : (match (endPages (tq [taskT .queued] open1 []) (taskT .queued)).run (tq [taskT .queued] open1 []) with | .error (.walk _) => false | _ => true) = true := by decide +kernel
  intro u e
  rw [e] at h
  cases h

/-! ### Save areas -/

/-- Context 1 is PREEMPTED, unsealed, and its first 4 GiB are the module's, by tables below 2 MiB that are not poisoned. -/
structure Tabled (s : State) : Prop where
  root : (ctxAt s 1).ptroot = 0x100000
  isSealed : (ctxAt s 1).sealed = false
  word0 : readWord s.mem 0x100080 = 0x110001
  word1 : readWord s.mem 0x110000 = 0x327
  poison : s.mem.poison = []
  seals : s.trust.seals = []
theorem Tabled.walk {s : State} (h : Tabled s) {va : Nat} (l : 2 ^ 48 ≤ va) (u : va < 2 ^ 48 + 2 ^ 32) : walkTable s (liveTag s 1) va = .leaf 0x110000 1 0x327 := by
  have c : (liveTag s 1).cx.toNat = 1 := rfl
  have i0 : walkIndex va 0 = 16 := by simp only [walkIndex]; omega
  have i1 : walkIndex va 1 = 0 := by simp only [walkIndex]; omega
  have p : ∀ k, poisonedAt s.mem k = false := fun k => by simp [poisonedAt, h.poison]
  have e : walkFrom s.mem va 5 0x100000 0 = .leaf 0x110000 1 0x327 := by
    rw [walkFrom, i0, p, show 0x100000 + 8 * 16 = 0x100080 from rfl, h.word0]
    rw [if_neg (by decide), if_neg (by decide), if_neg (by decide), if_neg (by decide), if_pos (by decide), if_neg (by decide), show entryFrame 0x110001 = 0x110000 by decide]
    rw [walkFrom, i1, p, show 0x110000 + 8 * 0 = 0x110000 from rfl, h.word1]
    rw [if_neg (by decide), if_neg (by decide), if_neg (by decide), if_neg (by decide), if_neg (by decide), if_neg (by decide)]
  simp only [walkTable, c, h.root]
  rw [if_neg (by decide)]
  exact e
theorem Tabled.walkNow {s : State} (h : Tabled s) (access : Nat) (w : Bool) (a : leafAllows access w 0x327 = true) {va : Nat} (l : 2 ^ 48 ≤ va) (u : va < 2 ^ 48 + 2 ^ 32) :
    walkNow s (liveTag s 1) va access w = (s, some ⟨liveTag s 1, va / 2 ^ 32 * 2 ^ 32, 1, 0x327⟩) := by
  have t : touchLeaf s 0x110000 0x327 w = (s, 0x327) := by cases w <;> rfl
  simp only [Machine.walkNow, h.walk l u, a, if_true, t, pageBits]
theorem savedKey {va x : Nat} (t : Tag) (u : va = 2 ^ 48 + x) (v : x < 2 ^ 32) : leafKey ⟨t, va / 2 ^ 32 * 2 ^ 32, 1, 0x327⟩ va = x := by
  have a : (BitVec.extractLsb' 16 40 (0x327 : Word)).toNat = 0 := by decide
  have b : leafH (0x327 : Word) = false := by decide
  simp only [leafKey, pageBits, a, b]
  simp
  omega
theorem Tabled.encOk {s : State} (va : Nat) : encOk s (liveTag s 1) ⟨liveTag s 1, va / 2 ^ 32 * 2 ^ 32, 1, 0x327⟩ va = true := by
  simp only [Machine.encOk, show leafEnc (0x327 : Word) = false by decide]; rfl
theorem Tabled.plain {s : State} (h : Tabled s) (t : Option Tag) (k : Nat) : plainTo s t k = true := by
  have : sealOf s k = none := by unfold sealOf; rw [h.seals]; split <;> rfl
  simp [plainTo, this]
theorem readWord_far (m : Memory) {K k : Nat} (bs : List Byte) (h : k + 8 ≤ K) : readWord (writeBytes m K bs) k = readWord m k := by
  rw [readWord, readWord, readNat, readNat, readBytes_congr (m' := m) (fun j h1 h2 => readByte_writeBytes_other m K bs (by omega))]
theorem poison_storeBytes (m : Memory) (k : Nat) (bs : List Byte) : (storeBytes m k bs).poison = m.poison := by
  induction bs generalizing m k with
  | nil => rfl
  | cons b t ih => rw [storeBytes, ih]; rfl
theorem Tabled.write {s : State} (h : Tabled s) {K : Nat} (k : 0x200000 ≤ K) (bs : List Byte) : Tabled (setMem s (writeBytes s.mem K bs)) where
  root := h.root
  isSealed := h.isSealed
  word0 := (readWord_far _ _ (by omega)).trans h.word0
  word1 := (readWord_far _ _ (by omega)).trans h.word1
  poison := by simp [setMem, writeBytes, clearPoison, poison_storeBytes, h.poison]
  seals := h.seals
theorem putSaved_ok {s : State} (h : Tabled s) (n x : Nat) (bs : List Byte) (l : 0x200000 ≤ x) (u : x + 64 * n < 2 ^ 32) : (putSaved 1 n s (2 ^ 48 + x) bs).2 = true := by
  induction n generalizing s x bs with
  | zero => rfl
  | succ n ih =>
    rw [putSaved]
    split
    · rfl
    · have e : encrypts s 1 x = false := by simp [encrypts, h.isSealed]
      simp only [if_neg (show ¬ (2 ^ 48 + x < 2 ^ 48 ∨ 2 ^ 56 ≤ 2 ^ 48 + x) by omega), h.walkNow 2 true (by decide) (show 2 ^ 48 ≤ 2 ^ 48 + x by omega) (by omega),
        savedKey _ rfl (show x < 2 ^ 32 by omega), h.plain, e, Tabled.encOk, show leafW (0x327 : Word) = true by decide]
      simp only [Bool.and_true, Bool.not_true, Bool.false_eq_true, if_false, if_true]
      rw [show 2 ^ 48 + x + 64 = 2 ^ 48 + (x + 64) by omega]
      exact ih (h.write (by omega) _) (x + 64) _ (by omega) (by omega)
theorem readBytes_add (m : Memory) (k a b : Nat) : readBytes m k (a + b) = readBytes m k a ++ readBytes m (k + a) b := by
  induction a generalizing k with
  | zero => simp [readBytes]
  | succ a ih => rw [show a + 1 + b = (a + b) + 1 by omega, readBytes, readBytes, ih, List.cons_append, show k + 1 + a = k + (a + 1) by omega]
theorem length_readBytes (m : Memory) (k n : Nat) : (readBytes m k n).length = n := by
  induction n generalizing k with
  | zero => rfl
  | succ n ih => rw [readBytes, List.length_cons, ih]
theorem getSaved_read {s : State} (h : Tabled s) (n x : Nat) (l : 0x200000 ≤ x) (u : x + 64 * n < 2 ^ 32) :
    getSaved 1 n s (2 ^ 48 + x) (64 * n) = (s, some (readBytes s.mem x (64 * n))) := by
  induction n generalizing x with
  | zero => rfl
  | succ n ih =>
    have e : encrypts s 1 x = false := by simp [encrypts, h.isSealed]
    rw [getSaved]
    simp only [if_neg (show ¬ 64 * (n + 1) = 0 by omega), if_neg (show ¬ (2 ^ 48 + x < 2 ^ 48 ∨ 2 ^ 56 ≤ 2 ^ 48 + x) by omega),
      h.walkNow 1 false (by decide) (show 2 ^ 48 ≤ 2 ^ 48 + x by omega) (by omega), savedKey _ rfl (show x < 2 ^ 32 by omega), e, ctxBytes, h.plain, Tabled.encOk,
      show leafR (0x327 : Word) = true by decide]
    simp only [if_true, Bool.and_true, Bool.not_true, Bool.false_eq_true, if_false]
    rw [show 2 ^ 48 + x + 64 = 2 ^ 48 + (x + 64) by omega, show 64 * (n + 1) - 64 = 64 * n by omega, ih (x + 64) (by omega) (by omega)]
    simp only [Option.map_some]
    rw [List.take_of_length_le (by rw [length_readBytes]; omega), show 64 * (n + 1) = 64 + 64 * n by omega, readBytes_add]
theorem pageKnown {s : State} (h : Tabled s) (w : s.net.walks = []) (f : s.net.fieldTlb = []) {va : Nat} (l : 2 ^ 48 ≤ va) (u : va < 2 ^ 48 + 2 ^ 32) :
    (match (tquPage (liveTag s 1) va 2 false).run s with | .error (.walk s') => some s' | _ => none) = none := by
  have e : tquPage (liveTag s 1) va 2 false s = .ok ⟨liveTag s 1, va / 2 ^ 32 * 2 ^ 32, 1, 0x327⟩ := by
    simp only [tquPage, w, f, h.walk l u, List.any_nil, mget, mget?]
    rw [if_neg (by simp; omega)]
    rfl
  simp only [ReaderT.run, e]
theorem pageMissing_none {s : State} (h : Tabled s) (w : s.net.walks = []) (f : s.net.fieldTlb = []) {va : Nat} (l : 2 ^ 48 ≤ va) (u : va < 2 ^ 48 + 2 ^ 32) : pagesMissing s 1 va 0 = none := by
  simp only [pagesMissing, show List.range (0 / 2 ^ 16 + 1) = [0] by decide, List.findSome?_cons, List.findSome?_nil, Nat.zero_mul, Nat.add_zero]
  have p := pageKnown h w f l u
  split
  · rename_i e; cases p.symm.trans e
  · rfl

/-- Context 1 with an operation, its save area at 2 MiB and a region of name 0, which no tile holds. -/
def saving (k : OpKind) : State :=
  let s := modCtx core0 1 (fun v => { v with st := 2, ptroot := 0x100000 })
  busy (setMem s ([(0x100080, 0x110001), (0x110000, 0x327), (0x68, 2 ^ 48 + 0x200000)].foldl (fun m p => writeWord m p.1 (BitVec.ofNat 64 p.2)) s.mem)) [opFor k 1 []]
theorem tabled_saving (k : OpKind) : Tabled (saving k) where
  root := rfl
  isSealed := rfl
  word0 := by have : (saving k).mem = (saving .load).mem := rfl; rw [this]; decide +kernel
  word1 := by have : (saving k).mem = (saving .load).mem := rfl; rw [this]; decide +kernel
  poison := rfl
  seals := rfl
/-- A save that must write to a page below 2^48: tile 0 holds name 0, and SAVE is 0. -/
def unsavable : State := modAgent (setMem (saving (.save false true)) { cells := [], poison := [] }) 0 (fun x => { x with name := some 0 })
/-- A save whose area has no translation: a walk is asked for. -/
def unmapped (k : OpKind) : State := setMem (saving k) (writeWord { cells := [], poison := [] } 0x68 (BitVec.ofNat 64 (2 ^ 48 + 0x200000)))
/-- A load whose SAVE is 0. -/
def unloadable : State := setMem (saving .load) { cells := [], poison := [] }
theorem length_flatMap8 (l : List Nat) (f : Nat → List Byte) (h : ∀ i, (f i).length = 8) : (l.flatMap f).length = 8 * l.length := by
  induction l with
  | nil => rfl
  | cons a t ih => rw [List.flatMap_cons, List.length_append, h, ih, List.length_cons]; omega
theorem length_recordBytes (s : State) (a n : Nat) : (recordBytes s a false true n).length = 64 * 200704 :=
  (length_flatMap8 _ _ (fun _ => length_natBytes ..)).trans (by rw [List.length_range]; decide)
theorem recordBytes_pos (s : State) (a n : Nat) : (recordBytes s a false true n).length / 64 ≠ 0 ∧ recordBytes s a false true n ≠ [] := by
  have len := length_recordBytes s a n
  generalize recordBytes s a false true n = bs at len
  exact ⟨by omega, fun e => by subst e; cases len⟩
theorem putRecords_fails (s : State) (n : savedNames s 1 = [0]) (p : physOfName s 0 = some 0) (q : stillHeld s 1 0 = true) (v : saveVa s 1 = 0) :
    (putRecords s 1 false true).2 = false := by
  have put : ∀ (n : Nat) (s : State) (bs : List Byte), n ≠ 0 → bs ≠ [] → putSaved 1 n s (0 + 0x10000 + 0 * recordStride true) bs = (s, false) := by
    intro n s bs hn hb
    cases n with
    | zero => exact absurd rfl hn
    | succ n => rw [putSaved, if_neg hb]; simp
  have r := recordBytes_pos s 0 s.env.fresh
  have w : ∀ m, saveVa { s with env := m } 1 = 0 := fun m => v
  simp only [putRecords, n, List.zipIdx, List.foldl, p, recordFor, q, w, if_true]
  rw [put _ _ _ r.1 r.2]
theorem exists_snd {p : State × Bool} (h : p.2 = true) : ∃ s, p = (s, true) := ⟨p.1, by rw [← h]⟩
theorem witness_ContextEvents_save :
    (saving (.save false true)).os.ops.find? (fun o => o.cx == 1 && (match o.kind with | .save _ _ => true | _ => false)) = some (opFor (.save false true) 1 []) ∧
    (savedNames (saving (.save false true)) 1).length = 0 ∧ pagesMissing (saving (.save false true)) 1 (saveVa (saving (.save false true)) 1) 0x10000 = none ∧
    putRecords (saving (.save false true)) 1 false true = (saving (.save false true), true) ∧
    getSaved 1 0 (saving (.save false true)) (saveVa (saving (.save false true)) 1 + 0x10000) 0 = (saving (.save false true), some []) ∧
    (∃ s2, putSaved 1 1024 (saving (.save false true)) (saveVa (saving (.save false true)) 1) (saveHeader (saving (.save false true)) 1 0 false true (Config.sha3 [])) = (s2, true)) ∧
    (savedNames unsavable 1).length = 1 ∧ pagesMissing unsavable 1 (saveVa unsavable 1) (0xC40000 + 0x10000) = none ∧ (putRecords unsavable 1 false true).2 = false ∧
    (pagesMissing (unmapped (.save false true)) 1 (saveVa (unmapped (.save false true)) 1) 0x10000).isSome = true ∧ (savedNames (unmapped (.save false true)) 1).length = 0 := by
  have n : savedNames (saving (.save false true)) 1 = [] := by decide +kernel
  have v : saveVa (saving (.save false true)) 1 = 2 ^ 48 + 0x200000 := by decide +kernel
  have n0 : savedNames unsavable 1 = [0] := by decide +kernel
  have v0 : saveVa unsavable 1 = 0 := by decide +kernel
  have p0 : physOfName unsavable 0 = some 0 := by decide +kernel
  have h0 : stillHeld unsavable 1 0 = true := by decide +kernel
  refine ⟨by decide +kernel, by rw [n]; rfl, by decide +kernel, by rw [putRecords, n]; rfl, rfl, exists_snd ?_, by rw [n0]; rfl, by decide +kernel, ?_, by decide +kernel, by decide +kernel⟩
  · rw [v]; exact putSaved_ok (tabled_saving _) 1024 0x200000 _ (by omega) (by omega)
  · exact putRecords_fails unsavable n0 p0 h0 v0

/-- Words 0 to 2 of the header of a save of context 1 without tiles (R371); the header; and a load of it. -/
def savedFirst : List Byte := wordsOf [BitVec.ofNat 64 (0x5A4EC0DE * 2 ^ 32 + 2 ^ 24 + 2 ^ 18), 0, 0]
def savedHeader (m : BitVec 256) (rest : List Byte) : List Byte := savedFirst ++ (natBytes 8 (crc32c (savedFirst ++ rest) * 2 ^ 32) ++ (natBytes 32 m.toNat ++ rest))
theorem crcByte_lt (c : Nat) (b : Byte) (h : c < 2 ^ 32) : crcByte c b < 2 ^ 32 := by
  have shift : ∀ n c, c < 2 ^ 32 → crcShift n c < 2 ^ 32 := by
    intro n
    induction n with
    | zero => exact fun c h => h
    | succ n ih =>
      intro c h
      rw [crcShift]
      apply ih
      split
      · exact Nat.xor_lt_two_pow (by omega) (by decide)
      · omega
  exact shift 8 _ (Nat.xor_lt_two_pow h (by have := b.isLt; omega))
theorem crc32c_lt (l : List Byte) : crc32c l < 2 ^ 32 := by
  have : ∀ c, c < 2 ^ 32 → l.foldl crcByte c < 2 ^ 32 := by
    induction l with
    | nil => exact fun c h => h
    | cons b t ih => exact fun c h => ih _ (crcByte_lt c b h)
  exact Nat.xor_lt_two_pow (this _ (by decide)) (by decide)
theorem savedHeader_fields (m : BitVec 256) (rest : List Byte) :
    (savedHeader m rest).length = 64 + rest.length ∧ headerGood (savedHeader m rest) = true ∧ savedWord (savedHeader m rest) 0 = 0x5A4EC0DE * 2 ^ 32 + 2 ^ 24 + 2 ^ 18 ∧
      savedWord (savedHeader m rest) 2 = 0 ∧ BitVec.ofNat 256 (leNat (((savedHeader m rest).drop 32).take 32)) = m := by
  have lf : savedFirst.length = 24 := rfl
  have d24 : (savedHeader m rest).drop 24 = natBytes 8 (crc32c (savedFirst ++ rest) * 2 ^ 32) ++ (natBytes 32 m.toNat ++ rest) := List.drop_left' lf
  have d32 : (savedHeader m rest).drop 32 = natBytes 32 m.toNat ++ rest := by
    rw [show 32 = 24 + 8 from rfl, ← List.drop_drop, d24]; exact List.drop_left' (length_natBytes ..)
  have d64 : (savedHeader m rest).drop 64 = rest := by
    rw [show 64 = 32 + 32 from rfl, ← List.drop_drop, d32]; exact List.drop_left' (length_natBytes ..)
  have t24 : (savedHeader m rest).take 24 = savedFirst := List.take_left' lf
  have w0 : savedWord (savedHeader m rest) 0 = 0x5A4EC0DE * 2 ^ 32 + 2 ^ 24 + 2 ^ 18 := by
    have : ((savedHeader m rest).drop (8 * 0)).take 8 = savedFirst.take 8 := by rw [← t24, List.take_take]; rfl
    rw [savedWord, wordAt, this]; decide
  have w2 : savedWord (savedHeader m rest) 2 = 0 := by
    have : ((savedHeader m rest).drop (8 * 2)).take 8 = savedFirst.drop 16 := by rw [← t24, List.drop_take]
    rw [savedWord, wordAt, this]; decide
  have w3 : savedWord (savedHeader m rest) 3 / 2 ^ 32 = crc32c (savedFirst ++ rest) := by
    rw [savedWord, wordAt, show 8 * 3 = 24 from rfl, d24, List.take_left' (length_natBytes ..), leNat_natBytes]
    have := crc32c_lt (savedFirst ++ rest)
    omega
  refine ⟨?_, ?_, w0, w2, ?_⟩
  · simp only [savedHeader, List.length_append, length_natBytes, lf]; omega
  · rw [headerGood, w0, w3, t24, d64]; simp
  · rw [d32, List.take_left' (length_natBytes ..), leNat_natBytes]
    apply BitVec.eq_of_toNat_eq
    rw [BitVec.toNat_ofNat]
    have := m.isLt
    omega
def savedState : Saved := ⟨1, 0, Config.sha3 [], false, false, true, 0, [], []⟩
def withSave (s : State) : State := { s with os := { s.os with saves := [savedState] } }
def loadingSave (rest : List Byte) : State := setMem (withSave (saving .load)) (writeBytes (saving .load).mem 0x200000 (savedHeader (Config.sha3 []) rest))
theorem loadingSave_read (rest : List Byte) (l : rest.length = 0xFFC0) : Tabled (loadingSave rest) ∧ saveVa (loadingSave rest) 1 = 2 ^ 48 + 0x200000 ∧
    getSaved 1 1024 (loadingSave rest) (2 ^ 48 + 0x200000) 0x10000 = (loadingSave rest, some (savedHeader (Config.sha3 []) rest)) := by
  have n := (savedHeader_fields (Config.sha3 []) rest).1
  have t0 := tabled_saving .load
  have t1 : Tabled (withSave (saving .load)) := ⟨t0.root, t0.isSealed, t0.word0, t0.word1, t0.poison, t0.seals⟩
  have t : Tabled (loadingSave rest) := t1.write (Nat.le_refl _) _
  have v : saveVa (loadingSave rest) 1 = 2 ^ 48 + 0x200000 := by
    have : ctxWord (loadingSave rest) 1 5 = ctxWord (saving .load) 1 5 := readWord_far _ _ (by have : (loadingSave rest).os.cxtab = 0 := rfl; rw [this]; decide)
    rw [saveVa, this]; decide +kernel
  have h : getSaved 1 1024 (loadingSave rest) (2 ^ 48 + 0x200000) 0x10000 = (loadingSave rest, some (savedHeader (Config.sha3 []) rest)) := by
    have e := getSaved_read t 1024 0x200000 (by omega) (by omega)
    rw [show 64 * 1024 = (savedHeader (Config.sha3 []) rest).length by rw [n, l]] at e
    rw [show 0x10000 = (savedHeader (Config.sha3 []) rest).length by rw [n, l], e]
    exact congrArg (fun b => (loadingSave rest, some b)) (readBytes_writeBytes _ _ _)
  exact ⟨t, v, h⟩
theorem headerBytes_saved (rest : List Byte) : headerBytes (savedHeader (Config.sha3 []) rest) = 0 := by
  rw [headerBytes, (savedHeader_fields (Config.sha3 []) rest).2.2.2.1, Nat.zero_mul]
theorem areaMissing_good (rest : List Byte) (l : rest.length = 0xFFC0) : areaMissing (loadingSave rest) 1 = none := by
  obtain ⟨-, g, -⟩ := savedHeader_fields (Config.sha3 []) rest
  obtain ⟨t, v, h⟩ := loadingSave_read rest l
  have w : (loadingSave rest).net.walks = [] := rfl
  have f : (loadingSave rest).net.fieldTlb = [] := rfl
  simp only [areaMissing, v, h, g, headerBytes_saved, Nat.zero_sub, if_true, pageMissing_none t w f (show 2 ^ 48 ≤ 2 ^ 48 + 0x200000 by omega) (by omega),
    pageMissing_none t w f (show 2 ^ 48 ≤ 2 ^ 48 + 0x200000 + 0x10000 by omega) (by omega)]
  rfl
theorem checkSaved_good (rest : List Byte) (l : rest.length = 0xFFC0) : checkSaved (loadingSave rest) 1 = .inr savedState := by
  obtain ⟨n, g, w0, w2, m⟩ := savedHeader_fields (Config.sha3 []) rest
  obtain ⟨-, v, h⟩ := loadingSave_read rest l
  have e : ∀ va, getSaved 1 0 (loadingSave rest) va 0 = (loadingSave rest, some []) := fun va => rfl
  have hb := headerBytes_saved rest
  have i : (ctxAt (loadingSave rest) 1).inc = 0 := rfl
  have sv : (loadingSave rest).os.saves = [savedState] := rfl
  simp only [checkSaved, v, h, g, w0, hb, m, Nat.zero_div, e, i, sv]
  simp [savedState]
theorem findOp_loadingSave (rest : List Byte) : findOp (loadingSave rest) 1 .load = some (opFor .load 1 []) := rfl
theorem exists_zeros (n : Nat) : ∃ l : List Byte, l.length = n := ⟨List.replicate n 0, List.length_replicate ..⟩
theorem witness_ContextEvents_load :
    findOp (saving .load) 1 .load = some (opFor .load 1 []) ∧ areaMissing unloadable 1 = none ∧ checkSaved unloadable 1 = .inl 1 ∧ findOp unloadable 1 .load = some (opFor .load 1 []) ∧
    (areaMissing (unmapped .load) 1).isSome = true ∧ (∃ rest, areaMissing (loadingSave rest) 1 = none ∧ checkSaved (loadingSave rest) 1 = .inr savedState ∧ findOp (loadingSave rest) 1 .load = some (opFor .load 1 [])) := by
  obtain ⟨rest, h⟩ := exists_zeros 0xFFC0
  exact ⟨rfl, by decide +kernel, by decide +kernel, by decide +kernel, by decide +kernel, rest, areaMissing_good rest h, checkSaved_good rest h, findOp_loadingSave rest⟩

/-! ### Host, repair, checkpoints, bring-up -/

/-- Frame 5 of the module is sealed to context 0; a mailbox of ATTEST holds a request, or an answer. -/
def hosted (b : Mailbox) (stage : Nat) : State :=
  { placed with boot := { placed.boot with stage := BitVec.ofNat 4 stage }, trust := { placed.trust with seals := [(5, 0)], boxes := [(0, b), (1, b)] } }
def box (op len : Nat) (data : SMap Byte) : Mailbox := ⟨true, len, op, false, 0, 0, none, data⟩
def revoked1 : Convoy := { (default : Convoy) with id := 77, members := [0, 1], k := 1, gen := 1, revoked := [1] }
/-- Context 0 is sealed by convoy 77, which wafer 1 has left. -/
def sealedCx : State := let s := modCtx placed 0 (fun v => { v with sealed := true }); { s with trust := { s.trust with cxConvoy := [(0, 77)], convoys := [revoked1] } }
theorem test_host :
    after (exec (.cxlMemRead 0 (192 * 2 ^ 24)) placed) (fun t => t.trust.cxlOut == some (BitVec.allOnes 512, false)) = true ∧
    after (exec (.cxlMemWrite 0 0x400 0xABCD 0x1) placed) (fun t => readByte t.mem 0x10000 == 0xCD && readByte t.mem 0x10001 == 0) = true ∧
    after (exec (.cxlMemWrite 1 0x400 0xABCD 0x3) placed) (fun t => readByte t.mem (2 ^ 41 + 0x10001) == 0xAB) = true ∧
    after (exec (.cxlMemWrite 0 0x1400 1 1) (hosted box0 6)) (fun t => t.trust.refused == [(0, 1)] && readByte t.mem 0x50000 == 0) = true ∧
    after (exec (.mailboxGo 0 true 33 2 [7]) (hosted (box 2 0 []) 6)) (fun t => (boxAt t 1).code == 4 && (boxAt t 1).data == []) = true ∧
    after (exec (.mgmtCommand 0 5 [1]) (hosted (box 9 0 []) 3)) (fun t => (boxAt t 0).answer == some (4, [])) = true ∧
    after (exec (.mgmtCommand 0 5 [1]) (hosted (box 9 0 []) 6)) (fun t => (boxAt t 0).answer == some (5, [1]) && !(boxAt t 0).go) = true ∧
    after (exec (.mailboxAnswer 0 true) (hosted (box 9 0 []) 6)) (fun t => (boxAt t 1).done && (boxAt t 1).code == 1) = true ∧
    after (exec (.bootstatRead 0) (hosted (box 4 0 []) 6)) (fun t => (boxAt t 1).answer.any (fun a => a.2.drop 7 == [0x60])) = true ∧
    after (exec (.attestationReport 0) (hosted (box 2 32 []) 6)) (fun t => (boxAt t 1).answer == some (2, [])) = true ∧
    after (exec (.attestationReport 0) (hosted (box 2 33 []) 6)) (fun t => (boxAt t 1).answer == some (3, [])) = true ∧
    after (exec (.signatureCheck 0) (hosted (box 3 0 []) 7)) (fun t => (boxAt t 1).answer == some (3, [])) = true ∧
    after (exec (.ulnenuFrame 0 0 0 1 1 0 [] 0) sealedCx) (fun t => t.trust.authFail == 1) = true ∧
    after (exec (.peerCopyLanding 0 0 1 0x100 [5, 6] none) placed) (fun t => readByte t.mem (keyVault 1 0x101) == 6) = true := by decide +kernel
theorem witness_HostEvents :
    (let s := hosted box0 6
     portHas 0 (192 * 2 ^ 24) = true ∧ portLine 0 (192 * 2 ^ 24) = none ∧ portHas 3 (2 ^ 35 - 1) = true ∧ portLine 0 0x1400 = some 0x50000 ∧ sealOf s 0x50000 = some 0 ∧
      portLine 0 0x400 = some 0x10000 ∧ sealOf s 0x10000 = none ∧ (boxAt s 1).go = false ∧ (boxAt s 1).answer = none) ∧
    ((boxAt (hosted (box 2 0 []) 6) 1).go = true ∧ (boxAt (hosted { box0 with answer := some (3, [1]) } 6) 1).answer = some (3, [1])) ∧
    ((boxAt (hosted (box 9 0 []) 3) 0).go = true ∧ (hosted (box 9 0 []) 3).boot.stage.toNat ≤ 3 ∧ 3 < (hosted (box 9 0 []) 6).boot.stage.toNat ∧ (boxAt (hosted (box 9 32512 []) 6) 0).len ≤ 32512) ∧
    (attestReady (hosted (box 1 0 []) 7) 0 1 = true ∧ attestReady (hosted (box 4 0 []) 7) 0 4 = true) ∧
    ([2, 3, 4, 0x10, 0x11].all (fun n => attestReady (hosted (box n 0 []) 6) 0 n && attestReady (hosted (box n 0 []) 7) 0 n) = true) ∧
    ((attestBody (hosted (box 2 0 []) 6) 0).length ≠ 33 ∧ (attestBody (hosted (box 2 33 []) 6) 0).length = 33 ∧
      (let s := hosted (box 2 33 [(32, 0xFF)]) 6; (attestBody s 0).length = 33 ∧ (attest s ((attestBody s 0).take 32) (leNat ((attestBody s 0).drop 32))).isSome = true) ∧
      (let s := hosted (box 2 33 []) 6; (attest s ((attestBody s 0).take 32) (leNat ((attestBody s 0).drop 32))).isSome = false)) ∧
    (attestBody (hosted (box 3 0 []) 6) 0).length < keyBytes + sigBytes ∧
    (let s := placed
     (ctxAt s 0).st ≠ 0 ∧ staleAt s edgeUnit (some ⟨0, 0⟩) = false ∧ staleAt s edgeUnit (some ⟨0, 5⟩) = true ∧ openFrame s 0 0 0 1 1 0 [9] 0 = some [9] ∧
      openFrame sealedCx 0 0 1 1 1 0 [] 0 = none ∧ inRegion (ctxAt s 0).region 1 = true ∧ physOfName s 1 = some 1 ∧ staleAt s 1 (some ⟨0, 0⟩) = false ∧
      poisoned (writeBytes s.mem (keyVault 1 0x100) [5, 6]) (keyVault 1 0x200) 16 = false) := by decide +kernel
theorem length_boxData (b : Mailbox) (n : Nat) : (boxData b n).length = n := by rw [boxData, List.length_map, List.length_range]
theorem witness_HostEvents_signature : attestReady (hosted (box 3 5261 []) 6) 0 3 = true ∧
    ∃ m k g, attestBody (hosted (box 3 5261 []) 6) 0 = m ++ k ++ g ∧ k.length = keyBytes ∧ g.length = sigBytes := by
  have n : (attestBody (hosted (box 3 5261 []) 6) 0).length = 5261 := length_boxData _ _
  refine ⟨by decide +kernel, [], (attestBody (hosted (box 3 5261 []) 6) 0).take keyBytes, (attestBody (hosted (box 3 5261 []) 6) 0).drop keyBytes, ?_, ?_, ?_⟩
  · rw [List.nil_append, List.take_append_drop]
  · rw [List.length_take, n]; rfl
  · rw [List.length_drop, n]; rfl

/-- A wave on row 0 in a step; every tile has stopped. -/
def waving' (step : Nat) (switch : Bool) : State := let s := mapAgents placed (fun _ x => { x with stopped := true, strands := [] }); { s with rel := { s.rel with wave := some ⟨0, 1, step, [], [], [], [], switch⟩ } }
def declared : State := { placed with rel := { placed.rel with rows := [(5, ⟨0, 4⟩)] } }
theorem test_window_error :
    after (exec (.uncorrectableError (windowKeys + 2 ^ 24 + 0x1008)) (modAgent placed 1 (fun x => { x with cp := { x.cp with wins := [(3, { window with soff := 1, head := 1, lines := [⟨0, .valid, 0, 1, 0, 0, 0x20000⟩] })] } })))
      (fun t => (agentAt t 1).cp.wins.map (fun p => p.2.lines.map (·.poison)) == [[2]] && (agentAt t 1).ni.fbox.map (fun r => (r.w0.toNat / 2 ^ 56, r.w1.toNat / 2 ^ 56, r.w2)) == [(3, 2, window.base + 8)]) = true := by decide +kernel
theorem test_repair :
    after (exec (.correctedError 3 0) { placed with rel := { placed.rel with corrected := [(3, 255)] } }) (fun t => t.rel.corrected == [(3, 256)] && (agentAt t 0).ni.fbox.length == 1) = true ∧
    after (exec (.scrub 0x10008 true) placed) (fun t => t.mem.poison == (List.range 8).map (0x2000 + ·)) = true ∧
    after (exec (.linkRetry 0 1 4) placed) (fun t => t.net.linkFails == [(1, 4)] && t.net.retired == []) = true ∧
    after (exec (.linkRetry 0 1 5) placed) (fun t => t.net.retired == [1] && t.net.lost == [0]) = true ∧
    after (exec (.shiftRemapWave 5) declared) (fun t => t.rel.wave.any (fun w => w.row == 5 && w.dead == 4 && w.step == 1) && (rowAt t 5).pend == 0) = true ∧
    after (exec (.shiftRemapWave 0) (waving' 1 false)) (fun t => t.rel.wave.any (fun w => w.step == 2)) = true ∧
    after (exec .waveDrained (waving' 4 false)) (fun t => t.rel.wave.any (fun w => w.step == 5) && (rowAt t 0).dead == 1) = true ∧
    after (exec .waveRepaired (waving' 6 false)) (fun t => t.rel.wave == none && t.rel.waves == 1) = true := by decide +kernel
theorem witness_RepairEvents :
    (mget 0 ({ placed with rel := { placed.rel with corrected := [(3, 255)] } } : State).rel.corrected (8 * 0 + 3 % 8) + 1) % 256 = 0 ∧
    inModule 0x10008 = true ∧ 2 ^ 61 ≤ keyVault 3 8 ∧ keyVault 3 8 < 2 ^ 61 + coreBase * 2 ^ 24 ∧ 8 * 0 + 1 ∉ placed.net.retired ∧
    (declared.rel.wave = none ∧ firstPending declared = some 5) ∧ (waving' 1 false).rel.wave = some ⟨0, 1, 1, [], [], [], [], false⟩ ∧
    (allStopped (waving' 1 false) = true ∧ allTiles (waving' 1 false) ≠ []) ∧ allDrained (waving' 2 false) = true ∧
    (let s := { State.reset with rel := { State.reset.rel with rebuild := true } }
     s.rel.rebuild = true ∧ s.rel.wave = none ∧ s.os.ctxs = []) := by decide +kernel

/-- A checkpoint in a state; its slots. -/
def checkpointing (st : Nat) (bad : Bool) (staged : Option Image) (slots : SMap Image) (gen : Nat) : State :=
  let s := mapAgents placed (fun _ x => { x with stopped := true, strands := [] })
  { s with rel := { s.rel with ckpt := { s.rel.ckpt with st := BitVec.ofNat 8 st, bad := bad, staged := staged, slots := slots, gen := gen } } }
/-- An image of module memory with a byte at 64 KiB. -/
def image1 : Image := { (default : Image) with gen := 3, mem := ⟨[(0x10000, 7)], []⟩, good := true }
theorem test_checkpoint :
    after (exec .checkpointQuiesced (checkpointing 1 false none [] 0)) (fun t => t.rel.ckpt.st == 2) = true ∧
    after (exec .checkpointCommit (checkpointing 3 false none [] 4)) (fun t => t.rel.ckpt.st == 4 && t.rel.ckpt.slots.map (fun p => (p.1, p.2.gen, p.2.good)) == [(1, 5, false)]) = true ∧
    after (exec .checkpointCommit (checkpointing 4 false (some image1) [] 2)) (fun t => t.rel.ckpt.st == 5 && t.rel.ckpt.gen == 3 && t.rel.ckpt.slot == 1 && t.rel.ckpt.slots.map (fun p => p.2.good) == [true]) = true ∧
    after (exec .checkpointFailed (checkpointing 2 false none [] 2)) (fun t => t.rel.ckpt.st == 7 && t.rel.ckpt.gen == 2) = true ∧
    after (exec .checkpointRestoreComplete (checkpointing 6 false none [] 0)) (fun t => t.rel.ckpt.st == 7) = true ∧
    after (exec .checkpointRestoreComplete (checkpointing 6 false none [(0, image1)] 3)) (fun t => t.rel.ckpt.st == 5 && readByte t.mem 0x10000 == 7) = true ∧
    after (exec .powerLoss (checkpointing 5 false none [(0, image1)] 3)) (fun t => t.rel.ckpt.slots == [(0, image1)] && t.rel.ckpt.gen == 3 && t.agents == [] && !t.env.powered) = true := by decide +kernel
theorem witness_CheckpointEvents :
    (let s := checkpointing 1 false none [] 0; s.rel.wave = none ∧ s.rel.ckpt.bad = false ∧ s.rel.ckpt.st = 1 ∧ (List.range 64).all (isQuiet s) = true) ∧
    (let s := checkpointing 2 false none [] 0; s.rel.ckpt.st = 2 ∧ allStopped s = true ∧ allDrained s = true ∧ allTiles s ≠ []) ∧
    (checkpointing 4 false (some image1) [] 2).rel.ckpt.staged = some image1 ∧
    (let k := (checkpointing 6 false none [] 0).rel.ckpt; k.st = 6 ∧ mget? k.slots k.slot.toNat = none) ∧
    (let k := (checkpointing 6 false none [(0, image1)] 3).rel.ckpt; mget? k.slots k.slot.toNat = some image1 ∧ image1.good = true ∧ k.gen ≠ 0) := by decide +kernel

/-- Bring-up in a stage. -/
def booting (f : Boot → Boot) : State := { State.reset with boot := f State.reset.boot }
theorem test_boot :
    after (exec .powerGood State.reset) (fun t => t.boot.stage == 7 && t.boot.code == 2) = true ∧
    after (exec (.selfTestOverrun 1) (booting (fun b => { b with stage := 3 }))) (fun t => fieldDead t 1 && !fieldDead t 0 && t.boot.code == 5) = true ∧
    after (exec .calibrationComplete (booting (fun b => { b with stage := 4, pilot := true, lasers := 0xFF }))) (fun t => t.boot.calibrated && t.boot.switch == some false) = true ∧
    after (exec .calibrationOverrun (booting (fun b => { b with stage := 4 }))) (fun t => t.boot.code == 6) = true ∧
    after (exec .serviceSwitch (booting (fun b => { b with switch := some false }))) (fun t => t.rel.wave.any (·.switch)) = true ∧
    after (exec (.laserUnitLoss 3) (booting (fun b => { b with stage := 6, pilot := false, lasers := 0xFF }))) (fun t => t.boot.lasers == 0xF7 && t.boot.switch == none && t.boot.code == 7) = true ∧
    after (exec (.laserUnitLoss 3) (booting (fun b => { b with stage := 6, pilot := false, lasers := 0xEF }))) (fun t => t.boot.switch == some true) = true := by decide +kernel
theorem test_switch : after (exec .serviceSwitch (let s := waving' 1 true; { s with boot := { s.boot with switch := some false } })) (fun t => t.boot.stage == 6 && !t.boot.pilot && t.boot.switch == none && t.rel.wave == none) = true := by decide +kernel
theorem witness_BootEvents :
    (State.reset.boot.stage = 0 ∧ loadImage ({ booting (fun b => { b with m0 := b.fuses.romHash }) with env := { State.reset.env with powered := true } } : State) 1 = none) ∧
    (booting (fun b => { b with stage := 3 })).boot.stage = 3 ∧
    (let s := booting (fun b => { b with stage := 4, pilot := true, lasers := 0xFF })
     s.boot.stage = 4 ∧ s.boot.calibrated = false ∧ s.boot.pilot = true ∧ (List.range 8).all (columnLit s.boot.lasers) = true) ∧
    (let s := booting (fun b => { b with switch := some false }); s.boot.switch = some false ∧ s.rel.wave = none ∧ ¬ (1 ≤ s.rel.ckpt.st.toNat ∧ s.rel.ckpt.st.toNat ≤ 4)) ∧
    (let s := waving' 1 true; s.rel.wave = some ⟨0, 1, 1, [], [], [], [], true⟩ ∧ allStopped s = true ∧ allDrained s = true) ∧
    ((0xEF : BitVec 8).getLsbD 3 = true ∧ columnLit ((0xEF : BitVec 8) &&& ~~~((1 : BitVec 8) <<< 3)) 3 = false ∧ (List.range 8).all (columnLit ((0xFF : BitVec 8) &&& ~~~((1 : BitVec 8) <<< 3))) = true) := by
  decide +kernel

/-- The header of a patch of one byte, with a signature of zeros; and the patch in a slot of the flash, under the vendor key that the fuses name. -/
def patchHeader : List Byte := wordsOf [0x1_494D4147, 1] ++ (hashBytes (Config.sha3 [5]) ++ List.replicate 3344 0)
def patched (b : Bool) : State :=
  let s := booting (fun x => { x with fuses := { x.fuses with keyHash := Config.sha3 Config.vendorKey } })
  setMem s (writeBytes s.mem (keyFlash (flashSlot 1 b) 0) (patchHeader ++ [5]))
theorem length_patchHeader : patchHeader.length = bootHeader := by
  simp only [patchHeader, hashBytes, List.length_append, length_natBytes, List.length_replicate, show (wordsOf [0x1_494D4147, 1]).length = 16 from rfl, bootHeader]
theorem split_read (m : Memory) (k n : Nat) (h : List Byte) (b : Byte) (l : h.length = n) : readBytes (writeBytes m k (h ++ [b])) k n = h ∧ readBytes (writeBytes m k (h ++ [b])) (k + n) 1 = [b] := by
  have e := readBytes_writeBytes m k (h ++ [b])
  rw [List.length_append, l, List.length_singleton, readBytes_add] at e
  exact List.append_inj e (by rw [length_readBytes, l])
theorem keyFlash_add (k n : Nat) : keyFlash k n = keyFlash k 0 + n := by unfold keyFlash; omega
theorem patch_read (b : Bool) : readBytes (patched b).mem (keyFlash (flashSlot 1 b) 0) bootHeader = patchHeader ∧ readBytes (patched b).mem (keyFlash (flashSlot 1 b) bootHeader) 1 = [5] := by
  rw [keyFlash_add _ bootHeader]
  exact split_read _ _ _ _ _ length_patchHeader
theorem patch_slotA : readImage (patched true) 1 false = none := by
  have z : readBytes (patched true).mem (keyFlash (flashSlot 1 false) 0) bootHeader = readBytes State.reset.mem (keyFlash (flashSlot 1 false) 0) bootHeader :=
    readBytes_congr (fun j h1 h2 => readByte_writeBytes_other _ _ _ (by simp only [keyFlash, flashSlot, bootHeader] at *; simp at *; omega))
  have m : leNat (((readBytes State.reset.mem (keyFlash (flashSlot 1 false) 0) bootHeader).drop 0).take 4) ≠ 0x494D4147 := by
    rw [show bootHeader = 4 + 3388 from rfl, readBytes_add, List.drop_zero, List.take_left' (length_readBytes ..)]
    decide
  simp only [readImage, z]
  rw [if_neg (fun h => m h.1)]
/-- A signature that verifies makes the patch the one that is loaded, from either slot. -/
theorem witness_BootEvents_patch (h : Config.mldsaVerify Config.vendorKey (patchHeader.take 0x30) ((patchHeader.drop 0x30).take sigBytes) = true) :
    loadImage (patched false) 1 = some (⟨0, false, patchHeader ++ [5]⟩, false) ∧ loadImage (patched true) 1 = some (⟨0, false, patchHeader ++ [5]⟩, true) := by
  have f : ∀ o n, o + n ≤ 16 → (patchHeader.drop o).take n = ((wordsOf [0x1_494D4147, 1]).drop o).take n := by
    intro o n l
    have : patchHeader.take 16 = wordsOf [0x1_494D4147, 1] := List.take_left' rfl
    rw [← this, List.drop_take, List.take_take, Nat.min_eq_left (by omega)]
  have d16 : patchHeader.drop 0x10 = hashBytes (Config.sha3 [5]) ++ List.replicate 3344 0 := List.drop_left' rfl
  have hh : (patchHeader.drop 0x10).take 32 = hashBytes (Config.sha3 [5]) := by rw [d16]; exact List.take_left' (length_natBytes ..)
  have dz : (patchHeader.drop 0xD1D).all (· == 0) = true := by
    rw [show 0xD1D = 16 + (32 + 3309) from rfl, ← List.drop_drop, d16, ← List.drop_drop, List.drop_left' (show (hashBytes (Config.sha3 [5])).length = 32 from length_natBytes ..), List.drop_replicate]
    decide
  have read : ∀ b, readImage (patched b) 1 b = some ⟨0, false, patchHeader ++ [5]⟩ := by
    intro b
    obtain ⟨r0, r1⟩ := patch_read b
    have sv : (patched b).boot.fuses.svn = 0 := rfl
    have kh : (patched b).boot.fuses.keyHash = Config.sha3 Config.vendorKey := rfl
    have len : leNat ((patchHeader.drop 8).take 4) = 1 := by rw [f 8 4 (by omega)]; decide
    simp only [readImage, r0, r1, len, f 0 4 (by omega), f 4 2 (by omega), f 7 1 (by omega), f 0xC 4 (by omega), f 6 1 (by omega), hh, dz, sv, kh, h]
    rw [if_pos (by decide)]
    rfl
  exact ⟨by rw [loadImage, read], by rw [loadImage, patch_slotA, read]; rfl⟩

/-- Frames and invariants. -/
theorem witness_RegisterFrame :
    wellFormed (.add g0 3 1 2 0 0) = true ∧ frameOf (.add g0 3 1 2 0 0) = some ([1, 2], some 3, none, false) ∧ (cur ints).sys.tdepth = 0 ∧
    inEpilogue ints ints.env.agent ints.env.strand = false ∧ ints.net.walks = [] ∧ after (exec (.add g0 3 1 2 0 0) ints) (fun _ => true) = true := by decide +kernel
theorem witness_MemoryStaysCanonical : memInv State.reset ∧ after (step State.reset) (fun _ => true) = true :=
  ⟨⟨by decide, ⟨fun _ h => (List.not_mem_nil h).elim, fun i h => nomatch (show (none : Option Image) = some i from h)⟩⟩, by decide +kernel⟩

/-- An epilogue runs, with n bytes held. -/
def epilogueOf (n : Nat) : State :=
  let s := modCur (chained 4 (chain0 (some (invOf false true)))) (fun t => { t with st := .ready })
  regs [(1, 0x100), (4, 0x1122334455667788)] (modAgent s 0 (fun x => { x with rx := { x.rx with held := List.replicate n (keyLs 0 0x700, 0x5A) } }))
theorem length_held (n : Nat) : (curAgent (epilogueOf n)).rx.held.length = n := List.length_replicate ..
theorem holdingReady (n : Nat) :
    executes (cur (epilogueOf n)) g0 = true ∧ addressOf m1 (epilogueOf n) 0x100 (epilogueOf n) ∧ readReg 4 (epilogueOf n) = .ok (0x1122334455667788, epilogueOf n) ∧
      localKey (epilogueOf n) 0x100 = some (keyLs 0 0x100) ∧ Spec.released false ⟨0, 0⟩ (epilogueOf n) ∧ sbarDone (epilogueOf n) = true ∧
      inEpilogue (epilogueOf n) (epilogueOf n).env.agent (epilogueOf n).env.strand = true :=
  ⟨rfl, ⟨0x100, 0, _, rfl, ⟨rfl, rfl⟩, by decide⟩, rfl, rfl, fun h => Bool.noConfusion h, rfl, rfl⟩
theorem witness_StoreResult_held :
    (curAgent (epilogueOf 1)).rx.held.length + 8 ≤ 80 * 1024 ∧ 80 * 1024 < (curAgent (epilogueOf 81920)).rx.held.length + 8 ∧
    after (exec (.st g0 4 3 ⟨0, 0⟩ m1) (epilogueOf 1)) (fun t => (curAgent t).rx.held.length == 9 && t.mem == (epilogueOf 1).mem) = true := by
  rw [length_held, length_held]
  decide +kernel

end Sys2Proof.Tests
end

section
/-!
O6. The guard and the MAJ of an encoded word, and every word outside the vector column under a guard that does not let it execute (01 R27, 04 R103).
-/

namespace Sys2Proof

open Sys2Proof.Machine Sys2Proof.Spec

/-! ### The guard of an encoded word (03 R79, R80) -/

/-- MAJ, PG and PN are the top twelve bits of a word. -/
theorem guardOf_of_head {w : Word} {m : BitVec 8} {g : Guard} (h : w.extractLsb' 52 12 = m ++ g.pg ++ g.pn) : guardOf w = g := by
  have hpg : fld w 53 3 = (m ++ g.pg ++ g.pn).extractLsb' 1 3 := by
    rw [← h]; ext i hi; simp [show 1 + i < 12 by omega, ← Nat.add_assoc]
  have hpn : fld w 52 1 = (m ++ g.pg ++ g.pn).extractLsb' 0 1 := by
    rw [← h]; ext i hi; simp [show i < 12 by omega]
  rw [guardOf, hpg, hpn, BitVec.extractLsb'_append_eq_of_le (by decide), BitVec.extractLsb'_append_eq_of_add_le (by decide),
    BitVec.extractLsb'_append_eq_of_add_le (by decide), BitVec.extractLsb'_eq_self, BitVec.extractLsb'_eq_self]

/-- What stands below the top twelve bits does not show in them. -/
theorem head_append {n k lo : Nat} {x : BitVec n} {y : BitVec k} {z : BitVec 12} (h : x.extractLsb' lo 12 = z) : (x ++ y).extractLsb' (lo + k) 12 = z := by
  rw [BitVec.extractLsb'_append_eq_of_le (by omega), Nat.add_sub_cancel, h]

@[simp] theorem guardOf_encRRR (m fn g d a b c o) : guardOf (encRRR m fn g d a b c o) = g :=
  guardOf_of_head (m := m) (head_append <| head_append <| head_append <| head_append <| head_append <| head_append BitVec.extractLsb'_eq_self)

@[simp] theorem guardOf_encRRI (m fn g d a i) : guardOf (encRRI m fn g d a i) = g :=
  guardOf_of_head (m := m) (head_append <| head_append <| head_append <| head_append BitVec.extractLsb'_eq_self)

@[simp] theorem guardOf_encMEM (m fn g t b i s z o d) : guardOf (encMEM m fn g t b i s z o d) = g :=
  guardOf_of_head (m := m) (head_append <| head_append <| head_append <| head_append <| head_append <| head_append <| head_append <| head_append <| head_append
    BitVec.extractLsb'_eq_self)

@[simp] theorem guardOf_encENG (m fn g a b c i) : guardOf (encENG m fn g a b c i) = g :=
  guardOf_of_head (m := m) (head_append <| head_append <| head_append <| head_append <| head_append BitVec.extractLsb'_eq_self)

@[simp] theorem guardOf_encBR (fn g c a b o) : guardOf (encBR fn g c a b o) = g :=
  guardOf_of_head (m := 0x50) (head_append <| head_append <| head_append <| head_append <| head_append BitVec.extractLsb'_eq_self)

/-! ### MAJ as a number -/

theorem majOf_eq_fld (w : Word) : majOf w = (fld w 56 8).toNat := by
  have := w.isLt
  rw [majOf, BitVec.extractLsb'_toNat, Nat.shiftRight_eq_div_pow]
  omega

theorem majOf_encVEC (m fn g d a b c et rm sat sk gr o) : majOf (encVEC m fn g d a b c et rm sat sk gr o) = m.toNat := by rw [majOf_eq_fld, maj_vec]
theorem majOf_encMEM (m fn g t b i s z o d) : majOf (encMEM m fn g t b i s z o d) = m.toNat := by rw [majOf_eq_fld, maj_mem]

end Sys2Proof

namespace Sys2Proof.Machine

open Sys2Proof.Spec

/-! ### Skipped instructions (01 R27, 04 R103) -/

/-- A scalar instruction whose guard does not let it execute only moves the PC. -/
theorem runWord_scalar_skip {s : State} {g : Guard} {w : Word} (hw : guardOf w = g) (h : executes (cur s) (guardOf w) = false) (ds : List Reg) (x : Exec Ctl) :
    runWord s (scalar g ds x) = .next (retire s .next) := runWord_ok (scalar_skip (hw ▸ h) ds x)

/-- An engine, network or domain instruction whose guard does not let it execute only moves the PC, and raises no posted fault. -/
theorem runWord_engine_skip {s : State} {g : Guard} {w : Word} (hw : guardOf w = g) (h : executes (cur s) (guardOf w) = false) (cls : Nat) (ds : List Reg)
    (x : Exec Ctl) : runWord s (engine g cls ds x) = .next (retire s .next) := runWord_ok (engine_skip (hw ▸ h) cls ds x)

/-- Settles O6: every word but those of the vector column is a scalar or an engine instruction under the guard that its encoding holds. -/
theorem guardSkips : Obligations.GuardSkips := by
  intro i s hw hv he
  cases i with
  | add | sub | mul | mulh | div | rem | and | or | xor | andn | shl | shr | sar | rot | min | max | clz | ctz | popc | bswap | ext | bfx | bfi | sel
  | mov | cmp | lea | fadd | fsub | fmul | ffma | fdiv | fsqrt | fmin | fmax | fcmp | fcvt | fclass | pset | plim | pmin | pmax | prd =>
    exact runWord_scalar_skip (guardOf_encRRR ..) he _ _
  | addImm | subImm | mulImm | mulhImm | divImm | remImm | andImm | orImm | xorImm | andnImm | shlImm | shrImm | sarImm | rotImm | minImm | maxImm
  | cmpImm | leaImm | movi | movhi | grd | gwr | exit | yield | nop | trap | brk | mfs | mts | topo | syscall | tqpush | tret | tqpop | tqdone | tqcancel
  | tqresume | place | cxnew | cxkill | cxreclaim | cxsave | cxload | preempt | tlbinv | nameinv | halt | cfgw | cfgr | gtabw | ttabw =>
    exact runWord_scalar_skip (guardOf_encRRI ..) he _ _
  | ld | st | ldp | stp | amoadd | amomin | amomax | amoand | amoor | amoxor | amoswp | amocas | amofadd | fence | sbar =>
    exact runWord_scalar_skip (guardOf_encMEM ..) he _ _
  | br | bc | bp | call | ret | jmpr | loop => exact runWord_scalar_skip (guardOf_encBR ..) he _ _
  | mxcfg | mxzero | mxldw | mxpass | mxarm | mxdisarm | mxdrain | mxramp | mxwait | mxpert | mxstat | cpy | cpy2d | cpyg | cpys | cpyf | cpym | cpstat
  | cpwait | ctcfg | wopen | wadv | wsync | wclose | binit | bexp | barv | bwait | btest | rdopen | rdcs | rdcb | rdres | dsync | darv | dwait | spawn
  | swait => exact runWord_engine_skip (guardOf_encENG ..) he _ _ _
  | qbind | qstat | snd | sndv | inj | injc | wbhdr | wbpop | wbrel | wdrive | wdstop => exact runWord_scalar_skip (guardOf_encENG ..) he _ _
  | vadd | vsub | vmul | vfma | vfms | vmin | vmax | vabs | vneg | vclamp | vexp2 | vlog2 | vrcp | vrsq | vtanh | verf | vand | vor | vxor | vnot | vshl
  | vshr | vsar | vmulh | vcmp | vsel | vcvt | vmov | vbcast | vext | vins | viota | vcond | vshup | vshdn | vrot | vscan | vred | vmaxi | vperm | vpack
  | vunpk | vscale | vqnt => exact absurd (majOf_encVEC .. ▸ hv) (by decide)
  | vld | vst | vldff | vlds | vsts | vldb | vgath | vscat => exact absurd (majOf_encMEM .. ▸ hv) (by decide)
  | _ => exact Bool.noConfusion hw

end Sys2Proof.Machine
end

section
/-!
O5. General registers and queue ports as operands: what a read of a port answers, and what a pop leaves at its endpoint (01 R21 to R25; 03 R87).
-/

namespace Sys2Proof.Machine

open Sys2Proof.Spec

/-! ### Reading a port (01 R24, R25) -/

theorem readReg_port {r : Reg} (h : ¬ isG r) : readReg r = popPort (r.toNat - 56) := if_neg h

/-- A port that is no source traps with its number, and says whether it is a sink. -/
theorem popPort_unbound {n : Nat} {s : State} (h : isSource (bindingOf (cur s) n).kind.toNat = false) :
    popPort n s = .error (.trap ⟨cQUEUE, none, BitVec.ofNat 64 (2 * n + if (bindingOf (cur s) n).kind = 0 then 0 else 1), none, 0, id, false⟩) := by
  have hinfo : n * 2 + (if ((bindingOf (cur s) n).kind != 0) = true then 1 else 0) = 2 * n + if (bindingOf (cur s) n).kind = 0 then 0 else 1 := by
    by_cases hk : (bindingOf (cur s) n).kind = 0 <;> simp [hk, Nat.mul_comm]
  rw [← hinfo]
  simp only [popPort, getS_bind, h]
  exact run_bind_error rfl _

/-- A source with nothing ready waits. -/
theorem popPort_empty {n : Nat} {s : State} (h : isSource (bindingOf (cur s) n).kind.toNat = true)
    (he : endpoint (curAgent s) s.env.strand (bindingOf (cur s) n) = []) : popPort n s = .error (.wait .operand id) := by
  simp [popPort, h, he]

/-- A pop of an element that acquires nothing answers it and takes it from its endpoint. -/
theorem popPort_plain {n : Nat} {s : State} {e : QElem} {l : List QElem} (h : isSource (bindingOf (cur s) n).kind.toNat = true)
    (he : endpoint (curAgent s) s.env.strand (bindingOf (cur s) n) = e :: l) (ha : e.acq = none) :
    popPort n s = .ok (e.val, modCurAgent s (fun x => dropFirst x s.env.strand (bindingOf (cur s) n))) := by
  simp [popPort, h, he, ha]

/-! ### What a pop leaves (07 R206, R216, R226) -/

@[simp] theorem strandOf_mput_same (x : Agent) (k : Nat) (t : Strand) : strandOf { x with strands := mput x.strands k t } k = t := mget_mput_same ..
@[simp] theorem chanOf_mput_same (x : Agent) (c : Nat) (v : Channel) :
    chanOf { x with ni := { x.ni with chans := mput x.ni.chans c v } } c = v := mget_mput_same ..

/-- The kinds of a source (R23). -/
theorem isSource_kind {k : BitVec 4} (h : isSource k.toNat = true) : k = 1 ∨ k = 3 ∨ k = 5 ∨ k = 6 ∨ k = 7 ∨ k = 8 := by
  revert h k; decide

/-- With no element that waits for room, the weight-header queue settles as it is. -/
theorem settleHeaders_idle {x : Agent} (h : headerReady x = none) (n : Nat) : settleHeaders n x = x := by
  cases n with
  | zero => rfl
  | succ n => simp [settleHeaders, h]

theorem headerReady_none {x : Agent} (h : ∀ p ∈ x.rx.slots, p.2.due = none) : headerReady x = none := by
  rw [headerReady, List.findSome?_eq_none_iff]
  intro p hp
  simp [h p hp]

/-- Elements of a released phase enter the channel behind those that stay, as far as there is room; any other endpoint but the weight-header queue only loses its first
element. -/
theorem endpoint_dropFirst {x : Agent} {k : Nat} {b : Binding} {e : QElem} {l : List QElem} (hs : isSource b.kind.toNat = true) (h : endpoint x k b = e :: l)
    (h7 : b.kind ≠ 7) :
    endpoint (dropFirst x k b) k b = l ++ (if b.kind = 1 then (chanOf x b.target.toNat).due.take (512 - l.length) else []) := by
  obtain ⟨kind, target⟩ := b
  rcases isSource_kind hs with rfl | rfl | rfl | rfl | rfl | rfl
  · have hq : (chanOf x target.toNat).q = e :: l := h
    simp [endpoint, dropFirst, admitDue, chanCap, hq]
  · have hq : mget [] x.ni.rqs target.toNat = e :: l := h
    simp [endpoint, dropFirst, mmod, hq]
  · have hq : (strandOf x k).eng.ccq = e :: l := h
    simp [endpoint, dropFirst, hq]
  · have hq : (strandOf x k).eng.mcq = e :: l := h
    simp [endpoint, dropFirst, hq]
  · exact absurd rfl h7
  · have hq : (strandOf x k).eng.ceq = e :: l := h
    simp [endpoint, dropFirst, hq]

/-- The weight-header queue loses its first element; none that waits for room enters it. -/
theorem endpoint_dropFirst_header {x : Agent} {k : Nat} {b : Binding} {e : QElem} {l : List QElem} (h : endpoint x k b = e :: l) (h7 : b.kind = 7)
    (hd : ∀ q ∈ x.rx.slots, q.2.due = none) : endpoint (dropFirst x k b) k b = l := by
  obtain ⟨kind, target⟩ := b
  subst h7
  have hq : x.ni.whq.map (fun w => (⟨w, none⟩ : QElem)) = e :: l := h
  have hsettle : settleHeaders 8 { x with ni := { x.ni with whq := x.ni.whq.tail } } = { x with ni := { x.ni with whq := x.ni.whq.tail } } := by
    apply settleHeaders_idle
    exact headerReady_none hd
  have hdrop : endpoint (dropFirst x k ⟨7, target⟩) k ⟨7, target⟩ = x.ni.whq.tail.map (fun w => ⟨w, none⟩) :=
    congrArg (fun y => y.ni.whq.map (fun w => (⟨w, none⟩ : QElem))) hsettle
  rw [hdrop, List.map_tail, hq, List.tail_cons]

/-- Settles O5: a general register is an entry of the pool, and a port a binding whose endpoint is popped. -/
theorem operandAccess : Obligations.OperandAccess := by
  intro r v s
  refine ⟨fun hr => ⟨readReg_g hr s, checkDst_g hr s, writeReg_g hr v s, ?_, fun f hf => ?_⟩, fun hr => ?_⟩
  · rw [curReg_setCurReg, if_pos rfl]
  · rw [curReg_setCurReg, if_neg hf]
  · rw [readReg_port hr]
    refine ⟨fun hs => popPort_unbound (Bool.eq_false_iff.mpr hs), fun hs he => popPort_empty hs he, fun e l hs he ha => ⟨_, popPort_plain hs he ha, fun h7 => ?_, fun h7 hd => ?_⟩⟩
    · rw [curAgent_modCurAgent]
      exact endpoint_dropFirst hs he h7
    · rw [curAgent_modCurAgent]
      exact endpoint_dropFirst_header he h7 hd

end Sys2Proof.Machine
end

section
/-!
O11. A step whose next issue is a given strand runs that strand's instruction (01 R17, R18, R24; 03 R90).
-/

namespace Sys2Proof.Machine

open Sys2Proof.Spec

/-- A strand runs the instruction of the word it waits in or fetches. -/
theorem runStrand_has {s u : State} {w : Word} {i : Instr} (h : has s w i u) : runStrand s = exec i u := by
  obtain ⟨⟨hw, rfl⟩ | ⟨hw, v, hf, rfl⟩, hd⟩ := h
  · rw [runStrand_latched hw, execWord_ok hd]
  · rw [runStrand_fetch hw hf, execWord_ok hd]

/-- An instruction that issues is the core's step; one that could only wait runs again without the issue. -/
theorem issue_next {s t : State} {a k : Nat} (hk : issueChoice s a = some k) (h : runAt (noteIssue s a k) a k = .next t) :
    issue s a = if stalled t a k then runAt s a k else .next t := by
  simp only [issue, hk, h]

/-- Settles O11. -/
theorem stepRunsDecoded : Obligations.StepRunsDecoded := by
  intro s a k w u i hp hc hk runs hi t ht
  have hstep : step s = if stalled t a k then runAt (tick s) a k else .next t :=
    (step_run hp hc).trans (issue_next hk ((runStrand_has hi).trans ht))
  refine ⟨fun h => by rw [hstep, h]; rfl, fun h w' i' u' hi' => ?_⟩
  rw [hstep, if_pos h]
  exact runStrand_has hi'

end Sys2Proof.Machine
end

section
/-!
O24. Elements of a vector register: what an element reads as after a write to the same and to another one, and which elements a guard makes active
(01 R28, R29; 05 R135).
-/

namespace Sys2Proof.Machine

/-! ### Elements bit by bit -/

theorem elemOf_eq {w : Nat} (hw : 8 ∣ w) (x : Line) (e : Nat) : elemOf w x e = x.toNat / 2 ^ (w * e) % 2 ^ w := by
  rw [elemOf, lineNat, ← Nat.mul_assoc, Nat.mul_div_cancel' hw]

theorem testBit_elemOf {w : Nat} (hw : 8 ∣ w) (x : Line) (e i : Nat) : (elemOf w x e).testBit i = (decide (i < w) && x.getLsbD (w * e + i)) := by
  rw [elemOf_eq hw, Nat.testBit_mod_two_pow, Nat.testBit_div_two_pow, BitVec.testBit_toNat, Nat.add_comm]

/-- Bit i of a line after element e is replaced by v. -/
theorem getLsbD_putElem {w : Nat} (hw : 8 ∣ w) (x : Line) (e v : Nat) {i : Nat} (hi : i < 512) :
    (putElem w x e v).getLsbD i = if w * e ≤ i ∧ i < w * e + w then v.testBit (i - w * e) else x.getLsbD i := by
  rw [putElem, lineSet, ← Nat.mul_assoc, Nat.mul_div_cancel' hw]
  simp only [BitVec.getLsbD_or, BitVec.getLsbD_and, BitVec.getLsbD_not, BitVec.getLsbD_ofNat, hi, Nat.testBit_mul_two_pow, Nat.testBit_two_pow_sub_one,
    Nat.testBit_mod_two_pow]
  by_cases h1 : w * e ≤ i
  · by_cases h2 : i < w * e + w
    · simp [h1, h2, show i - w * e < w by omega]
    · simp [h1, h2, show ¬ i - w * e < w by omega]
  · simp [h1]

/-- An element reads as the low bits of what was put there. -/
theorem elemOf_putElem_same {w : Nat} (hw : 8 ∣ w) (x : Line) {e : Nat} (v : Nat) (he : w * e + w ≤ 512) : elemOf w (putElem w x e v) e = v % 2 ^ w := by
  apply Nat.eq_of_testBit_eq
  intro i
  rw [testBit_elemOf hw, Nat.testBit_mod_two_pow]
  by_cases hi : i < w
  · rw [getLsbD_putElem hw x e v (by omega), if_pos (by omega), Nat.add_sub_cancel_left]
  · simp [hi]

/-- Two different elements share no bit. -/
theorem elements_disjoint {w e j i : Nat} (h : j ≠ e) (hi : i < w) : ¬ (w * e ≤ w * j + i ∧ w * j + i < w * e + w) := by
  rintro ⟨h1, h2⟩
  rcases Nat.lt_or_gt_of_ne h with hl | hg
  · have := Nat.mul_le_mul_left w (Nat.succ_le_of_lt hl); rw [Nat.mul_succ] at this; omega
  · have := Nat.mul_le_mul_left w (Nat.succ_le_of_lt hg); rw [Nat.mul_succ] at this; omega

/-- Every other element keeps its value, whatever e is. -/
theorem elemOf_putElem_other {w : Nat} (hw : 8 ∣ w) (x : Line) {e j : Nat} (v : Nat) (h : j ≠ e) : elemOf w (putElem w x e v) j = elemOf w x j := by
  apply Nat.eq_of_testBit_eq
  intro i
  rw [testBit_elemOf hw, testBit_elemOf hw]
  by_cases hi : i < w
  · by_cases hb : w * j + i < 512
    · rw [getLsbD_putElem hw x e v hb, if_neg (elements_disjoint h hi)]
    · rw [BitVec.getLsbD_of_ge _ _ (Nat.le_of_not_lt hb), BitVec.getLsbD_of_ge _ _ (Nat.le_of_not_lt hb)]
  · simp [hi]

/-- An element that no write names keeps its value. -/
theorem elemOf_putElems_other {w : Nat} (hw : 8 ∣ w) (x : Line) (rs : List (Nat × Nat)) {e : Nat} (h : e ∉ rs.map Prod.fst) :
    elemOf w (putElems w x rs) e = elemOf w x e := by
  induction rs generalizing x with
  | nil => rfl
  | cons r rs ih =>
    rw [List.map_cons, List.mem_cons, not_or] at h
    obtain ⟨hr, hrs⟩ := h
    exact (ih (putElem w x r.1 r.2) hrs).trans (elemOf_putElem_other hw x r.2 hr)

/-! ### Active elements -/

/-- The elements below the count of the predicate are active, or with PN the others. -/
theorem mem_actives {t : Strand} {g : Guard} {n e : Nat} :
    e ∈ actives t g n ↔ e < n ∧ (if g.pn = 0 then e < predOf t g.pg else min (predOf t g.pg) n ≤ e) := by
  simp only [actives, List.mem_filter, List.mem_range, activeAt]
  refine and_congr_right fun he => ?_
  split
  · simp [he]
  · simp [he]

/-- Settles O24: an element is w bits of the line, and a write to one shares no bit with another. -/
theorem vectorElements : Obligations.VectorElements := by
  intro w hw
  have h8 : 8 ∣ w := by rcases hw with rfl | rfl | rfl <;> decide
  refine ⟨elemOf_eq h8, fun x e v he => ⟨elemOf_putElem_same h8 x v ?_, fun j hj => elemOf_putElem_other h8 x v hj⟩,
    fun x rs e he => elemOf_putElems_other h8 x rs he, fun t g n e => mem_actives⟩
  rcases hw with rfl | rfl | rfl <;> omega

end Sys2Proof.Machine
end

section
/-!
O7 and O8. The bits of a word: which value stands at which bit of it, which of its bits fields name, and both for the formats of 03 R80.
-/

namespace Sys2Proof

/-! ### Values in a word -/

/-- x stands in the word at bit lo. -/
def At (w : Word) (lo : Nat) {n : Nat} (x : BitVec n) : Prop := fld w lo n = x

theorem at_iff {w : Word} {lo n : Nat} {x : BitVec n} : At w lo x ↔ fld w lo n = x := Iff.rfl

theorem at_zero_iff {w v : Word} : At w 0 v ↔ w = v := by rw [At, fld, BitVec.extractLsb'_eq_self]

/-- A value in two parts stands where both parts do. -/
theorem at_append {w : Word} {lo n k : Nat} {x : BitVec n} {y : BitVec k} : At w lo (x ++ y) ↔ At w (lo + k) x ∧ At w lo y := by
  have hcut : fld w lo (n + k) = fld w (lo + k) n ++ fld w lo k := (BitVec.extractLsb'_append_extractLsb'_eq_extractLsb' rfl).symm
  unfold At
  rw [hcut]
  constructor
  · intro h
    have hx := congrArg (BitVec.extractLsb' k n) h
    have hy := congrArg (BitVec.extractLsb' 0 k) h
    simpa [BitVec.extractLsb'_append_eq_of_le, BitVec.extractLsb'_append_eq_of_add_le, BitVec.extractLsb'_eq_self] using And.intro hx hy
  · rintro ⟨rfl, rfl⟩
    rfl

/-- The upper bits of a small field are 0. -/
theorem fld_lt_iff_at {w : Word} {lo n k : Nat} : (fld w lo (n + k)).toNat < 2 ^ k ↔ At w (lo + k) 0#n := by
  have hcut : fld w lo (n + k) = fld w (lo + k) n ++ fld w lo k := (BitVec.extractLsb'_append_extractLsb'_eq_extractLsb' rfl).symm
  have hk := (fld w lo k).isLt
  rw [hcut, BitVec.toNat_append, Nat.shiftLeft_eq, Nat.mul_comm, ← Nat.two_pow_add_eq_or_of_lt hk, At, ← BitVec.toNat_inj, BitVec.toNat_ofNat, Nat.zero_mod]
  constructor
  · intro h
    by_contra h0
    have := Nat.le_mul_of_pos_right (2 ^ k) (Nat.pos_of_ne_zero h0)
    omega
  · intro h
    rw [h]
    omega

/-- A bit of a field is a field of one bit. -/
theorem getLsbD_fld {w : Word} {lo n i : Nat} (h : i < n) : (fld w lo n).getLsbD i = (fld w (lo + i) 1 == 1#1) := by
  simp only [BitVec.getLsbD_extractLsb', h, decide_true, Bool.true_and, Bool.beq_eq_decide_eq]
  rw [Bool.eq_iff_iff, decide_eq_true_iff, BitVec.eq_of_getLsbD_eq_iff]
  simp

theorem at_ofNat_toNat {w : Word} {lo n : Nat} : At w lo (BitVec.ofNat n (fld w lo n).toNat) := by
  rw [BitVec.ofNat_toNat, BitVec.setWidth_eq, At]

theorem bit_clear_iff_at {w : Word} {lo : Nat} : (fld w lo 1 == 1#1) = false ↔ At w lo 0#1 := by
  obtain h | h := BitVec.eq_zero_or_eq_one (fld w lo 1) <;> simp [at_iff, h]

@[simp] theorem at_fld {w : Word} {lo n : Nat} : At w lo (fld w lo n) := rfl
@[simp] theorem at_pg {w : Word} : At w 53 (guardOf w).pg := rfl
@[simp] theorem at_pn {w : Word} : At w 52 (guardOf w).pn := rfl
@[simp] theorem at_ord {w : Word} : At w 20 (ordOf w).ord := rfl
@[simp] theorem at_scope {w : Word} : At w 18 (ordOf w).scope := rfl
@[simp] theorem at_memBase {w : Word} : At w 34 (memOf w).base := rfl
@[simp] theorem at_memIdx {w : Word} : At w 28 (memOf w).idx := rfl
@[simp] theorem at_memScl {w : Word} : At w 26 (memOf w).scl := rfl
@[simp] theorem at_memDisp {w : Word} : At w 0 (memOf w).disp := rfl
@[simp] theorem at_complBr {w : Word} : At w 22 (complOf w).br := rfl
@[simp] theorem at_complQ {w : Word} : At w 21 (complOf w).q := rfl
@[simp] theorem at_complBar {w : Word} : At w 20 (complOf w).bar := rfl
@[simp] theorem at_complTag {w : Word} : At w 8 (complOf w).tag := rfl
@[simp] theorem at_sendScope {w : Word} : At w 18 (sendOf w).scope := rfl
@[simp] theorem at_sendRel {w : Word} : At w 17 (sendOf w).rel := rfl
@[simp] theorem at_sendLvl {w : Word} : At w 15 (sendOf w).lvl := rfl
@[simp] theorem at_sendBsp {w : Word} : At w 14 (sendOf w).bsp := rfl
@[simp] theorem at_sendCh {w : Word} : At w 10 (sendOf w).ch := rfl
@[simp] theorem at_sendCount {w : Word} : At w 0 (sendOf w).count := rfl

/-! ### Bits that fields name (03 R90, step 5) -/

/-- Bit j belongs to one of the fields. -/
def covered (used : List (Nat × Nat)) (j : Nat) : Bool := used.any (fun u => decide (u.1 ≤ j) && decide (j < u.1 + u.2))

/-- Every bit of x that is set, where x stands at bit lo, belongs to a field or lies at bit top or above. -/
def Within (used : List (Nat × Nat)) (top lo : Nat) {n : Nat} (x : BitVec n) : Prop :=
  ∀ j, x.getLsbD j = true → lo + j < top → covered used (lo + j) = true

theorem within_append {used : List (Nat × Nat)} {top lo n k : Nat} {x : BitVec n} {y : BitVec k} :
    Within used top lo (x ++ y) ↔ Within used top (lo + k) x ∧ Within used top lo y := by
  unfold Within
  simp only [BitVec.getLsbD_append]
  constructor
  · intro h
    refine ⟨fun j hj ht => ?_, fun j hj ht => ?_⟩
    · have hk := h (k + j)
      rw [if_neg (by omega), Nat.add_sub_cancel_left] at hk
      rw [Nat.add_assoc] at ht ⊢
      exact hk hj ht
    · have hk := h j
      rw [if_pos (BitVec.lt_of_getLsbD hj)] at hk
      exact hk hj ht
  · rintro ⟨hx, hy⟩ j hj ht
    split at hj
    · exact hy j hj ht
    · have hk := hx (j - k) hj
      rw [show lo + k + (j - k) = lo + j by omega] at hk
      exact hk ht

@[simp] theorem within_zero {used : List (Nat × Nat)} {top lo n : Nat} : Within used top lo 0#n := fun j hj => by simp at hj

/-- A field names the n bits from bit lo up, or they lie at bit top or above. -/
def named (used : List (Nat × Nat)) (top lo n : Nat) : Bool :=
  decide (top ≤ lo) || used.any (fun u => decide (u.1 ≤ lo) && decide (lo + n ≤ u.1 + u.2))

theorem within_of_named {used : List (Nat × Nat)} {top lo n : Nat} {x : BitVec n} (h : named used top lo n = true) : Within used top lo x := by
  intro j hj ht
  have hn := BitVec.lt_of_getLsbD hj
  simp only [named, covered, Bool.or_eq_true, List.any_eq_true, Bool.and_eq_true, decide_eq_true_eq] at h ⊢
  obtain h | ⟨u, hu, hlo, hhi⟩ := h
  · omega
  · exact ⟨u, hu, by omega, by omega⟩

/-- No field reaches into the n bits from bit lo up, and they lie below bit top. -/
def unnamed (used : List (Nat × Nat)) (top lo n : Nat) : Bool :=
  decide (lo + n ≤ top) && used.all (fun u => decide (u.1 + u.2 ≤ lo) || decide (lo + n ≤ u.1))

theorem fld_zero_of_unnamed {used : List (Nat × Nat)} {top lo n : Nat} {w : Word} (hw : Within used top 0 w) (h : unnamed used top lo n = true) :
    fld w lo n = 0#n := by
  simp only [unnamed, Bool.and_eq_true, decide_eq_true_eq, List.all_eq_true, Bool.or_eq_true] at h
  obtain ⟨htop, hu⟩ := h
  apply BitVec.eq_of_getLsbD_eq
  intro i hi
  simp only [BitVec.getLsbD_extractLsb', hi, decide_true, Bool.true_and, BitVec.getLsbD_zero]
  rw [← Bool.not_eq_true]
  intro hbit
  have hc := hw (lo + i) hbit (by omega)
  simp only [covered, Nat.zero_add, List.any_eq_true, Bool.and_eq_true, decide_eq_true_eq] at hc
  obtain ⟨u, hm, h1, h2⟩ := hc
  have := hu u hm
  omega

theorem testBit_maskOf (u : Nat × Nat) (j : Nat) : (maskOf u).testBit j = (decide (u.1 ≤ j) && decide (j < u.1 + u.2)) := by
  rw [maskOf, Nat.testBit_shiftLeft, Nat.testBit_two_pow_sub_one]
  by_cases h : u.1 ≤ j
  · simp only [h, decide_true, Bool.true_and, decide_eq_decide]; omega
  · simp [h]

theorem testBit_foldl_maskOf (used : List (Nat × Nat)) (m j : Nat) :
    ((used.map maskOf).foldl (· ||| ·) m).testBit j = (m.testBit j || covered used j) := by
  induction used generalizing m with
  | nil => simp [covered]
  | cons u t ih => rw [List.map_cons, List.foldl_cons, ih, Nat.testBit_or, testBit_maskOf, Bool.or_assoc]; rfl

/-- No stray bit: every bit below FN that is set belongs to a field. -/
theorem strayBits_eq_zero_iff {f : Format} {r : Row} {w : Word} : strayBits f r w = 0 ↔ Within r.used (fnLow f) 0 w := by
  have hbit : ∀ j, (strayBits f r w).testBit j = (decide (j < fnLow f) && w.getLsbD j && !covered r.used j) := by
    intro j
    rw [strayBits, Nat.testBit_and, Nat.testBit_mod_two_pow, Nat.testBit_xor, testBit_foldl_maskOf, Nat.testBit_two_pow_sub_one, Nat.zero_testBit,
      Bool.false_or, BitVec.testBit_toNat]
    by_cases hj : j < 64
    · simp [hj]
    · simp [BitVec.getLsbD_of_ge w j (by omega)]
  constructor
  · intro h j hj ht
    rw [Nat.zero_add] at ht ⊢
    simpa [h, hj, ht] using hbit j
  · intro h
    apply Nat.eq_of_testBit_eq
    intro j
    rw [hbit, Nat.zero_testBit, ← Bool.not_eq_true]
    simp only [Bool.and_eq_true, decide_eq_true_eq, Bool.not_eq_true', and_assoc, not_and, Bool.not_eq_false]
    intro ht hj
    simpa using h j hj (by omega)

/-! ### The formats (03 R80, R86, R166, R212) -/

@[simp] theorem at_encRRR {w : Word} {m fn g d a b c o} : At w 0 (encRRR m fn g d a b c o) ↔
    At w 56 m ∧ At w 53 g.pg ∧ At w 52 g.pn ∧ At w 42 fn ∧ At w 36 d ∧ At w 30 a ∧ At w 24 b ∧ At w 18 c ∧ At w 0 o := by
  simp only [encRRR, at_append, and_assoc]
@[simp] theorem at_encRRI {w : Word} {m fn g d a o} : At w 0 (encRRI m fn g d a o) ↔
    At w 56 m ∧ At w 53 g.pg ∧ At w 52 g.pn ∧ At w 46 fn ∧ At w 40 d ∧ At w 34 a ∧ At w 0 o := by
  simp only [encRRI, at_append, and_assoc]
@[simp] theorem at_encMEM {w : Word} {m fn g t b i s z o d} : At w 0 (encMEM m fn g t b i s z o d) ↔
    At w 56 m ∧ At w 53 g.pg ∧ At w 52 g.pn ∧ At w 46 fn ∧ At w 40 t ∧ At w 34 b ∧ At w 28 i ∧ At w 26 s ∧ At w 23 z ∧ At w 20 o.ord ∧ At w 18 o.scope ∧
      At w 0 d := by
  simp only [encMEM, at_append, and_assoc]
@[simp] theorem at_encBR {w : Word} {fn g c a b o} : At w 0 (encBR fn g c a b o) ↔
    At w 56 (0x50 : BitVec 8) ∧ At w 53 g.pg ∧ At w 52 g.pn ∧ At w 46 fn ∧ At w 42 c ∧ At w 36 a ∧ At w 30 b ∧ At w 0 o := by
  simp only [encBR, at_append, and_assoc]
@[simp] theorem at_encVEC {w : Word} {m fn g d a b c et rm sat k gr o} : At w 0 (encVEC m fn g d a b c et rm sat k gr o) ↔
    At w 56 m ∧ At w 53 g.pg ∧ At w 52 g.pn ∧ At w 46 fn ∧ At w 41 d ∧ At w 36 a ∧ At w 31 b ∧ At w 26 c ∧ At w 22 et ∧ At w 19 rm ∧ At w 18 sat ∧ At w 13 k ∧
      At w 7 gr ∧ At w 0 o := by
  simp only [encVEC, at_append, and_assoc]
@[simp] theorem at_encENG {w : Word} {m fn g a b c o} : At w 0 (encENG m fn g a b c o) ↔
    At w 56 m ∧ At w 53 g.pg ∧ At w 52 g.pn ∧ At w 46 fn ∧ At w 40 a ∧ At w 34 b ∧ At w 28 c ∧ At w 0 o := by
  simp only [encENG, at_append, and_assoc]

@[simp] theorem at_encMem {w : Word} {m fn g t z o a} : At w 0 (encMem m fn g t z o a) ↔
    At w 56 m ∧ At w 53 g.pg ∧ At w 52 g.pn ∧ At w 46 fn ∧ At w 40 t ∧ At w 34 a.base ∧ At w 28 a.idx ∧ At w 26 a.scl ∧ At w 23 z ∧ At w 20 o.ord ∧
      At w 18 o.scope ∧ At w 0 a.disp := at_encMEM
@[simp] theorem at_encP {w : Word} {lo : Nat} {p : PReg} : At w lo (encP p) ↔ At w (lo + 3) 0#3 ∧ At w lo p := at_append
@[simp] theorem at_encV {w : Word} {lo : Nat} {v : VReg} : At w lo (encV v) ↔ At w (lo + 5) 0#1 ∧ At w lo v := at_append
@[simp] theorem at_encWU {w : Word} {x u} : At w 0 (encWU x u) ↔ At w 2 0#16 ∧ At w 1 u ∧ At w 0 x := by
  simp only [encWU, at_append, and_assoc, BitVec.ofNat_eq_ofNat]
@[simp] theorem at_encRM {w : Word} {rm} : At w 0 (encRM rm) ↔ At w 15 rm ∧ At w 0 0#15 := at_append
@[simp] theorem at_encPos {w : Word} {pos len u} : At w 0 (encPos pos len u) ↔ At w 12 pos ∧ At w 6 len ∧ At w 2 0#4 ∧ At w 1 u ∧ At w 0 0#1 := by
  simp only [encPos, at_append, and_assoc, BitVec.ofNat_eq_ofNat]
@[simp] theorem at_encCompl {w : Word} {c low} : At w 0 (encCompl c low) ↔ At w 22 c.br ∧ At w 21 c.q ∧ At w 20 c.bar ∧ At w 8 c.tag ∧ At w 0 low := by
  simp only [encCompl, at_append, and_assoc]
@[simp] theorem at_encSend {w : Word} {s} : At w 0 (encSend s) ↔
    At w 20 0#8 ∧ At w 18 s.scope ∧ At w 17 s.rel ∧ At w 15 s.lvl ∧ At w 14 s.bsp ∧ At w 10 s.ch ∧ At w 0 s.count := by
  simp only [encSend, at_append, and_assoc, BitVec.ofNat_eq_ofNat]

section
variable {used : List (Nat × Nat)} {top : Nat}

@[simp] theorem within_encRRR {m fn g d a b c o} : Within used top 0 (encRRR m fn g d a b c o) ↔
    Within used top 56 m ∧ Within used top 53 g.pg ∧ Within used top 52 g.pn ∧ Within used top 42 fn ∧ Within used top 36 d ∧ Within used top 30 a ∧
      Within used top 24 b ∧ Within used top 18 c ∧ Within used top 0 o := by
  simp only [encRRR, within_append, and_assoc]
@[simp] theorem within_encRRI {m fn g d a o} : Within used top 0 (encRRI m fn g d a o) ↔
    Within used top 56 m ∧ Within used top 53 g.pg ∧ Within used top 52 g.pn ∧ Within used top 46 fn ∧ Within used top 40 d ∧ Within used top 34 a ∧
      Within used top 0 o := by
  simp only [encRRI, within_append, and_assoc]
@[simp] theorem within_encMEM {m fn g t b i s z o d} : Within used top 0 (encMEM m fn g t b i s z o d) ↔
    Within used top 56 m ∧ Within used top 53 g.pg ∧ Within used top 52 g.pn ∧ Within used top 46 fn ∧ Within used top 40 t ∧ Within used top 34 b ∧
      Within used top 28 i ∧ Within used top 26 s ∧ Within used top 23 z ∧ Within used top 20 o.ord ∧ Within used top 18 o.scope ∧ Within used top 0 d := by
  simp only [encMEM, within_append, and_assoc]
@[simp] theorem within_encBR {fn g c a b o} : Within used top 0 (encBR fn g c a b o) ↔
    Within used top 56 (0x50 : BitVec 8) ∧ Within used top 53 g.pg ∧ Within used top 52 g.pn ∧ Within used top 46 fn ∧ Within used top 42 c ∧
      Within used top 36 a ∧
      Within used top 30 b ∧ Within used top 0 o := by
  simp only [encBR, within_append, and_assoc]
@[simp] theorem within_encVEC {m fn g d a b c et rm sat k gr o} : Within used top 0 (encVEC m fn g d a b c et rm sat k gr o) ↔
    Within used top 56 m ∧ Within used top 53 g.pg ∧ Within used top 52 g.pn ∧ Within used top 46 fn ∧ Within used top 41 d ∧ Within used top 36 a ∧
      Within used top 31 b ∧ Within used top 26 c ∧ Within used top 22 et ∧ Within used top 19 rm ∧ Within used top 18 sat ∧ Within used top 13 k ∧
      Within used top 7 gr ∧ Within used top 0 o := by
  simp only [encVEC, within_append, and_assoc]
@[simp] theorem within_encENG {m fn g a b c o} : Within used top 0 (encENG m fn g a b c o) ↔
    Within used top 56 m ∧ Within used top 53 g.pg ∧ Within used top 52 g.pn ∧ Within used top 46 fn ∧ Within used top 40 a ∧ Within used top 34 b ∧
      Within used top 28 c ∧ Within used top 0 o := by
  simp only [encENG, within_append, and_assoc]
@[simp] theorem within_encMem {m fn g t z o a} : Within used top 0 (encMem m fn g t z o a) ↔
    Within used top 56 m ∧ Within used top 53 g.pg ∧ Within used top 52 g.pn ∧ Within used top 46 fn ∧ Within used top 40 t ∧ Within used top 34 a.base ∧
      Within used top 28 a.idx ∧ Within used top 26 a.scl ∧ Within used top 23 z ∧ Within used top 20 o.ord ∧
      Within used top 18 o.scope ∧ Within used top 0 a.disp := within_encMEM
@[simp] theorem within_encP {lo : Nat} {p : PReg} : Within used top lo (encP p) ↔ Within used top (lo + 3) 0#3 ∧ Within used top lo p := within_append
@[simp] theorem within_encV {lo : Nat} {v : VReg} : Within used top lo (encV v) ↔ Within used top (lo + 5) 0#1 ∧ Within used top lo v := within_append
@[simp] theorem within_encWU {x u} : Within used top 0 (encWU x u) ↔ Within used top 2 0#16 ∧ Within used top 1 u ∧ Within used top 0 x := by
  simp only [encWU, within_append, and_assoc, BitVec.ofNat_eq_ofNat]
@[simp] theorem within_encRM {rm} : Within used top 0 (encRM rm) ↔ Within used top 15 rm ∧ Within used top 0 0#15 := within_append
@[simp] theorem within_encPos {pos len u} : Within used top 0 (encPos pos len u) ↔ Within used top 12 pos ∧ Within used top 6 len ∧ Within used top 2 0#4 ∧
      Within used top 1 u ∧ Within used top 0 0#1 := by
  simp only [encPos, within_append, and_assoc, BitVec.ofNat_eq_ofNat]
@[simp] theorem within_encCompl {c low} : Within used top 0 (encCompl c low) ↔ Within used top 22 c.br ∧ Within used top 21 c.q ∧ Within used top 20 c.bar ∧
      Within used top 8 c.tag ∧ Within used top 0 low := by
  simp only [encCompl, within_append, and_assoc]
@[simp] theorem within_encSend {s} : Within used top 0 (encSend s) ↔
    Within used top 20 0#8 ∧ Within used top 18 s.scope ∧ Within used top 17 s.rel ∧ Within used top 15 s.lvl ∧ Within used top 14 s.bsp ∧
      Within used top 10 s.ch ∧ Within used top 0 s.count := by
  simp only [encSend, within_append, and_assoc, BitVec.ofNat_eq_ofNat]

end

end Sys2Proof
end

section
/-!
O7 and O8. The checks of 03 R90, steps 4 to 7: what a row of the decoder accepts, against what its instruction says.
-/

namespace Sys2Proof

/-- A scalar field names a register of the allocation or a queue port (01 R21). -/
def InBlock (size : Nat) (r : Reg) : Prop := 56 ≤ r.toNat ∨ r.toNat < size

/-- The second register of a pair lies in the allocation too (04 R117, 06 R163). -/
def pairFits (size : Nat) : Instr → Prop
  | .ldp _ t _ _ | .stp _ t _ _ => t.toNat + 1 < size
  | .cpy2d _ _ _ c _ | .cpyg _ _ _ c _ _ | .cpys _ _ _ c _ | .cpym _ _ _ c _ _ => c.toNat + 1 < size
  | _ => True

theorem fits_iff {size : Nat} {i : Instr} : fits size i = true ↔ (∀ r ∈ scalarFields i, InBlock size r) ∧ pairFits size i := by
  unfold fits pairFits
  rw [Bool.and_eq_true, List.all_eq_true]
  refine and_congr (forall₂_congr fun r _ => ?_) ?_
  · rw [Bool.or_eq_true, decide_eq_true_eq, decide_eq_true_eq]; rfl
  · split <;> simp

/-- The word passes steps 4 to 7 of its row, FN standing from bit top up. -/
structure Accepted (top : Nat) (r : Row) (w : Word) (size : Nat) : Prop where
  codes : ∀ c ∈ r.codes, c.2 = true
  clear : Within r.used top 0 w
  regs : ∀ lo ∈ r.regs, InBlock size (fld w lo 6)
  bad : ∀ c ∈ r.bad, c.2 = false

/-- The word is the encoding of a well-formed instruction that fits. -/
structure Says (size : Nat) (w : Word) (i : Instr) : Prop where
  isWord : isWord i = true
  wellFormed : wellFormed i = true
  fits : fits size i = true
  encodes : At w 0 (encode i)

/-! ### Decode as one condition -/

theorem step4_eq_none_iff {r : Row} : step4 r = none ↔ ∀ c ∈ r.codes, c.2 = true := by simp [step4]

theorem step6_eq_none_iff {r : Row} {w : Word} {size : Nat} :
    step6 r w size = none ↔ ∀ lo ∈ r.regs, InBlock size (fld w lo 6) := by
  simp only [step6, List.find?_eq_none, InBlock]
  refine forall₂_congr fun lo _ => ?_
  simp only [Bool.and_eq_true, decide_eq_true_eq]
  omega

/-- A fold that never drops what it has found finds something. -/
theorem isSome_foldl {α : Type} {g : Option Nat → α → Option Nat} (hg : ∀ x c, (g (some x) c).isSome = true) (l : List α) (x : Nat) :
    (l.foldl g (some x)).isSome = true := by
  induction l generalizing x with
  | nil => rfl
  | cons c t ih =>
    obtain ⟨y, hy⟩ := Option.isSome_iff_exists.mp (hg x c)
    rw [List.foldl_cons, hy]
    exact ih y

theorem step7_eq_none_iff {r : Row} : step7 r = none ↔ ∀ c ∈ r.bad, c.2 = false := by
  have hnil : step7 r = none ↔ r.bad.filter (·.2) = [] := by
    unfold step7
    cases r.bad.filter (·.2) with
    | nil => exact iff_of_true rfl rfl
    | cons c t => exact iff_of_false (Option.isSome_iff_ne_none.mp (isSome_foldl (fun _ _ => rfl) t c.1)) (List.cons_ne_nil c t)
  rw [hnil, List.filter_eq_nil_iff]
  simp

/-- The row of a word, with its format and the privilege it needs. -/
def rowOf (w : Word) (size : Nat) : Option (Format × Nat × Row) :=
  (majInfo (fld w 56 8).toNat).bind fun p => (row (fld w 56 8).toNat (fnOf p.1 w) w size).map fun r => (p.1, p.2, r)

/-- A word decodes where it has a row, the privilege suffices, and the row accepts it. -/
theorem decode_eq_ok_iff {w : Word} {priv size : Nat} {i : Instr} :
    decode w priv size = .ok i ↔ ∃ f need r, rowOf w size = some (f, need, r) ∧ need ≤ priv ∧ Accepted (fnLow f) r w size ∧ r.instr = i := by
  have hacc : ∀ f r, Accepted (fnLow f) r w size ↔ step4 r = none ∧ strayBits f r w = 0 ∧ step6 r w size = none ∧ step7 r = none := by
    intro f r
    rw [step4_eq_none_iff, strayBits_eq_zero_iff, step6_eq_none_iff, step7_eq_none_iff]
    exact ⟨fun ⟨h4, h5, h6, h7⟩ => ⟨h4, h5, h6, h7⟩, fun ⟨h4, h5, h6, h7⟩ => ⟨h4, h5, h6, h7⟩⟩
  unfold decode rowOf
  generalize (fld w 56 8).toNat = m
  cases hm : majInfo m with
  | none => simp
  | some p =>
    obtain ⟨f, need⟩ := p
    cases hr : row m (fnOf f w) w size with
    | none => simp [hr]
    | some r =>
      by_cases hp : priv < need
      · simp [hr, hp, Nat.not_le.mpr hp]
      · simp only [hr, hp, Option.bind_some, Option.map_some, if_false, Option.some.injEq, Prod.mk.injEq, and_assoc, exists_and_left, exists_eq_left', hacc]
        cases step4 r with
        | some lo => simp
        | none =>
          by_cases h5 : strayBits f r w = 0
          · cases step6 r w size with
            | some lo => simp [h5]
            | none => cases step7 r <;> simp [h5, Nat.le_of_not_lt hp]
          · simp [h5]

/-! ### Accepting a word, against what its instruction says -/

/-- Where the row's bits and checks agree with the instruction's encoding and well-formedness, the row accepts the encodings of the instruction. -/
theorem accepted_iff_says {top : Nat} {codes bad : List (Nat × Bool)} {used : List (Nat × Nat)} {regs : List Nat} {i : Instr} {w : Word} {size : Nat}
    (hi : isWord i = true)
    (hat : (∀ c ∈ codes, c.2 = true) → (∀ c ∈ bad, c.2 = false) → (∀ lo n, unnamed used top lo n = true → At w lo 0#n) → At w 0 (encode i))
    (hused : wellFormed i = true → Within used top 0 (encode i))
    (hchecks : At w 0 (encode i) → (∀ lo n, unnamed used top lo n = true → fld w lo n = 0#n) →
      (((∀ c ∈ codes, c.2 = true) ∧ (∀ c ∈ bad, c.2 = false) ∧ ∀ lo ∈ regs, InBlock size (fld w lo 6)) ↔
        wellFormed i = true ∧ (∀ r ∈ scalarFields i, InBlock size r) ∧ pairFits size i)) :
    Accepted top ⟨codes, used, regs, bad, i⟩ w size ↔ Says size w i := by
  rw [← fits_iff] at hchecks
  constructor
  · rintro ⟨hc, hz, hr, hb⟩
    have z := fun lo n => fld_zero_of_unnamed (lo := lo) (n := n) hz
    have h := hat hc hb z
    obtain ⟨hwf, hfits⟩ := (hchecks h z).mp ⟨hc, hb, hr⟩
    exact ⟨hi, hwf, hfits, h⟩
  · rintro ⟨-, hwf, hfits, h⟩
    have hz : Within used top 0 w := at_zero_iff.mp h ▸ hused hwf
    obtain ⟨hc, hb, hr⟩ := (hchecks h fun lo n => fld_zero_of_unnamed hz).mpr ⟨hwf, hfits⟩
    exact ⟨hc, hz, hr, hb⟩

end Sys2Proof
end

section
/-!
O7 and O8. The rows of the decoder, MAJ by MAJ (03 R88): each accepts exactly the encodings of its instruction.
Every case has three parts: the fields that the row reads and the zeros between them are the encoding; the encoding sets bits of the row's fields only; and
the row's codes, conditions and registers say what the instruction's well-formedness and its registers do.
-/

namespace Sys2Proof

variable {w : Word} {fn size : Nat} {r : Row}

/-! ### RRR words -/

theorem rowRRR_says {maj : Nat} (hmaj : maj ∈ [0x01, 0x03, 0x04]) (hm : At w 56 (BitVec.ofNat 8 maj)) (hf : At w 42 (BitVec.ofNat 10 fn))
    (hr : row maj fn w size = some r) : Accepted 42 r w size ↔ Says size w r.instr := by
  simp only [List.mem_cons, List.not_mem_nil, or_false] at hmaj
  rcases hmaj with rfl | rfl | rfl <;> simp only [row, row01, row03, row04] at hr <;> split at hr <;> cases hr
  case h_27.refl =>
    -- LEA: the field of POS has six bits, and POS two.
    have hpos : (fld w 12 6).toNat ≤ 3 ↔ fld w 14 4 = 0#4 := Nat.lt_succ_iff.symm.trans (fld_lt_iff_at (n := 4) (k := 2))
    refine accepted_iff_says rfl (fun _ hb z => at_encRRR.mpr ?_) (fun _ => within_encRRR.mpr ?_) (fun h _ => ?_)
    · have hp : At w 14 0#4 := hpos.mp (by simpa [-BitVec.extractLsb'_toNat] using hb)
      simp (disch := decide) [↓at_encPos, ↓at_append, z, hm, hf, hp]
    · simp (disch := decide) [↓within_encPos, ↓within_append, within_of_named]
    · obtain ⟨-, -, -, -, -, -, -, -, hmod⟩ := at_encRRR.mp h
      have hp := hpos.mpr (at_append.mp (at_encPos.mp hmod).1).1
      unfold wellFormed scalarFields pairFits
      constructor <;> simp +contextual [-BitVec.extractLsb'_toNat, hp]
  all_goals
    refine accepted_iff_says rfl (fun _ _ z => at_encRRR.mpr ?_) (fun _ => within_encRRR.mpr ?_) (fun _ _ => ?_)
    · simp (disch := decide) [↓at_append, z, hm, hf]
    · simp (disch := decide) [↓within_append, within_of_named]
    · unfold wellFormed scalarFields pairFits
      constructor <;> simp +contextual [-BitVec.extractLsb'_toNat] <;> grind

/-! ### BR words -/

theorem row50_says (hm : At w 56 0x50#8) (hf : At w 46 (BitVec.ofNat 6 fn)) (hr : row50 fn w = some r) :
    Accepted 46 r w size ↔ Says size w r.instr := by
  unfold row50 at hr
  split at hr <;> cases hr
  case h_3.refl =>
    -- BP: the field of its condition has four bits, and Z one.
    have hz : (fld w 42 4).toNat < 2 ↔ fld w 43 3 = 0#3 := fld_lt_iff_at (n := 3) (k := 1)
    refine accepted_iff_says rfl (fun hc _ z => at_encBR.mpr ?_) (fun _ => within_encBR.mpr ?_) (fun h _ => ?_)
    · have hp : At w 43 0#3 := hz.mp (by simpa [-BitVec.extractLsb'_toNat] using hc)
      simp (disch := decide) [↓at_append, z, hm, hf, hp]
    · simp (disch := decide) [↓within_append, within_of_named]
    · obtain ⟨-, -, -, -, hcond, -⟩ := at_encBR.mp h
      have hp := hz.mpr (at_append.mp hcond).1
      unfold wellFormed scalarFields pairFits
      simp [-BitVec.extractLsb'_toNat, hp]
  all_goals
    refine accepted_iff_says rfl (fun _ _ z => at_encBR.mpr ?_) (fun _ => within_encBR.mpr ?_) (fun _ _ => ?_)
    · simp (disch := decide) [z, hm, hf]
    · simp (disch := decide) [within_of_named]
    · unfold wellFormed scalarFields pairFits
      constructor <;> simp +contextual [-BitVec.extractLsb'_toNat]

/-! ### RRI and SYS words -/

/-- The RRI and SYS words but those of MAJ 0xC1. -/
theorem rowRRI_says {maj : Nat} (hmaj : maj ∈ [0x21, 0x22, 0x05, 0x52, 0xC0, 0xC2]) (hm : At w 56 (BitVec.ofNat 8 maj)) (hf : At w 46 (BitVec.ofNat 6 fn))
    (hr : row maj fn w size = some r) : Accepted 46 r w size ↔ Says size w r.instr := by
  simp only [List.mem_cons, List.not_mem_nil, or_false] at hmaj
  rcases hmaj with rfl | rfl | rfl | rfl | rfl | rfl <;>
    simp only [row, row21, row22, row05, row52, rowC0, rowC2] at hr <;> split at hr <;> cases hr
  all_goals
    refine accepted_iff_says rfl (fun _ _ z => at_encRRI.mpr ?_) (fun _ => within_encRRI.mpr ?_) (fun _ _ => ?_)
    · simp (disch := decide) [↓at_append, z, hm, hf]
    · simp (disch := decide) [↓within_append, within_of_named]
    · unfold wellFormed scalarFields pairFits
      constructor <;> simp +contextual [-BitVec.extractLsb'_toNat]

theorem rowC1_says (hm : At w 56 0xC1#8) (hf : At w 46 (BitVec.ofNat 6 fn)) (hr : rowC1 fn w = some r) :
    Accepted 46 r w size ↔ Says size w r.instr := by
  unfold rowC1 at hr
  split at hr <;> cases hr
  case h_12.refl =>
    -- TLBINV: CX is reserved in MODE 2.
    split
    next hmode =>
      replace hmode := eq_of_beq hmode
      refine accepted_iff_says rfl (fun _ _ z => at_encRRI.mpr ?_) (fun hwf => within_encRRI.mpr ?_) (fun _ z => ?_)
      · simp (disch := decide) [↓at_append, z, hm, hf]
      · have hcx : fld w 0 6 = 0#6 := by simpa [wellFormed.eq_def, hmode] using hwf
        simp (disch := decide) [↓within_append, within_of_named, hcx]
      · have hcx : fld w 0 6 = 0#6 := z 0 6 rfl
        unfold wellFormed scalarFields pairFits
        constructor <;> simp +contextual [hmode, hcx]
    next hmode =>
      have hmode' : fld w 6 2 ≠ 2#2 := by simpa using hmode
      refine accepted_iff_says rfl (fun _ _ z => at_encRRI.mpr ?_) (fun hwf => within_encRRI.mpr ?_) (fun _ z => ?_)
      · simp (disch := decide) [↓at_append, z, hm, hf]
      · simp (disch := decide) [↓within_append, within_of_named]
      · unfold wellFormed scalarFields pairFits
        constructor <;> simp +contextual [hmode']
  all_goals
    refine accepted_iff_says rfl (fun _ _ z => at_encRRI.mpr ?_) (fun _ => within_encRRI.mpr ?_) (fun _ _ => ?_)
    · simp (disch := decide) [↓at_append, z, hm, hf]
    · simp (disch := decide) [↓within_append, within_of_named]
    · unfold wellFormed scalarFields pairFits
      constructor <;> simp +contextual [-BitVec.extractLsb'_toNat]

/-! ### MEM words -/

theorem guardOf_pg : (guardOf w).pg = fld w 53 3 := rfl
theorem guardOf_pn : (guardOf w).pn = fld w 52 1 := rfl

/-- The address fields that step 6 checks are the registers of the operand. -/
theorem forall_memLows : (∀ lo ∈ memLows w, InBlock size (fld w lo 6)) ↔ ∀ r ∈ memRegs (memOf w), InBlock size r := by
  unfold memLows memRegs memOf
  by_cases hb : fld w 34 6 = 63#6 <;> by_cases hi : fld w 28 6 = 63#6 <;> simp [hb, hi]

theorem row40_says (hm : At w 56 0x40#8) (hf : At w 46 (BitVec.ofNat 6 fn)) (hr : row40 fn w size = some r) :
    Accepted 46 r w size ↔ Says size w r.instr := by
  unfold row40 at hr
  split at hr <;> cases hr
  case h_1.refl | h_2.refl =>
    refine accepted_iff_says rfl (fun _ _ _ => at_encMem.mpr ?_) (fun _ => within_encMem.mpr ?_) (fun _ _ => ?_)
    · simp [hm, hf]
    · simp (disch := decide) [within_of_named]
    · unfold wellFormed scalarFields pairFits
      simp [memCodes, memBad, sizeOk, ordOk, ordOf, forall_memLows, or_imp, forall_and, -BitVec.extractLsb'_toNat]
      tauto
  case h_3.refl | h_4.refl =>
    -- LDP, STP: SIZE is 3.
    refine accepted_iff_says rfl (fun hc _ _ => at_encMem.mpr ?_) (fun _ => within_encMem.mpr ?_) (fun h _ => ?_)
    · have hs : At w 23 3#3 := eq_of_beq (hc (23, fld w 23 3 == 3) List.mem_cons_self)
      simp [hm, hf, hs]
    · simp (disch := decide) [within_of_named]
    · obtain ⟨-, -, -, -, -, -, -, -, hs, -⟩ := at_encMem.mp h
      replace hs : fld w 23 3 = 3#3 := hs
      unfold wellFormed scalarFields pairFits
      simp [memCodes, memBad, ordOk, ordOf, forall_memLows, hs, or_imp, forall_and, -BitVec.extractLsb'_toNat, -BitVec.getLsbD_extractLsb',
        -BitVec.getLsbD_eq_getElem]
      tauto

theorem row41_says (hm : At w 56 0x41#8) (hf : At w 46 (BitVec.ofNat 6 fn)) (hr : row41 fn w = some r) :
    Accepted 46 r w size ↔ Says size w r.instr := by
  rcases fn with _ | _ | _ | _ | _ | _ | _ | _ | _ | fn
  all_goals
    simp [row41, -BitVec.extractLsb'_toNat] at hr
  all_goals
    subst hr
  case succ.zero | succ.succ.zero =>
    -- AMOMIN, AMOMAX: UNS stands in the lower bit of SCL, with SIZE 3 only.
    have h0 : fld w 26 2 = 0#2 ↔ fld w 27 1 = 0#1 ∧ fld w 26 1 = 0#1 := at_append (x := 0#1) (y := 0#1)
    have h1 : fld w 26 2 = 1#2 ↔ fld w 27 1 = 0#1 ∧ fld w 26 1 = 1#1 := at_append (x := 0#1) (y := 1#1)
    refine accepted_iff_says rfl (fun hc _ _ => at_encMEM.mpr ?_) (fun _ => within_encMEM.mpr ?_) (fun h _ => ?_)
    · have hscl : At w 27 0#1 := by
        have hcode := hc _ List.mem_cons_self
        simp only [Bool.or_eq_true, Bool.and_eq_true, beq_iff_eq, h0, h1] at hcode
        exact hcode.elim (·.1) (·.1.1)
      simp [↓at_append, hm, hf, hscl]
    · simp (disch := decide) [↓within_append, within_of_named]
    · obtain ⟨-, -, -, -, -, -, -, hscl, -⟩ := at_encMEM.mp h
      have h27 : fld w 27 1 = 0#1 := (at_append.mp hscl).1
      unfold wellFormed scalarFields pairFits
      have hsize : amoSizeOk 3#3 = true := rfl
      obtain hu | hu := BitVec.eq_zero_or_eq_one (fld w 26 1) <;>
        by_cases hb : fld w 34 6 = 63#6 <;> constructor <;> simp +contextual [h0, h1, h27, hu, hb, hsize]
  case succ.succ.succ.succ.succ.succ.succ.succ.zero =>
    -- AMOFADD: SIZE is 2.
    refine accepted_iff_says rfl (fun hc _ z => at_encMEM.mpr ?_) (fun _ => within_encMEM.mpr ?_) (fun h _ => ?_)
    · have hs : At w 23 2#3 := eq_of_beq (hc _ List.mem_cons_self)
      simp (disch := decide) [z, hm, hf, hs]
    · simp (disch := decide) [within_of_named]
    · obtain ⟨-, -, -, -, -, -, -, -, hs, -⟩ := at_encMEM.mp h
      replace hs : fld w 23 3 = 2#3 := hs
      unfold wellFormed scalarFields pairFits
      by_cases hb : fld w 34 6 = 63#6 <;> constructor <;> simp +contextual [hs, hb]
  all_goals
    refine accepted_iff_says rfl (fun _ _ z => at_encMEM.mpr ?_) (fun _ => within_encMEM.mpr ?_) (fun _ _ => ?_)
    · simp (disch := decide) [z, hm, hf]
    · simp (disch := decide) [within_of_named]
    · unfold wellFormed scalarFields pairFits
      by_cases hb : fld w 34 6 = 63#6 <;> constructor <;> simp +contextual [hb, -BitVec.extractLsb'_toNat]

theorem row42_says (hm : At w 56 0x42#8) (hf : At w 46 (BitVec.ofNat 6 fn)) (hr : row42 fn w = some r) :
    Accepted 46 r w size ↔ Says size w r.instr := by
  unfold row42 at hr
  split at hr <;> cases hr
  all_goals
    refine accepted_iff_says rfl (fun _ _ z => at_encMEM.mpr ?_) (fun _ => within_encMEM.mpr ?_) (fun _ _ => ?_)
    · simp (disch := decide) [z, hm, hf]
    · simp (disch := decide) [within_of_named]
    · unfold wellFormed scalarFields pairFits
      simp [-BitVec.extractLsb'_toNat] <;> exact Iff.rfl

theorem row66_says (hm : At w 56 0x66#8) (hf : At w 46 (BitVec.ofNat 6 fn)) (hr : row66 fn w = some r) :
    Accepted 46 r w size ↔ Says size w r.instr := by
  unfold row66 at hr
  generalize hlows : (if fld w 34 6 = 63 then [] else [34]) = lows at hr
  split at hr <;> cases hr
  case h_3.refl =>
    -- VLDFF: no order and no scope.
    refine accepted_iff_says rfl (fun hc hb _ => at_encMem.mpr ?_) (fun _ => within_encMem.mpr ?_) (fun h _ => ?_)
    · have ht : At w 45 0#1 := bit_clear_iff_at.mp (hb (40, fld w 45 1 == 1) (by simp))
      have ho : At w 20 0#3 := by
        have hord : (fld w 20 3).toNat = 0 := by
          simpa [-BitVec.extractLsb'_toNat] using hc (20, [0].contains (fld w 20 3).toNat) (by simp [memCodes])
        exact BitVec.eq_of_toNat_eq hord
      have hs : At w 18 0#2 := by
        simpa [memBad, ordScopeOk, ordOf, at_iff.mp ho, at_iff] using hb (memBad w) (by simp)
      simp [hm, hf, ht, ho, hs]
    · simp (disch := decide) [within_of_named]
    · obtain ⟨-, -, -, -, ht, -, -, -, -, ho, hs, -⟩ := at_encMem.mp h
      replace ht := bit_clear_iff_at.mpr (at_encV.mp ht).1
      replace ho : fld w 20 3 = 0#3 := ho
      replace hs : fld w 18 2 = 0#2 := hs
      unfold wellFormed scalarFields pairFits
      obtain hpn | hpn := BitVec.eq_zero_or_eq_one (fld w 52 1) <;>
        simp [memCodes, memBad, ordScopeOk, ordOf, guardOf_pg, guardOf_pn, hpn, forall_memLows, ht, ho, hs, and_assoc]
  case h_6.refl | h_7.refl =>
    -- VGATH, VSCAT: the index is a vector register too.
    subst hlows
    refine accepted_iff_says rfl (fun _ hb _ => at_encMEM.mpr ?_) (fun _ => within_encMEM.mpr ?_) (fun h _ => ?_)
    · have ht : At w 45 0#1 := bit_clear_iff_at.mp (hb (40, fld w 45 1 == 1) (by simp))
      have hi : At w 33 0#1 := bit_clear_iff_at.mp (hb (28, fld w 33 1 == 1) (by simp))
      simp [hm, hf, ht, hi]
    · simp (disch := decide) [within_of_named]
    · obtain ⟨-, -, -, -, ht, -, hi, -⟩ := at_encMEM.mp h
      replace ht := bit_clear_iff_at.mpr (at_encV.mp ht).1
      replace hi := bit_clear_iff_at.mpr (at_encV.mp hi).1
      unfold wellFormed scalarFields pairFits
      by_cases hb : fld w 34 6 = 63#6 <;>
        simp [memCodes, memBad, ordOk, ordOf, ht, hi, hb, -BitVec.extractLsb'_toNat] <;> tauto
  all_goals
    refine accepted_iff_says rfl (fun _ hb _ => at_encMem.mpr ?_) (fun _ => within_encMem.mpr ?_) (fun h _ => ?_)
    · have ht : At w 45 0#1 := bit_clear_iff_at.mp (hb (40, fld w 45 1 == 1) (by simp))
      simp [hm, hf, ht]
    · simp (disch := decide) [within_of_named]
    · obtain ⟨-, -, -, -, ht, -⟩ := at_encMem.mp h
      replace ht := bit_clear_iff_at.mpr (at_encV.mp ht).1
      unfold wellFormed scalarFields pairFits
      simp [memCodes, memBad, ordOk, ordOf, forall_memLows, ht, -BitVec.extractLsb'_toNat]
      tauto

/-! ### VEC words -/

/-- The vector arithmetic of MAJ 0x60 and the packing of MAJ 0x65: RM and SAT are fields of some element types only. -/
theorem rowVECfloat_says {maj : Nat} (hmaj : maj ∈ [0x60, 0x65]) (hm : At w 56 (BitVec.ofNat 8 maj)) (hf : At w 46 (BitVec.ofNat 6 fn))
    (hr : row maj fn w size = some r) : Accepted 46 r w size ↔ Says size w r.instr := by
  simp only [List.mem_cons, List.not_mem_nil, or_false] at hmaj
  cases hF : etFloat (fld w 22 4)
  all_goals
    rcases hmaj with rfl | rfl <;> simp only [row, row60, row65, hF, rmCode, rmSatUsed, Bool.false_eq_true, reduceIte] at hr <;> split at hr <;> cases hr
  all_goals
    refine accepted_iff_says rfl (fun _ _ z => at_encVEC.mpr ?_) (fun hwf => within_encVEC.mpr ?_) (fun _ z => ?_)
    · simp (disch := decide) [↓at_append, z, hm, hf]
    · simp [wellFormed.eq_def, hF, rmOk] at hwf
      simp (disch := decide) [↓within_append, within_of_named, hwf]
    · unfold wellFormed scalarFields pairFits
      simp (disch := decide) [hF, rmOk, z]

theorem row62_says (hm : At w 56 0x62#8) (hf : At w 46 (BitVec.ofNat 6 fn)) (hr : row62 fn w = some r) :
    Accepted 46 r w size ↔ Says size w r.instr := by
  unfold row62 at hr
  have h6 : (fld w 0 7).getLsbD 6 = (fld w 6 1 == 1#1) := getLsbD_fld (by decide)
  have h7 : fld w 0 7 = 0#7 ↔ fld w 6 1 = 0#1 ∧ fld w 0 6 = 0#6 := at_append (x := 0#1) (y := 0#6)
  -- IMM<6> chooses between the count in IMM and the counts in B.
  obtain himm | himm := BitVec.eq_zero_or_eq_one (fld w 6 1)
  all_goals
    simp only [h6, himm, BitVec.reduceBEq, Bool.false_eq_true, reduceIte] at hr
    split at hr <;> cases hr
  all_goals
    refine accepted_iff_says rfl (fun _ _ z => at_encVEC.mpr ?_) (fun hwf => within_encVEC.mpr ?_) (fun _ z => ?_)
    · simp (disch := decide) [z, hm, hf]
    · simp [wellFormed.eq_def, vshiftOk, h6, himm, -BitVec.getLsbD_extractLsb', -BitVec.getLsbD_eq_getElem] at hwf
      simp (disch := decide) [within_of_named, hwf]
    · unfold wellFormed scalarFields pairFits
      simp (disch := decide) [vshiftOk, h6, h7, himm, z, -BitVec.getLsbD_extractLsb', -BitVec.getLsbD_eq_getElem]

/-- The vector functions of MAJ 0x61 and the comparisons and moves of MAJ 0x63. -/
theorem rowVECmove_says {maj : Nat} (hmaj : maj ∈ [0x61, 0x63]) (hm : At w 56 (BitVec.ofNat 8 maj)) (hf : At w 46 (BitVec.ofNat 6 fn))
    (hr : row maj fn w size = some r) : Accepted 46 r w size ↔ Says size w r.instr := by
  simp only [List.mem_cons, List.not_mem_nil, or_false] at hmaj
  rcases hmaj with rfl | rfl <;> simp only [row, row61, row63] at hr <;> split at hr <;> cases hr
  case h_9.refl =>
    -- VCOND: the ET that step 4 asks for is a reserved field of step 5 too.
    refine accepted_iff_says rfl (fun _ _ z => at_encVEC.mpr ?_) (fun _ => within_encVEC.mpr ?_) (fun _ z => ?_)
    · simp (disch := decide) [↓at_append, z, hm, hf]
    · simp (disch := decide) [↓within_append, within_of_named]
    · unfold wellFormed scalarFields pairFits
      simp (disch := decide) [z]
  all_goals
    refine accepted_iff_says rfl (fun _ _ z => at_encVEC.mpr ?_) (fun _ => within_encVEC.mpr ?_) (fun _ _ => ?_)
    · simp (disch := decide) [↓at_append, z, hm, hf]
    · simp (disch := decide) [↓within_append, within_of_named]
    · unfold wellFormed scalarFields pairFits
      constructor <;> simp +contextual [-BitVec.extractLsb'_toNat] <;> grind

theorem row64_says (hm : At w 56 0x64#8) (hf : At w 46 (BitVec.ofNat 6 fn)) (hr : row64 fn w = some r) :
    Accepted 46 r w size ↔ Says size w r.instr := by
  unfold row64 at hr
  split at hr <;> cases hr
  case h_4.refl | h_5.refl =>
    -- VSCAN, VRED: SKEW is 15; RM belongs to a floating-point sum, SAT to a sum.
    cases hF : etFloat (fld w 22 4) <;> cases hO : fld w 0 7 == 0#7
    all_goals
      refine accepted_iff_says rfl (fun _ hb z => at_encVEC.mpr ?_) (fun hwf => within_encVEC.mpr ?_) (fun h z => ?_)
      · have hk : At w 13 15#5 := by simpa [at_iff] using hb (13, fld w 13 5 != 15) (by simp)
        simp (disch := decide) [z, hm, hf, hk]
      · simp [wellFormed.eq_def, hF, hO, rmOk] at hwf
        simp (disch := decide) [within_of_named, hwf]
      · obtain ⟨-, -, -, -, -, -, -, -, -, -, -, hk, -⟩ := at_encVEC.mp h
        replace hk : fld w 13 5 = 15#5 := hk
        unfold wellFormed scalarFields pairFits
        simp (disch := decide) [hF, hO, hk, rmOk, rmCode, z, -BitVec.extractLsb'_toNat] <;> grind
  case h_6.refl =>
    -- VMAXI: SKEW is 15.
    refine accepted_iff_says rfl (fun _ hb z => at_encVEC.mpr ?_) (fun _ => within_encVEC.mpr ?_) (fun h z => ?_)
    · have hk : At w 13 15#5 := by simpa [at_iff] using hb
      simp (disch := decide) [z, hm, hf, hk]
    · simp (disch := decide) [within_of_named]
    · obtain ⟨-, -, -, -, -, -, -, -, -, -, -, hk, -⟩ := at_encVEC.mp h
      replace hk : fld w 13 5 = 15#5 := hk
      unfold wellFormed scalarFields pairFits
      simp [hk]
  all_goals
    refine accepted_iff_says rfl (fun _ _ z => at_encVEC.mpr ?_) (fun _ => within_encVEC.mpr ?_) (fun _ _ => ?_)
    · simp (disch := decide) [z, hm, hf]
    · simp (disch := decide) [within_of_named]
    · unfold wellFormed scalarFields pairFits
      generalize (fld w 13 5).toInt = k
      simp [and_assoc]

/-! ### ENG words -/

/-- No register pair is bad where it starts at an even register and lies in the allocation. -/
theorem pairBad_eq_false_iff : (pairBad w size).2 = false ↔
    (fld w 28 6).getLsbD 0 = false ∧ (fld w 28 6).toNat < 56 ∧ (fld w 28 6).toNat + 1 < size := by
  have h0 : (fld w 28 6).getLsbD 0 = (fld w 28 1 == 1#1) := getLsbD_fld (by decide)
  rw [h0]
  simp only [pairBad, BitVec.ofNat_eq_ofNat, Bool.or_eq_false_iff, decide_eq_false_iff_not, and_assoc, Nat.not_le]

theorem row80_says (hm : At w 56 0x80#8) (hf : At w 46 (BitVec.ofNat 6 fn)) (hr : row80 fn w = some r) :
    Accepted 46 r w size ↔ Says size w r.instr := by
  unfold row80 at hr
  split at hr <;> cases hr
  case h_3.refl =>
    -- MXLDW
    have h0 : (fld w 4 3).getLsbD 0 = (fld w 4 1 == 1#1) := getLsbD_fld (by decide)
    refine accepted_iff_says rfl (fun _ _ z => at_encENG.mpr ?_) (fun _ => within_encENG.mpr ?_) (fun _ _ => ?_)
    · simp (disch := decide) [↓at_append, z, hm, hf]
    · simp (disch := decide) [↓within_append, within_of_named]
    · unfold wellFormed scalarFields pairFits
      constructor <;> simp +contextual [h0, -BitVec.extractLsb'_toNat, -BitVec.getLsbD_extractLsb', -BitVec.getLsbD_eq_getElem] <;> grind
  case h_4.refl =>
    -- MXPASS
    refine accepted_iff_says rfl (fun _ _ z => at_encENG.mpr ?_) (fun _ => within_encENG.mpr ?_) (fun _ _ => ?_)
    · simp (disch := decide) [↓at_append, z, hm, hf]
    · simp (disch := decide) [↓within_append, within_of_named]
    · unfold wellFormed scalarFields pairFits
      constructor <;> simp +contextual [-BitVec.extractLsb'_toNat] <;> grind
  case h_7.refl =>
    -- MXDRAIN
    by_cases hbar : fld w 20 1 = 1#1
    all_goals
      simp only [complUsed, complLows, BitVec.ofNat_eq_ofNat, hbar, reduceIte]
      refine accepted_iff_says rfl (fun _ _ z => at_encENG.mpr ?_) (fun hwf => within_encENG.mpr ?_) (fun _ z => ?_)
      · simp (disch := decide) [↓at_encCompl, ↓at_append, z, hm, hf]
      · simp [wellFormed.eq_def, complOk, complOf, hbar] at hwf
        simp (disch := decide) [↓within_encCompl, ↓within_append, within_of_named, complOf, hwf]
      · unfold wellFormed scalarFields pairFits
        simp (disch := decide) [complOk, complRegs, complOf, hbar, z]
  all_goals
    refine accepted_iff_says rfl (fun _ _ z => at_encENG.mpr ?_) (fun _ => within_encENG.mpr ?_) (fun _ _ => ?_)
    · simp (disch := decide) [↓at_append, z, hm, hf]
    · simp (disch := decide) [↓within_append, within_of_named]
    · unfold wellFormed scalarFields pairFits
      constructor <;> simp +contextual [-BitVec.extractLsb'_toNat]

theorem row81_says (hm : At w 56 0x81#8) (hf : At w 46 (BitVec.ofNat 6 fn)) (hr : row81 fn w size = some r) :
    Accepted 46 r w size ↔ Says size w r.instr := by
  unfold row81 at hr
  split at hr <;> cases hr
  case h_7.refl | h_8.refl =>
    refine accepted_iff_says rfl (fun _ _ z => at_encENG.mpr ?_) (fun _ => within_encENG.mpr ?_) (fun _ _ => ?_)
    · simp (disch := decide) [↓at_append, z, hm, hf]
    · simp (disch := decide) [↓within_append, within_of_named]
    · unfold wellFormed scalarFields pairFits
      simp
  case h_2.refl | h_3.refl | h_4.refl | h_6.refl =>
    -- With a register pair in C
    by_cases hbar : fld w 20 1 = 1#1
    all_goals
      simp only [complUsed, complLows, BitVec.ofNat_eq_ofNat, hbar, reduceIte]
      refine accepted_iff_says rfl (fun _ _ z => at_encENG.mpr ?_) (fun hwf => within_encENG.mpr ?_) (fun _ z => ?_)
      · simp (disch := decide) [↓at_encCompl, ↓at_append, z, hm, hf]
      · simp [wellFormed.eq_def, complOk, complOf, hbar] at hwf
        simp (disch := decide) [↓within_encCompl, ↓within_append, within_of_named, complOf, hwf]
      · unfold wellFormed scalarFields pairFits
        simp (disch := decide) [complOk, complRegs, complOf, hbar, z, pairBad_eq_false_iff, -BitVec.extractLsb'_toNat,
          -BitVec.getLsbD_extractLsb', -BitVec.getLsbD_eq_getElem]
        tauto
  all_goals
    by_cases hbar : fld w 20 1 = 1#1
    all_goals
      simp only [complUsed, complLows, BitVec.ofNat_eq_ofNat, hbar, reduceIte]
      refine accepted_iff_says rfl (fun _ _ z => at_encENG.mpr ?_) (fun hwf => within_encENG.mpr ?_) (fun _ z => ?_)
      · simp (disch := decide) [↓at_encCompl, ↓at_append, z, hm, hf]
      · simp [wellFormed.eq_def, complOk, complOf, hbar] at hwf
        simp (disch := decide) [↓within_encCompl, ↓within_append, within_of_named, complOf, hwf]
      · unfold wellFormed scalarFields pairFits
        simp (disch := decide) [complOk, complRegs, complOf, hbar, z]

theorem row82_says (hm : At w 56 0x82#8) (hf : At w 46 (BitVec.ofNat 6 fn)) (hr : row82 fn w = some r) :
    Accepted 46 r w size ↔ Says size w r.instr := by
  unfold row82 at hr
  split at hr <;> cases hr
  case h_1.refl | h_2.refl =>
    refine accepted_iff_says rfl (fun _ _ z => at_encENG.mpr ?_) (fun _ => within_encENG.mpr ?_) (fun _ _ => ?_)
    · simp (disch := decide) [↓at_append, z, hm, hf]
    · simp (disch := decide) [↓within_append, within_of_named]
    · unfold wellFormed scalarFields pairFits
      simp
  all_goals
    by_cases hbar : fld w 20 1 = 1#1
    all_goals
      simp only [complUsed, complLows, BitVec.ofNat_eq_ofNat, hbar, reduceIte]
      refine accepted_iff_says rfl (fun _ _ z => at_encENG.mpr ?_) (fun hwf => within_encENG.mpr ?_) (fun _ z => ?_)
      · simp (disch := decide) [↓at_encCompl, ↓at_append, z, hm, hf]
      · simp [wellFormed.eq_def, complOk, complOf, hbar] at hwf
        simp (disch := decide) [↓within_encCompl, ↓within_append, within_of_named, complOf, hwf]
      · unfold wellFormed scalarFields pairFits
        simp (disch := decide) [complOk, complRegs, complOf, hbar, z]

theorem row83_says (hm : At w 56 0x83#8) (hf : At w 46 (BitVec.ofNat 6 fn)) (hr : row83 fn w = some r) :
    Accepted 46 r w size ↔ Says size w r.instr := by
  unfold row83 at hr
  obtain he | he := BitVec.eq_zero_or_eq_one (fld w 0 1)
  all_goals
    simp only [BitVec.ofNat_eq_ofNat, he, BitVec.reduceEq, reduceIte] at hr
    split at hr <;> cases hr
    case h_3.refl =>
      -- BARV: B is reserved without E.
      refine accepted_iff_says rfl (fun _ _ z => at_encENG.mpr ?_) (fun hwf => within_encENG.mpr ?_) (fun _ z => ?_)
      · simp (disch := decide) [↓at_append, z, hm, hf, at_iff.mpr he]
      · simp [wellFormed.eq_def] at hwf
        simp (disch := decide) [↓within_append, within_of_named, hwf]
      · unfold wellFormed scalarFields pairFits
        simp (disch := decide) [z]
    all_goals
      refine accepted_iff_says rfl (fun _ _ z => at_encENG.mpr ?_) (fun _ => within_encENG.mpr ?_) (fun _ _ => ?_)
      · simp (disch := decide) [↓at_append, z, hm, hf]
      · simp (disch := decide) [↓within_append, within_of_named]
      · unfold wellFormed scalarFields pairFits
        constructor <;> simp +contextual

theorem rowA1_says (hm : At w 56 0xA1#8) (hf : At w 46 (BitVec.ofNat 6 fn)) (hr : rowA1 fn w = some r) :
    Accepted 46 r w size ↔ Says size w r.instr := by
  unfold rowA1 at hr
  split at hr <;> cases hr
  case h_4.refl =>
    -- RDRES
    by_cases hbar : fld w 20 1 = 1#1
    all_goals
      simp only [complUsed, complLows, BitVec.ofNat_eq_ofNat, hbar, reduceIte]
      refine accepted_iff_says rfl (fun _ _ z => at_encENG.mpr ?_) (fun hwf => within_encENG.mpr ?_) (fun _ z => ?_)
      · simp (disch := decide) [↓at_encCompl, ↓at_append, z, hm, hf]
      · simp [wellFormed.eq_def, complOk, complOf, hbar] at hwf
        simp (disch := decide) [↓within_encCompl, ↓within_append, within_of_named, complOf, hwf]
      · unfold wellFormed scalarFields pairFits
        simp (disch := decide) [complOk, complRegs, complOf, hbar, z]
  case h_1.refl =>
    -- RDOPEN
    refine accepted_iff_says rfl (fun _ _ z => at_encENG.mpr ?_) (fun _ => within_encENG.mpr ?_) (fun _ _ => ?_)
    · simp (disch := decide) [↓at_append, z, hm, hf]
    · simp (disch := decide) [↓within_append, within_of_named]
    · unfold wellFormed scalarFields pairFits
      simp [rdopenOk, -BitVec.extractLsb'_toNat]
      by_cases h8 : fld w 8 1 = 1#1 <;> by_cases h0 : fld w 0 4 = 0#4 <;> simp [h8, h0, -BitVec.extractLsb'_toNat] <;> omega
  all_goals
    refine accepted_iff_says rfl (fun _ _ z => at_encENG.mpr ?_) (fun _ => within_encENG.mpr ?_) (fun _ _ => ?_)
    · simp (disch := decide) [z, hm, hf]
    · simp (disch := decide) [within_of_named]
    · unfold wellFormed scalarFields pairFits
      simp

theorem rowA2_says (hm : At w 56 0xA2#8) (hf : At w 46 (BitVec.ofNat 6 fn)) (hr : rowA2 fn w = some r) :
    Accepted 46 r w size ↔ Says size w r.instr := by
  unfold rowA2 at hr
  split at hr <;> cases hr
  case h_3.refl =>
    -- WBHDR: A is a vector register.
    refine accepted_iff_says rfl (fun _ hb z => at_encENG.mpr ?_) (fun _ => within_encENG.mpr ?_) (fun h _ => ?_)
    · have hv : At w 45 0#1 := bit_clear_iff_at.mp (by simpa using hb)
      simp (disch := decide) [z, hm, hf, hv]
    · simp (disch := decide) [within_of_named]
    · obtain ⟨-, -, -, -, ha, -⟩ := at_encENG.mp h
      have hv := bit_clear_iff_at.mpr (at_encV.mp ha).1
      unfold wellFormed scalarFields pairFits
      simp [hv]
  all_goals
    refine accepted_iff_says rfl (fun _ _ z => at_encENG.mpr ?_) (fun _ => within_encENG.mpr ?_) (fun _ _ => ?_)
    · simp (disch := decide) [z, hm, hf]
    · simp (disch := decide) [within_of_named]
    · unfold wellFormed scalarFields pairFits
      simp [-BitVec.extractLsb'_toNat]

theorem rowA3_says (hm : At w 56 0xA3#8) (hf : At w 46 (BitVec.ofNat 6 fn)) (hr : rowA3 fn w = some r) :
    Accepted 46 r w size ↔ Says size w r.instr := by
  unfold rowA3 at hr
  split at hr <;> cases hr
  all_goals
    refine accepted_iff_says rfl (fun _ _ z => at_encENG.mpr ?_) (fun _ => within_encENG.mpr ?_) (fun _ _ => ?_)
    · simp (disch := decide) [↓at_append, z, hm, hf]
    · simp (disch := decide) [↓within_append, within_of_named]
    · unfold wellFormed scalarFields pairFits
      simp

theorem rowA0_says (hm : At w 56 0xA0#8) (hf : At w 46 (BitVec.ofNat 6 fn)) (hr : rowA0 fn w = some r) :
    Accepted 46 r w size ↔ Says size w r.instr := by
  unfold rowA0 at hr
  split at hr <;> cases hr
  case h_1.refl =>
    -- QBIND: A is reserved where KIND names no register.
    cases hA : (fld w 3 4).toNat == 0 || (decide (5 ≤ (fld w 3 4).toNat) && decide ((fld w 3 4).toNat ≤ 8))
    all_goals
      simp [-BitVec.extractLsb'_toNat] at hA
      refine accepted_iff_says rfl (fun _ _ z => at_encENG.mpr ?_) (fun hwf => within_encENG.mpr ?_) (fun _ z => ?_)
      · simp (disch := decide) [↓at_append, z, hm, hf]
    case false.refine_2 => simp (disch := decide) [↓within_append, within_of_named]
    case false.refine_3 =>
      have hk : (fld w 3 4).toNat < 9 ↔ 1 ≤ (fld w 3 4).toNat ∧ (fld w 3 4).toNat ≤ 4 := by omega
      unfold wellFormed scalarFields pairFits
      simp [hk, -BitVec.extractLsb'_toNat]
      grind
    case true.refine_2 =>
      simp [wellFormed.eq_def, -BitVec.extractLsb'_toNat] at hwf
      have ha : fld w 40 6 = 0#6 := hwf.2.resolve_left (by omega)
      simp (disch := decide) [↓within_append, within_of_named, ha]
    case true.refine_3 =>
      have hk : ¬(1 ≤ (fld w 3 4).toNat ∧ (fld w 3 4).toNat ≤ 4) := by omega
      unfold wellFormed scalarFields pairFits
      simp (disch := decide) [hk, z, -BitVec.extractLsb'_toNat]
  case h_3.refl =>
    -- SND: SCOPE is reserved without REL, LVL without BSP.
    by_cases hrel : fld w 17 1 = 1#1 <;> by_cases hbsp : fld w 14 1 = 1#1
    all_goals
      simp only [sendUsed, BitVec.ofNat_eq_ofNat, hrel, hbsp, reduceIte]
      refine accepted_iff_says rfl (fun _ _ z => at_encENG.mpr ?_) (fun hwf => within_encENG.mpr ?_) (fun _ z => ?_)
      · simp (disch := decide) [↓at_encSend, z, hm, hf]
      · simp [wellFormed.eq_def, sendOk, sendOf, hrel, hbsp] at hwf
        simp (disch := decide) [↓within_encSend, within_of_named, sendOf, hwf]
      · unfold wellFormed scalarFields pairFits
        simp (disch := decide) [sendOk, sendOf, countBad, hrel, hbsp, z, Nat.one_le_iff_ne_zero, -BitVec.extractLsb'_toNat]
  case h_4.refl =>
    -- SNDV: the same, and B is a vector register.
    by_cases hrel : fld w 17 1 = 1#1 <;> by_cases hbsp : fld w 14 1 = 1#1
    all_goals
      simp only [sendUsed, BitVec.ofNat_eq_ofNat, hrel, hbsp, reduceIte]
      refine accepted_iff_says rfl (fun _ hb z => at_encENG.mpr ?_) (fun hwf => within_encENG.mpr ?_) (fun h z => ?_)
      · have hv : At w 39 0#1 := bit_clear_iff_at.mp (hb (34, fld w 39 1 == 1) (by simp))
        simp (disch := decide) [↓at_encSend, z, hm, hf, hv]
      · simp [wellFormed.eq_def, sendOk, sendOf, hrel, hbsp] at hwf
        simp (disch := decide) [↓within_encSend, within_of_named, sendOf, hwf]
      · obtain ⟨-, -, -, -, -, hvb, -⟩ := at_encENG.mp h
        have hv := bit_clear_iff_at.mpr (at_encV.mp hvb).1
        unfold wellFormed scalarFields pairFits
        simp (disch := decide) [sendOk, sendOf, countBad, hrel, hbsp, hv, z, Nat.one_le_iff_ne_zero, -BitVec.extractLsb'_toNat]
  all_goals
    refine accepted_iff_says rfl (fun _ _ z => at_encENG.mpr ?_) (fun _ => within_encENG.mpr ?_) (fun _ _ => ?_)
    · simp (disch := decide) [↓at_append, z, hm, hf]
    · simp (disch := decide) [↓within_append, within_of_named]
    · unfold wellFormed scalarFields pairFits
      simp

end Sys2Proof
end

section
/-!
O7 and O8. Decoding and encoding undo each other on the words of 03 R88.
-/

namespace Sys2Proof

open Sys2Proof.Spec

variable {w : Word} {size : Nat}

/-- A row of the decoder accepts exactly the encodings of its instruction. -/
theorem rowOf_says {f : Format} {need : Nat} {r : Row} (h : rowOf w size = some (f, need, r)) : Accepted (fnLow f) r w size ↔ Says size w r.instr := by
  have hm : At w 56 (BitVec.ofNat 8 (fld w 56 8).toNat) := at_ofNat_toNat
  have h42 : At w 42 (BitVec.ofNat 10 (fnOf .rrr w)) := at_ofNat_toNat
  have h46 : At w 46 (BitVec.ofNat 6 (fnOf .vec w)) := at_ofNat_toNat
  unfold rowOf at h
  generalize (fld w 56 8).toNat = maj at h hm
  obtain ⟨⟨f', need'⟩, hinfo, hr⟩ := Option.bind_eq_some_iff.mp h
  obtain ⟨r', hr, heq⟩ := Option.map_eq_some_iff.mp hr
  cases heq
  unfold majInfo at hinfo
  split at hinfo <;> cases hinfo
  · exact rowRRR_says (by decide) hm h42 hr
  · exact rowRRR_says (by decide) hm h42 hr
  · exact rowRRR_says (by decide) hm h42 hr
  · exact rowRRI_says (by decide) hm h46 hr
  · exact rowRRI_says (by decide) hm h46 hr
  · exact rowRRI_says (by decide) hm h46 hr
  · exact row40_says hm h46 hr
  · exact row41_says hm h46 hr
  · exact row42_says hm h46 hr
  · exact row66_says hm h46 hr
  · exact row50_says hm h46 hr
  · exact rowRRI_says (by decide) hm h46 hr
  · exact rowRRI_says (by decide) hm h46 hr
  · exact rowVECfloat_says (by decide) hm h46 hr
  · exact rowVECmove_says (by decide) hm h46 hr
  · exact row62_says hm h46 hr
  · exact rowVECmove_says (by decide) hm h46 hr
  · exact row64_says hm h46 hr
  · exact rowVECfloat_says (by decide) hm h46 hr
  · exact row80_says hm h46 hr
  · exact row81_says hm h46 hr
  · exact row82_says hm h46 hr
  · exact row83_says hm h46 hr
  · exact rowA0_says hm h46 hr
  · exact rowA1_says hm h46 hr
  · exact rowA2_says hm h46 hr
  · exact rowA3_says hm h46 hr
  · exact rowC1_says hm h46 hr
  · exact rowRRI_says (by decide) hm h46 hr

/-- Settles O8: a word that decodes has a row that accepts it, and what a row accepts are the encodings of its instruction. -/
theorem encodeOfDecode : Obligations.EncodeOfDecode := by
  intro w priv size i h
  obtain ⟨f, need, r, hrow, -, hacc, rfl⟩ := decode_eq_ok_iff.mp h
  obtain ⟨hword, hwf, hfits, henc⟩ := (rowOf_says hrow).mp hacc
  exact ⟨hword, hwf, hfits, (at_zero_iff.mp henc).symm⟩

/-- The row of a word, from its MAJ and FN. -/
theorem rowOf_eq {m : BitVec 8} {f : Format} {need fn : Nat} {r : Row} (hm : At w 56 m) (hinfo : majInfo m.toNat = some (f, need)) (hf : fnOf f w = fn)
    (hr : row m.toNat fn w size = some r) : rowOf w size = some (f, need, r) := by
  rw [rowOf, at_iff.mp hm, hinfo, Option.bind_some, hf, hr, Option.map_some]

/-- The MAJ and FN of an encoded instruction choose its row, whose fields read the operands back. -/
theorem rowOf_of_at_encode {i : Instr} (hi : isWord i = true) (h : At w 0 (encode i)) :
    ∃ f need r, rowOf w size = some (f, need, r) ∧ need ≤ 2 ∧ r.instr = i := by
  cases i <;> cases hi
  case add | sub | mul | mulh | div | rem | and | or | xor | andn | shl | shr | sar | rot | min | max | clz | ctz | popc | bswap | ext | bfx | bfi | sel
    | mov | cmp | lea | fadd | fsub | fmul | ffma | fdiv | fsqrt | fmin | fmax | fcmp | fcvt | fclass | pset | plim | pmin | pmax | prd =>
    obtain ⟨hm, hpg, hpn, hf, hrest⟩ := at_encRRR.mp h
    refine ⟨_, _, _, rowOf_eq hm rfl (congrArg BitVec.toNat hf) rfl, by decide, ?_⟩
    simp only [↓at_encP, ↓at_encWU, ↓at_encRM, ↓at_encPos, ↓at_append, at_iff] at hpg hpn hrest
    simp only [rowAlu, rowAlu1, rowFp, guardOf, hpg, hpn, hrest]
  case addImm | subImm | mulImm | mulhImm | divImm | remImm | andImm | orImm | xorImm | andnImm | shlImm | shrImm | sarImm | rotImm | minImm | maxImm
    | cmpImm | leaImm | movi | movhi | grd | gwr | exit | yield | nop | trap | brk | mfs | mts | topo | syscall | tqpush | tret | tqpop | tqdone | tqcancel
    | tqresume | place | cxnew | cxkill | cxreclaim | cxsave | cxload | preempt | tlbinv | nameinv | halt | cfgw | cfgr | gtabw | ttabw =>
    obtain ⟨hm, hpg, hpn, hf, hrest⟩ := at_encRRI.mp h
    refine ⟨_, _, _, rowOf_eq hm rfl (congrArg BitVec.toNat hf) rfl, by decide, ?_⟩
    simp only [↓at_encP, ↓at_append, at_iff] at hpg hpn hrest
    simp only [rowImm, rowShiftImm, guardOf, hpg, hpn, hrest]
  case ld | st | ldp | stp | vld | vst | vldff | vlds | vsts | vldb =>
    obtain ⟨hm, hpg, hpn, hf, hrest⟩ := at_encMem.mp h
    refine ⟨_, _, _, rowOf_eq hm rfl (congrArg BitVec.toNat hf) rfl, by decide, ?_⟩
    simp only [↓at_encV, at_iff] at hpg hpn hrest
    simp only [memOf, ordOf, guardOf, hpg, hpn, hrest]
  case amoadd | amomin | amomax | amoand | amoor | amoxor | amoswp | amocas | amofadd | fence | sbar | vgath | vscat =>
    obtain ⟨hm, hpg, hpn, hf, hrest⟩ := at_encMEM.mp h
    refine ⟨_, _, _, rowOf_eq hm rfl (congrArg BitVec.toNat hf) rfl, by decide, ?_⟩
    simp only [↓at_encV, ↓at_append, at_iff] at hpg hpn hrest
    simp only [ordOf, guardOf, hpg, hpn, hrest]
  case br | bc | bp | call | ret | jmpr | loop =>
    obtain ⟨hm, hpg, hpn, hf, hrest⟩ := at_encBR.mp h
    refine ⟨_, _, _, rowOf_eq hm rfl (congrArg BitVec.toNat hf) rfl, by decide, ?_⟩
    simp only [↓at_encP, ↓at_append, at_iff] at hpg hpn hrest
    simp only [guardOf, hpg, hpn, hrest]
  case vadd | vsub | vmul | vfma | vfms | vmin | vmax | vabs | vneg | vclamp | vexp2 | vlog2 | vrcp | vrsq | vtanh | verf | vand | vor | vxor | vnot | vshl
    | vshr | vsar | vmulh | vcmp | vsel | vcvt | vmov | vbcast | vext | vins | viota | vcond | vshup | vshdn | vrot | vscan | vred | vmaxi | vperm | vpack
    | vunpk | vscale | vqnt =>
    obtain ⟨hm, hpg, hpn, hf, hrest⟩ := at_encVEC.mp h
    refine ⟨_, _, _, rowOf_eq hm rfl (congrArg BitVec.toNat hf) rfl, by decide, ?_⟩
    simp only [↓at_append, at_iff] at hpg hpn hrest
    simp only [guardOf, hpg, hpn, hrest]
  all_goals
    obtain ⟨hm, hpg, hpn, hf, hrest⟩ := at_encENG.mp h
    refine ⟨_, _, _, rowOf_eq hm rfl (congrArg BitVec.toNat hf) rfl, by decide, ?_⟩
    simp only [↓at_encCompl, ↓at_encSend, ↓at_encP, ↓at_encV, ↓at_append, at_iff] at hpg hpn hrest
    simp only [complOf, sendOf, guardOf, hpg, hpn, hrest]

/-- Settles O7: an encoded instruction has the row that says it, and the row accepts it. -/
theorem decodeOfEncode : Obligations.DecodeOfEncode := by
  intro i size hi hwf hfits
  obtain ⟨f, need, r, hrow, hneed, rfl⟩ := rowOf_of_at_encode hi (at_zero_iff.mpr rfl)
  exact decode_eq_ok_iff.mpr ⟨f, need, r, hrow, hneed, (rowOf_says hrow).mpr ⟨hi, hwf, hfits, at_zero_iff.mpr rfl⟩, rfl⟩

end Sys2Proof
end

section
/-!
O9. The words that the spec writes out (03 R80, R88; 04).
-/

namespace Sys2Proof.Machine

open Sys2Proof.Spec

/-- Settles O9: decode computes each of the ten answers. -/
theorem writtenWords : Obligations.WrittenWords := ⟨rfl, rfl, rfl, rfl, rfl, rfl, rfl, rfl, rfl, rfl⟩

end Sys2Proof.Machine
end

section
/-!
O10. The assigned MAJ and FN values and the privilege of a class, and the trap of a refused word (03 R88, R90 to R92).
-/

namespace Sys2Proof

open Sys2Proof.Spec

/-! ### The table of assigned words against the rows of the decoder (03 R88) -/

/-- No MAJ outside the table is assigned. -/
theorem majInfo_eq_none {m : Nat} (h : majTable.all (fun r => r.1 != m) = true) : majInfo m = none := by
  unfold majInfo
  split
  case h_30 => rfl
  all_goals exact absurd h (by decide)

/-- A MAJ of the table has its class, and a format that puts FN where R80 says. -/
theorem majInfo_of_mem {r : Nat × List Nat × Nat} (h : r ∈ majTable) :
    ∃ f, majInfo r.1 = some (f, r.2.2) ∧ fnLow f = if r.1 = 0x01 ∨ r.1 = 0x03 ∨ r.1 = 0x04 then 42 else 46 := by
  have hall : majTable.all (fun r => (majInfo r.1).map (fun p => (fnLow p.1, p.2)) ==
      some (if r.1 = 0x01 ∨ r.1 = 0x03 ∨ r.1 = 0x04 then 42 else 46, r.2.2)) = true := rfl
  obtain ⟨⟨f, need⟩, hinfo, heq⟩ := Option.map_eq_some_iff.mp (eq_of_beq (List.all_eq_true.mp hall r h))
  obtain ⟨hlow, rfl⟩ := Prod.mk.inj heq
  exact ⟨f, hinfo, hlow⟩

/-- A MAJ of the table has rows for its FN values and no others. -/
theorem row_isSome {r : Nat × List Nat × Nat} (h : r ∈ majTable) (fn : Nat) (w : Word) (size : Nat) :
    (row r.1 fn w size).isSome = r.2.1.contains fn := by
  obtain hfn | ⟨k, rfl⟩ : fn < 27 ∨ ∃ k, fn = k + 27 := by
    by_cases hfn : fn < 27
    · exact .inl hfn
    · exact .inr ⟨fn - 27, by omega⟩
  · have hall : majTable.all (fun r => (List.range 27).all fun fn => (row r.1 fn w size).isSome == r.2.1.contains fn) = true := rfl
    exact eq_of_beq (List.all_eq_true.mp (List.all_eq_true.mp hall r h) fn (List.mem_range.mpr hfn))
  · have hnone : majTable.all (fun r => (row r.1 (k + 27) w size).isNone) = true := rfl
    have hlist : majTable.all (fun r => r.2.1.all fun n => decide (n < 27)) = true := rfl
    have hr := List.all_eq_true.mp hnone r h
    have hk : (k + 27) ∉ r.2.1 := by
      intro hmem
      have := of_decide_eq_true (List.all_eq_true.mp (List.all_eq_true.mp hlist r h) _ hmem)
      omega
    rw [Option.isNone_iff_eq_none.mp hr, List.contains_eq_mem, decide_eq_false hk]
    rfl

/-- FN is the field above the lowest bit of FN. -/
theorem fnOf_eq_fnNum {f : Format} {w : Word} (h : fnLow f = fnBit w) : fnOf f w = fnNum w := by
  rw [fnNum, ← h]
  by_cases hf : f = .rrr
  · simp only [fnOf, fnLow, hf, if_true, BitVec.extractLsb'_toNat, Nat.shiftRight_eq_div_pow]
    omega
  · simp only [fnOf, fnLow, hf, if_false, BitVec.extractLsb'_toNat, Nat.shiftRight_eq_div_pow]
    omega

/-! ### Steps 1 to 3 of 03 R90 -/

theorem decode_maj_unassigned {w : Word} (h : majTable.all (fun r => r.1 != majOf w) = true) (priv size : Nat) : decode w priv size = .error ⟨false, 1, 56⟩ := by
  rw [majOf_eq_fld] at h
  simp only [decode, majInfo_eq_none h]

theorem decode_fn_unassigned {w : Word} {r : Nat × List Nat × Nat} (hr : r ∈ majTable) (hm : r.1 = majOf w) (hfn : fnNum w ∉ r.2.1) (priv size : Nat) :
    decode w priv size = .error ⟨false, 2, fnBit w⟩ := by
  obtain ⟨f, hinfo, hlow⟩ := majInfo_of_mem hr
  have hbit : fnLow f = fnBit w := by rw [hlow, fnBit, hm]
  have hrow : row r.1 (fnNum w) w size = none := by
    have := row_isSome hr (fnNum w) w size
    simpa [hfn] using this
  rw [hm, majOf_eq_fld] at hinfo hrow
  simp only [decode, hinfo, fnOf_eq_fnNum hbit, hrow, hbit]

theorem decode_class {w : Word} {r : Nat × List Nat × Nat} (hr : r ∈ majTable) (hm : r.1 = majOf w) (hfn : fnNum w ∈ r.2.1) {priv : Nat} (hp : priv < r.2.2)
    (size : Nat) : decode w priv size = .error ⟨true, r.2.2, 0⟩ := by
  obtain ⟨f, hinfo, hlow⟩ := majInfo_of_mem hr
  have hbit : fnLow f = fnBit w := by rw [hlow, fnBit, hm]
  obtain ⟨x, hrow⟩ : ∃ x, row r.1 (fnNum w) w size = some x := by
    have := row_isSome hr (fnNum w) w size
    exact Option.isSome_iff_exists.mp (by simpa [hfn] using this)
  rw [hm, majOf_eq_fld] at hinfo hrow
  simp only [decode, hinfo, fnOf_eq_fnNum hbit, hrow, hp, if_true]

end Sys2Proof

namespace Sys2Proof.Machine

open Sys2Proof.Spec

/-! ### The trap of a refused word (03 R91, 16 R384) -/

/-- A strand that is put back changed leaves all else. -/
theorem sameBut_setStrand (s : State) (a k : Nat) (t : Strand) : sameBut a k s (setStrand s a k t) := by
  refine ⟨rfl, rfl, rfl, rfl, rfl, rfl, rfl, rfl, fun b hb => ?_, fun j hj => ?_, ?_⟩
  · exact (agentAt_modAgent ..).trans (if_neg hb)
  · exact (strandAt_setStrand ..).trans (if_neg fun h => hj h.2)
  · have hx : agentAt (setStrand s a k t) a = { agentAt s a with strands := mput (agentAt s a).strands k t } := (agentAt_modAgent ..).trans (if_pos rfl)
    rw [hx]
    exact ⟨rfl, rfl, rfl, rfl, rfl, rfl⟩

theorem dropFailedWalks_nil {s : State} (h : s.net.walks = []) : dropFailedWalks s = s := by
  have hw : s.net.walks.filter (fun w => !(w.failed && w.who == .strand s.env.agent s.env.strand)) = s.net.walks := by rw [h]; rfl
  unfold dropFailedWalks
  rw [hw]

/-- Settles O10: the tables of MAJ and FN agree with the rows, and a refused word is one trap entry. -/
theorem wordsAndRefusals : Obligations.WordsAndRefusals := by
  refine ⟨fun w priv size => ⟨fun h => decode_maj_unassigned h priv size, fun r hr hm =>
    ⟨fun hfn => decode_fn_unassigned hr hm hfn priv size, fun hfn hp => decode_class hr hm hfn hp size⟩⟩, ?_⟩
  intro s w e hdec hepi hdepth hwalks
  have herr : decodeFor s w = .error e := by simp only [decodeFor, hdec]
  have hdrop : dropFailedWalks ((decodeTrap e).post s) = s := dropFailedWalks_nil hwalks
  have htrap := takeTrap_strand (s := s) (t := decodeTrap e) (by rw [hdrop]; exact hepi)
  rw [hdrop] at htrap
  refine ⟨_, execWord_error herr, ?_⟩
  rw [htrap]
  dsimp only
  rw [trapEntry_first hdepth]
  refine ⟨sameBut_setStrand .., ?_⟩
  have hcur : ∀ t, cur (setStrand s s.env.agent s.env.strand t) = t := fun t => (strandAt_setStrand ..).trans (if_pos ⟨rfl, rfl⟩)
  rw [hcur]
  refine ⟨⟨rfl, rfl, rfl, rfl, rfl, rfl, rfl, rfl, rfl, rfl, rfl⟩, rfl, ?_⟩
  cases hp : e.priv <;> simp only [decodeTrap, hp] <;> rfl

end Sys2Proof.Machine
end

section
/-!
O18. Effective addresses, and the checks before an access in their order (03 R87, 04 R119, 10 R273).
-/

namespace Sys2Proof.Machine

open Sys2Proof.Spec

/-! ### Effective addresses (03 R87) -/

theorem baseOf_eq_ok_iff {f : Reg} {s t : State} {v : Word} : baseOf f s = .ok (v, t) ↔ baseRead f s v t := by
  unfold baseRead
  split
  · next h =>
    subst h
    rw [baseOf_none]
    constructor
    · rintro ⟨⟩
      exact ⟨rfl, rfl⟩
    · rintro ⟨rfl, rfl⟩
      rfl
  · next h => rw [baseOf_reg h]

theorem effectiveAddress_eq_ok_iff {m : MemOp} {s t : State} {a : Word} : effectiveAddress m s = .ok (a, t) ↔ addressOf m s a t := by
  have hscale : ∀ x : Word, x * BitVec.ofNat 64 (2 ^ m.scl.toNat) = x <<< m.scl.toNat := fun x => by
    apply BitVec.eq_of_toNat_eq
    simp [Nat.shiftLeft_eq]
  constructor
  · intro h
    obtain ⟨b, u, hb, h⟩ := bind_eq_ok.mp h
    obtain ⟨x, v, hx, h⟩ := bind_eq_ok.mp h
    cases h
    exact ⟨b, x, u, baseOf_eq_ok_iff.mp hb, baseOf_eq_ok_iff.mp hx, by rw [hscale]⟩
  · rintro ⟨b, x, u, hb, hx, rfl⟩
    rw [effectiveAddress_run (baseOf_eq_ok_iff.mpr hb) (baseOf_eq_ok_iff.mpr hx), hscale]

/-! ### Regions (10 R273) -/

/-- The tile's own local store and vault. -/
theorem checkAddr_localKey {nd : Need} {a : Word} {al k : Nat} {s : State} (hal : a.toNat % al = 0) (h : localKey s a = some k) :
    checkAddr nd a al s = .ok (⟨k, true, none⟩, s) := by
  unfold localKey at h
  split at h
  · cases h
  next hcore =>
    split at h
    next hls =>
      cases h
      exact checkAddr_ls hal (by simp [regionOf, hcore, lsBytes, hls])
    next hls =>
      split at h
      next hv =>
        have hr : regionOf (isCore s.env.agent) a.toNat = .vault (a.toNat - 0x800000) := by
          rw [regionOf, lsBytes, if_neg hcore, if_neg hls, if_neg (Nat.not_lt.mpr hv.1), if_pos hv.2]
        rw [← Option.some.inj h]
        exact checkAddr_vault hal hr
      · cases h

/-- Every other address below the vaults by name, between them and the context addresses, and above those, is a local store by name or has no region. -/
theorem regionOf_other {s : State} {a : Word} (hcore : isCore s.env.agent = false) (hk : localKey s a = none)
    (ha : a.toNat < 2 ^ 46 ∨ (2 ^ 46 + 2 ^ 37 ≤ a.toNat ∧ a.toNat < 2 ^ 48) ∨ 2 ^ 56 ≤ a.toNat) :
    (∃ n off, regionOf (isCore s.env.agent) a.toNat = .remLs n off) ∨ regionOf (isCore s.env.agent) a.toNat = .unmapped := by
  unfold localKey at hk
  rw [if_neg (by simp [hcore])] at hk
  split at hk
  · cases hk
  next hls =>
    split at hk
    · cases hk
    next hv =>
      unfold regionOf lsBytes
      rw [if_neg (by simp [hcore])]
      generalize a.toNat = x at *
      split_ifs
      · exact .inr rfl
      · omega
      · exact .inr rfl
      · exact .inl ⟨_, _, rfl⟩
      · exact .inr rfl
      · omega
      · exact .inr rfl
      · omega
      · exact .inr rfl

theorem regionOf_remVault {x : Nat} (h1 : 2 ^ 46 ≤ x) (h2 : x < 2 ^ 46 + 2 ^ 37) : regionOf false x = .remVault (x / 2 ^ 23 % 2 ^ 14) (x % 2 ^ 23) := by
  unfold regionOf lsBytes
  simp only [Bool.false_eq_true, if_false]
  rw [if_neg (by omega), if_neg (by omega), if_neg (by omega), if_neg (by omega), if_neg (by omega), if_neg (by omega), if_pos h2]

theorem regionOf_virt {x : Nat} (h1 : 2 ^ 48 ≤ x) (h2 : x < 2 ^ 56) : regionOf false x = .virt x := by
  unfold regionOf lsBytes
  simp only [Bool.false_eq_true, if_false]
  rw [if_neg (by omega), if_neg (by omega), if_neg (by omega), if_neg (by omega), if_neg (by omega), if_neg (by omega), if_neg (by omega), if_neg (by omega),
    if_pos h2]

/-- A local store by name has no mapping of its own. -/
theorem checkAddr_remLs {nd : Need} {a : Word} {al n off : Nat} {s : State} (h : a.toNat % al = 0)
    (hr : regionOf (isCore s.env.agent) a.toNat = .remLs n off) :
    checkAddr nd a al s = .error (.trap ⟨nd.mapCause, some a, BitVec.ofNat 64 (1 + nd.extra), none, 0, id, false⟩) := by
  simp [checkAddr, h, run_bind, hr]

/-! ### Names (14 R345) -/

/-- The region of the strand's context. -/
def ownRegion (s : State) : Word := match (cur s).tag with
  | some t => (ctxAt s t.cx.toNat).region
  | none => 0

theorem resolveName_outside {n : Nat} {s : State} (h : 9216 ≤ n ∨ inRegion (ownRegion s) n = false) : resolveName n s = .ok (none, s) := by
  have h' : 9216 ≤ n ∨ ¬ inRegion (ownRegion s) n = true := by simpa using h
  unfold resolveName
  rw [getS_bind]
  exact if_pos h' ▸ rfl

theorem resolveName_cached {n : Nat} {s : State} {e : NameEntry} (h1 : n < 9216) (h2 : inRegion (ownRegion s) n = true)
    (he : (curAgent s).ni.names.find? (fun e => e.name == n) = some e) : ∃ t, resolveName n s = .ok (entryPhys e.entry, t) ∧ t.mem = s.mem := by
  have h' : ¬(9216 ≤ n ∨ ¬ inRegion (ownRegion s) n = true) := by simp [h2]; omega
  refine ⟨modCurAgent s (fun x => { x with ni := { x.ni with names := e :: x.ni.names.filter (fun e => e.name != n) } }), ?_, rfl⟩
  unfold resolveName
  rw [getS_bind]
  refine (congrFun (if_neg h') s).trans ?_
  simp only [he]
  rfl

/-- A name that is not mapped for the context traps. -/
theorem checkAddr_unnamed {nd : Need} {a : Word} {al n off : Nat} {s t : State} (h : a.toNat % al = 0)
    (hr : regionOf (isCore s.env.agent) a.toNat = .remVault n off) (hn : resolveName n s = .ok (none, t)) :
    checkAddr nd a al s = .error (.trap ⟨cNAME, some a, BitVec.ofNat 64 (n + nd.extra), none, 0, id, false⟩) := by
  simp [checkAddr, h, run_bind, hr, hn]

theorem checkAddr_named {nd : Need} {a : Word} {al n off p : Nat} {s t : State} (h : a.toNat % al = 0)
    (hr : regionOf (isCore s.env.agent) a.toNat = .remVault n off) (hn : resolveName n s = .ok (some p, t)) :
    checkAddr nd a al s = .ok (⟨keyVault p off, p == s.env.agent, none⟩, t) := by
  simp [checkAddr, h, run_bind, hr, hn]

/-! ### Translations (15 R363, R365; 18 R407) -/

theorem translate_cached {va access : Nat} {w quiet : Bool} {s : State} {e : TlbE} (hw : s.net.walks = [])
    (he : tlbFind s s.env.agent ((cur s).tag.getD default) va access w = some e) : ∃ t, translate va access w quiet s = .ok (some e, t) ∧ t.mem = s.mem := by
  refine ⟨modCurAgent s (fun x => { x with tlb := tlbInsert 32 x.tlb e }), ?_, rfl⟩
  unfold translate
  rw [getS_bind, hw]
  simp only [List.find?_nil, he]
  rfl

/-- What the leaf and the seal of its frame permit. -/
theorem encOk_iff {s : State} {t : Tag} {e : TlbE} {va : Nat} : encOk s t e va = true ↔ (leafEnc e.leaf = true → sealOf s (leafKey e va) = some t.cx.toNat) := by
  simp [encOk, imp_iff_not_or]

section
variable {nd : Need} {a : Word} {al va : Nat} {s t : State} {e : TlbE}

theorem checkAddr_unreadable (h : a.toNat % al = 0) (hr : regionOf (isCore s.env.agent) a.toNat = .virt va)
    (ht : translate va nd.access nd.w nd.quiet s = .ok (some e, t)) (hread : nd.r = true)
    (hno : leafR e.leaf = false ∨ encOk s ((cur s).tag.getD default) e va = false) :
    checkAddr nd a al s = .error (.trap ⟨cLOAD, some a, BitVec.ofNat 64 (3 + nd.extra), none, 0, id, false⟩) := by
  simp [checkAddr, h, run_bind, hr, ht, hread, hno]

theorem checkAddr_unwritable (h : a.toNat % al = 0) (hr : regionOf (isCore s.env.agent) a.toNat = .virt va)
    (ht : translate va nd.access nd.w nd.quiet s = .ok (some e, t))
    (hread : nd.r = true → leafR e.leaf = true ∧ encOk s ((cur s).tag.getD default) e va = true) (hwrite : nd.w = true)
    (hno : leafW e.leaf = false ∨ encOk s ((cur s).tag.getD default) e va = false) :
    checkAddr nd a al s = .error (.trap ⟨cSTORE, some a, BitVec.ofNat 64 (3 + nd.extra), none, 0, id, false⟩) := by
  have hok : ¬(nd.r = true ∧ (leafR e.leaf = false ∨ encOk s ((cur s).tag.getD default) e va = false)) := by
    rintro ⟨hr, hf⟩
    simp [hread hr] at hf
  rw [hwrite] at ht
  simp [checkAddr, h, run_bind, run_map, hr, ht, hok, hwrite, hno]

theorem checkAddr_permitted (h : a.toNat % al = 0) (hr : regionOf (isCore s.env.agent) a.toNat = .virt va)
    (ht : translate va nd.access nd.w nd.quiet s = .ok (some e, t))
    (hread : nd.r = true → leafR e.leaf = true ∧ encOk s ((cur s).tag.getD default) e va = true)
    (hwrite : nd.w = true → leafW e.leaf = true ∧ encOk s ((cur s).tag.getD default) e va = true) :
    checkAddr nd a al s = .ok (⟨leafKey e va, false, some va⟩, t) := by
  have hokr : ¬(nd.r = true ∧ (leafR e.leaf = false ∨ encOk s ((cur s).tag.getD default) e va = false)) := by
    rintro ⟨hr, hf⟩
    simp [hread hr] at hf
  have hokw : ¬(nd.w = true ∧ (leafW e.leaf = false ∨ encOk s ((cur s).tag.getD default) e va = false)) := by
    rintro ⟨hr, hf⟩
    simp [hwrite hr] at hf
  simp [checkAddr, h, run_bind, hr, ht, hokr, hokw]

end

/-- Settles O18: the address of an operand field by field, and the checks region by region. -/
theorem addressAndChecks : Obligations.AddressAndChecks := by
  refine ⟨fun m s a t => effectiveAddress_eq_ok_iff, fun nd a al s => ⟨fun h => checkAddr_misaligned h s, fun hal =>
    ⟨fun k hk => checkAddr_localKey hal hk, ?_, ?_, ?_, ?_⟩⟩⟩
  · intro hcore
    split
    next hin => exact checkAddr_module hal (by rw [hcore]; exact if_pos hin)
    next hin => exact checkAddr_unmapped hal (by rw [hcore]; exact if_neg hin)
  · intro hcore hk ha
    obtain ⟨n, off, hr⟩ | hr := regionOf_other hcore hk ha
    · exact checkAddr_remLs hal hr
    · exact checkAddr_unmapped hal hr
  · intro hcore h1 h2
    have hr : regionOf (isCore s.env.agent) a.toNat = .remVault (a.toNat / 2 ^ 23 % 2 ^ 14) (a.toNat % 2 ^ 23) := by rw [hcore, regionOf_remVault h1 h2]
    refine ⟨fun hn => checkAddr_unnamed hal hr (resolveName_outside hn), fun e hn hin he => ?_⟩
    obtain ⟨t, hname, hmem⟩ := resolveName_cached hn hin he
    refine ⟨fun hbit => checkAddr_unnamed hal hr (t := t) (hname.trans (by rw [entryPhys, hbit]; rfl)), fun p hp => ⟨t, ?_, hmem⟩⟩
    exact checkAddr_named hal hr (hname.trans (by rw [hp]))
  · intro hcore h1 h2 tag hwalks e he enc
    have hr : regionOf (isCore s.env.agent) a.toNat = .virt a.toNat := by rw [hcore, regionOf_virt h1 h2]
    obtain ⟨t, ht, hmem⟩ := translate_cached (quiet := nd.quiet) hwalks he
    have henc : encOk s tag e a.toNat = true ↔ enc := encOk_iff
    refine ⟨fun ⟨hread, hno⟩ => checkAddr_unreadable hal hr ht hread ?_, fun hread ⟨hwrite, hno⟩ => checkAddr_unwritable hal hr ht ?_ hwrite ?_,
      fun hread hwrite => ⟨t, checkAddr_permitted hal hr ht ?_ ?_, hmem⟩⟩
    · rw [← henc] at hno
      simpa [imp_iff_not_or] using hno
    · simpa only [← henc] using hread
    · rw [← henc] at hno
      simpa [imp_iff_not_or] using hno
    · simpa only [← henc] using hread
    · simpa only [← henc] using hwrite

end Sys2Proof.Machine
end

section
/-!
O30. Posted faults: the words that raise one before anything else, and the fault that they raise (06 R168, R169; 07 R205; 04 R131).
-/

namespace Sys2Proof.Machine

open Sys2Proof.Spec

/-! ### The class of a word -/

theorem majOf_encRRR (m fn g d a b c o) : majOf (encRRR m fn g d a b c o) = m.toNat := by rw [majOf_eq_fld, maj_rrr]
theorem majOf_encRRI (m fn g d a o) : majOf (encRRI m fn g d a o) = m.toNat := by rw [majOf_eq_fld, maj_rri]
theorem majOf_encENG (m fn g a b c o) : majOf (encENG m fn g a b c o) = m.toNat := by rw [majOf_eq_fld, maj_eng]
theorem majOf_encBR (fn g c a b o) : majOf (encBR fn g c a b o) = 0x50 := by rw [majOf_eq_fld, maj_br]; rfl

/-- The class at which the words of a MAJ raise posted faults; EXIT, one word among others of its MAJ, is not here. -/
def majClass (m : Nat) : Option Nat :=
  if 0x80 ≤ m ∧ m ≤ 0x83 then some 0 else if m = 0xA1 then some 1 else if m = 0xA3 then some 3 else none

/-- A word other than EXIT has the class of its MAJ. -/
theorem raiseClass_word {i : Instr} {m : Nat} (hw : isWord i = true) (hx : ∀ g a, i ≠ .exit g a) (hm : majOf (encode i) = m) :
    raiseClass i = (majClass m).map (fun c => (guardOf (encode i), c)) := by
  unfold raiseClass majClass
  simp only [hw, hm, Bool.not_true, Bool.false_eq_true, if_false]
  split_ifs <;> rfl

/-- An engine, network or domain word raises at the class of its MAJ, under the guard that it encodes. -/
theorem raiseClass_engine {i : Instr} {g g' : Guard} {c cls m fn} {x y z : Reg} {o} (h : raiseClass i = some (g, c)) (hw : isWord i = true)
    (hx : ∀ g a, i ≠ .exit g a) (he : encode i = encENG m fn g' x y z o) (hc : majClass m.toNat = some cls) : g' = g ∧ cls = c := by
  rw [raiseClass_word hw hx (he ▸ majOf_encENG ..), hc, he, guardOf_encENG] at h
  simpa using h

theorem raiseClass_exit (g : Guard) (a : BitVec 1) : raiseClass (.exit g a) = some (g, 4) := by
  have hm : majOf (encode (.exit g a)) = 0x52 := majOf_encRRI ..
  unfold raiseClass
  simp only [hm]
  rfl

/-- A word of another MAJ raises none. -/
theorem not_raiseClass {i : Instr} {p : Guard × Nat} {m : Nat} (h : raiseClass i = some p) (hw : isWord i = true) (hx : ∀ g a, i ≠ .exit g a)
    (hm : majOf (encode i) = m) (hc : majClass m = none) : False := by
  rw [raiseClass_word hw hx hm, hc] at h
  cases h

/-- Where a word of a class executes and the class has a fault to raise, the word is that trap. -/
theorem exec_raisePosted {i : Instr} {g : Guard} {c : Nat} {s : State} {t : Trap} (h : raiseClass i = some (g, c)) (he : executes (cur s) g = true)
    (hp : raisePosted c s = .error (.trap t)) : exec i s = .next (takeTrap s t) := by
  cases i with
  | mxcfg | mxzero | mxldw | mxpass | mxarm | mxdisarm | mxdrain | mxramp | mxwait | mxpert | mxstat | cpy | cpy2d | cpyg | cpys | cpyf | cpym | cpstat
  | cpwait | ctcfg | wopen | wadv | wsync | wclose | binit | bexp | barv | bwait | btest | rdopen | rdcs | rdcb | rdres | dsync | darv | dwait | spawn
  | swait =>
    obtain ⟨rfl, rfl⟩ := raiseClass_engine h rfl nofun rfl rfl
    exact runWord_trap (engine_raise he hp _ _)
  | exit g' _ =>
    obtain ⟨rfl, rfl⟩ := Prod.mk.inj (Option.some.inj ((raiseClass_exit ..).symm.trans h))
    refine runWord_trap ?_
    rw [scalar_run_nil he]
    exact run_bind_error hp _
  | add | sub | mul | mulh | div | rem | and | or | xor | andn | shl | shr | sar | rot | min | max | clz | ctz | popc | bswap | ext | bfx | bfi | sel
  | mov | cmp | lea | fadd | fsub | fmul | ffma | fdiv | fsqrt | fmin | fmax | fcmp | fcvt | fclass | pset | plim | pmin | pmax | prd =>
    exact (not_raiseClass h rfl nofun (majOf_encRRR ..) rfl).elim
  | addImm | subImm | mulImm | mulhImm | divImm | remImm | andImm | orImm | xorImm | andnImm | shlImm | shrImm | sarImm | rotImm | minImm | maxImm
  | cmpImm | leaImm | movi | movhi | grd | gwr | yield | nop | trap | brk | mfs | mts | topo | syscall | tqpush | tret | tqpop | tqdone | tqcancel
  | tqresume | place | cxnew | cxkill | cxreclaim | cxsave | cxload | preempt | tlbinv | nameinv | halt | cfgw | cfgr | gtabw | ttabw =>
    exact (not_raiseClass h rfl nofun (majOf_encRRI ..) rfl).elim
  | ld | st | ldp | stp | amoadd | amomin | amomax | amoand | amoor | amoxor | amoswp | amocas | amofadd | fence | sbar
  | vld | vst | vldff | vlds | vsts | vldb | vgath | vscat =>
    exact (not_raiseClass h rfl nofun (majOf_encMEM ..) rfl).elim
  | br | bc | bp | call | ret | jmpr | loop => exact (not_raiseClass h rfl nofun (majOf_encBR ..) rfl).elim
  | qbind | qstat | snd | sndv | inj | injc | wbhdr | wbpop | wbrel | wdrive | wdstop => exact (not_raiseClass h rfl nofun (majOf_encENG ..) rfl).elim
  | vadd | vsub | vmul | vfma | vfms | vmin | vmax | vabs | vneg | vclamp | vexp2 | vlog2 | vrcp | vrsq | vtanh | verf | vand | vor | vxor | vnot | vshl
  | vshr | vsar | vmulh | vcmp | vsel | vcvt | vmov | vbcast | vext | vins | viota | vcond | vshup | vshdn | vrot | vscan | vred | vmaxi | vperm | vpack
  | vunpk | vscale | vqnt => exact (not_raiseClass h rfl nofun (majOf_encVEC ..) rfl).elim
  | _ => exact nomatch (h : none = some (g, c))

/-! ### The fault that is raised -/

theorem raises_eq_raisable : raises = raisable := rfl

/-- What goes with an engine fault that is raised: the engine faults posted after it. -/
theorem length_sub_filter_not {α : Type} (p : α → Bool) (l : List α) : l.length - (l.filter (fun x => !p x)).length = (l.filter p).length := by
  have := List.length_eq_length_filter_add (l := l) p
  omega

theorem raisePosted_error {c : Nat} {s : State} {p : Posted} (hr : (cur s).reply = none)
    (hp : (cur s).eng.posted.find? (raisable (cur s).eng.posted c) = some p) :
    let others := (cur s).eng.posted.erase p
    let rest := if p.isEngine then others.filter (fun q => !q.isEngine) else others
    let more := if p.isEngine then min 255 (others.filter Posted.isEngine).length else 0
    raisePosted c s = .error (.trap ⟨p.cause.toNat, some p.addr, p.info ||| BitVec.ofNat 64 (more * 2 ^ 56), none, 0,
      fun s => modCur s (fun t => { t with eng := { t.eng with posted := rest } }), false⟩) := by
  cases h : p.isEngine <;> simp [raisePosted, hr, hp, h, length_sub_filter_not]

/-- Settles O30. -/
theorem postedFaultRaised : Obligations.PostedFaultRaised := by
  intro i g c hc s he hr p hp
  rw [raises_eq_raisable] at hp
  have hengine : p.isEngine = decide (p.cause = 0x0B) := Bool.beq_eq_decide_eq ..
  have hraise := raisePosted_error hr hp
  simp only [hengine] at hraise
  exact exec_raisePosted hc he hraise

end Sys2Proof.Machine
end

section
/-!
O33. One update of a barrier in memory: the fields of its first word as numbers, and the word that the update stores (06 R201).
-/

namespace Sys2Proof.Machine

open Sys2Proof.Spec

/-! ### Words as numbers -/

/-- Two fields one above the other, as a number. -/
theorem toNat_append_add {n k : Nat} (x : BitVec n) (y : BitVec k) : (x ++ y).toNat = x.toNat * 2 ^ k + y.toNat := by
  rw [BitVec.toNat_append, ← Nat.shiftLeft_add_eq_or_of_lt y.isLt, Nat.shiftLeft_eq]

/-- The model's signed reading of w bits is that of a bit vector. -/
theorem intOf_true {w : Nat} (x : BitVec (w + 1)) : intOf true (w + 1) x.toNat = x.toInt := by
  have hlt := x.isLt
  rw [BitVec.toInt_eq_toNat_cond, intOf, Nat.mod_eq_of_lt hlt, Nat.add_sub_cancel, Nat.pow_succ]
  simp only [Bool.true_and, decide_eq_true_eq]
  split_ifs
  · omega
  · push_cast; rfl
  · rfl
  · omega

theorem bitsOf_eq_toNat (w : Nat) (v : Int) : bitsOf w v = (BitVec.ofInt w v).toNat := by
  rw [bitsOf, BitVec.toNat_ofInt]
  push_cast
  rfl

/-- The lowest byte of a word at a key. -/
theorem readNat_one_mod (m : Memory) (k : Nat) : readNat m k 1 % 128 = ((readWord m k).extractLsb' 0 7).toNat := by
  have h8 : readNat m k 8 = readNat m k 1 + 256 * readNat m (k + 1) 7 := by
    simp only [readNat, readBytes, leNat, Nat.mul_zero, Nat.add_zero]
  rw [BitVec.extractLsb'_toNat, readWord, BitVec.toNat_ofNat, h8]
  omega

/-! ### The update -/

/-- The first word of a barrier from its phase, its arrivals and its bytes. -/
theorem barrier_word (p : BitVec 1) {arr : Nat} (h : arr < 128) (v : Int) :
    BitVec.ofNat 64 (p.toNat * 2 ^ 63 + arr * 2 ^ 56 + bitsOf 56 v) = p ++ BitVec.ofNat 7 arr ++ BitVec.ofInt 56 v := by
  have hp := p.isLt
  have hv := (BitVec.ofInt 56 v).isLt
  apply BitVec.eq_of_toNat_eq
  rw [toNat_append_add, toNat_append_add, bitsOf_eq_toNat, BitVec.toNat_ofNat, BitVec.toNat_ofNat, Nat.mod_eq_of_lt (a := arr) h]
  omega

theorem extractLsb'_one (w : Word) (i : Nat) : w.extractLsb' i 1 = BitVec.ofBool (w.getLsbD i) := by
  ext j hj
  obtain rfl : j = 0 := by omega
  simp

/-- The bit of a barrier's phase. -/
theorem phase_toNat (b : Bool) : (if b then 2 ^ 63 else 0) = (BitVec.ofBool b).toNat * 2 ^ 63 := by cases b <;> rfl

/-- What the model's update does is what R201 says: the code of a fault, or the new word at the barrier's key. -/
theorem barUpdate_eq (m : Memory) (k : Nat) (arrive : Bool) (d : Int) :
    barUpdate m k arrive d = match barrierUpdate m k arrive d with
      | .inl c => (c, m)
      | .inr w => (0, writeWord m k w) := by
  have hbal : intOf true 56 ((readWord m k).toNat % 2 ^ 56) = ((readWord m k).extractLsb' 0 56).toInt := by
    rw [← intOf_true, BitVec.extractLsb'_toNat, Nat.shiftRight_zero]
  have harr : (if arrive = true then ((readWord m k).extractLsb' 56 7).toNat - 1 else ((readWord m k).extractLsb' 56 7).toNat) =
      ((readWord m k).extractLsb' 56 7).toNat - if arrive = true then 1 else 0 := by split <;> rfl
  unfold barUpdate barrierUpdate
  simp only [hbal, harr, readNat_one_mod, Bool.and_eq_true, beq_iff_eq]
  generalize ((readWord m k).extractLsb' 0 56).toInt + d = v
  have hlt : ((readWord m k).extractLsb' 56 7).toNat - (if arrive = true then 1 else 0) < 128 :=
    Nat.lt_of_le_of_lt (Nat.sub_le ..) ((readWord m k).extractLsb' 56 7).isLt
  by_cases hover : arrive = true ∧ ((readWord m k).extractLsb' 56 7).toNat = 0
  · simp only [hover, and_self, if_true]
  by_cases hrange : v < -2 ^ 55 ∨ 2 ^ 55 - 1 < v
  · simp only [if_neg hover, gt_iff_lt, if_pos hrange]
  simp only [if_neg hover, gt_iff_lt, if_neg hrange]
  by_cases hflip : ((readWord m k).extractLsb' 56 7).toNat - (if arrive = true then 1 else 0) = 0 ∧ v = 0
  · have hcount : ((readWord m (k + 8)).extractLsb' 0 7).toNat < 128 := BitVec.isLt _
    simp only [if_pos hflip, extractLsb'_one, BitVec.not_ofBool, phase_toNat, barrier_word _ hcount, BitVec.ofNat_toNat, BitVec.setWidth_eq]
  · simp only [if_neg hflip, extractLsb'_one, phase_toNat, barrier_word _ hlt]

theorem readByte_writeWord_other (m : Memory) {k b : Nat} (w : Word) (h : b < k ∨ k + 8 ≤ b) : readByte (writeWord m k w) b = readByte m b :=
  readByte_writeNat_other m k 8 _ h

/-- Settles O33. -/
theorem barrierUpdate : Obligations.BarrierUpdate := by
  intro m k arrive d
  have h := barUpdate_eq m k arrive d
  cases hu : Spec.barrierUpdate m k arrive d with
  | inl c => simpa only [hu] using h
  | inr w =>
    simp only [hu] at h
    rw [h]
    exact ⟨rfl, readWord_writeWord .., fun b hb => readByte_writeWord_other m w hb⟩

end Sys2Proof.Machine
end

section
/-!
SUPPORT for O31, O32 and O34. What the reads of an instruction's operands leave as it was (01 R21 to R25), and an engine instruction with nothing to raise.
-/

namespace Sys2Proof.Machine

open Sys2Proof.Spec

/-! ### What reading operands keeps -/

/-- A strand of which only the completion queues differ. -/
def sameButQueues (t u : Strand) : Prop := ∃ c m e, u = { t with eng := { t.eng with ccq := c, mcq := m, ceq := e } }

theorem sameButQueues.refl (t : Strand) : sameButQueues t t := ⟨_, _, _, rfl⟩

theorem sameButQueues.trans {t u v : Strand} (h1 : sameButQueues t u) (h2 : sameButQueues u v) : sameButQueues t v := by
  obtain ⟨_, _, _, rfl⟩ := h1
  obtain ⟨c, m, e, rfl⟩ := h2
  exact ⟨c, m, e, rfl⟩

/-- What the reads of operands keep: they pop ports, look up names and acquire, and change nothing else. -/
structure OperandsRead (s t : State) : Prop where
  env : t.env = s.env
  mem : t.mem = s.mem
  os : t.os = s.os
  pool : (curAgent t).pool = (curAgent s).pool
  mx : (curAgent t).mx = (curAgent s).mx
  strand : sameButQueues (cur s) (cur t)

theorem OperandsRead.refl (s : State) : OperandsRead s s := ⟨rfl, rfl, rfl, rfl, rfl, .refl _⟩

theorem OperandsRead.trans {s t u : State} (h1 : OperandsRead s t) (h2 : OperandsRead t u) : OperandsRead s u :=
  ⟨h2.env.trans h1.env, h2.mem.trans h1.mem, h2.os.trans h1.os, h2.pool.trans h1.pool, h2.mx.trans h1.mx, h1.strand.trans h2.strand⟩

/-- A change of the current agent that keeps its registers, its MXE and, but for completion queues, the current strand. -/
theorem OperandsRead.of_modCurAgent {s : State} {f : Agent → Agent} (hpool : (f (curAgent s)).pool = (curAgent s).pool)
    (hmx : (f (curAgent s)).mx = (curAgent s).mx) (hstrand : sameButQueues (cur s) (strandOf (f (curAgent s)) s.env.strand)) :
    OperandsRead s (modCurAgent s f) := by
  have hcur : cur (modCurAgent s f) = strandOf (f (curAgent s)) s.env.strand := by
    show strandOf (curAgent (modCurAgent s f)) s.env.strand = _
    rw [curAgent_modCurAgent]
  exact ⟨rfl, rfl, rfl, by rwa [curAgent_modCurAgent], by rwa [curAgent_modCurAgent], by rwa [hcur]⟩

/-- A change of the current agent that keeps its registers, its MXE and its strands. -/
theorem OperandsRead.of_strands {s : State} {f : Agent → Agent} (hpool : (f (curAgent s)).pool = (curAgent s).pool)
    (hmx : (f (curAgent s)).mx = (curAgent s).mx) (hstrands : (f (curAgent s)).strands = (curAgent s).strands) : OperandsRead s (modCurAgent s f) := by
  refine .of_modCurAgent hpool hmx ?_
  rw [strandOf, hstrands]
  exact .refl _

section
variable {s t : State} (h : OperandsRead s t)
include h

theorem OperandsRead.curReg (f : Nat) : curReg t f = Machine.curReg s f := by
  obtain ⟨_, _, _, hc⟩ := h.strand
  have hbase : (cur t).base = (cur s).base := by rw [hc]
  show mget 0 (curAgent t).pool ((cur t).base.toNat + f) = mget 0 (curAgent s).pool ((cur s).base.toNat + f)
  rw [h.pool, hbase]

theorem OperandsRead.sys : (cur t).sys = (cur s).sys := by
  obtain ⟨_, _, _, hc⟩ := h.strand
  rw [hc]

theorem OperandsRead.tag : (cur t).tag = (cur s).tag := by
  obtain ⟨_, _, _, hc⟩ := h.strand
  rw [hc]

theorem OperandsRead.mxq : (cur t).eng.mxq = (cur s).eng.mxq := by
  obtain ⟨_, _, _, hc⟩ := h.strand
  rw [hc]

theorem OperandsRead.ct : (cur t).eng.ct = (cur s).eng.ct := by
  obtain ⟨_, _, _, hc⟩ := h.strand
  rw [hc]

theorem OperandsRead.copies : (cur t).eng.copies = (cur s).eng.copies := by
  obtain ⟨_, _, _, hc⟩ := h.strand
  rw [hc]

end

/-! ### Reads keep it -/

theorem settleHeaders_keeps (n : Nat) (x : Agent) :
    (settleHeaders n x).pool = x.pool ∧ (settleHeaders n x).mx = x.mx ∧ (settleHeaders n x).strands = x.strands := by
  induction n generalizing x with
  | zero => exact ⟨rfl, rfl, rfl⟩
  | succ n ih =>
    unfold settleHeaders
    split
    · exact ⟨rfl, rfl, rfl⟩
    · split
      · exact ⟨rfl, rfl, rfl⟩
      · exact ih _

theorem dropFirst_keeps (x : Agent) (k : Nat) (b : Binding) :
    (dropFirst x k b).pool = x.pool ∧ (dropFirst x k b).mx = x.mx ∧ sameButQueues (strandOf x k) (strandOf (dropFirst x k b) k) := by
  have same : ∀ y : Agent, y.strands = x.strands → sameButQueues (strandOf x k) (strandOf y k) := fun y h => by
    rw [show strandOf y k = strandOf x k by rw [strandOf, h, strandOf]]
    exact .refl _
  unfold dropFirst
  dsimp only
  split
  · exact ⟨rfl, rfl, same _ rfl⟩
  · exact ⟨rfl, rfl, same _ rfl⟩
  · exact ⟨rfl, rfl, _, _, _, strandOf_mput_same ..⟩
  · exact ⟨rfl, rfl, _, _, _, strandOf_mput_same ..⟩
  · obtain ⟨hpool, hmx, hstrands⟩ := settleHeaders_keeps 8 { x with ni := { x.ni with whq := x.ni.whq.tail } }
    exact ⟨hpool, hmx, same _ hstrands⟩
  · exact ⟨rfl, rfl, _, _, _, strandOf_mput_same ..⟩
  · exact ⟨rfl, rfl, .refl _⟩

theorem acquireAgent_keeps (n : Nat) (x : Agent) :
    (acquireAgent n x).pool = x.pool ∧ (acquireAgent n x).mx = x.mx ∧ (acquireAgent n x).strands = x.strands := by
  unfold acquireAgent
  split <;> exact ⟨rfl, rfl, rfl⟩

theorem popPort_keeps {n : Nat} {s t : State} {v : Word} (h : popPort n s = .ok (v, t)) : OperandsRead s t := by
  have hsrc : isSource (bindingOf (cur s) n).kind.toNat = true := by
    by_contra hno
    rw [popPort_unbound (Bool.eq_false_iff.mpr hno)] at h
    cases h
  have hdrop : OperandsRead s (modCurAgent s (fun x => dropFirst x s.env.strand (bindingOf (cur s) n))) := by
    obtain ⟨hpool, hmx, hstrand⟩ := dropFirst_keeps (curAgent s) s.env.strand (bindingOf (cur s) n)
    exact .of_modCurAgent hpool hmx hstrand
  cases he : endpoint (curAgent s) s.env.strand (bindingOf (cur s) n) with
  | nil =>
    rw [popPort_empty hsrc he] at h
    cases h
  | cons e l =>
    cases ha : e.acq with
    | none =>
      rw [popPort_plain hsrc he ha] at h
      cases h
      exact hdrop
    | some sc =>
      have hpop : popPort n s = .ok (e.val, modCurAgent (modCurAgent s (fun x => dropFirst x s.env.strand (bindingOf (cur s) n))) (acquireAgent sc.toNat)) := by
        simp [popPort, hsrc, he, ha, run_map, acquire_run]
      rw [hpop] at h
      cases h
      obtain ⟨hpool, hmx, hstrands⟩ := acquireAgent_keeps sc.toNat (curAgent (modCurAgent s (fun x => dropFirst x s.env.strand (bindingOf (cur s) n))))
      exact hdrop.trans (.of_strands hpool hmx hstrands)

theorem readReg_keeps {r : Reg} {s t : State} {v : Word} (h : readReg r s = .ok (v, t)) : OperandsRead s t := by
  by_cases hr : isG r
  · rw [readReg_g hr] at h
    cases h
    exact .refl s
  · rw [readReg_port hr] at h
    exact popPort_keeps h

theorem readsAll_keeps {rs : List Reg} {s t : State} {vs : List Word} (h : readsAll rs s vs t) : OperandsRead s t := by
  induction rs generalizing s vs with
  | nil =>
    obtain ⟨-, rfl⟩ := h
    exact .refl _
  | cons r rs ih =>
    obtain ⟨_, _, _, hr, hrs, -⟩ := h
    exact (readReg_keeps hr).trans (ih hrs)

theorem resolveName_keeps {n : Nat} {s t : State} {p : Option Nat} (h : resolveName n s = .ok (p, t)) : OperandsRead s t := by
  by_cases hout : 9216 ≤ n ∨ inRegion (ownRegion s) n = false
  · rw [resolveName_outside hout] at h
    cases h
    exact .refl s
  · have hin : ¬(9216 ≤ n ∨ ¬ inRegion (ownRegion s) n = true) := by simpa using hout
    unfold resolveName at h
    rw [getS_bind] at h
    replace h := (congrFun (if_neg hin) s).symm.trans h
    cases hf : (curAgent s).ni.names.find? (fun e => e.name == n) with
    | none => simp only [hf, waitWith_run, reduceCtorEq] at h
    | some e =>
      simp only [hf] at h
      cases h
      exact .of_strands rfl rfl rfl

theorem destTile_keeps {v : Word} {s t : State} {p : Nat} (h : destTile v s = .ok (p, t)) : OperandsRead s t := by
  by_cases hv : 2 ^ 14 ≤ v.toNat
  · simp only [destTile, ge_iff_le, hv, if_true, run_bind, trapAt_run, reduceCtorEq] at h
  · simp only [destTile, ge_iff_le, hv, if_false] at h
    obtain ⟨q, u, hq, h⟩ := bind_eq_ok.mp h
    cases q with
    | none => cases h
    | some q =>
      cases h
      exact resolveName_keeps hq

theorem owingCall_keeps {n : Nat} {s t : State} {c : OpenCall} (h : owingCall n s = .ok (c, t)) : OperandsRead s t := by
  simp only [owingCall, getS_bind] at h
  cases hc : callOf (curAgent s) n with
  | none =>
    simp only [hc] at h
    cases h
  | some d =>
    by_cases hd : d.given < d.len
    · simp only [hc, hd, if_true] at h
      cases h
      exact .refl s
    · simp only [hc, hd, if_false] at h
      cases h

/-- A destination port that can take a value: messages with room in the send buffer, or a call that owes elements. -/
theorem checkDst_keeps {r : Reg} {s t : State} (h : checkDst r s = .ok ((), t)) : OperandsRead s t := by
  by_cases hr : isG r
  · rw [checkDst_g hr] at h
    cases h
    exact .refl s
  · have hno : ¬ r.toNat < 56 := hr
    simp only [checkDst, hno, if_false, getS_bind] at h
    generalize bindingOf (cur s) (r.toNat - 56) = b at h
    by_cases h2 : b.kind.toNat = 2
    · simp only [h2] at h
      obtain ⟨_, u, hd, h⟩ := bind_eq_ok.mp h
      by_cases hroom : sendRoom (curAgent u) = 0
      · simp only [getS_bind, hroom, if_true, waitFor_run, reduceCtorEq] at h
      · simp only [getS_bind, hroom, if_false] at h
        cases h
        exact destTile_keeps hd
    · by_cases h4 : b.kind.toNat = 4
      · simp only [h4] at h
        obtain ⟨_, u, hc, h⟩ := bind_eq_ok.mp h
        cases h
        exact owingCall_keeps hc
      · simp only [unbound] at h
        cases h

end Sys2Proof.Machine
end

section
/-!
O31. Commands of the MXE: what a push does, the form of every command, and MXWAIT and MXSTAT (06 R163 to R165, R171 to R187; 01 R34, R35).
-/

namespace Sys2Proof.Machine

open Sys2Proof.Spec

/-! ### An engine instruction with nothing to raise -/

theorem engine_runs {s : State} {g : Guard} {cls : Nat} (he : executes (cur s) g = true) (hp : noPosted s cls) (x : Exec Ctl) : engine g cls [] x s = x s :=
  (engine_run he hp [] x).trans (scalar_run_nil he x)

theorem engine_runs_one {s t : State} {g : Guard} {cls : Nat} {d : Reg} (he : executes (cur s) g = true) (hp : noPosted s cls)
    (hd : checkDst d s = .ok ((), t)) (x : Exec Ctl) : engine g cls [d] x s = x t :=
  (engine_run he hp [d] x).trans (scalar_run_one he hd x)

/-- A check at the push that fails is the trap of R169. -/
theorem syncFault_run {α : Type} (fn eng : Nat) (tag : BitVec 12) (code : Nat) (s : State) : (syncFault fn eng tag code : Exec α) s =
    .error (.trap ⟨0x0B, some 0, BitVec.ofNat 64 (2 ^ 40 + (fn * 2 ^ 34 + eng * 2 ^ 32 + tag.toNat * 2 ^ 20 + code)), none, 0, id, false⟩) := by
  simp only [syncFault, trapAt_run, engineInfo, Nat.zero_mul, Nat.zero_add, cENGINE]

/-- The completion specifier reads its barrier's register, where it has one. -/
theorem doneOf_run {cs : Compl} {s t : State} {r : List Word} (h : readsAll (barSrc cs) s r t) : doneOf cs s = .ok (doneWith cs 0 r, t) := by
  by_cases hb : cs.bar = 1
  · rw [barSrc, if_pos hb] at h
    obtain ⟨v, _, _, hv, ⟨rfl, rfl⟩, rfl⟩ := h
    simp [doneOf, doneWith, hb, run_map, hv]
  · rw [barSrc, if_neg hb] at h
    obtain ⟨rfl, rfl⟩ := h
    simp only [doneOf, doneWith, hb, if_false]
    rfl

/-! ### A push to the MXE -/

theorem mxRoom_ok {s : State} (h : (cur s).eng.mxq.length < 2) : mxRoom s = .ok ((), s) := until_ok (p := fun s => (cur s).eng.mxq.length < queueCap) (decide_eq_true h)
theorem mxRoom_wait {s : State} (h : 2 ≤ (cur s).eng.mxq.length) : mxRoom s = .error (.wait .engine id) :=
  until_wait (p := fun s => (cur s).eng.mxq.length < queueCap) (decide_eq_false (Nat.not_lt.mpr h))

/-- The outcome of a push: the command is queued and the engine served, or the check's CODE is trapped. -/
def pushedMx (fn : Nat) (tag : BitVec 12) (bad : Option Nat) (op : MxOp) (s : State) : Except Stop (Ctl × State) :=
  match bad with
  | some c => .error (.trap ⟨0x0B, some 0, BitVec.ofNat 64 (2 ^ 40 + (fn * 2 ^ 34 + 0 * 2 ^ 32 + tag.toNat * 2 ^ 20 + c)), none, 0, id, false⟩)
  | none => .ok (.next, kickMxe (queueMx op s) s.env.agent)

theorem pushMx_run (fn : Nat) (tag : BitVec 12) (bad : Option Nat) (op : MxOp) (s : State) : pushMx fn tag bad op s = pushedMx fn tag bad op s := by
  cases bad with
  | none => rfl
  | some c => exact syncFault_run ..

@[simp] theorem afterDraw_zero (b : Bool) (s : State) : afterDraw b 0 s = s := by simp [afterDraw]

/-- The draw of a mode: one step of the strand's generator under SRD (02 R52). -/
theorem drawFor_run (mode : Nat) (s : State) : drawFor mode s = .ok (drawOf true mode s, afterDraw true mode s) := by
  by_cases h : mode = 5 <;> simp [drawFor, drawOf, afterDraw, h, run_bind]

theorem afterDraw_env (b : Bool) (mode : Nat) (s : State) : (afterDraw b mode s).env = s.env := by unfold afterDraw; split <;> rfl

theorem effMode_eq_modeOf (t : Strand) (c : Word) : effMode t (dcRm c) = modeOf t (c.extractLsb' 3 3) := by
  have hdyn : (c.extractLsb' 3 3).toNat = 6 ↔ c.extractLsb' 3 3 = 6 := BitVec.toNat_inj (y := 6)
  have hmode : (t.sys.fpctl.extractLsb' 0 3).toNat = t.sys.fpctl.toNat % 8 := by rw [BitVec.extractLsb'_toNat, Nat.shiftRight_zero]
  simp only [effMode, dcRm, modeOf, hdyn, hmode]

/-- What MXPERT asks of the context does not change with the reads of its operand. -/
theorem OperandsRead.mayPerturb {s t : State} (h : OperandsRead s t) : mayPerturb t = Machine.mayPerturb s := by
  simp only [Machine.mayPerturb, ctxWord, h.tag, h.mem, h.os]

theorem OperandsRead.modeOf {s t : State} (h : OperandsRead s t) (rm : BitVec 3) : modeOf (cur t) rm = Spec.modeOf (cur s) rm := by
  simp only [Spec.modeOf, h.sys]

/-- Every MXE command waits for room in its queue; then it reads its sources and is pushed. -/
theorem exec_mxForm {i : Instr} {x : MxForm} (hx : mxForm i = some x) :
    ∃ body : Exec Ctl, (∀ s, exec i s = runWord s (engine x.g 0 [] (mxRoom >>= fun _ => body))) ∧ ∀ s vs s1, readsAll x.srcs s vs s1 →
      body s = pushedMx x.fn x.tag (x.bad s vs) (x.op s (drawOf true (x.mode s vs) s1) vs) (afterDraw true (x.mode s vs) s1) := by
  cases i with
  | mxcfg | mxzero | mxdisarm | mxramp =>
    cases hx
    refine ⟨_, fun s => rfl, ?_⟩
    rintro s vs s1 ⟨rfl, rfl⟩
    rw [pushMx_run]
    simp
  | mxldw g a sc kq wt buf =>
    cases hx
    refine ⟨_, fun s => rfl, ?_⟩
    rintro s vs s1 ⟨v, _, u, hv, ⟨rfl, rfl⟩, rfl⟩
    let w : WBuf := ⟨wt, kq, sc, []⟩
    have hend : v.toNat + wbufBytes w = v.toNat + wbufK w * wbufM w * wbufSize w + (if sc = 1 then wbufM w * wbufK w / 32 else 0) :=
      (Nat.add_assoc ..).symm
    rw [run_bind_ok hv, pushMx_run, afterDraw_zero]
    dsimp only
    rw [hend]
    rfl
  | mxpass g a b mh at' asc zf nm1 buf bank =>
    cases hx
    refine ⟨_, fun s => rfl, ?_⟩
    rintro s vs s1 ⟨x, _, u, hx, ⟨y, _, _, hy, ⟨rfl, rfl⟩, rfl⟩, rfl⟩
    rw [run_bind_ok hx, run_bind_ok hy, pushMx_run, afterDraw_zero]
  | mxarm g a b slot =>
    cases hx
    refine ⟨_, fun s => rfl, ?_⟩
    rintro s vs s1 ⟨x, _, u, hx, ⟨y, _, _, hy, ⟨rfl, rfl⟩, rfl⟩, rfl⟩
    rw [run_bind_ok hx, run_bind_ok hy, pushMx_run, afterDraw_zero]
  | mxdrain g a b c cs bank =>
    cases hx
    refine ⟨_, fun s => rfl, ?_⟩
    rintro s vs s1 ⟨x, _, u1, hx, ⟨y, _, u2, hy, ⟨z, r, u3, hz, hr, rfl⟩, rfl⟩, rfl⟩
    have hkeep : OperandsRead s s1 := (((readReg_keeps hx).trans (readReg_keeps hy)).trans (readReg_keeps hz)).trans (readsAll_keeps hr)
    rw [run_bind_ok hx, run_bind_ok hy, run_bind_ok hz, run_bind_ok (doneOf_run hr)]
    by_cases hbad : drainBad z x.toNat y.toNat = true
    · simp only [hbad, if_true, run_bind, syncFault_run]
      rfl
    · simp only [hbad, Bool.false_eq_true, if_false, effMode_eq_modeOf]
      rw [reads_bind, hkeep.modeOf, run_bind_ok (drawFor_run _ s1), pushMx_run]
      rfl
  | mxpert g a n m bank =>
    cases hx
    refine ⟨_, fun s => rfl, ?_⟩
    rintro s vs s1 ⟨v, _, u, hv, ⟨rfl, rfl⟩, rfl⟩
    rw [run_bind_ok hv, reads_bind, pushMx_run, afterDraw_zero, (readReg_keeps hv).mayPerturb]
  | _ => cases hx

/-! ### MXSTAT (06 R187) -/

/-- A mask built bit by bit. -/
theorem testBit_maskFold (p : Nat → Bool) (n j : Nat) :
    ((List.range n).foldl (fun acc i => if p i then acc + 2 ^ i else acc) 0).testBit j = (decide (j < n) && p j) ∧
      (List.range n).foldl (fun acc i => if p i then acc + 2 ^ i else acc) 0 < 2 ^ n := by
  induction n with
  | zero => simp
  | succ n ih =>
    obtain ⟨hbit, hlt⟩ := ih
    rw [List.range_succ, List.foldl_append, List.foldl_cons, List.foldl_nil]
    generalize (List.range n).foldl (fun acc i => if p i then acc + 2 ^ i else acc) 0 = m at hbit hlt
    rw [Nat.pow_succ]
    by_cases hp : p n = true
    · have hor : m + 2 ^ n = 2 ^ n ||| m := by simpa [Nat.add_comm] using Nat.two_pow_add_eq_or_of_lt hlt 1
      rw [if_pos hp]
      refine ⟨?_, by omega⟩
      rw [hor, Nat.testBit_or, Nat.testBit_two_pow, hbit]
      by_cases hj : n = j
      · subst hj
        simp [hp]
      · simp [hj, show j < n + 1 ↔ j < n by omega]
    · rw [if_neg hp, hbit]
      refine ⟨?_, by omega⟩
      by_cases hj : n = j
      · subst hj
        simp [hp]
      · simp [show j < n + 1 ↔ j < n by omega]

/-- MXSTAT's word, field by field. -/
theorem mxstatWord_eq (x : Agent) (k b : Nat) : mxstatWord x k b =
    BitVec.ofNat 8 (armedMask x) ++ BitVec.ofNat 8 (mxPending x k) ++ (0 : BitVec 7) ++ (bankOf x b).f ++ (if (bankOf x b).float then 1 else 0 : BitVec 20) ++
      (0 : BitVec 3) ++ (bankOf x b).dflags ++ (0 : BitVec 2) ++ BitVec.ofBool (bankOf x b).sat ++ BitVec.ofBool (bankOf x b).inexact := by
  have hmask : armedMask x < 2 ^ 8 := (testBit_maskFold (fun i => (mget? x.mx.trig i).isSome) 8 0).2
  have hf := (bankOf x b).f.isLt
  have hd := (bankOf x b).dflags.isLt
  apply BitVec.eq_of_toNat_eq
  simp only [mxstatWord, toNat_append_add, BitVec.toNat_ofNat]
  generalize (bankOf x b).f.toNat = f at hf
  generalize (bankOf x b).dflags.toNat = d at hd
  cases (bankOf x b).float <;> cases (bankOf x b).sat <;> cases (bankOf x b).inexact <;> simp <;> omega

/-- The fields of MXSTAT's word (R187): TRIG, PENDING, F, MODE, DFLAGS, ACC_SAT and ACC_INEXACT, and zeros between them. -/
theorem mxstatWord_fields (x : Agent) (k b : Nat) :
    let w := mxstatWord x k b
    let bk := bankOf x b
    (∀ i, i < 8 → w.getLsbD (56 + i) = (mget? x.mx.trig i).isSome) ∧ w.extractLsb' 48 8 = BitVec.ofNat 8 (mxPending x k) ∧ w.extractLsb' 41 7 = 0 ∧
      w.extractLsb' 32 9 = bk.f ∧ w.extractLsb' 12 20 = (if bk.float then 1 else 0) ∧ w.extractLsb' 9 3 = 0 ∧ w.extractLsb' 4 5 = bk.dflags ∧
      w.extractLsb' 2 2 = 0 ∧ w.getLsbD 1 = bk.sat ∧ w.getLsbD 0 = bk.inexact := by
  have hw := at_zero_iff.mpr (mxstatWord_eq x k b)
  simp only [at_append] at hw
  obtain ⟨⟨⟨⟨⟨⟨⟨⟨⟨htrig, hpending⟩, h41⟩, hf⟩, hfloat⟩, h9⟩, hdflags⟩, h2⟩, hsat⟩, hinexact⟩ := hw
  refine ⟨fun i hi => ?_, hpending, h41, hf, hfloat, h9, hdflags, h2, ?_, ?_⟩
  · have hbit : (BitVec.ofNat 8 (armedMask x)).getLsbD i = (mget? x.mx.trig i).isSome := by
      rw [BitVec.getLsbD_ofNat, armedMask, (testBit_maskFold _ 8 i).1]
      simp [hi]
    rw [← hbit, ← at_iff.mp htrig, BitVec.getLsbD_extractLsb']
    simp [hi]
  · simpa using congrArg (BitVec.getLsbD · 0) (at_iff.mp hsat)
  · simpa using congrArg (BitVec.getLsbD · 0) (at_iff.mp hinexact)

/-- Settles O31: every command by its form, and MXWAIT and MXSTAT. -/
theorem matrixCommands : Obligations.MatrixCommands := by
  refine ⟨fun i x _ hx s he hp => ?_, fun g s he hp => ⟨fun n => ?_, fun a b s0 hd => ?_⟩⟩
  · obtain ⟨body, hexec, hbody⟩ := exec_mxForm hx
    rw [pushGate, hexec]
    refine ⟨fun hfull => runWord_wait ((engine_runs he hp _).trans (run_bind_error (mxRoom_wait hfull) _)), fun hroom vs s1 hr => ?_⟩
    have hrun := (engine_runs he hp _).trans ((run_bind_ok (mxRoom_ok hroom) (fun _ => body)).trans (hbody s vs s1 hr))
    refine ⟨fun c hc => ?_, fun hc => ?_⟩
    · rw [hc] at hrun
      exact runWord_trap hrun
    · have henv : (afterDraw true (x.mode s vs) s1).env = s.env := (afterDraw_env ..).trans (readsAll_keeps hr).env
      rw [hc, pushedMx, henv] at hrun
      exact runWord_ok hrun
  · refine ⟨fun hn => ?_, fun hn => ?_⟩
    · exact runWord_ok ((engine_runs he hp _).trans (run_bind_ok (until_ok (p := fun s => mxPending (curAgent s) s.env.strand ≤ n.toNat) (decide_eq_true hn)) _))
    · exact runWord_wait ((engine_runs he hp _).trans (run_bind_error (until_wait (p := fun s => mxPending (curAgent s) s.env.strand ≤ n.toNat)
        (decide_eq_false (Nat.not_le.mpr hn))) _))
  · have hkeep := checkDst_keeps hd
    refine ⟨mxstatWord (curAgent s0) s0.env.strand b.toNat, fun t ht => ?_, ?_⟩
    · refine runWord_ok ((engine_runs_one he hp hd _).trans ?_)
      rw [reads_bind, run_bind_ok ht]
      rfl
    · have hopen : mxOpen s = mxPending (curAgent s0) s0.env.strand := by
        show (cur s).eng.mxq.length + _ = (cur s0).eng.mxq.length + _
        rw [hkeep.mxq, hkeep.mx, hkeep.env]
      simp only [hopen, ← hkeep.mx]
      exact mxstatWord_fields ..

end Sys2Proof.Machine
end

section
/-!
O32. Commands of the CPE: what a push does, the form of every command, and CPSTAT, CPWAIT and CTCFG (06 R163 to R165, R188 to R198).
-/

namespace Sys2Proof.Machine

open Sys2Proof.Spec

/-! ### A push to the CPE -/

theorem cpRoom_ok {s : State} (h : (cur s).eng.cpq.length < 2) : cpRoom s = .ok ((), s) :=
  until_ok (p := fun s => (cur s).eng.cpq.length < queueCap) (decide_eq_true h)
theorem cpRoom_wait {s : State} (h : 2 ≤ (cur s).eng.cpq.length) : cpRoom s = .error (.wait .engine id) :=
  until_wait (p := fun s => (cur s).eng.cpq.length < queueCap) (decide_eq_false (Nat.not_lt.mpr h))

/-- The outcome of a push: the command is queued and the engine served, or the failed check is trapped with CODE 3. -/
def pushedCp (c : CpCmd) (bad : Bool) (s : State) : Except Stop (Ctl × State) :=
  if bad then .error (.trap ⟨0x0B, some 0, BitVec.ofNat 64 (2 ^ 40 + (c.fn.toNat * 2 ^ 34 + 1 * 2 ^ 32 + c.dn.tag.toNat * 2 ^ 20 + 3)), none, 0, id, false⟩)
  else .ok (.next, kickCpe (queueCp c s) s.env.agent)

theorem pushCp_run (c : CpCmd) (bad : Bool) (s : State) : pushCp c bad s = pushedCp c bad s := by
  cases bad with
  | false => rfl
  | true => exact (run_bind_error (syncFault_run ..) _).trans rfl

/-- The pair of C reads as before the reads of other operands. -/
theorem OperandsRead.pairOf {s t : State} (h : OperandsRead s t) (c : Reg) : pairOf c t = .ok ((Machine.curReg s c.toNat, Machine.curReg s (c.toNat + 1)), t) := by
  rw [Machine.pairOf, reads_run, h.curReg, h.curReg]

/-- The checks of a list, as R190 has them. -/
theorem gatherBad_eq_listBad (c : CpCmd) : gatherBad c = listBad c := by
  have hsize : (cpElem c == 0) = (c.c1.extractLsb' 32 16 == 0) := by
    rw [cpElem, Bool.eq_iff_iff, beq_iff_eq, beq_iff_eq]
    exact BitVec.toNat_inj (y := 0)
  rw [gatherBad, hsize]
  rfl

/-- Every CPE command waits for room in its queue; then it reads its sources and is pushed. -/
theorem exec_cpForm {i : Instr} {x : CpForm} (hx : cpForm i = some x) :
    ∃ body : Exec Ctl, (∀ s, exec i s = runWord s (engine x.g 0 [] (cpRoom >>= fun _ => body))) ∧ ∀ s vs s1, readsAll x.srcs s vs s1 →
      body s = pushedCp (x.cmd s vs) (x.bad (x.cmd s vs)) s1 := by
  cases i with
  | cpy g a b c cs slot ct =>
    cases hx
    refine ⟨_, fun s => rfl, ?_⟩
    rintro s vs s1 ⟨x, _, u1, hx, ⟨y, _, u2, hy, ⟨z, r, u3, hz, hr, rfl⟩, rfl⟩, rfl⟩
    have hkeep : OperandsRead s s1 := (((readReg_keeps hx).trans (readReg_keeps hy)).trans (readReg_keeps hz)).trans (readsAll_keeps hr)
    rw [run_bind_ok hx, run_bind_ok hy, run_bind_ok hz, run_bind_ok (doneOf_run hr), reads_bind, pushCp_run, hkeep.ct]
    rfl
  | cpyf g a b c cs =>
    cases hx
    refine ⟨_, fun s => rfl, ?_⟩
    rintro s vs s1 ⟨x, _, u1, hx, ⟨y, _, u2, hy, ⟨z, r, u3, hz, hr, rfl⟩, rfl⟩, rfl⟩
    rw [run_bind_ok hx, run_bind_ok hy, run_bind_ok hz, run_bind_ok (doneOf_run hr), pushCp_run]
    rfl
  | cpy2d | cpym =>
    cases hx
    refine ⟨_, fun s => rfl, ?_⟩
    rintro s vs s1 ⟨x, _, u1, hx, ⟨y, r, u2, hy, hr, rfl⟩, rfl⟩
    rw [run_bind_ok hx, run_bind_ok hy, run_bind_ok (((readReg_keeps hx).trans (readReg_keeps hy)).pairOf _)]
    dsimp only
    rw [run_bind_ok (doneOf_run hr), pushCp_run]
    rfl
  | cpyg | cpys =>
    cases hx
    refine ⟨_, fun s => rfl, ?_⟩
    rintro s vs s1 ⟨x, _, u1, hx, ⟨y, r, u2, hy, hr, rfl⟩, rfl⟩
    rw [run_bind_ok hx, run_bind_ok hy, run_bind_ok (((readReg_keeps hx).trans (readReg_keeps hy)).pairOf _)]
    dsimp only
    rw [run_bind_ok (doneOf_run hr), pushCp_run, gatherBad_eq_listBad]
    rfl
  | wopen g a b c w =>
    cases hx
    refine ⟨_, fun s => rfl, ?_⟩
    rintro s vs s1 ⟨x, _, u1, hx, ⟨y, _, u2, hy, ⟨z, _, _, hz, ⟨rfl, rfl⟩, rfl⟩, rfl⟩, rfl⟩
    rw [run_bind_ok hx, run_bind_ok hy, run_bind_ok hz, pushCp_run]
    rfl
  | wadv | wsync =>
    cases hx
    refine ⟨_, fun s => rfl, ?_⟩
    rintro s vs s1 ⟨x, r, u1, hx, hr, rfl⟩
    rw [run_bind_ok hx, run_bind_ok (doneOf_run hr), pushCp_run]
    rfl
  | wclose g cs w =>
    cases hx
    refine ⟨_, fun s => rfl, ?_⟩
    intro s vs s1 hr
    rw [run_bind_ok (doneOf_run hr), pushCp_run]
    rfl
  | _ => cases hx

/-! ### CPSTAT (06 R193) -/

/-- CPSTAT's word: ST, CODE and the bytes landed. -/
theorem cpstat_word (c : CopyStat) :
    BitVec.ofNat 64 (c.st.toNat * 2 ^ 61 + c.code.toNat * 2 ^ 40 + c.landed % 2 ^ 40) = c.st ++ (0 : BitVec 13) ++ c.code ++ BitVec.ofNat 40 c.landed := by
  have hst := c.st.isLt
  have hcode := c.code.isLt
  apply BitVec.eq_of_toNat_eq
  simp only [toNat_append_add, BitVec.ofNat_eq_ofNat, BitVec.toNat_ofNat]
  omega

/-- Settles O32: every command by its form, and CPWAIT, CPSTAT and CTCFG. -/
theorem copyCommands : Obligations.CopyCommands := by
  refine ⟨fun i x _ hx s he hp => ?_, fun g s he hp => ⟨fun n => ?_, fun a tag s0 t hd ht => ?_, fun a b c slot x y z s1 hr => ?_⟩⟩
  · obtain ⟨body, hexec, hbody⟩ := exec_cpForm hx
    rw [pushGate, hexec]
    refine ⟨fun hfull => runWord_wait ((engine_runs he hp _).trans (run_bind_error (cpRoom_wait hfull) _)), fun hroom vs s1 hr => ?_⟩
    have hrun := (engine_runs he hp _).trans ((run_bind_ok (cpRoom_ok hroom) (fun _ => body)).trans (hbody s vs s1 hr))
    refine ⟨fun hbad => ?_, fun hbad => ?_⟩
    · rw [hbad] at hrun
      exact runWord_trap hrun
    · rw [hbad, pushedCp, (readsAll_keeps hr).env] at hrun
      exact runWord_ok hrun
  · refine ⟨fun hn => ?_, fun hn => ?_⟩
    · exact runWord_ok ((engine_runs he hp _).trans (run_bind_ok (until_ok (p := fun s => cpPending (curAgent s) s.env.strand ≤ n.toNat) (decide_eq_true hn)) _))
    · exact runWord_wait ((engine_runs he hp _).trans (run_bind_error (until_wait (p := fun s => cpPending (curAgent s) s.env.strand ≤ n.toNat)
        (decide_eq_false (Nat.not_le.mpr hn))) _))
  · refine runWord_ok ((engine_runs_one he hp hd _).trans ?_)
    rw [reads_bind, (checkDst_keeps hd).copies]
    simp only [cpstat_word]
    exact run_bind_ok ht _
  · obtain ⟨_, _, u1, hx, ⟨_, _, u2, hy, ⟨_, _, u3, hz, ⟨rfl, rfl⟩, hzs⟩, hys⟩, hxs⟩ := hr
    cases hzs
    cases hys
    cases hxs
    refine ⟨fun hbad => ?_, fun hgood => ?_⟩
    · refine runWord_trap ((engine_runs he hp _).trans ?_)
      rw [run_bind_ok hx, run_bind_ok hy, run_bind_ok hz]
      refine (congrFun (if_pos hbad) s1).trans ?_
      exact run_bind_error (syncFault_run ..) _
    · refine runWord_ok ((engine_runs he hp _).trans ?_)
      rw [run_bind_ok hx, run_bind_ok hy, run_bind_ok hz]
      exact (congrFun (if_neg hgood) s1).trans rfl

end Sys2Proof.Machine
end

section
/-!
O34. The barrier instructions: the place of a barrier, one update at its home, and the phase that a wait and a test read (06 R201 to R203).
-/

namespace Sys2Proof.Machine

open Sys2Proof.Spec

/-! ### The place of a barrier (06 R203) -/

theorem localKey_congr {s t : State} (h : t.env = s.env) (a : Word) : localKey t a = localKey s a := by rw [localKey, localKey, h]

/-- An address of the tile's own memory names its local store or its vault. -/
theorem region_of_localKey {s : State} {a : Word} {k : Nat} (h : localKey s a = some k) :
    (∃ off, regionOf (isCore s.env.agent) a.toNat = .ls off ∧ k = keyLs s.env.agent off) ∨
      ∃ off, regionOf (isCore s.env.agent) a.toNat = .vault off ∧ k = keyVault s.env.agent off := by
  unfold localKey at h
  split at h
  · cases h
  next hcore =>
    split at h
    next hls =>
      cases h
      exact .inl ⟨_, by simp [regionOf, hcore, lsBytes, hls], rfl⟩
    next hls =>
      split at h
      next hv =>
        refine .inr ⟨_, ?_, (Option.some.inj h).symm⟩
        rw [regionOf, lsBytes, if_neg hcore, if_neg hls, if_neg (Nat.not_lt.mpr hv.1), if_pos hv.2]
      · cases h

/-- No frame of the tile's own memory is sealed: the strand sees what it holds. -/
theorem plainTo_localKey {s t : State} {a : Word} {k : Nat} (h : localKey s a = some k) (tag : Option Tag) : plainTo t tag k = true := by
  have hk : ¬ k < 2 ^ 43 := by
    rcases region_of_localKey h with ⟨off, -, rfl⟩ | ⟨off, -, rfl⟩
    · unfold keyLs; omega
    · unfold keyVault; omega
  simp only [plainTo, sealOf, if_neg hk]

section
variable {ga : Word} {load : Bool} {s : State}

theorem barPlace_misaligned (h : ga.toNat % 16 ≠ 0) : barPlace ga load s = .error (.trap ⟨0x04, some ga, 16, none, 0, id, false⟩) := by
  simp [barPlace, h, run_bind]
  rfl

theorem barPlace_own {k : Nat} (h : ownBarrier s ga k) : barPlace ga load s = .ok (⟨k, true, none⟩, s) := by
  obtain ⟨hal, hk⟩ := h
  rcases region_of_localKey hk with ⟨off, hr, rfl⟩ | ⟨off, hr, rfl⟩
  · simp [barPlace, hal, hr]
  · simp [barPlace, hal, hr]

/-- An address of a tile outside its own memory and the vaults by name. -/
theorem barPlace_outside (hal : ga.toNat % 16 = 0) (hcore : isCore s.env.agent = false) (hk : localKey s ga = none)
    (ha : ga.toNat < 2 ^ 46 ∨ 2 ^ 46 + 2 ^ 37 ≤ ga.toNat) :
    barPlace ga load s = .error (.trap ⟨if load then 0x06 else 0x07, some ga, 4, none, 0, id, false⟩) := by
  have hr : (∃ n off, regionOf (isCore s.env.agent) ga.toNat = .remLs n off) ∨ regionOf (isCore s.env.agent) ga.toNat = .unmapped ∨
      regionOf (isCore s.env.agent) ga.toNat = .virt ga.toNat := by
    by_cases hv : 2 ^ 48 ≤ ga.toNat ∧ ga.toNat < 2 ^ 56
    · exact .inr (.inr (by rw [hcore, regionOf_virt hv.1 hv.2]))
    · rcases regionOf_other hcore hk (by omega) with h | h
      · exact .inl h
      · exact .inr (.inl h)
  have htrap : (trapAt (if load then cLOAD else cSTORE) ga (if isCore s.env.agent then 1 else 4) : Exec Place) s =
      .error (.trap ⟨if load then 0x06 else 0x07, some ga, 4, none, 0, id, false⟩) := by
    rw [hcore]
    rfl
  rw [← htrap]
  rcases hr with ⟨n, off, hr⟩ | hr | hr <;> simp [barPlace, hal, hr]

/-- An address of a core outside the firmware map. -/
theorem barPlace_unmapped (hal : ga.toNat % 16 = 0) (hcore : isCore s.env.agent = true) (hm : inModule ga.toNat = false) :
    barPlace ga load s = .error (.trap ⟨if load then 0x06 else 0x07, some ga, 1, none, 0, id, false⟩) := by
  have hr : regionOf (isCore s.env.agent) ga.toNat = .unmapped := by simp [regionOf, hcore, hm]
  have htrap : (trapAt (if load then cLOAD else cSTORE) ga (if isCore s.env.agent then 1 else 4) : Exec Place) s =
      .error (.trap ⟨if load then 0x06 else 0x07, some ga, 1, none, 0, id, false⟩) := by
    rw [hcore]
    rfl
  rw [← htrap]
  simp [barPlace, hal, hr]

end

/-! ### At the home (10 R278) -/

theorem onceAtHome_reply {s : State} {r : Reply} (h : replyFor s 0 = some r) (x : Exec Reply) : onceAtHome x s = .ok (r, s) := by
  simp only [onceAtHome, getS_bind, h]
  rfl

theorem onceAtHome_run {s : State} (h : replyFor s 0 = none) (x : Exec Reply) : onceAtHome x s = x s := by
  simp only [onceAtHome, getS_bind, h]

theorem homeReady_ok {s : State} {k : Nat} (h : homeBusy s k = false) : homeReady k s = .ok ((), s) := by
  simp [homeReady, h]

theorem homeReady_wait {s : State} {k : Nat} (h : homeBusy s k = true) : homeReady k s = .error (.wait .response id) := by
  simp [homeReady, h]

/-- An operation on the tile's own memory is performed at once. -/
theorem atHome_own {s : State} {k : Nat} {va : Option Nat} (h : homeBusy s k = false) (acc : Access) :
    atHome ⟨k, true, va⟩ acc s = .ok ((performAccess s (cur s).tag acc).2, (performAccess s (cur s).tag acc).1) := by
  simp [atHome, run_bind, run_map, homeReady_ok h]

theorem notPoisoned_ok {r : Reply} (h : r.poison = false) (ga : Word) (fn : Nat) (s : State) : notPoisoned ga fn r s = .ok ((), s) := by
  simp [notPoisoned, h]

theorem notPoisoned_trap {r : Reply} (h : r.poison = true) (ga : Word) (fn : Nat) (s : State) : notPoisoned ga fn r s =
    .error (.trap ⟨0x10, some ga, 0, none, 0, fun s => postPoison s s.env.agent (cur s).tag 0 r.key fn, false⟩) := by
  simp [notPoisoned, h]
  rfl

/-- A barrier of plain memory updated: nothing where a word of it is poisoned. -/
theorem performAccess_barUpd {s : State} {tag : Option Tag} {k : Nat} (h : plainTo s tag k = true) (arrive : Bool) (v : Word) :
    performAccess s tag ⟨k, 16, .barUpd arrive, v, 0, 0⟩ =
      if poisoned s.mem k 16 then (s, ⟨0, 0, true, 0, k⟩)
      else (setMem s (barUpdate s.mem k arrive v.toInt).2, ⟨0, 0, false, (barUpdate s.mem k arrive v.toInt).1, k⟩) := by
  simp only [performAccess, h, if_true, intOf_true (w := 63) v]

theorem performAccess_read {s : State} {tag : Option Tag} {k : Nat} (h : plainTo s tag k = true) (n : Nat) :
    performAccess s tag ⟨k, n, .read, 0, 0, 0⟩ = (s, ⟨0, BitVec.ofNat 64 (readNat s.mem k n), poisoned s.mem k n, 0, k⟩) := by
  simp only [performAccess, h, if_true]

/-! ### An update by an instruction (06 R202) -/

/-- What an instruction makes of the answer to its update. -/
theorem updateBar_answered {fn : Nat} {ga d : Word} {arrive : Bool} {before : Exec Unit} {s t : State} {r : Reply}
    (h : onceAtHome (do
      let p ← barPlace ga false
      behindSbar
      before
      atHome p ⟨p.key, 16, .barUpd arrive, d, 0, 0⟩) s = .ok (r, t)) :
    updateBar fn ga arrive d before s =
      if r.poison = true then .error (.trap ⟨0x10, some ga, 0, none, 0, fun s => postPoison s s.env.agent (cur s).tag 0 r.key fn, false⟩)
      else if r.code ≠ 0 then .error (.trap ⟨0x12, some ga, BitVec.ofNat 64 r.code, none, 0, id, false⟩)
      else .ok ((), t) := by
  rw [updateBar, run_bind_ok h]
  by_cases hp : r.poison = true
  · rw [run_bind_error (notPoisoned_trap hp ..), if_pos hp]
  · rw [run_bind_ok (notPoisoned_ok (Bool.eq_false_iff.mpr hp) ..), if_neg hp]
    by_cases hc : r.code ≠ 0
    · rw [if_pos hc, if_pos hc]
      rfl
    · rw [if_neg hc, if_neg hc]
      rfl

/-- The answer of another home has come. -/
theorem updateBar_reply {fn : Nat} {ga d : Word} {arrive : Bool} {before : Exec Unit} {s : State} {r : Reply} (h : replyFor s 0 = some r) :
    updateBar fn ga arrive d before s =
      if r.poison = true then .error (.trap ⟨0x10, some ga, 0, none, 0, fun s => postPoison s s.env.agent (cur s).tag 0 r.key fn, false⟩)
      else if r.code ≠ 0 then .error (.trap ⟨0x12, some ga, BitVec.ofNat 64 r.code, none, 0, id, false⟩)
      else .ok ((), s) := updateBar_answered (onceAtHome_reply h _)

/-- The address of a barrier fails its checks. -/
theorem updateBar_noPlace {fn : Nat} {ga d : Word} {arrive : Bool} {before : Exec Unit} {s : State} {e : Stop} (h : replyFor s 0 = none)
    (hp : barPlace ga false s = .error e) : updateBar fn ga arrive d before s = .error e := by
  rw [updateBar]
  exact run_bind_error ((onceAtHome_run h _).trans (run_bind_error hp _)) _

/-- A barrier of the tile's own memory. -/
theorem updateBar_own {fn : Nat} {ga d : Word} {arrive : Bool} {before : Exec Unit} {s : State} {k : Nat} (h : replyFor s 0 = none)
    (hk : ownBarrier s ga k) (hsbar : sbarDone s = true) (hbefore : before (afterSbar s) = .ok ((), afterSbar s)) (hhome : homeBusy (afterSbar s) k = false) :
    updateBar fn ga arrive d before s =
      if poisoned s.mem k 16 = true then .error (.trap ⟨0x10, some ga, 0, none, 0, fun s => postPoison s s.env.agent (cur s).tag 0 k fn, false⟩)
      else if (barUpdate s.mem k arrive d.toInt).1 ≠ 0 then
        .error (.trap ⟨0x12, some ga, BitVec.ofNat 64 (barUpdate s.mem k arrive d.toInt).1, none, 0, id, false⟩)
      else .ok ((), setMem (afterSbar s) (barUpdate s.mem k arrive d.toInt).2) := by
  have hmem : (afterSbar s).mem = s.mem := sbarSpent_mem s
  have hupd := performAccess_barUpd (plainTo_localKey hk.2 (t := afterSbar s) (cur (afterSbar s)).tag) arrive d
  rw [hmem] at hupd
  rw [updateBar_answered (t := (performAccess (afterSbar s) (cur (afterSbar s)).tag ⟨k, 16, .barUpd arrive, d, 0, 0⟩).1)
    (r := (performAccess (afterSbar s) (cur (afterSbar s)).tag ⟨k, 16, .barUpd arrive, d, 0, 0⟩).2)]
  · rw [hupd]
    by_cases hp : poisoned s.mem k 16 = true
    · simp only [hp, if_true]
    · simp only [hp, Bool.false_eq_true, if_false]
  · rw [onceAtHome_run h, run_bind_ok (barPlace_own hk), run_bind_ok (behindSbar_ok hsbar)]
    exact (run_bind_ok hbefore _).trans (atHome_own hhome _)

/-! ### The instructions from the values of their operands -/

theorem runWord_congr {s : State} {x y : Exec Ctl} (h : x s = y s) : runWord s x = runWord s y := by simp only [runWord, h]

/-- An instruction is an update of the barrier at ga, made in the state s1 that the reads of its operands leave. -/
def updatesBar (i : Instr) (s s1 : State) (fn : Nat) (ga : Word) (arrive : Bool) (d : Word) (before : Exec Unit) : Prop :=
  exec i s = runWord s (fun _ => (updateBar fn ga arrive d before >>= fun _ => pure .next) s1)

section
variable {i : Instr} {s s1 u : State} {fn : Nat} {ga d : Word} {arrive : Bool} {before : Exec Unit} (h : updatesBar i s s1 fn ga arrive d before)
include h

theorem updatesBar.trap {t : Trap} (hu : updateBar fn ga arrive d before s1 = .error (.trap t)) : exec i s = .next (takeTrap s t) :=
  h.trans (runWord_trap (run_bind_error hu _))

theorem updatesBar.ok (hu : updateBar fn ga arrive d before s1 = .ok ((), u)) : exec i s = .next (retire u .next) :=
  h.trans (runWord_ok (run_bind_ok hu _))

/-- At the tile's own memory: the marks of both words, then the code of R201, then the update. -/
theorem updatesBar.own {k : Nat} (hm : s1.mem = s.mem) (hno : replyFor s1 0 = none) (hk : ownBarrier s1 ga k) (hsbar : sbarDone s1 = true)
    (hbefore : before (afterSbar s1) = .ok ((), afterSbar s1)) (hhome : homeBusy (afterSbar s1) k = false) :
    (poisoned s.mem k 16 = true → exec i s = poisonTrap s ga 0 k fn) ∧
    (poisoned s.mem k 16 = false →
      ((barUpdate s.mem k arrive d.toInt).1 = 0 → exec i s = .next (retire (setMem (afterSbar s1) (barUpdate s.mem k arrive d.toInt).2) .next)) ∧
      (∀ c, (barUpdate s.mem k arrive d.toInt).1 = c → c ≠ 0 → exec i s = .next (takeTrap s ⟨0x12, some ga, BitVec.ofNat 64 c, none, 0, id, false⟩))) := by
  have hu := updateBar_own (fn := fn) (d := d) (arrive := arrive) hno hk hsbar hbefore hhome
  rw [hm] at hu
  refine ⟨fun hp => ?_, fun hp => ⟨fun hc => ?_, fun c hc h0 => ?_⟩⟩
  · rw [if_pos hp] at hu
    exact h.trap hu
  · rw [if_neg (Bool.eq_false_iff.mp hp), if_neg (not_not.mpr hc)] at hu
    exact h.ok hu
  · subst hc
    rw [if_neg (Bool.eq_false_iff.mp hp), if_pos h0] at hu
    exact h.trap hu

/-- With the answer of another home: its mark, then its code, then nothing more. -/
theorem updatesBar.answered {r : Reply} (hr : replyFor s1 0 = some r) :
    (r.poison = true → exec i s = poisonTrap s ga 0 r.key fn) ∧
    (r.poison = false → r.code ≠ 0 → exec i s = .next (takeTrap s ⟨0x12, some ga, BitVec.ofNat 64 r.code, none, 0, id, false⟩)) ∧
    (r.poison = false → r.code = 0 → exec i s = .next (retire s1 .next)) := by
  have hu := updateBar_reply (fn := fn) (ga := ga) (d := d) (arrive := arrive) (before := before) hr
  refine ⟨fun hp => ?_, fun hp hc => ?_, fun hp hc => ?_⟩
  · rw [if_pos hp] at hu
    exact h.trap hu
  · rw [if_neg (Bool.eq_false_iff.mp hp), if_pos hc] at hu
    exact h.trap hu
  · rw [if_neg (Bool.eq_false_iff.mp hp), if_neg (not_not.mpr hc)] at hu
    exact h.ok hu

end

section
variable {g : Guard} {a b : Reg} {s s1 : State} {ga v : Word} (he : executes (cur s) g = true) (hp : noPosted s 0)
include he hp

theorem engine_reads_one (hr : readReg a s = .ok (ga, s1)) (f : Word → Exec Ctl) : engine g 0 [] (readReg a >>= f) s = f ga s1 :=
  (engine_runs he hp _).trans (run_bind_ok hr f)

theorem engine_reads_two (hr : readsAll [a, b] s [ga, v] s1) (f : Word → Word → Exec Ctl) :
    engine g 0 [] (readReg a >>= fun x => readReg b >>= f x) s = f ga v s1 := by
  obtain ⟨_, _, u, ha, ⟨_, _, _, hb, ⟨rfl, rfl⟩, hbs⟩, has⟩ := hr
  cases hbs
  cases has
  exact (engine_reads_one he hp ha _).trans (run_bind_ok hb _)

theorem updatesBar_bexp (hr : readsAll [a, b] s [ga, v] s1) : updatesBar (.bexp g a b) s s1 1 ga false v (pure ()) :=
  runWord_congr (engine_reads_two he hp hr _)

theorem updatesBar_barv {scope : BitVec 2} {e : BitVec 1} (hr : readsAll (if e = 1 then [a, b] else [a]) s (if e = 1 then [ga, v] else [ga]) s1) :
    updatesBar (.barv g a b scope e) s s1 2 ga true (if e = 1 then v else 0) (release scope.toNat) := by
  by_cases h1 : e = 1
  · subst h1
    exact runWord_congr (engine_reads_two he hp hr _)
  · rw [if_neg h1, if_neg h1] at hr
    obtain ⟨_, _, _, ha, ⟨rfl, rfl⟩, has⟩ := hr
    cases has
    rw [if_neg h1]
    refine runWord_congr ((engine_reads_one he hp ha _).trans ?_)
    rw [if_neg h1]
    rfl

/-- BWAIT at the tile's own memory: an access of its own that is under way, a mark, then the phase. -/
theorem exec_bwait {scope : BitVec 2} {k : Nat} (hr : readsAll [a, b] s [ga, v] s1) (hk : ownBarrier s1 ga k) (hsbar : sbarDone s1 = true) :
    let s2 := afterSbar s1
    let differs : Bool := (readWord s.mem k).getLsbD 63 ≠ v.getLsbD 0
    (homeBusy s2 k = true → exec (.bwait g a b scope) s = .next (beginWait s .response)) ∧
    (homeBusy s2 k = false → poisoned s.mem k 16 = true → exec (.bwait g a b scope) s = poisonTrap s ga 0 k 3) ∧
    (homeBusy s2 k = false → poisoned s.mem k 16 = false →
      (differs = true → exec (.bwait g a b scope) s = .next (retire (acquired true ⟨1, scope⟩ s2) .next)) ∧
      (differs = false → exec (.bwait g a b scope) s = .next (beginWait s .barrier))) := by
  intro s2 differs
  have hmem : s2.mem = s.mem := (sbarSpent_mem s1).trans (readsAll_keeps hr).mem
  have hword : barWord s2 k = readWord s.mem k := by
    rw [barWord, plainTo_localKey hk.2, if_pos rfl, hmem, readWord]
  have hdiffers : ((barWord s2 k).getLsbD 63 != v.getLsbD 0) = differs := by
    rw [hword]
    exact Bool.eq_iff_iff.mpr (by simp [differs])
  have hstart := (engine_reads_two he hp hr (fun ga v => do
    let p ← barPlace ga true
    behindSbar
    homeReady p.key
    let bad ← reads (fun s => poisoned s.mem p.key 16)
    notPoisoned ga 3 ⟨0, 0, bad, 0, p.key⟩
    until' .barrier (fun s => (barWord s p.key).getLsbD 63 != v.getLsbD 0)
    acquire scope.toNat
    return .next)).trans ((run_bind_ok (barPlace_own hk) _).trans (run_bind_ok (behindSbar_ok hsbar) _))
  refine ⟨fun hbusy => runWord_wait (hstart.trans (run_bind_error (homeReady_wait hbusy) _)), fun hhome hpois => ?_, fun hhome hpois => ?_⟩
  · refine runWord_trap (hstart.trans ((run_bind_ok (homeReady_ok hhome) _).trans ((reads_bind ..).trans (run_bind_error (notPoisoned_trap ?_ ..) _))))
    rw [← hpois, ← hmem]
  · have hnext := hstart.trans ((run_bind_ok (homeReady_ok hhome) _).trans ((reads_bind ..).trans (run_bind_ok (notPoisoned_ok (by rw [← hpois, ← hmem]) ..) _)))
    refine ⟨fun hd => runWord_ok (hnext.trans ((run_bind_ok (until_ok (p := fun s => (barWord s k).getLsbD 63 != v.getLsbD 0) (hdiffers.trans hd)) _).trans rfl)),
      fun hd => runWord_wait (hnext.trans (run_bind_error (until_wait (p := fun s => (barWord s k).getLsbD 63 != v.getLsbD 0) (hdiffers.trans hd)) _))⟩

/-- BTEST from what it has read of word 0. -/
theorem exec_btest {scope : BitVec 2} {pc : PReg} {r : Reply} {t : State} (hr : readsAll [a, b] s [ga, v] s1) (hpc : pc ≠ 0)
    (hread : onceAtHome (do
      let p ← barPlace ga true
      behindSbar
      atHome p ⟨p.key, 8, .read, 0, 0, 0⟩) s1 = .ok (r, t)) (hpois : r.poison = false) :
    let differs : Bool := r.val.getLsbD 63 ≠ v.getLsbD 0
    exec (.btest g pc a b scope) s = .next (retire (acquired differs ⟨1, scope⟩ (withPred pc (oneIf differs) t)) .next) := by
  intro differs
  have hdiffers : (r.val.getLsbD 63 != v.getLsbD 0) = differs := Bool.eq_iff_iff.mpr (by simp [differs])
  have hpred : ∀ n u, modCur u (fun t => setPred t pc n) = withPred pc n u := fun n u => by simp only [setPred, if_neg hpc, withPred]
  refine runWord_ok ((engine_reads_two he hp hr _).trans ((run_bind_ok hread _).trans ((run_bind_ok (notPoisoned_ok hpois ..) _).trans ?_)))
  rw [modS_bind, hpred, hdiffers]
  cases differs <;> rfl

end

/-! ### What a release finds spent -/

theorem curAgent_modCur_cp (s : State) (f : Strand → Strand) : (curAgent (modCur s f)).cp = (curAgent s).cp := by
  have h : curAgent (modCur s f) = { curAgent s with strands := mput (curAgent s).strands s.env.strand (f (cur s)) } := curAgent_modCurAgent ..
  rw [h]

theorem afterSbar_spent (s : State) : (cur (afterSbar s)).eng.sbarCp = [] ∧ (cur (afterSbar s)).eng.sbarMx = [] := by
  unfold afterSbar
  split
  · assumption
  · rw [cur_modCur]
    exact ⟨rfl, rfl⟩

/-- A release that meets nothing to wait for is over once the record of SBAR is spent. -/
theorem release_afterSbar {scope : BitVec 2} {s : State} (h : released true ⟨2, scope⟩ s) :
    release scope.toNat (afterSbar s) = .ok ((), afterSbar s) := by
  obtain ⟨hperf, -, hdirty⟩ := h rfl
  obtain ⟨hcp, hmx⟩ := afterSbar_spent s
  have hperf' : performedAt (afterSbar s) scope.toNat = true := by
    rw [← hperf]
    unfold afterSbar
    split <;> rfl
  have hlines : dirtyLines (curAgent (afterSbar s)) = dirtyLines (curAgent s) := by
    unfold afterSbar
    split
    · rfl
    · unfold dirtyLines
      rw [curAgent_modCur_cp]
  have := release_ok hperf' (sbarDone_nil hcp hmx) (fun hs => hlines.trans (hdirty hs))
  rwa [sbarSpent_nil hcp hmx] at this

theorem ownBarrier_congr {s t : State} (h : t.env = s.env) {a : Word} {k : Nat} : ownBarrier t a k ↔ ownBarrier s a k := by
  rw [ownBarrier, ownBarrier, localKey_congr h]

/-- The instructions that check a barrier's address before anything else, each with the cause of R203 for its access. -/
theorem exec_noPlace {g : Guard} {a b : Reg} {scope : BitVec 2} {pc : PReg} {s s1 : State} {ga v : Word} (he : executes (cur s) g = true) (hp : noPosted s 0)
    (hr : readsAll [a, b] s [ga, v] s1) (hno : replyFor s1 0 = none) :
    ∀ q ∈ [(Instr.bexp g a b, 0x07), (.barv g a b scope 1, 0x07), (.bwait g a b scope, 0x06), (.btest g pc a b scope, 0x06)],
      ∃ load : Bool, q.2 = (if load then 0x06 else 0x07) ∧
        ∀ t, barPlace ga load s1 = .error (.trap t) → exec q.1 s = .next (takeTrap s t) := by
  simp only [List.forall_mem_cons]
  refine ⟨⟨false, rfl, fun t ht => ?_⟩, ⟨false, rfl, fun t ht => ?_⟩, ⟨true, rfl, fun t ht => ?_⟩, ⟨true, rfl, fun t ht => ?_⟩, fun q hq => (List.not_mem_nil hq).elim⟩
  · exact (updatesBar_bexp he hp hr).trap (updateBar_noPlace hno ht)
  · exact (updatesBar_barv (e := 1) he hp hr).trap (updateBar_noPlace hno ht)
  · exact runWord_trap ((engine_reads_two he hp hr _).trans (run_bind_error ht _))
  · exact runWord_trap ((engine_reads_two he hp hr _).trans (run_bind_error ((onceAtHome_run hno _).trans (run_bind_error ht _)) _))

/-- BINIT sends the two words of the barrier to their home. -/
theorem exec_binit {g : Guard} {a : Reg} {p1 : BitVec 1} {count : BitVec 7} {s s1 : State} {ga : Word} {k : Nat} (he : executes (cur s) g = true)
    (hp : noPosted s 0) (hr : readReg a s = .ok (ga, s1)) (hk : ownBarrier s1 ga k) (hsbar : sbarDone s1 = true) :
    exec (.binit g a p1 count) s =
      .next (retire (sendReq [⟨k, 16, .barInit, p1 ++ count ++ (0 : BitVec 56), count.setWidth 64, 0⟩] false (afterSbar s1)) .next) := by
  have hword : BitVec.ofNat 64 (p1.toNat * 2 ^ 63 + count.toNat * 2 ^ 56) = p1 ++ count ++ (0 : BitVec 56) := by
    simpa [bitsOf] using barrier_word p1 count.isLt 0
  refine runWord_ok ((engine_reads_one he hp hr _).trans ((run_bind_ok (barPlace_own hk) _).trans ((run_bind_ok (behindSbar_ok hsbar) _).trans ?_)))
  rw [modS_bind, hword]
  rfl

/-- Settles O34: the checks of the address, and each instruction where its barrier is the tile's own or has been answered for. -/
theorem barrierInstructions : Obligations.BarrierInstructions := by
  refine ⟨fun g a b scope pc s s1 ga v he hp hr hno q hq => ?_, fun g a b scope s s1 ga he hp => ⟨fun p1 count k hr hk hsbar => ?_, fun v k hr hk hno hsbar hhome => ?_,
    fun e v hr => ⟨fun k hk hno hrel hhome hpois => ?_, fun r hr0 => ?_⟩, fun v pc hr => ⟨fun k hk hsbar => ?_, fun r hr0 hpc hpois => ?_⟩⟩⟩
  · obtain ⟨load, hcause, hstop⟩ := exec_noPlace (pc := pc) (scope := scope) he hp hr hno q hq
    have henv := (readsAll_keeps hr).env
    rw [hcause]
    refine ⟨fun hmis => hstop _ (barPlace_misaligned hmis), fun hal hcore hk ha => hstop _ (barPlace_outside hal ?_ ?_ ha), fun hal hcore hm => hstop _ (barPlace_unmapped hal ?_ hm)⟩
    · rwa [henv]
    · rwa [localKey_congr henv]
    · rwa [henv]
  · refine ⟨exec_binit he hp hr ((ownBarrier_congr (readReg_keeps hr).env).mpr hk) hsbar, fun u tag => ?_⟩
    simp only [performAccess, plainTo_localKey hk.2 tag, if_true]
  · have hkeep := readsAll_keeps hr
    exact (updatesBar_bexp he hp hr).own hkeep.mem hno ((ownBarrier_congr hkeep.env).mpr hk) hsbar rfl hhome
  · have hkeep := readsAll_keeps hr
    have hval : (if e = 1 then v else 0).toInt = if e = 1 then v.toInt else 0 := by split <;> rfl
    have hown := (updatesBar_barv he hp hr).own hkeep.mem hno ((ownBarrier_congr hkeep.env).mpr hk) (hrel rfl).2.1 (release_afterSbar hrel) hhome
    rw [hval] at hown
    exact hown.2 hpois
  · rw [List.forall_mem_cons]
    refine ⟨(updatesBar_barv he hp hr).answered hr0, fun q hq => ?_⟩
    by_cases h1 : e = 1
    · rw [if_pos h1, List.mem_singleton] at hq
      rw [if_pos h1, if_pos h1] at hr
      subst hq
      exact (updatesBar_bexp he hp hr).answered hr0
    · rw [if_neg h1] at hq
      cases hq
  · have hkeep := readsAll_keeps hr
    have hk1 := (ownBarrier_congr hkeep.env).mpr hk
    obtain ⟨hbusy, hmark, hphase⟩ := exec_bwait (scope := scope) he hp hr hk1 hsbar
    refine ⟨hbusy, hmark, hphase, fun hhome hno hpois hpc => ?_⟩
    have hmem : (afterSbar s1).mem = s.mem := (sbarSpent_mem s1).trans hkeep.mem
    have hread := performAccess_read (plainTo_localKey hk.2 (t := afterSbar s1) (cur (afterSbar s1)).tag) 8
    rw [hmem, hpois] at hread
    refine exec_btest he hp hr hpc ((onceAtHome_run hno _).trans ?_) (r := ⟨0, readWord s.mem k, false, 0, k⟩) rfl
    rw [run_bind_ok (barPlace_own hk1), run_bind_ok (behindSbar_ok hsbar)]
    refine (atHome_own hhome _).trans ?_
    show Except.ok ((performAccess (afterSbar s1) _ _).2, (performAccess (afterSbar s1) _ _).1) = _
    rw [hread]
    rfl
  · exact exec_btest he hp hr hpc (onceAtHome_reply hr0 _) hpois

end Sys2Proof.Machine
end

section
/-!
O47. The steps of the two engines: each event is the shared operation of its engine, met under the conditions of its statement (06 R166 to R201).
-/

namespace Sys2Proof.Machine

open Sys2Proof.Spec

/-! ### Changing an engine of an agent twice -/

theorem mput_mput {α : Type} (m : SMap α) (i : Nat) (v w : α) : mput (mput m i v) i w = mput m i w := by
  induction m with
  | nil => simp [mput]
  | cons p t ih =>
    obtain ⟨k, u⟩ := p
    simp only [mput]
    split
    · simp [mput]
    · split
      · simp [mput]
      · simp only [mput, if_neg ‹¬i = k›, if_neg ‹¬i < k›, ih]

theorem agentAt_modMx (s : State) (a : Nat) (f : Mxe → Mxe) : agentAt (modMx s a f) a = { agentAt s a with mx := f (agentAt s a).mx } := by
  simp [modMx, agentAt_modAgent]

theorem modMx_modMx (s : State) (a : Nat) (f g : Mxe → Mxe) : modMx (modMx s a f) a g = modMx s a (fun m => g (f m)) := by
  unfold modMx
  unfold modAgent
  rw [agentAt_setAgent_same]
  simp only [setAgent, mput_mput]

/-- What the agent's engine holds decides the change. -/
theorem modMx_congr {s : State} {a : Nat} {f g : Mxe → Mxe} (h : f (agentAt s a).mx = g (agentAt s a).mx) : modMx s a f = modMx s a g := by
  simp only [modMx, modAgent, h]

/-- The phase of a run, changed. -/
def setPhase (a : Nat) (r : MxRun) (p : RunPhase) (s : State) : State :=
  modMx s a (fun m => { m with runs := modFirst (· == r) (fun r => { r with phase := p }) m.runs })

/-! ### A pass reaches the array (06 R175 to R177, R183) -/

section Pass

variable {s : State} {a : Nat} {r : MxRun}

/-- The fault of the pass that run r makes, as the tile stands. -/
def runFault (s : State) (a : Nat) (r : MxRun) : Option Nat :=
  passFault (bankOf (agentAt s a) (opBank r.cmd.op)) (runWeights (agentAt s a) r) (passArgs r.cmd.op)

theorem beginPass_fault {c : Nat} (h : runFault s a r = some c) :
    beginPass s a r = endRun (postEngine s a r.cmd.strand (engineInfo 0 (runFn r).1 (runFn r).2 0 c) 0) a r := by
  unfold runFault at h
  unfold beginPass
  dsimp only
  rw [h]
  cases runWeights (agentAt s a) r with
  | none => rfl
  | some w => rfl

theorem beginPass_made {w : WBuf} (h : runFault s a r = none) (hw : runWeights (agentAt s a) r = some w)
    (hp : passPoison s.mem a (opBank r.cmd.op) (bankOf (agentAt s a) (opBank r.cmd.op)) w (passArgs r.cmd.op) = none) :
    beginPass s a r = setPhase a r .running (makePass s a (opBank r.cmd.op) (tagOf s a r.cmd.strand) w (passArgs r.cmd.op)) := by
  unfold runFault at h
  rw [hw] at h
  simp [beginPass, hw, h, hp, setPhase]

theorem servePass_fault {c : Nat} (h : runFault s a r = some c) : servePass s a r = beginPass s a r := by
  unfold runFault at h
  simp [servePass, h]

theorem servePass_cold (h : runFault s a r = none) (harr : (agentAt s a).mx.arr ≠ .warm) :
    servePass s a r = setPhase a r .ramping (modMx (modMx s a (fun m => { m with decl := m.decl - 1 })) a (fun m => { m with arr := .rampUp })) := by
  unfold runFault at h
  simp [servePass, h, harr, setPhase, modMx_modMx]

theorem servePass_warm (h : runFault s a r = none) (harr : (agentAt s a).mx.arr = .warm) :
    servePass s a r = beginPass (modMx s a (fun m => { m with decl := m.decl - 1 })) a r := by
  unfold runFault at h
  simp [servePass, h, harr]

/-- Counting a declared pass changes nothing that a pass reads. -/
theorem bankOf_decl (b : Nat) : bankOf (agentAt (modMx s a (fun m => { m with decl := m.decl - 1 })) a) b = bankOf (agentAt s a) b := by
  rw [agentAt_modMx]; rfl

theorem runWeights_decl : runWeights (agentAt (modMx s a (fun m => { m with decl := m.decl - 1 })) a) r = runWeights (agentAt s a) r := by
  rw [agentAt_modMx]; rfl

theorem tagOf_modMx (f : Mxe → Mxe) (k : Nat) : tagOf (modMx s a f) a k = tagOf s a k := by
  unfold tagOf strandAt
  rw [agentAt_modMx]; rfl

theorem servePass_made {w : WBuf} (h : runFault s a r = none) (harr : (agentAt s a).mx.arr = .warm) (hw : runWeights (agentAt s a) r = some w)
    (hp : passPoison s.mem a (opBank r.cmd.op) (bankOf (agentAt s a) (opBank r.cmd.op)) w (passArgs r.cmd.op) = none) :
    servePass s a r = setPhase a r .running
      (makePass (modMx s a (fun m => { m with decl := m.decl - 1 })) a (opBank r.cmd.op) (tagOf s a r.cmd.strand) w (passArgs r.cmd.op)) := by
  rw [servePass_warm h harr, beginPass_made (w := w), tagOf_modMx]
  · rw [runFault, bankOf_decl, runWeights_decl]; exact h
  · rw [runWeights_decl, hw]
  · rw [bankOf_decl]; exact hp

theorem exec_triggeredPass (h : nextFired (agentAt s a) = some r) : exec (.triggeredPass a) s = .next (kickMxe (servePass s a r) a) := by
  show execTriggeredPass a s = _
  simp [execTriggeredPass, h]

end Pass

/-! ### Ramps, ends and results (06 R177, R180, R183) -/

section Array

variable {s : State} {a : Nat}

theorem exec_rampUpEnd_idle (h : (agentAt s a).mx.arr = .rampUp) (hr : (agentAt s a).mx.runs.find? (fun r => r.phase == .ramping) = none) :
    exec (.rampUpEnd a) s = .next (coolDown (modMx s a (fun m => { m with arr := .warm })) a) := by
  show execRampUpEnd a s = _
  simp [execRampUpEnd, h, hr]

theorem exec_rampUpEnd_pass {r : MxRun} (h : (agentAt s a).mx.arr = .rampUp)
    (hr : (agentAt s a).mx.runs.find? (fun r => r.phase == .ramping) = some r) :
    exec (.rampUpEnd a) s = .next (kickMxe (beginPass (modMx s a (fun m => { m with arr := .warm })) a r) a) := by
  show execRampUpEnd a s = _
  simp [execRampUpEnd, h, hr]

theorem exec_rampDownEnd (h : (agentAt s a).mx.arr = .rampDown) : exec (.rampDownEnd a) s = .next (modMx s a (fun m => { m with arr := .cold })) :=
  congrArg Host.Outcome.next (modMx_congr (if_pos h))

theorem exec_rampGapExpiry (h : (agentAt s a).mx.arr = .warm) (hd : (agentAt s a).mx.decl ≠ 0)
    (hr : ∀ r ∈ (agentAt s a).mx.runs, runBusy r = true → r.cmd.op.isPass = false) :
    exec (.rampGapExpiry a) s = .next (modMx s a (fun m => { m with decl := 0, arr := .rampDown })) := by
  have hidle : ¬ (agentAt s a).mx.runs.any (fun r => runBusy r && r.cmd.op.isPass) := by
    rw [List.any_eq_true]
    rintro ⟨r, hmem, hbusy⟩
    rw [Bool.and_eq_true] at hbusy
    exact absurd (hr r hmem hbusy.1) (by rw [hbusy.2]; decide)
  exact if_pos ⟨h, hd, hidle⟩

section End

variable {r : MxRun} (h : (agentAt s a).mx.runs.find? (fun r => r.phase == .running && r.cmd.op.isPass) = some r) (hf : r.fired = none)
include h hf

theorem exec_passEnd_idle (hq : nextFired (agentAt (setPhase a r .holding s) a) = none) :
    exec (.passEnd a) s = .next (coolDown (kickMxe (setPhase a r .holding s) a) a) := by
  show execPassEnd a s = _
  unfold setPhase at hq ⊢
  simp only [execPassEnd, h, hf, hq]

theorem exec_passEnd_fired {q : MxRun} (hq : nextFired (agentAt (setPhase a r .holding s) a) = some q) :
    exec (.passEnd a) s = .next (coolDown (kickMxe (servePass (setPhase a r .holding s) a q) a) a) := by
  show execPassEnd a s = _
  unfold setPhase at hq ⊢
  simp only [execPassEnd, h, hf, hq]

end End

section Held

variable {n : Nat} {r : MxRun} (h : ((agentAt s a).mx.runs.filter (fun r => r.phase == .holding))[n]? = some r)
include h

theorem exec_passResultHeld_pushed (hf : r.fired = none) : exec (.passResultHeld a n) s = .next (setPhase a r .finished s) := by
  show execPassResultHeld a n s = _
  simp [execPassResultHeld, h, hf, setPhase]

theorem exec_passResultHeld_fired {f : Fired} (hf : r.fired = some f) (hr : f.report = false) :
    exec (.passResultHeld a n) s = .next (dropRun (· == r) s a) := by
  show execPassResultHeld a n s = _
  simp [execPassResultHeld, h, hf, hr]

theorem exec_passResultHeld_reported {f : Fired} (hf : r.fired = some f) (hr : f.report = true) (hroom : mcqRoom s a r.cmd.strand = true) :
    exec (.passResultHeld a n) s = .next (dropRun (· == r) (pushMcq s a r.cmd.strand (reportElem f)) a) := by
  show execPassResultHeld a n s = _
  simp [execPassResultHeld, h, hf, hr, hroom]

end Held

end Array

/-! ### A drain's step (06 R182) -/

theorem bankOf_setBank (x : Agent) (b : Nat) (v : Bank) : bankOf (setBank x b v) b = v := mget_mput_same _ _ _ _

theorem setBank_runs (x : Agent) (b : Nat) (v : Bank) : (setBank x b v).mx.runs = x.mx.runs := rfl

section Drain

variable {s : State} {a : Nat} {r : MxRun}

theorem modFirst_congr {α : Type} {f : α → Bool} {g h : α → α} {l : List α} (e : ∀ x, f x = true → g x = h x) : modFirst f g l = modFirst f h l := by
  induction l with
  | nil => rfl
  | cons x t ih =>
    simp only [modFirst, ih]
    split
    · rw [e x ‹_›]
    · rfl

/-- The runs of an engine stand apart from its banks. -/
theorem bankOf_modRuns (f : Mxe → List MxRun) (b : Nat) :
    bankOf (agentAt (modMx s a (fun m => { m with runs := f m })) a) b = bankOf (agentAt s a) b := by
  rw [agentAt_modMx]; rfl

/-- The run q of a drain after a step over n elements with the result out; last says that no element is left. -/
def drainedRun (last : Prop) [Decidable last] (n : Nat) (out : List (Nat × Nat × Bool) × BitVec 5 × Word) (q : MxRun) : MxRun :=
  { q with phase := if last then .finished else .running, pos := q.pos + n, flags := q.flags ||| out.2.1, seed := out.2.2 }

/-- The state after a step of the drain r with the result out, before ZAFTER. -/
def drained (s : State) (a : Nat) (r : MxRun) (size b : Nat) (out : List (Nat × Nat × Bool) × BitVec 5 × Word) (g : MxRun → MxRun) : State :=
  modMx (modAgent (setMem s (putDrained s.mem a size out.1)) a (fun x =>
    setBank x b { bankOf (agentAt s a) b with dflags := (bankOf (agentAt s a) b).dflags ||| out.2.1 })) a
    (fun m => { m with runs := modFirst (· == r) g m.runs })

section Drained

variable (size b : Nat) (out : List (Nat × Nat × Bool) × BitVec 5 × Word) (g : MxRun → MxRun)

theorem drained_mem : (drained s a r size b out g).mem = putDrained s.mem a size out.1 := rfl

theorem drained_runs : (agentAt (drained s a r size b out g) a).mx.runs = modFirst (· == r) g (agentAt s a).mx.runs := by
  rw [drained, agentAt_modMx, agentAt_modAgent, if_pos rfl]; rfl

theorem drained_dflags : (bankOf (agentAt (drained s a r size b out g) a) b).dflags = (bankOf (agentAt s a) b).dflags ||| out.2.1 := by
  rw [drained, bankOf_modRuns, agentAt_modAgent, if_pos rfl, bankOf_setBank]

end Drained

variable {addr stride ctl seed : Word} {bank : BitVec 2} {rm : BitVec 3} {dn : Done}

/-- A step of a drain without a barrier, and ZAFTER with the last one. -/
theorem drainOne_eq (hop : r.cmd.op = .drain addr stride ctl bank rm seed dn) (hbar : dn.bar = none) :
    let all := drainElems ctl addr.toNat stride.toNat
    let now := (all.drop r.pos).take 64
    let out := drainSome (bankOf (agentAt s a) bank.toNat) ctl rm.toNat now r.seed
    let t := drained s a r (drainSize (dcFmt ctl)) bank.toNat out (drainedRun (all.length ≤ r.pos + 64) now.length out)
    drainOne s a r = if all.length ≤ r.pos + 64 ∧ dcZafter ctl = true then
      modAgent t a (fun x => setBank x bank.toNat (zeroBank false (bankOf x bank.toNat))) else t := by
  intro all now out t
  unfold drainOne
  rw [hop]
  dsimp only
  rw [hbar]
  simp only [Bool.and_eq_true, decide_eq_true_eq]
  rfl

/-- One step of a drain without a barrier: the bytes of LS, the run and the sticky flags of its bank. -/
theorem drainOne_noBar (hop : r.cmd.op = .drain addr stride ctl bank rm seed dn) (hbar : dn.bar = none) :
    let all := drainElems ctl addr.toNat stride.toNat
    let now := (all.drop r.pos).take 64
    let bk := bankOf (agentAt s a) bank.toNat
    let out := drainSome bk ctl rm.toNat now r.seed
    (drainOne s a r).mem = putDrained s.mem a (drainSize (dcFmt ctl)) out.1 ∧
    (agentAt (drainOne s a r) a).mx.runs = modFirst (· == r) (fun q => drainedRun (all.length ≤ q.pos + 64) now.length out q) (agentAt s a).mx.runs ∧
    (bankOf (agentAt (drainOne s a r) a) bank.toNat).dflags = (if all.length ≤ r.pos + 64 ∧ dcZafter ctl = true then 0 else bk.dflags ||| out.2.1) := by
  intro all now bk out
  have hruns : modFirst (· == r) (drainedRun (all.length ≤ r.pos + 64) now.length out) (agentAt s a).mx.runs =
      modFirst (· == r) (fun q => drainedRun (all.length ≤ q.pos + 64) now.length out q) (agentAt s a).mx.runs :=
    modFirst_congr (fun q hq => by rw [eq_of_beq hq])
  rw [← hruns]
  by_cases hz : all.length ≤ r.pos + 64 ∧ dcZafter ctl = true
  · rw [drainOne_eq hop hbar, if_pos hz, if_pos hz]
    refine ⟨rfl, ?_, ?_⟩
    · rw [agentAt_modAgent, if_pos rfl, setBank_runs, drained_runs]
    · rw [agentAt_modAgent, if_pos rfl, bankOf_setBank]; rfl
  · rw [drainOne_eq hop hbar, if_neg hz, if_neg hz]
    exact ⟨rfl, drained_runs _ _ _ _, drained_dflags _ _ _ _⟩

theorem exec_drainStep (h : drainRun (agentAt s a) = some r) : exec (.drainStep a) s = .next (kickMxe (drainOne s a r) a) := by
  show execDrainStep a s = _
  simp [execDrainStep, h]

end Drain

/-! ### Copies and windows (06 R188 to R201) -/

section Copy

variable {s : State} {a e : Nat} {r : CpRun} (h : (agentAt s a).cp.table[e]? = some r)
include h

theorem exec_copyLanding_badShape {p : Nat} (hready : pieceReady s a r p = true) (hshape : shapeBad r.cmd = true) :
    exec (.copyLanding a e p) s = .next (cpFault s a r 8 0 0) := by
  show execCopyLanding a e p s = _
  simp [execCopyLanding, h, hready, hshape]

theorem exec_copyLanding_lands {p : Nat} {idx : List Nat} {s1 s2 : State} {r2 : CpRun} (hready : pieceReady s a r p = true) (hshape : shapeBad r.cmd = false)
    (hheld : r.list = none → heldBack s a r (listKeys a r.cmd) = false) (hlist : readList s a r = (s1, some idx))
    (hsource : takeSource s1 a { r with list := if (listOf r.cmd).isSome then some idx else r.list } idx = (s2, some r2)) :
    exec (.copyLanding a e p) s = .next (landPiece s2 a r2 idx p) := by
  have hfree : (r.list.isNone && heldBack s a r (listKeys a r.cmd)) = false := by
    cases hl : r.list with
    | none => rw [hheld hl, Bool.and_false]
    | some l => rfl
  show execCopyLanding a e p s = _
  simp only [execCopyLanding, h, hready, hshape, hfree, hlist, hsource, Bool.not_true, Bool.false_eq_true, if_false]

variable (hready : fillReady s a r = true) {v : Window} (hv : mget? (agentAt s a).cp.wins r.cmd.k = some v)
include hready hv

theorem exec_windowFill_bad (hn : r.cmd.a.toNat = 0 ∨ winCap v < r.cmd.a.toNat) : exec (.windowFill a e) s = .next (cpFault s a r 3 0 0) := by
  show execWindowFill a e s = _
  simp only [execWindowFill, h, hready, hv, if_pos hn, Bool.not_true, Bool.false_eq_true, if_false]

variable (hn : r.cmd.a.toNat ≠ 0) (hcap : r.cmd.a.toNat ≤ winCap v)
include hn hcap

theorem exec_windowFill_line {l : WLine} (hl : v.lines.find? (fun l => l.st == .filling) = some l) :
    exec (.windowFill a e) s = .next (fillLine s a r v l) := by
  show execWindowFill a e s = _
  simp only [execWindowFill, h, hready, hv, if_neg (not_or.mpr ⟨hn, not_lt.mpr hcap⟩), hl, Bool.not_true, Bool.false_eq_true, if_false]

theorem exec_windowFill_alloc (hl : v.lines.find? (fun l => l.st == .filling) = none) : exec (.windowFill a e) s = .next (allocLine s a r v) := by
  show execWindowFill a e s = _
  simp only [execWindowFill, h, hready, hv, if_neg (not_or.mpr ⟨hn, not_lt.mpr hcap⟩), hl, Bool.not_true, Bool.false_eq_true, if_false]

end Copy

/-! ### Completion (06 R166 to R168) -/

section Completion

variable {s : State} {a k : Nat}

theorem completeMx_some {r : MxRun} (h : mxCompletable s a k = some r) :
    completeMx s a k = settle (dropRun (· == r) (match drainElement r with | some w => pushMcq s a k w | none => s) a) a k := by
  simp only [completeMx, h] <;> rfl

variable {r : CpRun} (h : cpCompletable s a k = some r)
include h

theorem completeCp_due (hp : r.pend ≠ []) : completeCp s a k = pushDue s a r := by
  simp [completeCp, h, hp]

variable (hp : r.pend = [])
include hp

theorem completeCp_finished (hf : r.finished = true) : completeCp s a k = leaveTable s a r := by
  simp [completeCp, h, hp, hf]

theorem completeCp_open (hf : r.finished = false) (hfn : r.cmd.fn = 0x21) : completeCp s a k = openWindow s a r := by
  simp [completeCp, h, hp, hf, hfn]

theorem completeCp_sync (hf : r.finished = false) (hfn : r.cmd.fn ≠ 0x21) : completeCp s a k = syncWindow s a r (r.cmd.fn = 0x24) := by
  simp only [completeCp, h, hp, hf, if_neg hfn, ne_eq, not_true_eq_false, if_false, Bool.false_eq_true]

end Completion

/-- Settles O47: each event under its statement's conditions is the engine's operation of the lemma named for it. -/
theorem engineEvents : Obligations.EngineEvents := by
  unfold Obligations.EngineEvents
  refine ⟨fun s a => ?_, fun s a => ?_⟩
  · refine ⟨fun r hr => ?_, fun harr => ?_, exec_rampDownEnd, exec_rampGapExpiry, fun r hr hf => ?_, fun n r hr => ?_, ?_⟩
    · rw [exec_triggeredPass hr]
      refine ⟨fun c hc => ?_, fun hok hcold => ?_, fun hok hwarm w hw hp => ?_⟩
      · rw [servePass_fault hc, beginPass_fault hc]
      · rw [servePass_cold hok hcold]; rfl
      · rw [servePass_made hok hwarm hw hp]; rfl
    · exact ⟨exec_rampUpEnd_idle harr, fun r => exec_rampUpEnd_pass harr⟩
    · exact ⟨exec_passEnd_idle hr hf, fun q => exec_passEnd_fired hr hf⟩
    · exact ⟨exec_passResultHeld_pushed hr, fun f => exec_passResultHeld_fired hr, fun f => exec_passResultHeld_reported hr⟩
    · intro r addr stride ctl bank rm seed dn hr hop hbar
      exact ⟨drainOne s a r, exec_drainStep hr, drainOne_noBar hop hbar⟩
  · refine ⟨fun e p r hr => ⟨exec_copyLanding_badShape hr, ?_, fun hready v hv => ?_⟩, fun k r hr => ?_, fun k r hr => ?_⟩
    · intro hready hshape hheld idx s1 s2 r2 hlist hsource
      exact exec_copyLanding_lands hr hready hshape hheld hlist hsource
    · exact ⟨exec_windowFill_bad hr hready hv, fun hn hcap l => exec_windowFill_line hr hready hv hn hcap, exec_windowFill_alloc hr hready hv⟩
    · exact congrArg Host.Outcome.next (completeMx_some hr)
    · refine ⟨fun hp => ?_, fun hp hf => ?_, fun hp hf hfn => ?_, fun hp hf hfn => ?_⟩
      · exact congrArg Host.Outcome.next (completeCp_due hr hp)
      · exact congrArg Host.Outcome.next (completeCp_finished hr hp hf)
      · exact congrArg Host.Outcome.next (completeCp_open hr hp hf hfn)
      · exact congrArg Host.Outcome.next (completeCp_sync hr hp hf hfn)

end Sys2Proof.Machine
end

section
/-!
SUPPORT for O35 to O40. What the reads of operands leave of the machine, operands read one after another, checks before an effect, and releases that have nothing to
wait for (01 R21 to R25, 04 R125, 14 R345).
-/

namespace Sys2Proof.Machine

open Sys2Proof.Spec

/-! ### What the reads of operands leave of the machine -/

/-- An agent whose operands have been read: strands, queues, names, receive slots and window lines may differ. -/
def popsOnly (x y : Agent) : Prop := ∃ strands chans rqs whq names slots cp,
  y = { x with strands := strands, ni := { x.ni with chans := chans, rqs := rqs, whq := whq, names := names }, rx := { x.rx with slots := slots }, cp := cp }

theorem popsOnly.refl (x : Agent) : popsOnly x x := ⟨_, _, _, _, _, _, _, rfl⟩

theorem popsOnly.trans {x y z : Agent} (h1 : popsOnly x y) (h2 : popsOnly y z) : popsOnly x z := by
  obtain ⟨_, _, _, _, _, _, _, rfl⟩ := h1
  obtain ⟨_, _, _, _, _, _, _, rfl⟩ := h2
  exact ⟨_, _, _, _, _, _, _, rfl⟩

/-- The machine after operands have been read: one agent may differ, by its pops. -/
structure PortsPopped (s t : State) : Prop where
  rest : t = { s with agents := t.agents }
  others : ∀ b, b ≠ s.env.agent → agentAt t b = agentAt s b
  agent : popsOnly (curAgent s) (curAgent t)

theorem PortsPopped.refl (s : State) : PortsPopped s s := ⟨rfl, fun _ _ => rfl, .refl _⟩

theorem PortsPopped.env {s t : State} (h : PortsPopped s t) : t.env = s.env := by rw [h.rest]

theorem PortsPopped.trans {s t u : State} (h1 : PortsPopped s t) (h2 : PortsPopped t u) : PortsPopped s u := by
  refine ⟨h2.rest.trans ?_, fun b hb => (h2.others b (h1.env ▸ hb)).trans (h1.others b hb), h1.agent.trans h2.agent⟩
  rw [h1.rest]

theorem PortsPopped.of_modCurAgent {s : State} {f : Agent → Agent} (h : popsOnly (curAgent s) (f (curAgent s))) : PortsPopped s (modCurAgent s f) :=
  ⟨rfl, fun _ hb => (agentAt_modAgent ..).trans (if_neg hb), by rwa [curAgent_modCurAgent]⟩

section
variable {s t : State} (h : PortsPopped s t)
include h

theorem PortsPopped.mem : t.mem = s.mem := by rw [h.rest]
theorem PortsPopped.net : t.net = s.net := by rw [h.rest]
theorem PortsPopped.light : t.light = s.light := by rw [h.rest]
theorem PortsPopped.os : t.os = s.os := by rw [h.rest]

theorem PortsPopped.calls : (curAgent t).calls = (curAgent s).calls := by
  obtain ⟨_, _, _, _, _, _, _, hx⟩ := h.agent
  rw [hx]

theorem PortsPopped.chain : (curAgent t).rx.chain = (curAgent s).rx.chain := by
  obtain ⟨_, _, _, _, _, _, _, hx⟩ := h.agent
  rw [hx]

theorem PortsPopped.pool : (curAgent t).pool = (curAgent s).pool := by
  obtain ⟨_, _, _, _, _, _, _, hx⟩ := h.agent
  rw [hx]

theorem PortsPopped.nameOf (a : Nat) : nameOf t a = Machine.nameOf s a := by
  by_cases ha : a = s.env.agent
  · have hcur : agentAt t a = curAgent t := by rw [ha, ← h.env, curAgent]
    obtain ⟨_, _, _, _, _, _, _, hx⟩ := h.agent
    rw [Machine.nameOf, hcur, hx, ha]
    rfl
  · rw [Machine.nameOf, h.others a ha, Machine.nameOf]

theorem PortsPopped.treeAt (r g : Nat) : treeAt t r g = Machine.treeAt s r g := by rw [Machine.treeAt, h.net, Machine.treeAt]

end

theorem popsOnly_settleHeaders (n : Nat) (x : Agent) : popsOnly x (settleHeaders n x) := by
  induction n generalizing x with
  | zero => exact .refl x
  | succ n ih =>
    unfold settleHeaders
    split
    · exact .refl x
    · split
      · exact .refl x
      · exact .trans ⟨_, _, _, _, _, _, _, rfl⟩ (ih _)

theorem popsOnly_dropFirst (x : Agent) (k : Nat) (b : Binding) : popsOnly x (dropFirst x k b) := by
  unfold dropFirst
  dsimp only
  split
  case h_5 => exact .trans ⟨_, _, _, _, _, _, _, rfl⟩ (popsOnly_settleHeaders _ _)
  all_goals exact ⟨_, _, _, _, _, _, _, rfl⟩

theorem popsOnly_acquireAgent (n : Nat) (x : Agent) : popsOnly x (acquireAgent n x) := by
  unfold acquireAgent
  split <;> exact ⟨_, _, _, _, _, _, _, rfl⟩

/-- A pop takes the first element from its endpoint, and the first element of a REL message acquires (01 R24, 07 R217). -/
theorem popPort_state {n : Nat} {s t : State} {v : Word} (h : popPort n s = .ok (v, t)) :
    let u := modCurAgent s (fun x => dropFirst x s.env.strand (bindingOf (cur s) n))
    t = u ∨ ∃ sc, t = modCurAgent u (acquireAgent sc) := by
  intro u
  have hsrc : isSource (bindingOf (cur s) n).kind.toNat = true := by
    by_contra hno
    rw [popPort_unbound (Bool.eq_false_iff.mpr hno)] at h
    cases h
  cases he : endpoint (curAgent s) s.env.strand (bindingOf (cur s) n) with
  | nil =>
    rw [popPort_empty hsrc he] at h
    cases h
  | cons e l =>
    cases ha : e.acq with
    | none =>
      rw [popPort_plain hsrc he ha] at h
      cases h
      exact .inl rfl
    | some sc =>
      have hpop : popPort n s = .ok (e.val, modCurAgent u (acquireAgent sc.toNat)) := by simp [popPort, hsrc, he, ha, run_map, acquire_run, u]
      rw [hpop] at h
      cases h
      exact .inr ⟨_, rfl⟩

theorem popPort_pops {n : Nat} {s t : State} {v : Word} (h : popPort n s = .ok (v, t)) : PortsPopped s t := by
  have hdrop : PortsPopped s (modCurAgent s (fun x => dropFirst x s.env.strand (bindingOf (cur s) n))) := .of_modCurAgent (popsOnly_dropFirst ..)
  rcases popPort_state h with rfl | ⟨sc, rfl⟩
  · exact hdrop
  · exact hdrop.trans (.of_modCurAgent (popsOnly_acquireAgent ..))

theorem readReg_pops {r : Reg} {s t : State} {v : Word} (h : readReg r s = .ok (v, t)) : PortsPopped s t := by
  by_cases hr : isG r
  · rw [readReg_g hr] at h
    cases h
    exact .refl s
  · rw [readReg_port hr] at h
    exact popPort_pops h

theorem readsAll_pops {rs : List Reg} {s t : State} {vs : List Word} (h : readsAll rs s vs t) : PortsPopped s t := by
  induction rs generalizing s vs with
  | nil =>
    obtain ⟨-, rfl⟩ := h
    exact .refl _
  | cons r rs ih =>
    obtain ⟨_, _, _, hr, hrs, -⟩ := h
    exact (readReg_pops hr).trans (ih hrs)

/-! ### Names (14 R345) -/

/-- The current tile's name cache, replaced. -/
def withNames (l : List NameEntry) (s : State) : State := modCurAgent s (fun x => { x with ni := { x.ni with names := l } })

theorem withNames_pops (l : List NameEntry) (s : State) : PortsPopped s (withNames l s) := .of_modCurAgent ⟨_, _, _, _, _, _, _, rfl⟩

/-- A name resolved at once changes only the order of the name cache. -/
theorem resolveName_state {n : Nat} {s t : State} {p : Option Nat} (h : resolveName n s = .ok (p, t)) : t = s ∨ ∃ l, t = withNames l s := by
  by_cases hout : 9216 ≤ n ∨ inRegion (ownRegion s) n = false
  · rw [resolveName_outside hout] at h
    cases h
    exact .inl rfl
  · have hin : ¬(9216 ≤ n ∨ ¬ inRegion (ownRegion s) n = true) := by simpa using hout
    unfold resolveName at h
    rw [getS_bind] at h
    replace h := (congrFun (if_neg hin) s).symm.trans h
    cases hf : (curAgent s).ni.names.find? (fun e => e.name == n) with
    | none => simp only [hf, waitWith_run, reduceCtorEq] at h
    | some e =>
      simp only [hf] at h
      cases h
      exact .inr ⟨_, rfl⟩

theorem destTile_far {v : Word} (h : 2 ^ 14 ≤ v.toNat) (s : State) :
    destTile v s = .error (.trap ⟨0x09, some v, BitVec.ofNat 64 (v.toNat % 2 ^ 14), none, 0, id, false⟩) := by
  simp only [destTile, ge_iff_le, h, if_true, run_bind, trapAt_run]
  rfl

theorem destTile_state {v : Word} {s t : State} {p : Nat} (h : destTile v s = .ok (p, t)) : t = s ∨ ∃ l, t = withNames l s := by
  by_cases hv : 2 ^ 14 ≤ v.toNat
  · rw [destTile_far hv] at h
    cases h
  · simp only [destTile, ge_iff_le, hv, if_false] at h
    obtain ⟨q, u, hq, h⟩ := bind_eq_ok.mp h
    cases q with
    | none => cases h
    | some q =>
      cases h
      exact resolveName_state hq

theorem destTile_pops {v : Word} {s t : State} {p : Nat} (h : destTile v s = .ok (p, t)) : PortsPopped s t := by
  rcases destTile_state h with rfl | ⟨l, rfl⟩
  · exact .refl _
  · exact withNames_pops l s

/-- A destination that can take a value: at most a name has been looked up. -/
theorem checkDst_state {r : Reg} {s t : State} (h : checkDst r s = .ok ((), t)) : t = s ∨ ∃ l, t = withNames l s := by
  by_cases hr : isG r
  · rw [checkDst_g hr] at h
    cases h
    exact .inl rfl
  · have hno : ¬ r.toNat < 56 := hr
    simp only [checkDst, hno, if_false, getS_bind] at h
    generalize bindingOf (cur s) (r.toNat - 56) = b at h
    by_cases h2 : b.kind.toNat = 2
    · simp only [h2] at h
      obtain ⟨_, u, hd, h⟩ := bind_eq_ok.mp h
      by_cases hroom : sendRoom (curAgent u) = 0
      · simp only [getS_bind, hroom, if_true, waitFor_run, reduceCtorEq] at h
      · simp only [getS_bind, hroom, if_false] at h
        cases h
        exact destTile_state hd
    · by_cases h4 : b.kind.toNat = 4
      · simp only [h4] at h
        obtain ⟨c, u, hc, h⟩ := bind_eq_ok.mp h
        cases h
        have hu : t = s := by
          simp only [owingCall, getS_bind] at hc
          cases hcall : callOf (curAgent s) b.target.toNat with
          | none =>
            simp only [hcall] at hc
            cases hc
          | some d =>
            by_cases hd : d.given < d.len
            · simp only [hcall, hd, if_true] at hc
              cases hc
              rfl
            · simp only [hcall, hd, if_false] at hc
              cases hc
        exact .inl hu
      · simp only [unbound] at h
        cases h

/-! ### Operands read one after another -/

section
variable {β : Type} {a b c : Reg} {s t : State} {x y z : Word}

theorem run_reads_two (h : readsAll [a, b] s [x, y] t) (f : Word → Word → Exec β) : (readReg a >>= fun x => readReg b >>= f x) s = f x y t := by
  obtain ⟨_, _, u, ha, ⟨_, _, _, hb, ⟨rfl, rfl⟩, hbs⟩, has⟩ := h
  cases hbs
  cases has
  exact (run_bind_ok ha _).trans (run_bind_ok hb _)

theorem run_reads_three (h : readsAll [a, b, c] s [x, y, z] t) (f : Word → Word → Word → Exec β) :
    (readReg a >>= fun x => readReg b >>= fun y => readReg c >>= f x y) s = f x y z t := by
  obtain ⟨_, _, u, ha, hbc, has⟩ := h
  cases has
  exact (run_bind_ok ha _).trans (run_reads_two hbc _)

/-! ### Checks before an effect -/

/-- A check that fails stops the instruction. -/
theorem run_check_fails {p : Prop} [Decidable p] {e : Stop} {x : Exec PUnit} {f : PUnit → Exec β} {y : Exec β} (h : p) (hx : x s = .error e) :
    (if p then x >>= f else y) s = .error e := by rw [if_pos h, run_bind_error hx]

/-- A check that passes leaves what comes after it. -/
theorem run_check_passes {p : Prop} [Decidable p] {x y : Exec β} (h : ¬ p) : (if p then x else y) s = y s := by rw [if_neg h]

theorem run_unless_fails {p : Bool} {e : Stop} {x : Exec PUnit} {f : PUnit → Exec β} {y : Exec β} (h : ¬ p = true) (hx : x s = .error e) :
    (if !p then x >>= f else y) s = .error e := run_check_fails (by simpa using h) hx

theorem run_unless_passes {p : Bool} {x y : Exec β} (h : p = true) : (if !p then x else y) s = y s := run_check_passes (by simpa using h)

end

/-! ### An instruction whose operands have been read -/

section
variable {s t : State} {x : Except Stop (Ctl × State)}

theorem runWord_const_ok {c : Ctl} (h : x = .ok (c, t)) : runWord s (fun _ => x) = .next (retire t c) := runWord_ok (x := fun _ => x) h

theorem runWord_const_trap {e : Trap} (h : x = .error (.trap e)) : runWord s (fun _ => x) = .next (takeTrap s e) := runWord_trap (x := fun _ => x) h

theorem runWord_const_wait {c : WaitCause} {f : State → State} (h : x = .error (.wait c f)) : runWord s (fun _ => x) = .next (f (beginWait s c)) :=
  runWord_wait (x := fun _ => x) h

end

/-! ### Releases with nothing to wait for (04 R125) -/

theorem release_run {scope : BitVec 2} {s : State} (h : released true ⟨2, scope⟩ s) : release scope.toNat s = .ok ((), afterSbar s) := by
  obtain ⟨hperf, hsbar, hdirty⟩ := h rfl
  exact release_ok hperf hsbar hdirty

theorem env_afterSbar (s : State) : (afterSbar s).env = s.env := sbarSpent_env s

/-- A release at tile scope. -/
theorem release_tile {s : State} (hperf : performedAt s 0 = true) (hsbar : sbarDone s = true) : release 0 s = .ok ((), afterSbar s) :=
  release_ok hperf hsbar (fun h => absurd h (by decide))

theorem afterSbar_afterSbar (s : State) : afterSbar (afterSbar s) = afterSbar s := if_pos (afterSbar_spent s)

/-- A record of SBAR spent leaves the strand but for that record. -/
theorem cur_afterSbar (s : State) : ∃ eng, cur (afterSbar s) = { cur s with eng := eng } := by
  unfold afterSbar
  split
  · exact ⟨_, rfl⟩
  · exact ⟨_, cur_modCur ..⟩

end Sys2Proof.Machine
end

section
/-!
O35. Ports bound and asked for their state (07 R206 to R208).
-/

namespace Sys2Proof.Machine

open Sys2Proof.Spec

/-! ### QBIND -/

/-- The agent after port n of strand k has been bound to b, whose target is v: others lose the binding, and the channel of KIND 1 its overflow bit. -/
def boundPort (k n v : Nat) (b : Binding) (x : Agent) : Agent :=
  let x := unbindOthers b x
  let x := if b.kind = 1 then { x with ni := { x.ni with chans := mmod chan0 x.ni.chans v (fun c => { c with ovf := false }) } } else x
  let t := strandOf x k
  { x with strands := mput x.strands k { t with qb := if b.kind = 0 then mdel t.qb n else mput t.qb n b } }

/-- QBIND once its target has been read: the limit of the target, then the binding. -/
def bindTarget (kind : BitVec 4) (n : Nat) (v : Word) : Exec Ctl := do
  if (1 ≤ kind.toNat && kind.toNat ≤ 4) && targetLimit kind.toNat ≤ v.toNat then badTarget n
  modS (fun s => modCurAgent s (boundPort s.env.strand n v.toNat ⟨kind, v.setWidth 16⟩))
  return .next

/-- The limits of R206 by kind; a kind without a target has the limit m, which no target reaches. -/
theorem limit_by_kind (k m : Nat) : [m, 16, 2 ^ 14, 4, 512].getD k m = if 1 ≤ k ∧ k ≤ 4 then targetLimit k else m := by
  match k with
  | 0 => rfl
  | 1 => rfl
  | 2 => rfl
  | 3 => rfl
  | 4 => rfl
  | k + 5 => rw [if_neg (by omega)]; rfl

/-- The kinds with a target are those whose limit can be passed. -/
theorem targetLimit_passed (kind : BitVec 4) (v : Word) :
    ((1 ≤ kind.toNat && kind.toNat ≤ 4) && targetLimit kind.toNat ≤ v.toNat) = true ↔ [2 ^ 64, 16, 2 ^ 14, 4, 512].getD kind.toNat (2 ^ 64) ≤ v.toNat := by
  rw [limit_by_kind]
  by_cases ht : 1 ≤ kind.toNat ∧ kind.toNat ≤ 4
  · simp [ht]
  · have hv : ¬ 2 ^ 64 ≤ v.toNat := Nat.not_le.mpr v.isLt
    rw [if_neg ht, iff_false_right hv]
    simp only [Bool.and_eq_true, decide_eq_true_eq]
    exact fun h => ht h.1

section
variable {g : Guard} {a : Reg} {kind : BitVec 4} {n : BitVec 3} {s s1 : State} {v : Word}

theorem exec_qbind (he : executes (cur s) g = true) (hv : if 1 ≤ kind.toNat ∧ kind.toNat ≤ 4 then readReg a s = .ok (v, s1) else v = 0 ∧ s1 = s) :
    exec (.qbind g a kind n) s = runWord s (fun _ => bindTarget kind n.toNat v s1) := by
  refine runWord_congr ((scalar_run_nil he _).trans ?_)
  by_cases hk : 1 ≤ kind.toNat ∧ kind.toNat ≤ 4
  · rw [if_pos hk] at hv
    have hb : (decide (1 ≤ kind.toNat) && decide (kind.toNat ≤ 4)) = true := by simpa using hk
    simp only [hb, if_true, bindTarget]
    exact run_bind_ok hv _
  · rw [if_neg hk] at hv
    obtain ⟨rfl, rfl⟩ := hv
    have hb : (decide (1 ≤ kind.toNat) && decide (kind.toNat ≤ 4)) = false := by simpa using hk
    simp only [hb, bindTarget]
    rfl

theorem bindTarget_out (h : ((1 ≤ kind.toNat && kind.toNat ≤ 4) && targetLimit kind.toNat ≤ v.toNat) = true) :
    bindTarget kind n.toNat v s1 = .error (.trap ⟨0x0A, none, BitVec.ofNat 64 (16 + 2 * n.toNat), none, 0, id, false⟩) := by
  rw [Nat.mul_comm]
  exact run_check_fails h rfl

theorem bindTarget_in (h : ¬ ((1 ≤ kind.toNat && kind.toNat ≤ 4) && targetLimit kind.toNat ≤ v.toNat) = true) :
    bindTarget kind n.toNat v s1 = .ok (.next, modCurAgent s1 (boundPort s1.env.strand n.toNat v.toNat ⟨kind, v.setWidth 16⟩)) :=
  run_check_passes h

end

/-- The binding field by field: the strands, and the overflow bit of a channel. -/
theorem boundPort_eq (k n v : Nat) (b : Binding) (x : Agent) : boundPort k n v b x =
    let strands := if b.kind = 1 ∨ b.kind = 3 then x.strands.map (fun p => (p.1, { p.2 with qb := p.2.qb.filter (fun q => q.2 != b) })) else x.strands
    let t := mget strand0 strands k
    { x with
      strands := mput strands k { t with qb := if b.kind = 0 then mdel t.qb n else mput t.qb n b }
      ni := if b.kind = 1 then { x.ni with chans := mput x.ni.chans v { mget chan0 x.ni.chans v with ovf := false } } else x.ni } := by
  have hunbind : unbindOthers b x = { x with strands :=
      if b.kind = 1 ∨ b.kind = 3 then x.strands.map (fun p => (p.1, { p.2 with qb := p.2.qb.filter (fun q => q.2 != b) })) else x.strands } := by
    unfold unbindOthers
    split <;> rfl
  unfold boundPort
  rw [hunbind]
  by_cases h1 : b.kind = 1
  · simp only [h1, if_true]
    rfl
  · simp only [h1, if_false]
    rfl

/-! ### QSTAT -/

/-- Names looked up say nothing about a port. -/
theorem qstatWord_withNames (l : List NameEntry) (s : State) (n : Nat) :
    bindingOf (cur (withNames l s)) n = bindingOf (cur s) n ∧ (curAgent (withNames l s)).ni.chans = (curAgent s).ni.chans ∧
      ∀ b, portCount (curAgent (withNames l s)) s.env.strand b = portCount (curAgent s) s.env.strand b := by
  have hx : curAgent (withNames l s) = { curAgent s with ni := { (curAgent s).ni with names := l } } := curAgent_modCurAgent ..
  have hcur : cur (withNames l s) = cur s := by
    show strandOf (curAgent (withNames l s)) s.env.strand = _
    rw [hx]
    rfl
  exact ⟨by rw [hcur], by rw [hx], fun b => by rw [hx]; rfl⟩

/-- COUNT by the kind of the binding (R208). -/
theorem portCount_eq (x : Agent) (k : Nat) (b : Binding) : portCount x k b =
    if b.kind = 4 then (match callOf x b.target.toNat with | some c => c.len - c.given | none => 0)
    else if b.kind = 2 then 64 - x.ni.sbuf.length else if b.kind = 7 then min 8 x.ni.whq.length else (endpoint x k b).length := by
  obtain ⟨kind, target⟩ := b
  by_cases h4 : kind = 4
  · subst h4; rfl
  by_cases h2 : kind = 2
  · subst h2; rfl
  by_cases h7 : kind = 7
  · subst h7; rfl
  have hne : ∀ c : BitVec 4, kind ≠ c → kind.toNat ≠ c.toNat := fun c h e => h (BitVec.eq_of_toNat_eq e)
  rw [if_neg h4, if_neg h2, if_neg h7]
  unfold portCount
  dsimp only
  split
  · exact absurd ‹_› (hne 2 h2)
  · exact absurd ‹_› (hne 4 h4)
  · exact absurd ‹_› (hne 7 h7)
  · rfl

/-- Settles O35: the target's limit and the binding, and the word of QSTAT. -/
theorem portBinding : Obligations.PortBinding := by
  intro g a kind n s he h8
  refine ⟨fun v s1 hv => ?_, fun s0 t hd => ?_⟩
  · have hexec := exec_qbind (n := n) he hv
    have hpassed := targetLimit_passed kind v
    have henv : s1.env = s.env := by
      split at hv
      · exact (readReg_keeps hv).env
      · rw [hv.2]
    refine ⟨fun hlimit => hexec.trans (runWord_trap (bindTarget_out (hpassed.mpr hlimit))), fun hlimit => ?_⟩
    refine hexec.trans ((runWord_const_ok (bindTarget_in (mt hpassed.mp (Nat.not_le.mpr hlimit)))).trans ?_)
    rw [funext (boundPort_eq s1.env.strand n.toNat v.toNat ⟨kind, v.setWidth 16⟩), henv]
  · intro b x ovf count ht
    refine runWord_ok ((scalar_run_one he hd _).trans ((reads_bind ..).trans (run_bind_ok (a := ()) ?_ _)))
    have hstate : bindingOf (cur s0) n.toNat = b ∧ (curAgent s0).ni.chans = x.ni.chans ∧ portCount (curAgent s0) s0.env.strand b = portCount x s.env.strand b := by
      rcases checkDst_state hd with rfl | ⟨l, rfl⟩
      · exact ⟨rfl, rfl, rfl⟩
      · obtain ⟨hb, hc, hcount⟩ := qstatWord_withNames l s n.toNat
        exact ⟨hb, hc, hcount b⟩
    obtain ⟨hb, hc, hcount⟩ := hstate
    rw [← ht]
    dsimp only
    rw [hb, hcount, portCount_eq, chanOf, hc]
    have hovf : (if (b.kind == 1 && (mget chan0 x.ni.chans b.target.toNat).ovf) = true then 2 ^ 16 else 0) = ovf * 2 ^ 16 := by
      simp only [ovf, Bool.and_eq_true, beq_iff_eq]
      split <;> rfl
    exact congrArg (fun n => writeReg a (BitVec.ofNat 64 (b.kind.toNat * 2 ^ 28 + n + count)) s0) hovf

end Sys2Proof.Machine
end

section
/-!
O36. Elements sent: checks, the send buffer, and how a send is cut into messages (07 R212 to R217).
-/

namespace Sys2Proof.Machine

open Sys2Proof.Spec

/-! ### The sender of a message -/

/-- Two states in which the current strand's messages are the same: who sends, its task and arrivals, and the names of the tiles. -/
structure SameSender (s t : State) : Prop where
  env : t.env = s.env
  tag : (cur t).tag = (cur s).tag
  arrived : (cur t).arrived = (cur s).arrived
  nameOf : ∀ a, nameOf t a = nameOf s a

theorem SameSender.trans {s t u : State} (h1 : SameSender s t) (h2 : SameSender t u) : SameSender s u :=
  ⟨h2.env.trans h1.env, h2.tag.trans h1.tag, h2.arrived.trans h1.arrived, fun a => (h2.nameOf a).trans (h1.nameOf a)⟩

theorem SameSender.refl (s : State) : SameSender s s := ⟨rfl, rfl, rfl, fun _ => rfl⟩

theorem SameSender.sendEl {s t : State} (h : SameSender s t) (o : SendOp) : Machine.sendEl o t = Machine.sendEl o s := by
  funext r
  simp only [Machine.sendEl, newMsg, headerFor, h.env, h.tag, h.arrived, h.nameOf]

theorem SameSender.of_reads {s t : State} (h : PortsPopped s t) (hk : OperandsRead s t) : SameSender s t := by
  obtain ⟨_, _, _, hcur⟩ := hk.strand
  exact ⟨h.env, by rw [hcur], by rw [hcur], h.nameOf⟩

theorem curAgent_modCur (s : State) (f : Strand → Strand) :
    curAgent (modCur s f) = { curAgent s with strands := mput (curAgent s).strands s.env.strand (f (cur s)) } := curAgent_modCurAgent ..

/-- A change of the current tile that keeps its name. -/
theorem nameOf_modCurAgent {s : State} {f : Agent → Agent} (h : (f (curAgent s)).name = (curAgent s).name) (a : Nat) :
    nameOf (modCurAgent s f) a = nameOf s a := by
  have hx : agentAt (modCurAgent s f) a = if a = s.env.agent then f (curAgent s) else agentAt s a := agentAt_modAgent ..
  by_cases ha : a = s.env.agent
  · rw [nameOf, hx, if_pos ha, h, ha]; rfl
  · rw [nameOf, hx, if_neg ha]; rfl

/-- A change of the current strand that keeps its task and arrivals. -/
theorem SameSender.of_modCur {s : State} {f : Strand → Strand} (htag : (f (cur s)).tag = (cur s).tag) (harr : (f (cur s)).arrived = (cur s).arrived) :
    SameSender s (modCur s f) :=
  ⟨rfl, by rw [cur_modCur, htag], by rw [cur_modCur, harr], nameOf_modCurAgent rfl⟩

theorem SameSender.of_afterSbar (s : State) : SameSender s (afterSbar s) := by
  unfold afterSbar
  split
  · exact .refl s
  · exact .of_modCur rfl rfl

/-! ### Elements placed in the send buffer (R213) -/

theorem sameSender_beginWait (s : State) (c : WaitCause) : SameSender s (beginWait s c) := .of_modCur rfl rfl

theorem curAgent_bufferEls (es : List SendEl) (s : State) :
    curAgent (bufferEls es s) = { curAgent s with ni := { (curAgent s).ni with sbuf := (curAgent s).ni.sbuf ++ es } } := curAgent_modCurAgent ..

theorem cur_bufferEls (es : List SendEl) (s : State) : cur (bufferEls es s) = cur s := by
  show strandOf (curAgent (bufferEls es s)) s.env.strand = _
  rw [curAgent_bufferEls]
  rfl

theorem buffered_eq (dst : Nat) (o : SendOp) (words : List Word) (s : State) : buffered dst o words s = (toSend s dst words).map (sendEl o s) := by
  simp only [buffered, toSend, List.map_map]
  refine List.map_congr_left fun p _ => ?_
  simp only [Function.comp, sendEl]
  congr 1
  split <;> simp_all

theorem map_val_toSend (s : State) (dst : Nat) (words : List Word) : (toSend s dst words).map (·.val) = words := by
  rw [toSend, List.map_map]
  exact (List.map_congr_left fun _ _ => rfl).trans (List.zipIdx_map_fst 0 words)

section
variable {o : SendOp} {l : List Reply} {s t : State}

/-- There is room for all. -/
theorem placeElems_fits (h : l.length ≤ 64 - (curAgent t).ni.sbuf.length) : placeElems o l t = .ok (.next, bufferEls (l.map (sendEl o t)) t) := by
  have hroom : l.length ≤ sendRoom (curAgent t) := h
  simp only [placeElems, reads_bind, hroom, if_true, List.take_of_length_le hroom, modS_bind]
  rfl

/-- There is room for some: the strand holds the others and waits. -/
theorem placeElems_part (h0 : 0 < 64 - (curAgent t).ni.sbuf.length) (h : 64 - (curAgent t).ni.sbuf.length < l.length) :
    let room := 64 - (curAgent t).ni.sbuf.length
    placeElems o l t = .error (.wait .sink (fun s => modCur (bufferEls ((l.take room).map (sendEl o s)) s) (fun u => { u with reply := some (l.drop room) }))) := by
  intro room
  have hmany : ¬ l.length ≤ sendRoom (curAgent t) := Nat.not_le.mpr h
  have hsome : ¬ sendRoom (curAgent t) = 0 := Nat.ne_of_gt h0
  simp only [placeElems, reads_bind, hmany, if_false, hsome]
  rfl

/-- There is none. -/
theorem placeElems_full (h0 : 64 - (curAgent t).ni.sbuf.length = 0) (h : l ≠ []) : placeElems o l t = .error (.wait .sink id) := by
  have hnone : sendRoom (curAgent t) = 0 := h0
  have hmany : ¬ l.length ≤ 0 := Nat.not_le.mpr (List.length_pos_iff.mpr h)
  simp only [placeElems, reads_bind, hnone, hmany, if_false, if_true]
  rfl

/-- An instruction that places the elements of words is a send of them. -/
theorem sends_of_placeElems {i : Instr} {dst : Nat} {words : List Word} (h : exec i s = runWord s (fun _ => placeElems o (toSend t dst words) t))
    (same : SameSender s t) : sends i dst o words s t := by
  have hlen : (toSend t dst words).length = words.length := by simp [toSend]
  refine ⟨fun hfit => ?_, fun h0 hmany => ?_, fun h0 hne => ?_⟩
  · rw [h, buffered_eq]
    exact runWord_const_ok (placeElems_fits (hlen ▸ hfit))
  · rw [h, runWord_const_wait (placeElems_part h0 (hlen ▸ hmany))]
    set room := 64 - (curAgent t).ni.sbuf.length
    have hcur : cur (modCur (bufferEls (((toSend t dst words).take room).map (sendEl o (beginWait s .sink))) (beginWait s .sink))
        (fun u => { u with reply := some ((toSend t dst words).drop room) })) =
        { cur s with st := .waiting, cause := some .sink, reply := some ((toSend t dst words).drop room) } := by
      rw [cur_modCur, cur_bufferEls, beginWait, cur_modCur]
    refine ⟨_, rfl, rfl, by rw [hcur], by rw [hcur], by rw [hcur], ?_, _, by rw [hcur], ?_⟩
    · rw [curAgent_modCur, curAgent_bufferEls, buffered_eq, ← List.map_take, (sameSender_beginWait s .sink).sendEl, same.sendEl, beginWait, curAgent_modCur]
    · rw [List.map_drop, map_val_toSend]
  · rw [h]
    refine runWord_const_wait (placeElems_full h0 fun hnil => hne ?_)
    rw [← List.length_eq_zero_iff, ← hlen, hnil]; rfl

end

/-! ### SND and SNDV -/

/-- The state at which the elements of a send enter the buffer: after its release. -/
def behindRelease (o : SendOp) (s : State) : State := if o.rel = 1 then afterSbar s else s

theorem sendElems_run {o : SendOp} {s : State} (h : released (o.rel = 1) ⟨2, o.scope⟩ s) (dst : Nat) (words : List Word) :
    sendElems dst o words s = placeElems o (toSend (behindRelease o s) dst words) (behindRelease o s) := by
  by_cases hrel : o.rel = 1
  · simp only [sendElems, releaseIf, hrel, decide_true, if_true, behindRelease]
    exact run_bind_ok (release_run (by simpa [hrel] using h)) _
  · simp only [sendElems, releaseIf, hrel, decide_false, behindRelease, if_false]
    rfl

/-- The words of a SND where SBAR and the tile's own requests hold nothing back and none is poisoned. -/
theorem sendWords_ok {gb : Word} {n : Nat} {s : State} (hsbar : sbarDone s = true) (hhome : homeBusy (afterSbar s) (keyLs s.env.agent gb.toNat) = false)
    (hclean : ∀ i, i < n → poisonedAt s.mem (keyLs s.env.agent gb.toNat + 8 * i) = false) :
    sendWords gb n s = .ok ((List.range n).map (fun i => readWord s.mem (keyLs s.env.agent gb.toNat + 8 * i)), afterSbar s) := by
  have hmem : (afterSbar s).mem = s.mem := sbarSpent_mem s
  have hnone : (List.range n).find? (fun i => poisonedAt s.mem (keyLs s.env.agent gb.toNat + 8 * i)) = none := by
    simpa using hclean
  simp only [sendWords, getS_bind]
  refine (run_bind_ok (behindSbar_ok hsbar) _).trans ((run_bind_ok (homeReady_ok hhome) _).trans ?_)
  simp only [getS_bind, hmem, hnone]
  rfl

section
variable {g : Guard} {a b : Reg} {vb : VReg} {o : SendOp} {s s1 : State} {name gb : Word}

/-- SND once its operands have been read. -/
def sndBody (o : SendOp) (name gb : Word) (l : Option (List Reply)) : Exec Ctl :=
  match l with
  | some l => placeElems o l
  | none => do
    if gb.toNat % 8 ≠ 0 then trapAt cMISALIGN gb 8
    if lsBytes < gb.toNat + 8 * o.count.toNat then trapAt cLOAD gb 1
    let p ← destTile name
    sendElems p o (← sendWords gb o.count.toNat)

theorem exec_snd (he : executes (cur s) g = true) (hr : readsAll [a, b] s [name, gb] s1) :
    exec (.snd g a b o) s = runWord s (fun _ => sndBody o name gb (cur s1).reply s1) := by
  refine runWord_congr ((scalar_run_nil he _).trans ((run_reads_two hr _).trans ?_))
  rw [getS_bind]
  cases (cur s1).reply <;> rfl

/-- SNDV once its name has been read. -/
def sndvBody (vb : VReg) (o : SendOp) (name : Word) (l : Option (List Reply)) : Exec Ctl :=
  match l with
  | some l => placeElems o l
  | none => do
    let p ← destTile name
    let v ← reads (fun s => vregOf (cur s) vb)
    sendElems p o ((List.range o.count.toNat).map (fun i => v.extractLsb' (64 * i) 64))

theorem exec_sndv (he : executes (cur s) g = true) (hr : readReg a s = .ok (name, s1)) :
    exec (.sndv g a vb o) s = runWord s (fun _ => sndvBody vb o name (cur s1).reply s1) := by
  refine runWord_congr ((scalar_run_nil he _).trans ((run_bind_ok hr _).trans ?_))
  rw [getS_bind]
  cases (cur s1).reply <;> rfl

/-- The checks of SND, in order (R212, R213). -/
theorem exec_snd_checks (he : executes (cur s) g = true) (hr : readsAll [a, b] s [name, gb] s1) (hfresh : (cur s1).reply = none) :
    (gb.toNat % 8 ≠ 0 → exec (.snd g a b o) s = trapsAt s 0x04 gb 8) ∧
    (gb.toNat % 8 = 0 → 0x300000 < gb.toNat + 8 * o.count.toNat → exec (.snd g a b o) s = trapsAt s 0x06 gb 1) ∧
    (gb.toNat % 8 = 0 ∧ gb.toNat + 8 * o.count.toNat ≤ 0x300000 → 2 ^ 14 ≤ name.toNat → exec (.snd g a b o) s = trapsAt s 0x09 name (name.toNat % 2 ^ 14)) := by
  rw [exec_snd he hr, hfresh]
  refine ⟨fun h => runWord_trap (run_check_fails h rfl), fun h0 h => ?_, fun ⟨h0, hin⟩ h => ?_⟩
  · exact runWord_trap ((run_check_passes (not_not.mpr h0)).trans (run_check_fails h rfl))
  · exact runWord_trap ((run_check_passes (not_not.mpr h0)).trans ((run_check_passes (Nat.not_lt.mpr hin)).trans (run_bind_error (destTile_far h s1) _)))

end

/-! ### A send cut into messages (R214) -/

section
variable (dst : Nat) (o : SendOp) (words : List Word) (s : State)

theorem map_elem_buffered : (buffered dst o words s).map (·.elem) = words := by
  rw [buffered, List.map_map]
  exact (List.map_congr_left fun _ _ => rfl).trans (List.zipIdx_map_fst 0 words)

/-- Element j ends its message where MAXMSG says, or where the words end. -/
theorem last_buffered (j : Nat) : (buffered dst o words s)[j]?.map (·.last) =
    words[j]?.map (fun _ => decide ((j + 1) % elemsPerMsg s = 0 ∨ j + 1 = words.length)) := by
  simp [buffered, List.getElem?_zipIdx, Function.comp_def]

theorem getLast_buffered (h : words ≠ []) : (buffered dst o words s).getLast?.map (·.last) = some true := by
  have hpos : 0 < words.length := List.length_pos_iff.mpr h
  have hlen : (buffered dst o words s).length = words.length := by simp [buffered]
  have hend : words.length - 1 + 1 = words.length := by omega
  rw [List.getLast?_eq_getElem?, hlen, last_buffered, List.getElem?_eq_getElem (by omega), hend]
  simp

/-- Among n positions in a row is one behind a multiple of n. -/
theorem message_end_within (k n : Nat) (h : 0 < n) : ∃ i, i < n ∧ (k + i + 1) % n = 0 := by
  refine ⟨n - 1 - k % n, by omega, ?_⟩
  have hmod := Nat.mod_lt k h
  have hdiv := Nat.div_add_mod k n
  have hsum : k + (n - 1 - k % n) + 1 = n * (k / n + 1) := by rw [Nat.mul_add]; omega
  rw [hsum, Nat.mul_mod_right]

theorem unfinished_buffered (hn : 0 < elemsPerMsg s) {x y z : List SendEl} (hl : buffered dst o words s = x ++ y ++ z) (hy : ∀ e ∈ y, e.last = false) :
    y.length < elemsPerMsg s := by
  by_contra hlong
  obtain ⟨i, hi, hend⟩ := message_end_within x.length _ hn
  have hiy : i < y.length := by omega
  have hlast := last_buffered dst o words s (x.length + i)
  have hin : x.length + i < words.length := by
    have hlen := congrArg List.length hl
    simp [buffered] at hlen
    omega
  have hyi : (buffered dst o words s)[x.length + i]? = some y[i] := by
    rw [hl, List.append_assoc, List.getElem?_append_right (by omega), Nat.add_sub_cancel_left, List.getElem?_append_left hiy, List.getElem?_eq_getElem hiy]
  rw [hyi, List.getElem?_eq_getElem hin] at hlast
  simp [hend, hy _ (List.getElem_mem hiy)] at hlast

end

/-! ### The NI takes elements from the send buffer (R213, R214) -/

/-- An element in its message. -/
def addEl (e : SendEl) (m : Msg) : Msg := { m with elems := m.elems ++ [e.elem], whole := e.last }

/-- The message that strand k of agent a is sending, as the NI recognises it. -/
def beingSent (a k : Nat) (m : Msg) : Bool := m.src == a && m.strand == k && !m.whole

theorem beingSent_iff (a k : Nat) (m : Msg) : beingSent a k m = true ↔ Spec.openMsg a k m := by simp [beingSent, Spec.openMsg, and_assoc]

theorem modFirst_append {α : Type} {f : α → Bool} {g : α → α} {l1 l2 : List α} {m : α} (h1 : ∀ q ∈ l1, ¬ f q = true) (hm : f m = true) :
    modFirst f g (l1 ++ m :: l2) = l1 ++ g m :: l2 := by
  induction l1 with
  | nil => simp [modFirst, hm]
  | cons q l ih =>
    obtain ⟨hq, hl⟩ := List.forall_mem_cons.mp h1
    simp [modFirst, hq, ih hl]

/-- The messages of the mesh with an element of agent a joined to its message, or in a new one. -/
def joinMsg (a : Nat) (e : SendEl) (l : List Msg) : List Msg :=
  if l.any (beingSent a e.msg.strand) then modFirst (beingSent a e.msg.strand) (addEl e) l else l ++ [addEl e e.msg]

theorem drainSend_cons {s : State} {a : Nat} {e : SendEl} {rest : List SendEl} (h : (agentAt s a).ni.sbuf = e :: rest) :
    drainSend s a =
      let t := modAgent s a (fun x => { x with ni := { x.ni with sbuf := rest } })
      { t with net := { s.net with msgs := joinMsg a e s.net.msgs } } := by
  simp only [drainSend, h]
  rfl

/-- What the NI takes leaves the buffer and enters its message. -/
theorem drainSend_parts {s : State} {a : Nat} {e : SendEl} {rest : List SendEl} (h : (agentAt s a).ni.sbuf = e :: rest) :
    (drainSend s a).mem = s.mem ∧ (agentAt (drainSend s a) a).ni.sbuf = rest ∧
    ((∀ m ∈ s.net.msgs, ¬ Spec.openMsg a e.msg.strand m) → (drainSend s a).net.msgs = s.net.msgs ++ [addEl e e.msg]) ∧
    (∀ l1 m l2, s.net.msgs = l1 ++ m :: l2 → (∀ q ∈ l1, ¬ Spec.openMsg a e.msg.strand q) → Spec.openMsg a e.msg.strand m →
      (drainSend s a).net.msgs = l1 ++ addEl e m :: l2) := by
  rw [drainSend_cons h]
  refine ⟨rfl, ?_, fun hnone => if_neg ?_, fun l1 m l2 hl h1 hm => ?_⟩
  · show (agentAt (modAgent s a (fun x => { x with ni := { x.ni with sbuf := rest } })) a).ni.sbuf = rest
    rw [agentAt_modAgent, if_pos rfl]
  · rw [List.any_eq_true]
    exact fun ⟨m, hm, hs⟩ => hnone m hm ((beingSent_iff ..).mp hs)
  · have hsent := (beingSent_iff a e.msg.strand m).mpr hm
    have hany : s.net.msgs.any (beingSent a e.msg.strand) = true := List.any_eq_true.mpr ⟨m, by rw [hl]; simp, hsent⟩
    refine (if_pos hany).trans ?_
    rw [hl]
    exact modFirst_append (fun q hq hs => h1 q hq ((beingSent_iff ..).mp hs)) hsent

/-- Settles O36: the checks and the placing of the words in the state at which the send's waits are over; a message ends within every n elements in a row; and the NI
joins an element to the message its strand is sending. -/
theorem sendInstructions : Obligations.SendInstructions := by
  refine ⟨fun g a o s he => ⟨fun b name gb s1 hr hfresh => ?_, fun vb name s1 hr hfresh => ⟨fun h => ?_, fun p s2 hd hrel => ?_⟩,
    fun b vb l name s1 hheld hroom => ⟨fun gb hr => ?_, fun hr => ?_⟩⟩,
    fun dst o words s hn => ⟨map_elem_buffered .., getLast_buffered _ _ _ _, fun x y z hl hy => unfinished_buffered _ _ _ _ hn hl hy⟩,
    fun s a e rest h => drainSend_parts h⟩
  · obtain ⟨halign, hin, hname⟩ := exec_snd_checks (o := o) he hr hfresh
    refine ⟨halign, hin, hname, fun p s2 ⟨h0, hfit⟩ hd hsbar hhome hrel hclean => ?_⟩
    have hmem : s2.mem = s.mem := (destTile_pops hd).mem.trans (readsAll_pops hr).mem
    have henv : s2.env = s.env := (destTile_pops hd).env.trans (readsAll_pops hr).env
    rw [← hmem] at hclean ⊢
    rw [← henv] at hhome hclean ⊢
    refine sends_of_placeElems ?_ (((SameSender.of_reads (readsAll_pops hr) (readsAll_keeps hr)).trans
      (.of_reads (destTile_pops hd) (destTile_keeps hd))).trans (.of_afterSbar s2))
    rw [exec_snd he hr, hfresh]
    refine runWord_congr ((run_check_passes (not_not.mpr h0)).trans ((run_check_passes (Nat.not_lt.mpr hfit)).trans ((run_bind_ok hd _).trans
      ((run_bind_ok (sendWords_ok hsbar hhome hclean) _).trans ((sendElems_run hrel p _).trans ?_)))))
    rw [behindRelease, afterSbar_afterSbar, ite_self]
  · rw [exec_sndv he hr, hfresh]
    exact runWord_trap (run_bind_error (destTile_far h s1) _)
  · obtain ⟨_, _, _, hcur⟩ := ((readReg_keeps hr).trans (destTile_keeps hd)).strand
    have hvreg : mget 0 (cur s).vregs vb.toNat = vregOf (cur s2) vb := by rw [hcur]; rfl
    refine sends_of_placeElems ?_ (((SameSender.of_reads (readReg_pops hr) (readReg_keeps hr)).trans
      (.of_reads (destTile_pops hd) (destTile_keeps hd))).trans ?_)
    · rw [exec_sndv he hr, hfresh, hvreg]
      exact runWord_congr ((run_bind_ok hd _).trans ((reads_bind ..).trans (sendElems_run hrel p _)))
    · split
      · exact .of_afterSbar s2
      · exact .refl s2
  · rw [exec_snd he hr, hheld]
    exact runWord_const_ok (placeElems_fits hroom)
  · rw [exec_sndv he hr, hheld]
    exact runWord_const_ok (placeElems_fits hroom)

end Sys2Proof.Machine
end

section
/-!
O37. Reduction calls opened, given their values and asked for their results (07 R218 to R221).
-/

namespace Sys2Proof.Machine

open Sys2Proof.Spec

/-! ### Open calls -/

theorem abortCall_run {α : Type} (grp reason : Nat) (s : State) : (abortCall grp reason : Exec α) s =
    .error (.trap ⟨0x11, some 0, BitVec.ofNat 64 (seqOf s grp % 2 ^ 32 * 2 ^ 32 + grp % 512 * 2 ^ 16 + reason), none, 0, id, false⟩) := rfl

/-- An instruction that stops with the abort of its call, in the state that the reads of its operands leave. -/
theorem aborts_of_abortCall {s s1 : State} {x : Except Stop (Ctl × State)} {grp reason : Nat} (h : x = abortCall grp reason s1) :
    runWord s (fun _ => x) = aborts s (seqOf s1 grp) grp reason := runWord_const_trap (h.trans (abortCall_run ..))

section
variable {grp : Nat} {s : State}

theorem owingCall_owing {d : OpenCall} (hd : callOf (curAgent s) grp = some d) (h : d.given < d.len) : owingCall grp s = .ok (d, s) := by
  simp only [owingCall, getS_bind, hd, h, if_true]
  rfl

/-- No call, or one that has all its elements (R220). -/
theorem owingCall_none (h : ∀ d, callOf (curAgent s) grp = some d → d.len ≤ d.given) : owingCall grp s = abortCall grp 5 s := by
  cases hd : callOf (curAgent s) grp with
  | none => simp only [owingCall, getS_bind, hd]
  | some d => simp only [owingCall, getS_bind, hd, Nat.not_lt.mpr (h d hd), if_false]

end

/-- The bytes and the bits of a reduction TYPE say the same width (R218). -/
theorem typeBytes_eq (ty : BitVec 4) : typeWidth ty / 8 = typeBytes ty ∧ typeWidth ty = 8 * typeBytes ty := by
  revert ty
  decide

/-- A buffer of one's own: in the LS, in the vault, or in the vault by its remote name (R220). -/
theorem ownBuffer_isSome {n : Nat} (h : 0 < n) (s : State) (a addr : Nat) : (ownBuffer s a addr n).isSome = true ↔
    addr + n ≤ 0x300000 ∨ (0x800000 ≤ addr ∧ addr + n ≤ 0x1000000) ∨
      (2 ^ 46 ≤ addr ∧ addr < 2 ^ 46 + 2 ^ 37 ∧ addr / 2 ^ 23 % 2 ^ 14 = nameOf s a ∧ addr % 2 ^ 23 + n ≤ 0x800000) := by
  have hls : lsBytes = 0x300000 := rfl
  have hvault : vaultBytes = 0x800000 := rfl
  unfold ownBuffer regionOf
  simp only [Bool.false_eq_true, if_false]
  split_ifs <;> simp only [Option.isSome_ite, Option.isSome_none, Bool.false_eq_true, false_iff] <;> omega

/-! ### RDOPEN -/

section
variable {g : Guard} {a b c : Reg} {s s1 : State} {ga gb gc : Word}

/-- What RDOPEN's registers may not hold. -/
theorem openBad_iff : openBad ga gb gc = true ↔ 512 ≤ ga.toNat ∨ 2 ^ 32 ≤ gb.toNat ∨ gc = 0 ∨ 2 ^ 20 < gc.toNat := by
  have hor {p q r u : Prop} [Decidable p] [Decidable q] [Decidable r] [Decidable u] : (decide p || decide q || decide r || decide u) = true ↔ p ∨ q ∨ r ∨ u := by
    simp [or_assoc]
  exact hor

theorem isTreeMember_iff (grp : Nat) : isTreeMember s grp = true ↔
    teState (treeAt s s.env.agent grp) = 1 ∧ (cur s).tag = some (teTag (treeAt s s.env.agent grp)) ∧ teHas (treeAt s s.env.agent grp) 4 = true := by
  simp only [isTreeMember, Bool.and_eq_true, beq_iff_eq, and_assoc]
  exact and_congr_right fun _ => and_congr_left' eq_comm

/-- RDOPEN once its operands have been read. -/
def openBody (base : BitVec 9) (all sat : BitVec 1) (ty op : BitVec 4) (ga gb gc : Word) : Exec Ctl := do
  if openBad ga gb gc then abortWith gb.toNat ga.toNat 4
  if !(← reads (fun s => isTreeMember s ga.toNat)) then abortWith gb.toNat ga.toNat 6
  until' .other (fun s => (callOf (curAgent s) ga.toNat).isNone && (curAgent s).calls.length < callCap)
  modS (fun s => modCurAgent s (fun x => { x with calls := x.calls ++
    [⟨ga.toNat, BitVec.ofNat 32 gb.toNat, op, ty, sat = 1, all = 1, base, gc.toNat, 0, [], none, s.env.strand, false, 0⟩] }))
  return .next

theorem exec_rdopen (he : executes (cur s) g = true) (hp : noPosted s 1) (hr : readsAll [a, b, c] s [ga, gb, gc] s1)
    (base : BitVec 9) (all sat : BitVec 1) (ty op : BitVec 4) :
    exec (.rdopen g a b c base all sat ty op) s = runWord s (fun _ => openBody base all sat ty op ga gb gc s1) :=
  runWord_congr ((engine_runs he hp _).trans (run_reads_three hr _))

theorem openBody_member {base : BitVec 9} {all sat : BitVec 1} {ty op : BitVec 4} (hgood : ¬ openBad ga gb gc = true) (hm : isTreeMember s1 ga.toNat = true) :
    openBody base all sat ty op ga gb gc s1 = (do
      until' .other (fun s => (callOf (curAgent s) ga.toNat).isNone && (curAgent s).calls.length < callCap)
      modS (fun s => modCurAgent s (fun x => { x with calls := x.calls ++
        [⟨ga.toNat, BitVec.ofNat 32 gb.toNat, op, ty, sat = 1, all = 1, base, gc.toNat, 0, [], none, s.env.strand, false, 0⟩] }))
      return .next : Exec Ctl) s1 := by
  refine (run_check_passes hgood).trans ?_
  simp only [reads_bind, hm]
  rfl

end

/-- RDOPEN (R218, R219). -/
theorem rdopen_outcomes {g : Guard} {a b c : Reg} {s s1 : State} {ga gb gc : Word} (he : executes (cur s) g = true) (hp : noPosted s 1)
    (hr : readsAll [a, b, c] s [ga, gb, gc] s1) (base : BitVec 9) (all sat : BitVec 1) (ty op : BitVec 4) :
    let i := Instr.rdopen g a b c base all sat ty op
    let busy := callOf (curAgent s) ga.toNat ≠ none ∨ 8 ≤ (curAgent s).calls.length
    (openBad ga gb gc = true → exec i s = aborts s gb.toNat ga.toNat 4) ∧
    (¬ openBad ga gb gc = true → ¬ isTreeMember s ga.toNat = true → exec i s = aborts s gb.toNat ga.toNat 6) ∧
    (¬ openBad ga gb gc = true → isTreeMember s ga.toNat = true → busy → exec i s = .next (beginWait s .other)) ∧
    (¬ openBad ga gb gc = true → isTreeMember s ga.toNat = true → ¬ busy → exec i s = .next (retire (modCurAgent s1 (fun x => { x with
      calls := x.calls ++ [⟨ga.toNat, gb.setWidth 32, op, ty, sat = 1, all = 1, base, gc.toNat, 0, [], none, s.env.strand, false, 0⟩] })) .next)) := by
  intro i busy
  have hpops := readsAll_pops hr
  have hmember : isTreeMember s1 ga.toNat = isTreeMember s ga.toNat := by
    simp only [isTreeMember, hpops.env, hpops.treeAt, (readsAll_keeps hr).tag]
  have hcalls : (curAgent s1).calls = (curAgent s).calls := hpops.calls
  have hfree : ((callOf (curAgent s1) ga.toNat).isNone && decide ((curAgent s1).calls.length < callCap)) = true ↔ ¬ busy := by
    simp [busy, callOf, hcalls, callCap]
  simp only [i, exec_rdopen he hp hr]
  refine ⟨fun hbad => runWord_const_trap (run_check_fails hbad rfl), fun hgood hm => ?_, fun hgood hm hb => ?_, fun hgood hm hb => ?_⟩
  · refine runWord_const_trap ((run_check_passes hgood).trans ?_)
    simp only [reads_bind, hmember, hm]
    rfl
  · exact runWord_const_wait ((openBody_member hgood (hmember.trans hm)).trans (run_bind_error (until_wait (Bool.eq_false_iff.mpr fun h => hfree.mp h hb)) _))
  · refine (runWord_const_ok ((openBody_member hgood (hmember.trans hm)).trans (run_bind_ok (until_ok (hfree.mpr hb)) _))).trans ?_
    rw [← hpops.env]
    rfl

/-! ### RDCS and RDCB -/

section
variable {g : Guard} {a b c : Reg} {s s1 : State} {ga v gb gc : Word}

/-- RDCS once its operands have been read (R220). -/
theorem exec_rdcs (he : executes (cur s) g = true) (hp : noPosted s 1) (hr : readsAll [a, b] s [ga, v] s1) :
    exec (.rdcs g a b) s = runWord s (fun _ => (do contribute (← owingCall (groupOf ga)) v; return .next : Exec Ctl) s1) :=
  runWord_congr ((engine_runs he hp _).trans (run_reads_two hr _))

/-- RDCB once its call has been found. -/
def bufferBody (grp : Nat) (gb gc : Word) (call : OpenCall) : Exec Ctl := do
  let w := typeBytes call.ty
  if gc = 0 ∨ call.len - call.given < gc.toNat then abortCall grp 4
  if gb.toNat % w ≠ 0 then trapAt cMISALIGN gb w
  if !(← reads (fun s => (ownBuffer s s.env.agent gb.toNat (gc.toNat * w)).isSome)) then trapAt cLOAD gb 1
  release 0
  modS (fun s => modCurAgent s (fun x => putCall x
    { call with given := call.given + gc.toNat, vals := call.vals ++ [⟨call.given, gc.toNat, some gb, 0, s.env.strand⟩] }))
  return .next

/-- RDCB once its operands have been read (R220). -/
theorem exec_rdcb (he : executes (cur s) g = true) (hp : noPosted s 1) (hr : readsAll [a, b, c] s [ga, gb, gc] s1) :
    exec (.rdcb g a b c) s = runWord s (fun _ => (do bufferBody (groupOf ga) gb gc (← owingCall (groupOf ga)) : Exec Ctl) s1) :=
  runWord_congr ((engine_runs he hp _).trans (run_reads_three hr _))

/-- The buffer of an RDCB checked in order, and its values given (R220). -/
theorem bufferBody_outcomes (grp : Nat) (gb gc : Word) (d : OpenCall) (s : State) :
    let w := typeBytes d.ty
    let fits := gc.toNat ≠ 0 ∧ gc.toNat ≤ d.len - d.given
    let own := (ownBuffer s s.env.agent gb.toNat (gc.toNat * w)).isSome = true
    (¬ fits → bufferBody grp gb gc d s = abortCall grp 4 s) ∧
    (fits → gb.toNat % w ≠ 0 → bufferBody grp gb gc d s = trapAt cMISALIGN gb w s) ∧
    (fits → gb.toNat % w = 0 → ¬ own → bufferBody grp gb gc d s = trapAt cLOAD gb 1 s) ∧
    (fits → gb.toNat % w = 0 → own → performedAt s 0 = true → sbarDone s = true → bufferBody grp gb gc d s = .ok (.next,
      withCall { d with given := d.given + gc.toNat, vals := d.vals ++ [⟨d.given, gc.toNat, some gb, 0, s.env.strand⟩] } (afterSbar s))) := by
  intro w fits own
  have hcount : (gc = 0 ∨ d.len - d.given < gc.toNat) ↔ ¬ fits := by
    have hzero : gc = 0 ↔ gc.toNat = 0 := ⟨fun h => by rw [h]; rfl, fun h => BitVec.eq_of_toNat_eq h⟩
    rw [hzero]
    simp only [fits]
    omega
  have hok (h : fits) := mt hcount.mp (not_not.mpr h)
  refine ⟨fun h => run_check_fails (hcount.mpr h) (abortCall_run ..), fun h hw => ?_, fun h hw hown => ?_, fun h hw hown hperf hsbar => ?_⟩
  · exact (run_check_passes (hok h)).trans (run_check_fails hw rfl)
  · refine (run_check_passes (hok h)).trans ((run_check_passes (not_not.mpr hw)).trans ((reads_bind ..).trans ?_))
    exact run_unless_fails hown rfl
  · refine (run_check_passes (hok h)).trans ((run_check_passes (not_not.mpr hw)).trans ((reads_bind ..).trans ?_))
    refine (run_unless_passes hown).trans ((run_bind_ok (release_tile hperf hsbar) _).trans ?_)
    rw [← env_afterSbar s]
    rfl

end

/-! ### RDRES -/

/-- RDRES once its call has been found. -/
def resultBody (grp : Nat) (there : Bool) (gb : Word) (rq : BitVec 1) (dn : Done) (d : OpenCall) : Exec Ctl := do
  if d.res.isSome then abortCall grp 5
  if there then
    if rq = 1 then
      if 4 ≤ gb.toNat then abortCall grp 4
    else
      if gb.toNat % 8 ≠ 0 then trapAt cMISALIGN gb 8
      if lsBytes < gb.toNat + statusOff d + 8 then trapAt cSTORE gb 1
  release 0
  modS (fun s => modCurAgent s (fun x => putCall x { d with res := some ⟨gb, rq = 1, dn, s.env.strand⟩ }))
  return .next

/-- The call of RDRES, or NO_CALL. -/
def resultOf (grp : Nat) (there : Bool) (gb : Word) (rq : BitVec 1) (dn : Done) (call : Option OpenCall) : Exec Ctl :=
  match call with
  | none => abortCall grp 5
  | some d => resultBody grp there gb rq dn d

/-- Whether tile a receives the results of the current tile's call. -/
def receivesHere (s : State) (a grp : Nat) : Bool := match callOf (curAgent s) grp with | some d => receives s a d | none => true

section
variable {g : Guard} {a b : Reg} {cs : Compl} {rq : BitVec 1} {s s0 s1 : State} {ga gb : Word} {r : List Word}

theorem exec_rdres (he : executes (cur s) g = true) (hp : noPosted s 1) (ha : readReg a s = .ok (ga, s0))
    (hr : readsAll ((if receivesHere s0 s.env.agent (groupOf ga) then [b] else []) ++ barSrc cs) s0
      ((if receivesHere s0 s.env.agent (groupOf ga) then [gb] else []) ++ r) s1)
    (hgb : receivesHere s0 s.env.agent (groupOf ga) = false → gb = 0) :
    exec (.rdres g a b cs rq) s =
      runWord s (fun _ => resultOf (groupOf ga) (receivesHere s0 s.env.agent (groupOf ga)) gb rq (doneWith cs 0 r) (callOf (curAgent s1) (groupOf ga)) s1) := by
  rw [← (readReg_pops ha).env] at hr hgb ⊢
  refine runWord_congr ((engine_runs he hp _).trans ((run_bind_ok ha _).trans ((reads_bind ..).trans ?_)))
  by_cases hthere : receivesHere s0 s0.env.agent (groupOf ga) = true
  · rw [if_pos hthere, if_pos hthere] at hr
    obtain ⟨_, _, u, hb, hrest, heq⟩ := hr
    cases heq
    refine (congrFun (if_pos hthere) s0).trans ((run_bind_ok hb _).trans ((run_bind_ok (doneOf_run hrest) _).trans ((reads_bind ..).trans ?_)))
    cases callOf (curAgent s1) (groupOf ga) <;> rfl
  · rw [if_neg hthere, if_neg hthere] at hr
    cases hgb (Bool.eq_false_iff.mpr hthere)
    refine (congrFun (if_neg hthere) s0).trans ((run_bind_ok (a := 0) rfl _).trans ((run_bind_ok (doneOf_run hr) _).trans ((reads_bind ..).trans ?_)))
    cases callOf (curAgent s1) (groupOf ga) <;> rfl

end

/-- A result request checked in order, and entered in its call (R221). -/
theorem resultBody_outcomes (grp : Nat) (there : Bool) (gb : Word) (rq : BitVec 1) (dn : Done) {d : OpenCall} {s : State} (hres : d.res = none) :
    let room := gb.toNat + statusOff d + 8 ≤ 0x300000
    (there = true → rq = 1 → 4 ≤ gb.toNat → resultBody grp there gb rq dn d s = abortCall grp 4 s) ∧
    (there = true → rq = 0 → gb.toNat % 8 ≠ 0 → resultBody grp there gb rq dn d s = trapAt cMISALIGN gb 8 s) ∧
    (there = true → rq = 0 → gb.toNat % 8 = 0 → ¬ room → resultBody grp there gb rq dn d s = trapAt cSTORE gb 1 s) ∧
    ((there = true → (rq = 1 → gb.toNat < 4) ∧ (rq = 0 → gb.toNat % 8 = 0 ∧ room)) → performedAt s 0 = true → sbarDone s = true →
      resultBody grp there gb rq dn d s = .ok (.next, withCall { d with res := some ⟨gb, rq = 1, dn, s.env.strand⟩ } (afterSbar s))) := by
  intro room
  have hnone : ¬ d.res.isSome = true := by simp [hres]
  have h0 (h : rq = 0) : ¬ rq = 1 := by rw [h]; decide
  refine ⟨fun ht hq hbad => ?_, fun ht hq halign => ?_, fun ht hq halign hroom => ?_, fun hgood hperf hsbar => ?_⟩
  · exact (run_check_passes hnone).trans ((congrFun (if_pos ht) s).trans ((congrFun (if_pos hq) s).trans (run_check_fails hbad (abortCall_run ..))))
  · exact (run_check_passes hnone).trans ((congrFun (if_pos ht) s).trans ((run_check_passes (h0 hq)).trans (run_check_fails halign rfl)))
  · exact (run_check_passes hnone).trans ((congrFun (if_pos ht) s).trans ((run_check_passes (h0 hq)).trans ((run_check_passes (not_not.mpr halign)).trans
      (run_check_fails (Nat.not_le.mp hroom) rfl))))
  · have hdone : (do
        release 0
        modS (fun s => modCurAgent s (fun x => putCall x { d with res := some ⟨gb, rq = 1, dn, s.env.strand⟩ }))
        return .next : Exec Ctl) s = .ok (.next, withCall { d with res := some ⟨gb, rq = 1, dn, s.env.strand⟩ } (afterSbar s)) := by
      rw [run_bind_ok (release_tile hperf hsbar), ← env_afterSbar s]
      rfl
    refine (run_check_passes hnone).trans (Eq.trans ?_ hdone)
    by_cases ht : there = true
    · obtain ⟨hreg, hmem⟩ := hgood ht
      refine (congrFun (if_pos ht) s).trans ?_
      by_cases hq : rq = 1
      · exact (congrFun (if_pos hq) s).trans (run_check_passes (Nat.not_le.mpr (hreg hq)))
      · obtain ⟨halign, hroom⟩ := hmem ((BitVec.eq_zero_or_eq_one rq).resolve_right hq)
        exact (run_check_passes hq).trans ((run_check_passes (not_not.mpr halign)).trans (run_check_passes (Nat.not_lt.mpr hroom)))
    · exact run_check_passes ht

theorem typeBytes_pos (ty : BitVec 4) : 0 < typeBytes ty := by
  revert ty
  decide

/-- Settles O37: RDOPEN from its outcomes; the others from the call that the state behind their reads holds open. -/
theorem reductionCall : Obligations.ReductionCall := by
  intro g a b c s he hp
  refine ⟨fun base all sat ty op ga gb gc s1 hr => ?_, fun ga v s1 hr => ⟨fun d hd hgiven => ?_, fun hnone => ?_⟩,
    fun ga gb gc s1 hr => ⟨fun hnone => ?_, fun d hd hgiven => ?_⟩, fun cs rq ga gb r s0 s1 ha hr hgb => ⟨fun d hd hres => ?_, fun hnone => ?_⟩⟩
  · obtain ⟨hbad, hout, hbusy, hopen⟩ := rdopen_outcomes he hp hr base all sat ty op
    have hregs := openBad_iff (ga := ga) (gb := gb) (gc := gc)
    have hmember := isTreeMember_iff (s := s) ga.toNat
    exact ⟨fun h => hbad (hregs.mpr h), fun h h1 => hout (mt hregs.mp h) (mt hmember.mp h1), fun h h1 h2 => hbusy (mt hregs.mp h) (hmember.mpr h1) h2,
      fun h h1 h2 => hopen (mt hregs.mp h) (hmember.mpr h1) h2⟩
  · rw [exec_rdcs he hp hr, (typeBytes_eq d.ty).2, ← (readsAll_pops hr).env]
    exact runWord_const_ok ((run_bind_ok (owingCall_owing hd hgiven) _).trans rfl)
  · rw [exec_rdcs he hp hr]
    exact aborts_of_abortCall (run_bind_error ((owingCall_none hnone).trans (abortCall_run ..)) _)
  · rw [exec_rdcb he hp hr]
    exact aborts_of_abortCall (run_bind_error ((owingCall_none hnone).trans (abortCall_run ..)) _)
  · have hpops := readsAll_pops hr
    have hfound := run_bind_ok (owingCall_owing hd hgiven) (bufferBody (groupOf ga) gb gc)
    obtain ⟨hcount, halign, houtside, hgive⟩ := bufferBody_outcomes (groupOf ga) gb gc d s1
    have hown (h : gc.toNat ≠ 0) := ownBuffer_isSome (Nat.mul_pos (Nat.pos_of_ne_zero h) (typeBytes_pos d.ty)) s1 s1.env.agent gb.toNat
    rw [exec_rdcb he hp hr, (typeBytes_eq d.ty).1, ← hpops.env, ← hpops.nameOf]
    refine ⟨fun h => ?_, fun h h1 => ?_, fun h h1 h2 => ?_, fun h h1 h2 hperf hsbar => ?_⟩
    · exact aborts_of_abortCall (hfound.trans (hcount h))
    · exact runWord_const_trap (hfound.trans (halign h h1))
    · exact runWord_const_trap (hfound.trans (houtside h h1 (mt (hown h.1).mp h2)))
    · exact runWord_const_ok (hfound.trans (hgive h h1 ((hown h.1).mpr h2) hperf hsbar))
  · have hcall : callOf (curAgent s1) (groupOf ga) = some d := hd
    have hstrand : s1.env = s.env := (readsAll_pops hr).env.trans (readReg_pops ha).env
    have hexec : exec (.rdres g a b cs rq) s =
        runWord s (fun _ => resultBody (groupOf ga) (receivesHere s0 s.env.agent (groupOf ga)) gb rq (doneWith cs 0 r) d s1) := by
      rw [exec_rdres he hp ha hr hgb, hcall]
      rfl
    obtain ⟨hcode, halign, hroom, hask⟩ := resultBody_outcomes (groupOf ga) (receivesHere s0 s.env.agent (groupOf ga)) gb rq (doneWith cs 0 r) (s := s1) hres
    rw [(typeBytes_eq d.ty).1]
    rw [hstrand] at hask
    refine ⟨fun h h1 h2 => ?_, fun h h1 h2 => ?_, fun h h1 h2 h3 => ?_, fun h hperf hsbar => ?_⟩
    · exact hexec.trans (aborts_of_abortCall (hcode h h1 h2))
    · exact hexec.trans (runWord_const_trap (halign h h1 h2))
    · exact hexec.trans (runWord_const_trap (hroom h h1 h2 h3))
    · exact hexec.trans (runWord_const_ok (hask h hperf hsbar))
  · refine (exec_rdres he hp ha hr hgb).trans ?_
    cases hcall : callOf (curAgent s1) (groupOf ga) with
    | none => exact aborts_of_abortCall rfl
    | some d =>
      have hres : d.res.isSome = true := Option.isSome_iff_ne_none.mpr (hnone d hcall)
      exact aborts_of_abortCall (run_check_fails hres (abortCall_run ..))

end Sys2Proof.Machine
end

section
/-!
O38. Injection, slot instructions and weight-driven execution (07 R224 to R229).
-/

namespace Sys2Proof.Machine

open Sys2Proof.Spec

/-! ### INJ and INJC -/

/-- INJ and INJC once their operands have been read (R224). -/
def injectBody (ga gb : Word) (chain : Bool) : Exec Ctl := do
  if ga.toNat % 64 ≠ 0 then trapAt cMISALIGN ga 64
  until' .other (fun s => injectCount s (gb.toNat % 256) < injectCap)
  release 2
  modS (fun s => { s with light := { s.light with pending := s.light.pending ++ [⟨ga, chain, gb, (cur s).tag, s.env.agent, s.env.strand, false, none⟩] } })
  return .next

section
variable {g : Guard} {a b : Reg} {s s1 : State} {ga gb : Word}

theorem exec_inject (he : executes (cur s) g = true) (hr : readsAll [a, b] s [ga, gb] s1) :
    ∀ q ∈ [(Instr.inj g a b, false), (.injc g a b, true)], exec q.1 s = runWord s (fun _ => injectBody ga gb q.2 s1) := by
  have hbody (chain : Bool) : runWord s (scalar g [] (inject a b chain)) = runWord s (fun _ => injectBody ga gb chain s1) :=
    runWord_congr ((scalar_run_nil he _).trans (run_reads_two hr _))
  intro q hq
  simp only [List.mem_cons, List.not_mem_nil, or_false] at hq
  rcases hq with rfl | rfl
  · exact hbody false
  · exact hbody true

theorem injectCount_of_light {s t : State} (h : t.light = s.light) (grp : Nat) : injectCount t grp = injectCount s grp := by
  simp only [injectCount, groupAt, h]

/-- A request is refused by its address, held while the beacon's queue is full, or sent after a release at wafer scope. -/
theorem injectBody_outcomes (ga gb : Word) (chain : Bool) (s : State) :
    (ga.toNat % 64 ≠ 0 → injectBody ga gb chain s = trapAt cMISALIGN ga 64 s) ∧
    (ga.toNat % 64 = 0 → 16 ≤ injectCount s (gb.toNat % 256) → injectBody ga gb chain s = .error (.wait .other id)) ∧
    (ga.toNat % 64 = 0 → injectCount s (gb.toNat % 256) < 16 → released true ⟨2, 2⟩ s → injectBody ga gb chain s = .ok (.next,
      { afterSbar s with light := { (afterSbar s).light with pending := (afterSbar s).light.pending ++
          [⟨ga, chain, gb, (cur s).tag, s.env.agent, s.env.strand, false, none⟩] } })) := by
  have htag : (cur (afterSbar s)).tag = (cur s).tag := (SameSender.of_afterSbar s).tag
  refine ⟨fun h => run_check_fails h rfl, fun h hfull => ?_, fun h hroom hrel => ?_⟩
  · exact (run_check_passes (not_not.mpr h)).trans (run_bind_error (until_wait (decide_eq_false (Nat.not_lt.mpr hfull))) _)
  · refine (run_check_passes (not_not.mpr h)).trans ((run_bind_ok (until_ok (decide_eq_true hroom)) _).trans ((run_bind_ok (release_run hrel) _).trans ?_))
    rw [← htag, ← env_afterSbar s]
    rfl

end

/-! ### Slot instructions -/

section
variable {g : Guard} {va : VReg} {a b : Reg} {s s1 : State} {ga gb : Word}

/-- A register that names no slot (R227). -/
theorem slotNumber_out (h : 8 ≤ gb.toNat) : slotNumber gb s =
    .error (.trap ⟨0x0F, some gb, BitVec.ofNat 64 (2 ^ 10 + gb.toNat % 8), none, 0, id, false⟩) := run_check_fails h rfl

theorem slotNumber_in (h : gb.toNat < 8) : slotNumber gb s = .ok (gb.toNat, s) := run_check_passes (Nat.not_le.mpr h)

theorem ordinaryBlock_ok {sl : Slot} (h : ordinarySlot s gb sl) : ordinaryBlock gb.toNat s = .ok (sl, s) := by
  obtain ⟨-, hsl, huse⟩ := h
  simp only [ordinaryBlock, getS_bind, hsl, huse, if_true]
  rfl

theorem ordinaryBlock_none (h8 : gb.toNat < 8) (h : ∀ sl, ¬ ordinarySlot s gb sl) :
    ordinaryBlock gb.toNat s = .error (.trap ⟨0x0F, none, BitVec.ofNat 64 (2 ^ 8 + gb.toNat), none, 0, id, false⟩) := by
  cases hsl : mget? (curAgent s).rx.slots gb.toNat with
  | none =>
    simp only [ordinaryBlock, getS_bind, hsl]
    rfl
  | some sl =>
    have huse : ¬ sl.use = .ordinary := fun hu => h sl ⟨h8, hsl, hu⟩
    simp only [ordinaryBlock, getS_bind, hsl, huse, if_false]
    rfl

/-- WBHDR once its slot has been read (R227). -/
def headerBody (va : VReg) (gb : Word) : Exec Ctl := do
  let i ← slotNumber gb
  let sl ← ordinaryBlock i
  modS (fun s => modCur s (fun t => { t with vregs := mput t.vregs va.toNat sl.hdr }))
  return .next

theorem exec_wbhdr (he : executes (cur s) g = true) (hr : readReg b s = .ok (gb, s1)) :
    exec (.wbhdr g va b) s = runWord s (fun _ => headerBody va gb s1) := runWord_congr ((scalar_run_nil he _).trans (run_bind_ok hr _))

/-- The release of a slot, by the way it is used. -/
def releaseSlot (i : Nat) (l : Option Slot) : Exec Ctl :=
  match l with
  | none => return .next
  | some sl => do
    if sl.use ≠ .ordinary then return .next
    if sl.reading then modS (fun s => modCurAgent s (fun x => modSlot x i (fun sl => { sl with freeAfter := true })))
    else modS (fun s => modCurAgent s (fun x => creditRelease (freeSlot x i) sl.group sl.seq false))
    return .next

/-- WBREL once its slot has been read (R227). -/
def slotRelease (gb : Word) : Exec Ctl := do
  let i ← slotNumber gb
  releaseSlot i (mget? (curAgent (← getS)).rx.slots i)

theorem exec_wbrel (he : executes (cur s) g = true) (hr : readReg b s = .ok (gb, s1)) :
    exec (.wbrel g b) s = runWord s (fun _ => slotRelease gb s1) := by
  refine runWord_congr ((scalar_run_nil he _).trans ((run_bind_ok hr _).trans ?_))
  refine congrFun (congrArg (slotNumber gb >>= ·) (funext fun i => funext fun t => ?_)) s1
  rw [getS_bind, getS_bind]
  cases mget? (curAgent t).rx.slots i <;> rfl

/-- WBPOP once its slot has been found (R227). -/
def popBody (agent : Nat) (ga : Word) (i : Nat) (sl : Slot) : Exec Ctl := do
  if sl.faulted then trapPc cBLOCK (BitVec.ofNat 64 (2 ^ 9 + i))
  if ga.toNat % 64 ≠ 0 then trapAt cMISALIGN ga 64
  let n := slotBytes sl
  if lsBytes < ga.toNat + n then trapAt cSTORE ga 1
  behindSbar
  homeReady (keyLs agent ga.toNat)
  modS (fun s => setMem s (writeBytes s.mem (keyLs s.env.agent ga.toNat) ((List.range n).map (fun j => mget 0 sl.body j))))
  return .next

theorem exec_wbpop {s2 s3 : State} {sl : Slot} (he : executes (cur s) g = true) (ha : readReg a s = .ok (ga, s2)) (hb : readReg b s2 = .ok (gb, s3))
    (hsl : ordinarySlot s3 gb sl) : exec (.wbpop g a b) s = runWord s (fun _ => popBody s.env.agent ga gb.toNat sl s3) :=
  runWord_congr ((scalar_run_nil he _).trans ((run_bind_ok ha _).trans ((run_bind_ok hb _).trans
    ((run_bind_ok (slotNumber_in hsl.1) _).trans (run_bind_ok (ordinaryBlock_ok hsl) _)))))

/-- The decoded payload of a block: weights, then scales (R289). -/
theorem slotBytes_eq (sl : Slot) :
    slotBytes sl = if hOpc sl.hdr ≤ 3 then 16 * (hKq sl.hdr + 1) * 128 + (if hSc sl.hdr then hScnt sl.hdr else 0) else 0 := by
  simp only [slotBytes, carriesWeights, decide_eq_true_eq]

/-- A popped block is checked in order, and stored in the local store. -/
theorem popBody_outcomes {agent i : Nat} {sl : Slot} (hag : s.env.agent = agent) (hsbar : sbarDone s = true) :
    let n := slotBytes sl
    (sl.faulted = true → popBody agent ga i sl s = .error (.trap ⟨0x0F, none, BitVec.ofNat 64 (2 ^ 9 + i), none, 0, id, false⟩)) ∧
    (sl.faulted = false → ga.toNat % 64 ≠ 0 → popBody agent ga i sl s = trapAt cMISALIGN ga 64 s) ∧
    (sl.faulted = false → ga.toNat % 64 = 0 → 0x300000 < ga.toNat + n → popBody agent ga i sl s = trapAt cSTORE ga 1 s) ∧
    (sl.faulted = false → ga.toNat % 64 = 0 → ga.toNat + n ≤ 0x300000 → homeBusy (afterSbar s) (keyLs agent ga.toNat) = false →
      popBody agent ga i sl s = .ok (.next,
        setMem (afterSbar s) (writeBytes s.mem (keyLs agent ga.toNat) ((List.range n).map (mget 0 sl.body))))) := by
  intro n
  refine ⟨fun h => run_check_fails h rfl, fun h h1 => ?_, fun h h1 h2 => ?_, fun h h1 h2 hhome => ?_⟩
  · exact (run_check_passes (Bool.eq_false_iff.mp h)).trans (run_check_fails h1 rfl)
  · exact (run_check_passes (Bool.eq_false_iff.mp h)).trans ((run_check_passes (not_not.mpr h1)).trans (run_check_fails h2 rfl))
  · refine (run_check_passes (Bool.eq_false_iff.mp h)).trans ((run_check_passes (not_not.mpr h1)).trans ((run_check_passes (Nat.not_lt.mpr h2)).trans
      ((run_bind_ok (behindSbar_ok hsbar) _).trans ((run_bind_ok (homeReady_ok hhome) _).trans ?_))))
    have hmem : (afterSbar s).mem = s.mem := sbarSpent_mem s
    rw [← hmem, ← hag, ← env_afterSbar s]
    rfl

/-- What WBHDR and WBREL do with a slot that holds an ordinary block. -/
theorem headerBody_ordinary {sl : Slot} (h : ordinarySlot s gb sl) :
    headerBody va gb s = .ok (.next, modCur s (fun t => { t with vregs := mput t.vregs va.toNat sl.hdr })) :=
  (run_bind_ok (slotNumber_in h.1) _).trans (run_bind_ok (ordinaryBlock_ok h) _)

theorem modCurAgent_congr {f f' : Agent → Agent} (h : f (curAgent s) = f' (curAgent s)) : modCurAgent s f = modCurAgent s f' :=
  congrArg (setAgent s s.env.agent) h

theorem slotRelease_ordinary {sl : Slot} (h : ordinarySlot s gb sl) :
    slotRelease gb s = .ok (.next, modCurAgent s (fun x =>
      if sl.reading then { x with rx := { x.rx with slots := mput x.rx.slots gb.toNat { sl with freeAfter := true } } }
      else creditRelease (settleHeaders 8 { x with rx := { x.rx with slots := mdel x.rx.slots gb.toNat } }) sl.group sl.seq false)) := by
  obtain ⟨hin, hsl, huse⟩ := h
  refine (run_bind_ok (slotNumber_in hin) _).trans ((getS_bind ..).trans ?_)
  rw [hsl]
  refine (run_check_passes (not_not.mpr huse)).trans ?_
  by_cases hread : sl.reading = true
  · refine (congrFun (if_pos hread) s).trans (congrArg (fun t => Except.ok (Ctl.next, t)) (modCurAgent_congr ?_))
    simp only [modSlot, hsl, hread, if_true]
  · refine (congrFun (if_neg hread) s).trans (congrArg (fun t => Except.ok (Ctl.next, t)) (modCurAgent_congr ?_))
    exact (if_neg hread).symm

theorem slotRelease_none (h8 : gb.toNat < 8) (h : ∀ sl, ¬ ordinarySlot s gb sl) : slotRelease gb s = .ok (.next, s) := by
  refine (run_bind_ok (slotNumber_in h8) _).trans ((getS_bind ..).trans ?_)
  cases hsl : mget? (curAgent s).rx.slots gb.toNat with
  | none => rfl
  | some sl => exact congrFun (if_pos fun huse => h sl ⟨h8, hsl, huse⟩) s

end

/-! ### WDRIVE (R228, R293) -/

/-- A table whose values are changed, each by its key. -/
theorem mget?_map_keyed {α : Type} (f : Nat → α → α) (m : SMap α) (k : Nat) : mget? (m.map (fun p => (p.1, f p.1 p.2))) k = (mget? m k).map (f k) := by
  induction m with
  | nil => rfl
  | cons p t ih =>
    obtain ⟨i, v⟩ := p
    by_cases hk : k = i
    · simp [mget?, hk]
    · simp [mget?, hk, ih]

/-- Elements entering the weight-header queue leave each slot its block. -/
theorem settleHeaders_slot (n : Nat) (x : Agent) {k : Nat} {sl : Slot} (h : mget? x.rx.slots k = some sl) :
    ∃ u, mget? (settleHeaders n x).rx.slots k = some u ∧ (u = sl ∨ u = { sl with due := none }) := by
  induction n generalizing x sl with
  | zero => exact ⟨sl, h, .inl rfl⟩
  | succ n ih =>
    unfold settleHeaders
    split
    · exact ⟨sl, h, .inl rfl⟩
    · split
      · exact ⟨sl, h, .inl rfl⟩
      next i w _ =>
        have hmap : mget? (x.rx.slots.map (fun p => if p.1 = i then (p.1, { p.2 with due := none }) else p)) k =
            some (if k = i then { sl with due := none } else sl) := by
          have hkeyed := mget?_map_keyed (fun j (t : Slot) => if j = i then { t with due := none } else t) x.rx.slots k
          rw [h] at hkeyed
          rw [← Option.map_some (f := fun t : Slot => if k = i then { t with due := none } else t), ← hkeyed]
          refine congrArg (mget? · k) (List.map_congr_left fun p _ => ?_)
          split <;> rfl
        obtain ⟨u, hu, hcase⟩ := ih { x with rx := { x.rx with slots := _ }, ni := { x.ni with whq := enterHeader x.ni.whq w } } hmap
        refine ⟨u, hu, ?_⟩
        split at hcase
        · exact .inr (by rcases hcase with rfl | rfl <;> rfl)
        · exact hcase

/-- A landed block that a chain has taken. -/
def chainSlot (sl : Slot) : Slot := { sl with use := .chain, badHdr := !headerOk sl.hdr, due := none }

theorem takeLanded_slot {x : Agent} {g k : Nat} {sl : Slot} (h : mget? x.rx.slots k = some sl) :
    ∃ u, mget? (takeLanded x g).rx.slots k = some u ∧ if takenByDrive x g k sl then u = chainSlot sl else u = sl ∨ u = { sl with due := none } := by
  have hmap : mget? (x.rx.slots.map (fun p => if takenByDrive x g p.1 p.2 then (p.1, chainSlot p.2) else p)) k =
      some (if takenByDrive x g k sl then chainSlot sl else sl) := by
    have hkeyed := mget?_map_keyed (fun j t => if takenByDrive x g j t then chainSlot t else t) x.rx.slots k
    rw [h] at hkeyed
    refine Eq.trans (congrArg (mget? · k) (List.map_congr_left fun p _ => ?_)) hkeyed
    split <;> rfl
  obtain ⟨u, hu, hcase⟩ := settleHeaders_slot 8 { x with
    rx := { x.rx with slots := x.rx.slots.map (fun p => if takenByDrive x g p.1 p.2 then (p.1, chainSlot p.2) else p) }
    ni := { x.ni with whq := x.ni.whq.filter (fun w => !(x.rx.slots.filter (fun p => takenByDrive x g p.1 p.2)).any (fun p => headerElem p.1 p.2 == w)) } } hmap
  refine ⟨u, hu, ?_⟩
  split at hcase
  · next ht =>
    rw [if_pos ht]
    rcases hcase with rfl | rfl <;> rfl
  · next ht =>
    rw [if_neg ht]
    exact hcase

theorem takeLanded_keeps (x : Agent) (g : Nat) : (takeLanded x g).pool = x.pool ∧ (takeLanded x g).strands = x.strands := by
  obtain ⟨hpool, -, hstrands⟩ := settleHeaders_keeps 8 { x with
    rx := { x.rx with slots := x.rx.slots.map (fun p => if takenByDrive x g p.1 p.2 then (p.1, chainSlot p.2) else p) }
    ni := { x.ni with whq := x.ni.whq.filter (fun w => !(x.rx.slots.filter (fun p => takenByDrive x g p.1 p.2)).any (fun p => headerElem p.1 p.2 == w)) } }
  exact ⟨hpool, hstrands⟩

/-- The strand parks behind its WDRIVE. -/
def parked (t : Strand) : Strand := { t with st := .parked, cause := none, reply := none, word := none, lastBranch := none, mode := 1, pc := t.pc + 8 }

/-- The tile with a chain of group g, driven by strand k. -/
def driving (g k : Nat) (dest : Reg) (pc table : Word) (x : Agent) : Agent :=
  { takeLanded x g with rx := { (takeLanded x g).rx with
    chain := some ⟨g, k, dest, pc, table, 0, none, false, 0, none, none, landedInj x g⟩, cond := false, held := [] } }

/-- The chain begun: the strand parked and the tile driving. -/
def startDrive (g : Nat) (dest : Reg) (table : Word) (s : State) : State :=
  modCurAgent (modCur s parked) (driving g s.env.strand dest (cur (modCur s parked)).pc table)

/-- WDRIVE once its operands have been read. -/
def driveBody (dest : Reg) (gb gc : Word) : Exec Ctl := do
  if 256 ≤ gb.toNat then trapAt cDRIVE gb (chainInfo 0 (gb.toNat % 256) 23 0 false false).toNat
  if gc.toNat % 128 ≠ 0 then trapAt cMISALIGN gc 128
  if lsBytes < gc.toNat + 128 then trapAt cLOAD gc 1
  until' .other (fun s => (curAgent s).rx.chain.isNone)
  modS (startDrive (gb.toNat % 256) dest gc)
  return .keep

section
variable {g : Guard} {a b c : Reg} {s s1 : State} {gb gc : Word}

theorem exec_wdrive (he : executes (cur s) g = true) (hr : readsAll [b, c] s [gb, gc] s1) :
    exec (.wdrive g a b c) s = runWord s (fun _ => driveBody a gb gc s1) := by
  refine runWord_congr ((scalar_run_nil he _).trans ((run_reads_two hr _).trans rfl))

theorem driveBody_outcomes (dest : Reg) (gb gc : Word) (s : State) :
    (256 ≤ gb.toNat → driveBody dest gb gc s = trapAt cDRIVE gb (gb.toNat % 256 * 2 ^ 32 + 23 * 2 ^ 24) s) ∧
    (gb.toNat < 256 → gc.toNat % 128 ≠ 0 → driveBody dest gb gc s = trapAt cMISALIGN gc 128 s) ∧
    (gb.toNat < 256 → gc.toNat % 128 = 0 → 0x300000 < gc.toNat + 128 → driveBody dest gb gc s = trapAt cLOAD gc 1 s) ∧
    (gb.toNat < 256 → gc.toNat % 128 = 0 → gc.toNat + 128 ≤ 0x300000 →
      ((curAgent s).rx.chain ≠ none → driveBody dest gb gc s = .error (.wait .other id)) ∧
      ((curAgent s).rx.chain = none → driveBody dest gb gc s = .ok (.keep, startDrive gb.toNat dest gc s))) := by
  have hinfo : (trapAt cDRIVE gb (chainInfo 0 (gb.toNat % 256) 23 0 false false).toNat : Exec PUnit) s =
      .error (.trap ⟨cDRIVE, some gb, BitVec.ofNat 64 (gb.toNat % 256 * 2 ^ 32 + 23 * 2 ^ 24), none, 0, id, false⟩) := by
    rw [trapAt_run, BitVec.ofNat_toNat, BitVec.setWidth_eq]
    simp [chainInfo]
  refine ⟨fun h => run_check_fails h hinfo, fun h h1 => ?_, fun h h1 h2 => ?_, fun h h1 h2 => ⟨fun hc => ?_, fun hc => ?_⟩⟩
  · exact (run_check_passes (Nat.not_le.mpr h)).trans (run_check_fails h1 rfl)
  · exact (run_check_passes (Nat.not_le.mpr h)).trans ((run_check_passes (not_not.mpr h1)).trans (run_check_fails h2 rfl))
  · refine (run_check_passes (Nat.not_le.mpr h)).trans ((run_check_passes (not_not.mpr h1)).trans ((run_check_passes (Nat.not_lt.mpr h2)).trans ?_))
    exact run_bind_error (until_wait (by simpa [Option.isSome_iff_ne_none] using hc)) _
  · refine (run_check_passes (Nat.not_le.mpr h)).trans ((run_check_passes (not_not.mpr h1)).trans ((run_check_passes (Nat.not_lt.mpr h2)).trans ?_))
    refine (run_bind_ok (until_ok (by simpa using hc)) _).trans ?_
    rw [Nat.mod_eq_of_lt h]
    rfl

end

section
variable (g : Nat) (dest : Reg) (table : Word) (s : State)

theorem curAgent_startDrive : curAgent (startDrive g dest table s) = driving g s.env.strand dest ((cur s).pc + 8) table (curAgent (modCur s parked)) := by
  rw [startDrive, curAgent_modCurAgent, cur_modCur]
  rfl

theorem cur_startDrive : cur (startDrive g dest table s) = parked (cur s) := by
  have hstrands := (takeLanded_keeps (curAgent (modCur s parked)) g).2
  calc cur (startDrive g dest table s) = strandOf (curAgent (startDrive g dest table s)) s.env.strand := rfl
    _ = strandOf (curAgent (modCur s parked)) s.env.strand := by rw [curAgent_startDrive, strandOf, driving, hstrands]; rfl
    _ = parked (cur s) := cur_modCur s parked

theorem rx_startDrive : (curAgent (startDrive g dest table s)).rx.chain = some ⟨g, s.env.strand, dest, (cur s).pc + 8, table, 0, none, false, 0, none, none,
      (curAgent s).rx.slots.findSome? (fun p => if takenByDrive (curAgent s) g p.1 p.2 then p.2.inj else none)⟩ ∧
    (curAgent (startDrive g dest table s)).rx.cond = false ∧ (curAgent (startDrive g dest table s)).rx.held = [] := by
  rw [curAgent_startDrive, curAgent_modCur]
  exact ⟨rfl, rfl, rfl⟩

theorem pool_startDrive : (curAgent (startDrive g dest table s)).pool = (curAgent s).pool := by
  rw [curAgent_startDrive, driving, (takeLanded_keeps ..).1, curAgent_modCur]

theorem slots_startDrive {k : Nat} {sl : Slot} (h : mget? (curAgent s).rx.slots k = some sl) :
    ∃ u, mget? (curAgent (startDrive g dest table s)).rx.slots k = some u ∧
      if takenByDrive (curAgent s) g k sl then u = chainSlot sl else u = sl ∨ u = { sl with due := none } := by
  rw [curAgent_startDrive]
  have hx := curAgent_modCur s parked
  have hslot : mget? (curAgent (modCur s parked)).rx.slots k = some sl := by rw [hx]; exact h
  obtain ⟨u, hu, hcase⟩ := takeLanded_slot (g := g) hslot
  refine ⟨u, hu, ?_⟩
  rwa [hx] at hcase

end

/-- Settles O38: each instruction from the outcomes of its body, in the state that the reads of its operands leave. -/
theorem lightInstructions : Obligations.LightInstructions := by
  refine ⟨fun g a b s ga gb s1 he hr q hq => ?_, fun g va a b s gb s1 he hr => ⟨fun h8 i hi => ?_, fun hno h8 => ⟨?_, ?_⟩, fun sl hsl => ⟨?_, ?_⟩,
    fun ga s2 s3 sl ha hb hsl hsbar => ?_⟩, fun g a b c s he => ⟨fun gb gc s1 hr => ?_, ?_⟩⟩
  · rw [exec_inject he hr q hq]
    obtain ⟨halign, hfull, hsend⟩ := injectBody_outcomes ga gb q.2 s1
    rw [injectCount_of_light (readsAll_pops hr).light] at hfull hsend
    rw [(readsAll_keeps hr).tag, (readsAll_pops hr).env] at hsend
    exact ⟨fun h => runWord_const_trap (halign h), fun h h1 => runWord_const_wait (hfull h h1), fun h h1 h2 => runWord_const_ok (hsend h h1 h2)⟩
  · simp only [List.mem_cons, List.not_mem_nil, or_false] at hi
    rcases hi with rfl | rfl
    · rw [exec_wbhdr he hr]
      exact runWord_const_trap (run_bind_error (slotNumber_out h8) _)
    · rw [exec_wbrel he hr]
      exact runWord_const_trap (run_bind_error (slotNumber_out h8) _)
  · rw [exec_wbhdr he hr]
    exact runWord_const_trap ((run_bind_ok (slotNumber_in h8) _).trans (run_bind_error (ordinaryBlock_none h8 hno) _))
  · rw [exec_wbrel he hr]
    exact runWord_const_ok (slotRelease_none h8 hno)
  · rw [exec_wbhdr he hr]
    exact runWord_const_ok (headerBody_ordinary hsl)
  · rw [exec_wbrel he hr]
    exact runWord_const_ok (slotRelease_ordinary hsl)
  · have hpops := (readReg_pops ha).trans (readReg_pops hb)
    rw [exec_wbpop he ha hb hsl, ← slotBytes_eq, ← hpops.mem, ← hpops.env]
    obtain ⟨hfault, halign, hout, hstore⟩ := popBody_outcomes (ga := ga) (i := gb.toNat) (sl := sl) rfl hsbar
    exact ⟨fun h => runWord_const_trap (hfault h), fun h h1 => runWord_const_trap (halign h h1), fun h h1 h2 => runWord_const_trap (hout h h1 h2),
      fun h h1 h2 h3 => runWord_const_ok (hstore h h1 h2 h3)⟩
  · have hpops := readsAll_pops hr
    obtain ⟨_, _, _, hcur⟩ := (readsAll_keeps hr).strand
    have hpc : (cur s1).pc = (cur s).pc := by rw [hcur]
    intro i
    rw [show exec i s = _ from exec_wdrive he hr, ← hpc, ← hpops.chain, ← hpops.env, ← hpops.pool, ← hpops.mem, ← hpops.light]
    obtain ⟨hgroup, halign, hout, hin⟩ := driveBody_outcomes a gb gc s1
    refine ⟨fun h => runWord_const_trap (hgroup h), fun h h1 => runWord_const_trap (halign h h1), fun h h1 h2 => runWord_const_trap (hout h h1 h2),
      fun h h1 h2 => ⟨fun hc => runWord_const_wait ((hin h h1 h2).1 hc), fun hc => ⟨_, runWord_const_ok ((hin h h1 h2).2 hc), ?_⟩⟩⟩
    obtain ⟨hchain, hcond, hheld⟩ := rx_startDrive gb.toNat a gc s1
    have hstrand : cur (startDrive gb.toNat a gc s1) = parked (cur s1) := cur_startDrive ..
    refine ⟨by rw [retire, hstrand]; rfl, by rw [retire, hstrand]; rfl, by rw [retire, hstrand]; rfl, hchain, hcond, hheld, pool_startDrive .., rfl, rfl,
      fun k sl hsl => slots_startDrive gb.toNat a gc s1 hsl⟩
  · exact runWord_ok (scalar_run_nil he _)

end Sys2Proof.Machine
end

section
/-!
O39. Bulk-synchronous phases (07 R230, R231).
-/

namespace Sys2Proof.Machine

open Sys2Proof.Spec

theorem levelScope_eq (l : BitVec 2) : levelScope l.toNat = (scopeOfLevel l).toNat := by
  revert l
  decide

section
variable {g : Guard} {l : BitVec 2} {s : State}

/-- No member of the domain: the instruction does nothing (R230). -/
theorem domain_outside (he : executes (cur s) g = true) (hp : noPosted s 3) (hout : inDomain s l = false) :
    ∀ i ∈ [Instr.darv g l, .dwait g l, .dsync g l], exec i s = .next (retire s .next) := by
  have hmember : (!isMember (cur s) l.toNat) = true := by rw [Bool.not_eq_true']; exact hout
  intro i hi
  simp only [List.mem_cons, List.not_mem_nil, or_false] at hi
  rcases hi with rfl | rfl | rfl <;> exact runWord_ok ((engine_runs he hp _).trans (congrFun (if_pos hmember) s))

/-- DARV at a member (R230). -/
def arriveBody (l : BitVec 2) : Exec Ctl := do
  until' .domain (fun s => !unreleased s l.toNat)
  release (levelScope l.toNat)
  modS (arrive l.toNat)
  return .next

/-- DWAIT at a member. -/
def waitBody (l : BitVec 2) : Exec Ctl := do
  if unreleased (← getS) l.toNat then awaitRelease
  else
    if (cur (← getS)).reply.isSome then acquire (levelScope l.toNat)
    return .next

/-- DSYNC at a member. -/
def syncBody (l : BitVec 2) : Exec Ctl := do
  until' .domain (fun s => !unreleased s l.toNat)
  if (cur (← getS)).reply.isSome then
    acquire (levelScope l.toNat)
    return .next
  release (levelScope l.toNat)
  waitWith .domain (fun s => modCur (arrive l.toNat s) (fun t => { t with reply := some [] }))

section
variable (he : executes (cur s) g = true) (hp : noPosted s 3) (hin : inDomain s l = true)
include he hp hin

theorem exec_darv : exec (.darv g l) s = runWord s (fun _ => arriveBody l s) :=
  runWord_congr ((engine_runs he hp _).trans (run_unless_passes (p := isMember (cur s) l.toNat) hin))

theorem exec_dwait : exec (.dwait g l) s = runWord s (fun _ => waitBody l s) :=
  runWord_congr ((engine_runs he hp _).trans (run_unless_passes (p := isMember (cur s) l.toNat) hin))

theorem exec_dsync : exec (.dsync g l) s = runWord s (fun _ => syncBody l s) :=
  runWord_congr ((engine_runs he hp _).trans (run_unless_passes (p := isMember (cur s) l.toNat) hin))

end

/-- An arrival that is not released holds the next one back (R230). -/
theorem arrival_waits (h : arrivedAt s l = true) :
    arriveBody l s = .error (.wait .domain id) ∧ syncBody l s = .error (.wait .domain id) ∧
    waitBody l s = .error (.wait .domain (fun s => modCur s (fun t => { t with reply := some [] }))) := by
  have hbusy : (!unreleased s l.toNat) = false := by rw [Bool.not_eq_false']; exact h
  exact ⟨run_bind_error (until_wait (p := fun s => !unreleased s l.toNat) hbusy) _, run_bind_error (until_wait (p := fun s => !unreleased s l.toNat) hbusy) _,
    congrFun (if_pos h) s⟩

theorem release_level (hrel : released true ⟨1, scopeOfLevel l⟩ s) : release (levelScope l.toNat) s = .ok ((), afterSbar s) := by
  rw [levelScope_eq]
  exact release_run hrel

section
variable (h : arrivedAt s l = false)
include h

theorem no_arrival : (fun s => !unreleased s l.toNat) s = true := by
  show (!unreleased s l.toNat) = true
  rw [Bool.not_eq_true']
  exact h

theorem waitBody_free (hr : (cur s).reply = none) : waitBody l s = .ok (.next, s) := by
  refine (congrFun (if_neg (Bool.eq_false_iff.mp h)) s).trans (run_check_passes ?_)
  simp [hr]

/-- The wait has ended: the instruction acquires (R230). -/
theorem wait_over (hr : (cur s).reply ≠ none) :
    waitBody l s = .ok (.next, acquired true ⟨1, scopeOfLevel l⟩ s) ∧ syncBody l s = .ok (.next, acquired true ⟨1, scopeOfLevel l⟩ s) := by
  have hsome : (cur s).reply.isSome = true := Option.isSome_iff_ne_none.mpr hr
  have hacq : acquire (levelScope l.toNat) s = .ok ((), acquired true ⟨1, scopeOfLevel l⟩ s) := by
    rw [levelScope_eq]
    rfl
  refine ⟨(congrFun (if_neg (Bool.eq_false_iff.mp h)) s).trans ((congrFun (if_pos hsome) s).trans (run_bind_ok hacq _)), ?_⟩
  exact (run_bind_ok (until_ok (no_arrival h)) _).trans ((congrFun (if_pos hsome) s).trans (run_bind_ok hacq _))

theorem arriveBody_arrives (hrel : released true ⟨1, scopeOfLevel l⟩ s) : arriveBody l s = .ok (.next, arrive l.toNat (afterSbar s)) :=
  (run_bind_ok (until_ok (no_arrival h)) _).trans (run_bind_ok (release_level hrel) _)

theorem syncBody_arrives (hrel : released true ⟨1, scopeOfLevel l⟩ s) (hr : (cur s).reply = none) :
    syncBody l s = .error (.wait .domain (fun s => modCur (arrive l.toNat s) (fun t => { t with reply := some [] }))) := by
  have hnone : ¬ (cur s).reply.isSome = true := by simp [hr]
  exact (run_bind_ok (until_ok (no_arrival h)) _).trans ((congrFun (if_neg hnone) s).trans (run_bind_ok (release_level hrel) _))

end

end

/-- Settles O39: the three instructions from the waits, the acquire and the arrival of their bodies. -/
theorem domainPhase : Obligations.DomainPhase := by
  intro g l s he hp
  refine ⟨domain_outside he hp, fun hin harr => ⟨fun i hi => ?_, ?_⟩,
    fun hin harr => ⟨fun hr => ?_, fun hr i hi => ?_, fun hrel => ⟨?_, fun hr => ?_⟩⟩, fun h3 => ?_⟩
  · obtain ⟨ha, hs, -⟩ := arrival_waits harr
    simp only [List.mem_cons, List.not_mem_nil, or_false] at hi
    rcases hi with rfl | rfl
    · rw [exec_darv he hp hin]
      exact runWord_const_wait ha
    · rw [exec_dsync he hp hin]
      exact runWord_const_wait hs
  · rw [exec_dwait he hp hin]
    obtain ⟨-, -, hw⟩ := arrival_waits harr
    exact runWord_const_wait hw
  · rw [exec_dwait he hp hin]
    exact runWord_const_ok (waitBody_free harr hr)
  · obtain ⟨hw, hs⟩ := wait_over harr hr
    simp only [List.mem_cons, List.not_mem_nil, or_false] at hi
    rcases hi with rfl | rfl
    · rw [exec_dwait he hp hin]
      exact runWord_const_ok hw
    · rw [exec_dsync he hp hin]
      exact runWord_const_ok hs
  · rw [exec_darv he hp hin]
    exact runWord_const_ok (arriveBody_arrives harr hrel)
  · rw [exec_dsync he hp hin]
    exact runWord_const_wait (syncBody_arrives harr hrel hr)
  · have hl : ¬ l.toNat = 3 := fun h => h3 (BitVec.eq_of_toNat_eq h)
    exact if_neg hl

end Sys2Proof.Machine
end

section
/-!
O40. Strands spawned and awaited (07 R232, R233).
-/

namespace Sys2Proof.Machine

open Sys2Proof.Spec

/-- The strand that SPAWN starts, from the spawning one and the one it replaces (R232). -/
def spawned (me old : Strand) (pc seed : Word) (base size : Nat) : Strand :=
  { strand0 with
    st := .ready, pc := pc, tag := me.tag, task := me.task, priv := me.priv, base := BitVec.ofNat 9 base, size := BitVec.ofNat 6 size, dom := me.dom,
    hasRun := true, sys := { sysRegs0 with seed := seed }, eng := { strandEng0 with abandoned := old.eng.abandoned } }

/-- The machine with strand k of the current tile spawned, its registers cleared but for the first. -/
def spawn (k : Nat) (pc g0 seed : Word) (base size : Nat) (s : State) : State :=
  modCurAgent s (fun x => { clearPool x base size with
    pool := mput (clearPool x base size).pool base g0, strands := mput x.strands k (spawned (cur s) (strandOf x k) pc seed base size) })

/-- SPAWN once its operands have been read. -/
def spawnBody (k : Nat) (pc g0 seed : Word) (base size : Nat) : Exec Ctl := do
  until' .other (fun s => (strandOf (curAgent s) k).st == .inactive)
  if pc.toNat % 8 ≠ 0 then trapAt cMISALIGN pc 8
  let x ← reads curAgent
  if 512 < base + size ∨ x.strands.any (fun p => p.2.st != .inactive && allocMeets p.2 base size) then
    trapAt cREGBOUND (BitVec.ofNat 64 base) (size + 128)
  release 0
  modS (spawn k pc g0 seed base size)
  return .next

section
variable {g : Guard} {a b c : Reg} {base8 : BitVec 6} {size8 k : BitVec 3} {s s1 : State} {pc g0 seed : Word}

theorem exec_spawn (he : executes (cur s) g = true) (hp : noPosted s 3) (hr : readsAll [a, b, c] s [pc, g0, seed] s1) :
    exec (.spawn g a b c base8 size8 k) s = runWord s (fun _ => spawnBody k.toNat pc g0 seed (8 * base8.toNat) (8 * size8.toNat) s1) :=
  runWord_congr ((engine_runs he hp _).trans (run_reads_three hr _))

end

/-- An allocation that overlaps that of a strand in use. -/
def allocTaken (x : Agent) (base size : Nat) : Prop :=
  ∃ p ∈ x.strands, p.2.st ≠ .inactive ∧ p.2.base.toNat < base + size ∧ base < p.2.base.toNat + p.2.size.toNat

theorem allocTaken_iff (x : Agent) (base size : Nat) :
    x.strands.any (fun p => p.2.st != .inactive && allocMeets p.2 base size) = true ↔ allocTaken x base size := by
  simp [allocTaken, allocMeets]

/-- A spawn waits for its strand, and is checked, in order. -/
theorem spawnBody_outcomes (k : Nat) (pc g0 seed : Word) (base size : Nat) (s : State) :
    ((strandOf (curAgent s) k).st ≠ .inactive → spawnBody k pc g0 seed base size s = .error (.wait .other id)) ∧
    ((strandOf (curAgent s) k).st = .inactive →
      (pc.toNat % 8 ≠ 0 → spawnBody k pc g0 seed base size s = trapAt cMISALIGN pc 8 s) ∧
      (pc.toNat % 8 = 0 → 512 < base + size ∨ allocTaken (curAgent s) base size →
        spawnBody k pc g0 seed base size s = trapAt cREGBOUND (BitVec.ofNat 64 base) (size + 128) s) ∧
      (pc.toNat % 8 = 0 → base + size ≤ 512 → ¬ allocTaken (curAgent s) base size → performedAt s 0 = true → sbarDone s = true →
        spawnBody k pc g0 seed base size s = .ok (.next, spawn k pc g0 seed base size (afterSbar s)))) := by
  refine ⟨fun h => run_bind_error (until_wait (by simpa using h)) _, fun h => ?_⟩
  have hfree := until_ok (c := .other) (p := fun s => (strandOf (curAgent s) k).st == .inactive) (s := s) (by simpa using h)
  refine ⟨fun h1 => (run_bind_ok hfree _).trans (run_check_fails h1 rfl), fun h1 h2 => ?_, fun h1 h2 h3 hperf hsbar => ?_⟩
  · refine (run_bind_ok hfree _).trans ((run_check_passes (not_not.mpr h1)).trans ((reads_bind ..).trans (run_check_fails ?_ rfl)))
    exact h2.imp_right (allocTaken_iff ..).mpr
  · refine (run_bind_ok hfree _).trans ((run_check_passes (not_not.mpr h1)).trans ((reads_bind ..).trans ((run_check_passes ?_).trans ?_)))
    · exact not_or.mpr ⟨Nat.not_lt.mpr h2, mt (allocTaken_iff ..).mp h3⟩
    · exact run_bind_ok (release_tile hperf hsbar) _

/-- A table of the keys that pass a test holds nothing at another. -/
theorem mget?_filter_keyed {α : Type} (f : Nat → Bool) {k : Nat} (h : f k = false) (m : SMap α) : mget? (m.filter (fun p => f p.1)) k = none := by
  induction m with
  | nil => rfl
  | cons p t ih =>
    obtain ⟨i, v⟩ := p
    by_cases hi : f i = true
    · have hk : k ≠ i := fun hki => by rw [hki, hi] at h; cases h
      simp [hi, mget?, hk, ih]
    · simp [hi, ih]

/-- The registers of a spawned strand: the first holds its value, the others 0. -/
theorem pool_spawned (x : Agent) (base size : Nat) (g0 : Word) {f : Nat} (hf : f < size) :
    mget 0 (mput (clearPool x base size).pool base g0) (base + f) = if f = 0 then g0 else 0 := by
  rw [mget_mput]
  by_cases h0 : f = 0
  · simp [h0]
  · have hcleared : mget? (clearPool x base size).pool (base + f) = none :=
      mget?_filter_keyed (fun i => !(base ≤ i && i < base + size)) (by simp; omega) x.pool
    rw [if_neg (by omega), if_neg h0, mget, hcleared]
    rfl

section
variable (k : Nat) (pc g0 seed : Word) (base size : Nat) (s : State)

theorem curAgent_spawn : curAgent (spawn k pc g0 seed base size s) = { clearPool (curAgent s) base size with
    pool := mput (clearPool (curAgent s) base size).pool base g0
    strands := mput (curAgent s).strands k (spawned (cur s) (strandOf (curAgent s) k) pc seed base size) } := curAgent_modCurAgent ..

theorem strandAt_spawn : strandAt (spawn k pc g0 seed base size s) s.env.agent k = spawned (cur s) (strandOf (curAgent s) k) pc seed base size := by
  show strandOf (curAgent (spawn k pc g0 seed base size s)) k = _
  rw [curAgent_spawn, strandOf, mget_mput, if_pos rfl]

end

theorem os_afterSbar (s : State) : (afterSbar s).os = s.os := by
  unfold afterSbar
  split <;> rfl

/-- SWAIT for strand k, from state s (R233). -/
def spawnWait (k : Nat) (s : State) : Exec Ctl := do
  if k = s.env.strand ∨ !(strandOf (curAgent s) k).hasRun then return .next
  until' .other (fun s => (strandOf (curAgent s) k).st == .inactive)
  acquire 3
  return .next

section
variable {g : Guard} {k : BitVec 3} {s : State}

theorem exec_swait (he : executes (cur s) g = true) (hp : noPosted s 3) : exec (.swait g k) s = runWord s (fun _ => spawnWait k.toNat s s) :=
  runWord_congr (engine_runs he hp _)

/-- Nothing to wait for, a strand that has ended, or one that runs. -/
theorem spawnWait_outcomes (k : Nat) (s : State) :
    (k = s.env.strand ∨ (strandOf (curAgent s) k).hasRun = false → spawnWait k s s = .ok (.next, s)) ∧
    (k ≠ s.env.strand → (strandOf (curAgent s) k).hasRun = true →
      ((strandOf (curAgent s) k).st = .inactive → spawnWait k s s = .ok (.next, acquired true ⟨1, 3⟩ s)) ∧
      ((strandOf (curAgent s) k).st ≠ .inactive → spawnWait k s s = .error (.wait .other id))) := by
  refine ⟨fun h => congrFun (if_pos (h.imp_right (Bool.not_eq_true' _).mpr)) s, fun hk hrun => ?_⟩
  have hno : ¬ (k = s.env.strand ∨ (!(strandOf (curAgent s) k).hasRun) = true) := not_or.mpr ⟨hk, by simp [hrun]⟩
  refine ⟨fun hst => ?_, fun hst => ?_⟩
  · exact (run_check_passes hno).trans (run_bind_ok (until_ok (by simpa using hst)) _)
  · exact (run_check_passes hno).trans (run_bind_error (until_wait (by simpa using hst)) _)

end

/-- Settles O40: SPAWN from its outcomes and the strand it leaves; SWAIT from the state of the strand it names. -/
theorem spawnResult : Obligations.SpawnResult := by
  intro g a b c base8 size8 k s he hp
  refine ⟨fun pc g0 seed s1 hr => ?_, fun t ht => ⟨fun h => ?_, fun hk hrun hst => ?_, fun hk hrun hst => ?_⟩⟩
  · intro i base size meets
    obtain ⟨hwait, hin⟩ := spawnBody_outcomes k.toNat pc g0 seed base size s1
    have hexec : exec i s = runWord s (fun _ => spawnBody k.toNat pc g0 seed base size s1) := exec_spawn he hp hr
    rw [hexec]
    refine ⟨fun h => runWord_const_wait (hwait h), fun h => ?_⟩
    obtain ⟨halign, hbound, hstart⟩ := hin h
    refine ⟨fun h1 => runWord_const_trap (halign h1), fun h1 h2 => runWord_const_trap (hbound h1 h2), fun h1 h2 h3 hperf hsbar => ?_⟩
    obtain ⟨_, hcur⟩ := cur_afterSbar s1
    have henv : (afterSbar s1).env = s.env := (env_afterSbar s1).trans (readsAll_pops hr).env
    have hstrand := strandAt_spawn k.toNat pc g0 seed base size (afterSbar s1)
    rw [henv, hcur] at hstrand
    refine ⟨_, runWord_const_ok (hstart h1 h2 h3 hperf hsbar), (sbarSpent_mem s1).trans (readsAll_pops hr).mem, ?_, ?_⟩
    · exact (os_afterSbar s1).trans (readsAll_pops hr).os
    · rw [hstrand]
      refine ⟨rfl, rfl, rfl, rfl, rfl, rfl, rfl, rfl, rfl, rfl, rfl, rfl, rfl, fun f hf => ?_⟩
      rw [curAgent_spawn]
      exact pool_spawned (curAgent (afterSbar s1)) base size g0 hf
  all_goals
    subst ht
    rw [exec_swait he hp]
    obtain ⟨hnone, hsome⟩ := spawnWait_outcomes k.toNat s
  · exact runWord_const_ok (hnone h)
  · exact runWord_const_ok ((hsome hk hrun).1 hst)
  · exact runWord_const_wait ((hsome hk hrun).2 hst)

end Sys2Proof.Machine
end

section
/-!
O46. Domain instructions and words of the configuration space complete (07 R230, R231, 16 R387, R388).
-/

namespace Sys2Proof.Machine

open Sys2Proof.Spec

/-! ### A wait of DSYNC that ends -/

/-- An arrival changes the strand's arrivals only. -/
theorem cur_arrive (l : Nat) (s : State) : cur (arrive l s) = { cur s with arrived := mput (cur s).arrived l true } := by
  have hcur : cur (modCur s (fun t => { t with arrived := mput t.arrived l true })) = { cur s with arrived := mput (cur s).arrived l true } := cur_modCur ..
  rw [← hcur]
  unfold arrive openPhase
  dsimp only
  split
  · split
    · split <;> rfl
    · rfl
  · rfl

/-- The strand that DSYNC leaves waiting, with its arrival made. -/
def syncWaiting (l : BitVec 2) (s : State) : State := modCur (arrive l.toNat (beginWait s .domain)) (fun t => { t with reply := some [] })

/-- The same strand when the phase has been released. -/
def phaseOver (l : BitVec 2) (t : State) : State := modCur t (fun x => { x with st := .ready, cause := none, arrived := mdel x.arrived l.toNat })

section
variable (l : BitVec 2) (s : State)

theorem cur_syncWaiting : cur (syncWaiting l s) =
    { cur s with st := .waiting, cause := some .domain, arrived := mput (cur s).arrived l.toNat true, reply := some [] } := by
  rw [syncWaiting, cur_modCur, cur_arrive, beginWait, cur_modCur]

theorem arrivedAt_syncWaiting : arrivedAt (syncWaiting l s) l = true := by
  rw [arrivedAt, cur_syncWaiting]
  exact mget_mput_same ..

theorem cur_phaseOver : cur (phaseOver l (syncWaiting l s)) =
    { cur s with st := .ready, cause := none, arrived := mdel (mput (cur s).arrived l.toNat true) l.toNat, reply := some [] } := by
  rw [phaseOver, cur_modCur, cur_syncWaiting]

/-- A DSYNC or DWAIT whose phase has been released completes with its acquire. -/
theorem wait_completes {g : Guard} (he : executes (cur s) g = true) (hp : noPosted s 3) (hin : inDomain s l = true) :
    let u := phaseOver l (syncWaiting l s)
    exec (.dsync g l) u = .next (retire (acquired true ⟨1, scopeOfLevel l⟩ u) .next) ∧
    exec (.dwait g l) u = .next (retire (acquired true ⟨1, scopeOfLevel l⟩ u) .next) := by
  intro u
  have hcur := cur_phaseOver l s
  have heu : executes (cur u) g = true := by rw [hcur]; exact he
  have hpu : noPosted u 3 := by rw [noPosted, hcur]; exact hp
  have hinu : inDomain u l = true := by rw [inDomain, hcur]; exact hin
  have hfree : arrivedAt u l = false := by
    rw [arrivedAt, hcur, mget, mget?_mdel, if_pos rfl]
    rfl
  have hreply : (cur u).reply ≠ none := by rw [hcur]; exact Option.some_ne_none _
  obtain ⟨-, -, hover⟩ := domainPhase g l u heu hpu
  obtain ⟨-, hdone, -⟩ := (hover.1 hinu hfree)
  exact ⟨hdone hreply _ (by simp), hdone hreply _ (by simp)⟩

end

/-! ### The configuration space -/

theorem packed_four (a b c d x y z w : Nat) :
    packed [(a, x), (b, y), (c, z), (d, w)] = BitVec.ofNat 64 (x * 2 ^ a + (y * 2 ^ b + (z * 2 ^ c + w * 2 ^ d))) := by
  simp only [packed, List.map_cons, List.map_nil, List.sum_cons, List.sum_nil, Nat.add_zero]

theorem packed_two (a b x y : Nat) : packed [(a, x), (b, y)] = BitVec.ofNat 64 (x * 2 ^ a + y * 2 ^ b) := by
  simp only [packed, List.map_cons, List.map_nil, List.sum_cons, List.sum_nil, Nat.add_zero]

section
variable {f c r w : Nat}

/-- The fields of the address of a word of a tile (R387). -/
theorem cfgAddress_fields (hf : f < 48) (hc : c < 17) (hr : r < 12) (hw : w < 2 ^ 17) :
    let ga := packed [(26, f), (21, c), (17, r), (0, w)]
    ga.extractLsb' 32 32 = 0 ∧ (ga.extractLsb' 26 6).toNat = f ∧ (ga.extractLsb' 21 5).toNat = c ∧ (ga.extractLsb' 17 4).toNat = r ∧ ga.toNat % 2 ^ 17 = w := by
  intro ga
  have hn : ga.toNat = f * 2 ^ 26 + c * 2 ^ 21 + r * 2 ^ 17 + w := by
    simp only [ga, packed_four, BitVec.toNat_ofNat]
    omega
  refine ⟨BitVec.eq_of_toNat_eq ?_, ?_, ?_, ?_, ?_⟩
  · rw [BitVec.extractLsb'_toNat, hn, Nat.shiftRight_eq_div_pow]
    show _ = 0
    omega
  · rw [BitVec.extractLsb'_toNat, hn, Nat.shiftRight_eq_div_pow]
    omega
  · rw [BitVec.extractLsb'_toNat, hn, Nat.shiftRight_eq_div_pow]
    omega
  · rw [BitVec.extractLsb'_toNat, hn, Nat.shiftRight_eq_div_pow]
    omega
  · rw [hn]
    omega

/-- A valid address of a tile that is not fused off, with no wave in progress. -/
theorem cfgPlace_ok {s : State} (cause : Nat) (hf : f < 48) (hc : c < 17) (hr : r < 12) (hw : w < 0x1FFF0 ∨ w = 0x1FFF8 ∨ w = 0x1FFF9)
    (hon : 204 * f + 17 * r + c ∉ s.boot.fuses.off) (hwave : s.rel.wave = none) :
    cfgPlace (packed [(26, f), (21, c), (17, r), (0, w)]) cause s = .ok ((204 * f + 17 * r + c, w), s) := by
  obtain ⟨hhigh, hfield, hcol, hrow, hword⟩ := cfgAddress_fields hf hc hr (show w < 2 ^ 17 by omega)
  have hp : physOf f c r = 204 * f + 17 * r + c := by
    unfold physOf
    omega
  have hvalid : ¬ ((0 : BitVec 32) ≠ 0 ∨ 47 < f ∨ 16 < c ∨ 11 < r ∨ (0x1FFEF < w ∧ w ≠ recchkWord ∧ w ≠ cfgstatWord)) := by
    simp only [recchkWord, cfgstatWord, ne_eq, not_true_eq_false, false_or]
    omega
  have hfused : ¬ s.boot.fuses.off.contains (204 * f + 17 * r + c) = true := by simpa using hon
  simp only [cfgPlace, hhigh, hfield, hcol, hrow, hword, hp]
  refine (run_check_passes hvalid).trans ((getS_bind ..).trans ((run_check_passes hfused).trans ?_))
  rw [hwave]
  rfl

end

/-- What a word written to tile p does (R388). -/
def cfgWritten (p w : Nat) (v : Word) (s : State) : State :=
  if w = recchkWord then recordCheck s p v else if w = cfgstatWord then s else stageWord s p w v

section
variable {g : Guard} {d a : Reg} {s : State} {p w : Nat}

/-- Words written with general registers, where the address is that of word w of tile p. -/
theorem exec_cfg_writes (he : executes (cur s) g = true) (hd : isG d) (ha : isG a) (hdr : Spec.drained s)
    (hplace : cfgPlace (curReg s a.toNat) cSTORE (afterSbar s) = .ok ((p, w), afterSbar s)) :
    ∀ i ∈ [Instr.cfgw g d a, .recchk g d a], exec i s = .next (retire (cfgWritten p w (curReg s d.toNat) (afterSbar s)) .next) := by
  have hbody : runWord s (scalar g [] (do
      let ga ← readReg a
      let v ← readReg d
      streamDone
      writeCfg ga v
      return .next)) = .next (retire (cfgWritten p w (curReg s d.toNat) (afterSbar s)) .next) :=
    runWord_ok ((scalar_run_nil he _).trans ((run_bind_ok (readReg_g ha s) _).trans ((run_bind_ok (readReg_g hd s) _).trans
      ((run_bind_ok (streamDone_ok hdr.1 hdr.2) _).trans (run_bind_ok ((run_bind_ok hplace _).trans rfl) _)))))
  intro i hi
  simp only [List.mem_cons, List.not_mem_nil, or_false] at hi
  rcases hi with rfl | rfl <;> exact hbody

/-- A word read with general registers. -/
theorem exec_cfgr (he : executes (cur s) g = true) (hd : isG d) (ha : isG a) (hdr : Spec.drained s)
    (hplace : cfgPlace (curReg s a.toNat) cLOAD (afterSbar s) = .ok ((p, w), afterSbar s)) :
    exec (.cfgr g d a) s = .next (retire (setCurReg (afterSbar s) d.toNat
      (if w = recchkWord then 0 else if w = cfgstatWord then cfgstat (agentAt (afterSbar s) p) else cfgWord (agentAt (afterSbar s) p) w)) .next) :=
  runWord_ok ((scalar_run_one he (checkDst_g hd s) _).trans ((run_bind_ok (readReg_g ha s) _).trans ((run_bind_ok (streamDone_ok hdr.1 hdr.2) _).trans
    ((run_bind_ok hplace _).trans ((reads_bind ..).trans (run_bind_ok (writeReg_g hd ..) _))))))

end

/-! ### What writes to the configuration space leave unchanged -/

/-- A record of a unit leaves every tile its strands. -/
theorem postTile_strands (s : State) (a b : Nat) (r : Rec) : (agentAt (postTile s a r) b).strands = (agentAt s b).strands := by
  unfold postTile
  split
  · rfl
  · rw [agentAt_modAgent]
    split
    · next h => rw [h]
    · rfl

section
variable (p w : Nat) (v : Word) (s : State)

theorem stageWord_keeps : (stageWord s p w v).mem = s.mem ∧ (agentAt (stageWord s p w v) p).strands = (agentAt s p).strands := by
  unfold stageWord
  dsimp only
  split
  · exact ⟨rfl, by rw [agentAt_setAgent_same]⟩
  · split
    · refine ⟨postUnit_mem .., (postTile_strands ..).trans ?_⟩
      show (agentAt (setAgent s p _) p).strands = _
      rw [agentAt_setAgent_same]
    · split
      · refine ⟨rfl, ?_⟩
        show (agentAt (setAgent s p _) p).strands = _
        rw [agentAt_setAgent_same]
      · exact ⟨rfl, by rw [agentAt_setAgent_same]⟩

theorem cfgWritten_keeps : (cfgWritten p w v s).mem = s.mem ∧ (agentAt (cfgWritten p w v s) p).strands = (agentAt s p).strands := by
  unfold cfgWritten
  split
  · exact ⟨rfl, by rw [recordCheck, agentAt_setAgent_same]⟩
  · split
    · exact ⟨rfl, rfl⟩
    · exact stageWord_keeps p w v s

/-- With room and no hook armed, the word joins those staged. -/
theorem stageWord_staged (hroom : (agentAt s p).cfg.staged.length < 4096) (hhook : s.rel.errinj.getLsbD 59 = false) :
    (agentAt (stageWord s p w v) p).cfg = { (agentAt s p).cfg with staged := (agentAt s p).cfg.staged ++ [(w, v)] } := by
  have hcap : ¬ stagingCap ≤ (agentAt s p).cfg.staged.length := Nat.not_le.mpr hroom
  simp only [stageWord, hcap, if_false, hhook, Bool.false_and]
  simp

end

theorem boot_afterSbar (s : State) : (afterSbar s).boot = s.boot ∧ (afterSbar s).rel = s.rel := by
  unfold afterSbar
  split <;> exact ⟨rfl, rfl⟩

/-- Settles O46: the domain instructions from O39, and a DSYNC from the strand that it leaves waiting; the words of the configuration space
from the place of their address. -/
theorem domainAndConfigComplete : Obligations.DomainAndConfigComplete := by
  refine ⟨fun g l s he hp hin harr => ?_, fun g d a s he hd ha hdr hwave f c r w hf hc hr hw haddr => ?_⟩
  · obtain ⟨-, -, hfree, -⟩ := domainPhase g l s he hp
    obtain ⟨hwait, -, harrive⟩ := hfree hin harr
    refine ⟨hwait, fun hrel => ⟨(harrive hrel).1, fun hr => ⟨syncWaiting l s, (harrive hrel).2 hr, ?_⟩⟩⟩
    have hcur := cur_syncWaiting l s
    exact ⟨by rw [hcur], by rw [hcur], by rw [hcur], arrivedAt_syncWaiting l s, wait_completes l s he hp hin⟩
  · intro p hon s2 x v
    obtain ⟨hboot, hrel⟩ := boot_afterSbar s
    have hplace (cause : Nat) := cfgPlace_ok (s := afterSbar s) cause hf hc hr hw (by rw [hboot]; exact hon) (by rw [hrel]; exact hwave)
    rw [← haddr] at hplace
    have hwrite := exec_cfg_writes he hd ha hdr (hplace cSTORE)
    obtain ⟨hmem, hstrands⟩ := cfgWritten_keeps p w v s2
    refine ⟨⟨_, hwrite _ (by simp), hmem.trans (sbarSpent_mem s), hstrands, fun hlow hroom hhook => ?_⟩, fun hrec => ?_, ⟨_, hwrite _ (by simp)⟩, ?_⟩
    · have hword : ¬ w = recchkWord ∧ ¬ w = cfgstatWord := by
        simp only [recchkWord, cfgstatWord]
        omega
      have hcfg := stageWord_staged p w v s2 hroom (by rw [hrel]; exact hhook)
      rwa [← show cfgWritten p w v s2 = stageWord s2 p w v from (if_neg hword.1).trans (if_neg hword.2)] at hcfg
    · have hcheck : cfgWritten p w v s2 = recordCheck s2 p v := if_pos hrec
      rw [hwrite _ (by simp), hcheck]
    · have hstat : cfgstat x = packed [(56, x.cfg.result.toNat), (0, x.cfg.staged.length)] := by rw [packed_two, Nat.pow_zero, Nat.mul_one, cfgstat]
      rw [← hstat]
      exact exec_cfgr he hd ha hdr (hplace cLOAD)

end Sys2Proof.Machine
end

section
/-!
O48. The mesh's own steps (07 R214 to R216, R230, 09 R254, 10 R278, R280, 14 R345, 15 R353, R354).
-/

namespace Sys2Proof.Machine

open Sys2Proof.Spec

/-! ### Messages landing -/

/-- The state without message i of the mesh. -/
def withoutMsg (i : Nat) (s : State) : State := { s with net := { s.net with msgs := s.net.msgs.eraseIdx i } }

section
variable {s : State} {i : Nat} {m : Msg}

theorem msgReady_some (hi : s.net.msgs[i]? = some m) (hwhole : m.whole = true) (hhere : m.here = m.dst)
    (hfirst : (s.net.msgs.take i).any (fun q => q.src == m.src && q.dst == m.dst) = false) : msgReady s i = some m := by
  simp [msgReady, hi, hwhole, hhere, hfirst]

section
variable (hready : msgReady s i = some m)
include hready

theorem messageLanding_drop (h : msgFate s m = .drop) : exec (.messageLanding i) s = .next (passFlits (withoutMsg i s) m.dst 4 m.flitCount) := by
  show execMessageLanding i s = _
  simp only [execMessageLanding, hready, h]
  rfl

theorem messageLanding_hold (h : msgFate s m = .hold) : exec (.messageLanding i) s = .next s := by
  show execMessageLanding i s = _
  simp only [execMessageLanding, hready, h]

theorem messageLanding_land {x : Agent} (h : msgFate s m = .land x) :
    exec (.messageLanding i) s = .next (passFlits (setAgent (withoutMsg i s) m.dst x) m.dst 4 m.flitCount) := by
  show execMessageLanding i s = _
  simp only [execMessageLanding, hready, h]
  rfl

end

/-- A stale message is dropped (15 R353). -/
theorem msgFate_stale (h : staleAt s m.dst (some m.tag) = true) : msgFate s m = .drop := by
  unfold msgFate
  rw [if_pos h]

/-- The elements of a message as they enter a queue. -/
def landing (m : Msg) : List QElem := m.elems.zipIdx.map (fun p => ⟨p.1, if p.2 = 0 then m.acq else none⟩)

/-- The destination with a channel of the message replaced. -/
def intoChannel (s : State) (m : Msg) (c : Channel) : Agent :=
  { agentAt s m.dst with ni := { (agentAt s m.dst).ni with chans := mput (agentAt s m.dst).ni.chans m.ch.toNat c } }

section
variable {t : Task} (hlive : staleAt s m.dst (some m.tag) = false) (ht : taskOf s m.dst = some t) (htag : t.tag = m.tag)
  (h1 : t.st ≠ .prefetch) (h2 : t.st ≠ .placing)
include hlive ht htag h1 h2

/-- The fate of a message for the task of its destination, by its kind (R215, R216). -/
theorem msgFate_live : msgFate s m =
    let c := chanOf (agentAt s m.dst) m.ch.toNat
    if m.bsp then
      let room := chanCap - (c.nxt.length + c.due.length)
      let src := strandAt s m.src m.strand
      let later := m.after && mget false src.arrived m.lvl.toNat && domHas (domOf src m.lvl.toNat) (nameOf s m.dst)
      .land (intoChannel s m { c with nxt := c.nxt ++ ((landing m).take room).map (fun e => ⟨m.lvl, later, e⟩), ovf := c.ovf || room < (landing m).length })
    else if c.due = [] ∧ c.q.length + (landing m).length ≤ chanCap then .land (intoChannel s m { c with q := c.q ++ landing m })
    else .hold := by
  have hstate : ¬ (t.st = .prefetch ∨ t.st = .placing) := not_or.mpr ⟨h1, h2⟩
  unfold msgFate
  rw [if_neg (Bool.eq_false_iff.mp hlive), ht]
  dsimp only
  rw [if_neg (not_not.mpr htag), if_neg hstate]
  rfl

end

end

/-! ### Phases and names -/

/-- A phase that is ready is released, or withheld by a checkpoint (R230, 20 R446). -/
theorem exec_phaseRelease {s : State} {a k l : Nat} {p : Bool} (hready : phaseReady s a k l p = true) :
    (withholds s l = false → exec (.phaseRelease a k l p) s = .next (releasePhase s a k l)) ∧
    (withholds s l = true → ∀ t, (strandAt s a k).tag = some t → exec (.phaseRelease a k l p) s =
      .next { s with rel := { s.rel with ckpt := { s.rel.ckpt with withheld := insertNat s.rel.ckpt.withheld t.cx.toNat } } }) := by
  have hgo : ¬ (!phaseReady s a k l p) = true := by simp [hready]
  refine ⟨fun h => (if_neg hgo).trans (if_neg (Bool.eq_false_iff.mp h)), fun h t ht => (if_neg hgo).trans ((if_pos h).trans ?_)⟩
  rw [ht]

/-! ### Requests at their homes -/

/-- The state with other requests in the mesh. -/
def withReqs (s : State) (reqs : List Req) : State := { s with net := { s.net with reqs := reqs } }

/-- A request answered: dropped where its tile wants nothing of its own memory, and otherwise a response on its way. -/
theorem answerReq_eq (s : State) (i : Nat) (r : Req) : answerReq s i r =
    if r.bound = r.src ∧ r.tile.isSome = true ∧ r.wants = false then kickMxe (withReqs s (s.net.reqs.eraseIdx i)) r.src
    else kickMxe { s with net := { s.net with
      reqs := s.net.reqs.eraseIdx i
      resps := s.net.resps ++ [{ r with hdr := headerFor (withReqs s (s.net.reqs.eraseIdx i)) r.bound r.src vcRSP, here := r.bound }] } } r.src := by
  simp only [answerReq, Bool.not_eq_true']
  rfl

section
variable {s : State} {i : Nat} {r : Req} (hready : reqReady s i = some r)
include hready

theorem requestAtHome_answer (h : r.todo = []) : exec (.requestAtHome i) s = .next (answerReq s i r) := by
  show execRequestAtHome i s = _
  simp only [execRequestAtHome, hready, h]

section
variable {x : Access} {rest : List Access} (htodo : r.todo = x :: rest)
include htodo

/-- A stale request is dropped at the checkpoint of its home (15 R353). -/
theorem requestAtHome_stale (hpast : r.past = false) (h : staleAt s (homeUnit x.key) r.tag = true) :
    exec (.requestAtHome i) s = .next (withReqs s (s.net.reqs.eraseIdx i)) := by
  show execRequestAtHome i s = _
  simp only [execRequestAtHome, hready, htodo, hpast, h]
  rfl

/-- One for host memory passes the checkpoint of the host port in a step of its own (log 108). -/
theorem requestAtHome_passes (hpast : r.past = false) (h : staleAt s (homeUnit x.key) r.tag = false) (hhost : homeUnit x.key = hostUnit) :
    exec (.requestAtHome i) s = .next (withReqs s (s.net.reqs.set i { r with past := true })) := by
  have hfresh : (!r.past && staleAt s (homeUnit x.key) r.tag) = false := by simp [h]
  have hport : (!r.past && throughPort x.key) = true := by simp [hpast, throughPort, hhost]
  show execRequestAtHome i s = _
  simp only [execRequestAtHome, hready, htodo, hfresh, hport]
  rfl

/-- Otherwise its next access is performed. -/
theorem requestAtHome_performs (h : r.past = true ∨ (staleAt s (homeUnit x.key) r.tag = false ∧ homeUnit x.key ≠ hostUnit)) :
    exec (.requestAtHome i) s =
      let p := performAccess s r.tag x
      let r' := { r with todo := rest, res := r.res ++ [p.2] }
      if rest = [] then .next (answerReq p.1 i r') else .next (withReqs p.1 (p.1.net.reqs.set i r')) := by
  have hfresh : (!r.past && staleAt s (homeUnit x.key) r.tag) = false := by rcases h with h | ⟨h, -⟩ <;> simp [h]
  have hhome : (!r.past && throughPort x.key) = false := by rcases h with h | ⟨-, h⟩ <;> simp [h, throughPort]
  show execRequestAtHome i s = _
  simp only [execRequestAtHome, hready, htodo, hfresh, hhome]
  rfl

end

end

/-! ### Responses -/

/-- The state without response i of the mesh. -/
def withoutResp (i : Nat) (s : State) : State := { s with net := { s.net with resps := s.net.resps.eraseIdx i } }

section
variable {s : State} {i : Nat} {r : Req} (hi : s.net.resps[i]? = some r)
include hi

/-- The first response of its home that has reached its tile (R257). -/
theorem exec_responseLanding (hlive : staleAt s r.src r.tag = false) (hhere : r.here = r.src)
    (hfirst : (s.net.resps.take i).all (fun q => !(q.src == r.src && q.bound == r.bound && q.bound != q.src)) = true) :
    exec (.responseLanding i) s = if !r.wants then .next (withoutResp i s)
      else .next (modStrand (withoutResp i s) r.src r.strand (fun t =>
        let t := { t with reply := some (t.reply.getD [] ++ r.res) }
        if moreComing (withoutResp i s) r.src r.strand then t else wakeStrand t)) := by
  have hnone : (s.net.resps.take i).any (fun q => q.src == r.src && q.bound == r.bound && q.bound != q.src) = false := by
    rw [List.any_eq_not_all_not, hfirst]
    rfl
  have hgo : (staleAt s r.src r.tag || r.here != r.src || (s.net.resps.take i).any (fun q => q.src == r.src && q.bound == r.bound && q.bound != q.src)) = false := by
    simp only [hlive, hhere, bne_self_eq_false, hnone, Bool.or_self]
  show execResponseLanding i s = _
  simp only [execResponseLanding, hi, hgo]
  rfl

theorem exec_orphan {t : Tag} (ht : r.tag = some t) (hstale : staleAt s r.src r.tag = true) :
    exec (.orphan i) s = .next (modAgent (withoutResp i s) r.src (fun x => { x with ni := { x.ni with
      orphans := mmod 0 x.ni.orphans t.cx.toNat (fun n => min (n + 1) (2 ^ 48 - 1)) } })) := by
  rw [ht] at hstale
  show execOrphan i s = _
  simp only [execOrphan, hi, ht, hstale]
  rfl

end

/-- The three fates of a message for the task of its destination (R214 to R216). -/
theorem msgFate_outcomes {s : State} {m : Msg} {t : Task} (hlive : staleAt s m.dst (some m.tag) = false) (ht : taskOf s m.dst = some t) (htag : t.tag = m.tag)
    (h1 : t.st ≠ .prefetch) (h2 : t.st ≠ .placing) :
    let c := chanOf (agentAt s m.dst) m.ch.toNat
    (m.bsp = false → c.due = [] → c.q.length + (landing m).length ≤ chanCap → msgFate s m = .land (intoChannel s m { c with q := c.q ++ landing m })) ∧
    (m.bsp = false → chanCap < c.q.length + (landing m).length → msgFate s m = .hold) ∧
    (m.bsp = true → m.after = false → msgFate s m = .land (intoChannel s m { c with
      nxt := c.nxt ++ ((landing m).take (chanCap - (c.nxt.length + c.due.length))).map (fun e => ⟨m.lvl, false, e⟩)
      ovf := c.ovf || chanCap - (c.nxt.length + c.due.length) < (landing m).length })) := by
  intro c
  have hfate := msgFate_live hlive ht htag h1 h2
  refine ⟨fun hb hdue hroom => ?_, fun hb hfull => ?_, fun hb hafter => ?_⟩
  · simp only [hfate, hb, Bool.false_eq_true, if_false]
    exact if_pos ⟨hdue, hroom⟩
  · simp only [hfate, hb, Bool.false_eq_true, if_false]
    exact if_neg fun h => Nat.not_le.mpr hfull h.2
  · rw [hfate, hb, hafter]
    rfl

/-- A strand changed in two ways that agree on it. -/
theorem modStrand_congr {s : State} {a k : Nat} {f f' : Strand → Strand} (h : f (strandAt s a k) = f' (strandAt s a k)) : modStrand s a k f = modStrand s a k f' :=
  congrArg (setStrand s a k) h

/-- Settles O48: each event from what its step does where it can happen. -/
theorem meshEvents : Obligations.MeshEvents := by
  intro s
  refine ⟨fun i m hi hwhole hhere hfirst => ?_, fun a k l p hready => exec_phaseRelease hready, fun a n hn => if_pos (List.contains_iff_mem.mpr hn),
    fun i r hready => ?_, fun i r hi => ⟨?_, ?_, ?_, fun t ht hstale => exec_orphan hi ht hstale⟩⟩
  · have hready := msgReady_some hi hwhole hhere hfirst
    refine ⟨fun h => messageLanding_drop hready (msgFate_stale h), fun hlive t ht htag h1 h2 => ?_⟩
    obtain ⟨hqueue, hfull, hbsp⟩ := msgFate_outcomes hlive ht htag h1 h2
    exact ⟨fun hb hdue hroom => messageLanding_land hready (hqueue hb hdue hroom), fun hb h => messageLanding_hold hready (hfull hb h),
      fun hb hafter => messageLanding_land hready (hbsp hb hafter)⟩
  · refine ⟨fun h => ?_, fun x rest htodo => ⟨fun hpast h => requestAtHome_stale hready htodo hpast h,
      fun hpast h hhost => requestAtHome_passes hready htodo hpast h hhost, fun h => ⟨fun hlast => ?_, fun hmore => ?_⟩⟩⟩
    · rw [requestAtHome_answer hready h, answerReq_eq]
      rfl
    · rw [requestAtHome_performs hready htodo h, if_pos hlast, answerReq_eq]
      rfl
    · rw [requestAtHome_performs hready htodo h, if_neg hmore]
      rfl
  · intro hlive hhere hfirst hwants
    rw [exec_responseLanding hi hlive hhere hfirst, hwants]
    rfl
  · intro hlive hhere hfirst hwants hmore
    rw [exec_responseLanding hi hlive hhere hfirst, hwants]
    exact congrArg Host.Outcome.next (modStrand_congr (if_pos hmore))
  · intro hlive hhere hfirst hwants hlast hst
    rw [exec_responseLanding hi hlive hhere hfirst, hwants]
    exact congrArg Host.Outcome.next (modStrand_congr ((if_neg (Bool.eq_false_iff.mp hlast)).trans (if_pos hst)))

end Sys2Proof.Machine
end


section
/-!
O50. Blocks of light: requests at the beacon, sending, arrival, replay, releases, and the receivers' hue (07 R225, 08 R242 to R252, 19 R423).
-/

namespace Sys2Proof.Machine

/-! ### The group table (08 R238, R239) -/

section
variable (s : State) (g i : Nat)

@[simp] theorem groupAt_modGroup_same (f : Group → Group) : groupAt (modGroup s g f) g = f (groupAt s g) := mget_mput_same ..

theorem groupAt_modGroup (f : Group → Group) : groupAt (modGroup s i f) g = if g = i then f (groupAt s i) else groupAt s g := mget_mput ..

@[simp] theorem shine_groupAt (p : Photon) : groupAt (shine s g p) i = groupAt s i := rfl

/-- A field that a change of one group keeps has its old value in every group. -/
theorem modGroup_keeps {α : Type} (field : Group → α) {f : Group → Group} (h : ∀ e, field (f e) = field e) :
    field (groupAt (modGroup s i f) g) = field (groupAt s g) := by
  rw [groupAt_modGroup]
  split
  · next hg => rw [h, hg]
  · rfl

end

/-- Sequence numbers move on (R245). -/
theorem seqNext_ne (n : Nat) : seqNext n ≠ n := by
  unfold seqNext seqMod
  omega

/-! ### Requests at the beacon (07 R225) -/

/-- The state without request n on its way to a beacon. -/
def withoutRequest (n : Nat) (s : State) : State := { s with light := { s.light with pending := s.light.pending.eraseIdx n } }

/-- The DETAIL that refuses a request by its owner, the group's state and the group's number, and 0 for one that is queued. -/
def requestDetail (s : State) (r : LReq) : Nat :=
  if some (groupAt s (r.grp.toNat % 256)).owner ≠ r.tag then 1
  else if (groupAt s (r.grp.toNat % 256)).st ≠ gACTIVE then 2
  else if 256 ≤ r.grp.toNat then 4
  else 0

section
variable {s : State} {n : Nat} {r : LReq} (hready : requestReady s n = some r)
include hready

theorem exec_beaconRequest : exec (.beaconRequest n) s =
    if staleAt s (beaconUnit (groupAt s (r.grp.toNat % 256)).beacon.toNat) r.tag = true then .next (withoutRequest n s)
    else if requestDetail s r ≠ 0 then .next ((refuse (withoutRequest n s) r (requestDetail s r)).getD s)
    else .next (modGroup (withoutRequest n s) (r.grp.toNat % 256) (fun e => { e with q := e.q ++ [r] })) := by
  show execBeaconRequest n s = _
  simp only [execBeaconRequest, hready]
  rfl

section
variable (hlive : staleAt s (beaconUnit (groupAt s (r.grp.toNat % 256)).beacon.toNat) r.tag = false)
include hlive

theorem beaconRequest_refused {d : Nat} (hd : requestDetail s r = d) (h0 : d ≠ 0) {t : State} (ht : refuse (withoutRequest n s) r d = some t) :
    exec (.beaconRequest n) s = .next t := by
  rw [exec_beaconRequest hready, if_neg (Bool.eq_false_iff.mp hlive), hd, if_pos h0, ht]
  rfl

theorem beaconRequest_queued (hd : requestDetail s r = 0) :
    exec (.beaconRequest n) s = .next (modGroup (withoutRequest n s) (r.grp.toNat % 256) (fun e => { e with q := e.q ++ [r] })) := by
  rw [exec_beaconRequest hready, if_neg (Bool.eq_false_iff.mp hlive), if_neg (not_not.mpr hd)]

end

end

/-! ### The turns of a beacon (R242) -/

/-- The beacon of a group has served it last. -/
def servedBy (s : State) (g : Nat) (t : State) : State := { t with light := { t.light with served := mput t.light.served (groupAt s g).beacon.toNat g } }

/-- It is the group's turn among the groups of its beacon that have a block to send. -/
def groupsTurn (s : State) (g : Nat) : Prop := (beaconGroups s (groupAt s g).beacon.toNat).find? (hasBlock s) = some g

section
variable {s t : State} {g : Nat}

theorem blockOut_of_next (h : (groupAt t g).next = seqNext (groupAt s g).next) : blockOut s t g = true := by
  simp [blockOut, h, (seqNext_ne _).symm]

theorem blockOut_of_resend {a : Nat} (ha : (groupAt s g).resend = some a) (h : (groupAt t g).resend ≠ some a) : blockOut s t g = true := by
  simp [blockOut, ha, h.symm]

theorem blockOut_of_same (hn : (groupAt t g).next = (groupAt s g).next) (hr : (groupAt t g).resend = (groupAt s g).resend) : blockOut s t g = false := by
  simp [blockOut, hn, hr]

/-- A block goes out in the group's turn only. -/
theorem beaconSend_block (hsends : beaconSends s g = t) (hout : blockOut s t g = true) :
    (groupsTurn s g → exec (.beaconSend g) s = .next (servedBy s g t)) ∧ (¬ groupsTurn s g → exec (.beaconSend g) s = .next s) := by
  have hgo : ¬ (!blockOut s t g) = true := by simp [hout]
  subst hsends
  exact ⟨fun h => congrArg Host.Outcome.next ((if_neg hgo).trans (if_neg (not_not.mpr h))), fun h => congrArg Host.Outcome.next ((if_neg hgo).trans (if_pos h))⟩

/-- What sends no block needs no turn. -/
theorem beaconSend_other (hsends : beaconSends s g = t) (hout : blockOut s t g = false) : exec (.beaconSend g) s = .next t := by
  subst hsends
  exact congrArg Host.Outcome.next (if_pos (by simp [hout]))

end

/-! ### What a beacon sends (R242, R246, R249) -/

section
variable {s : State} {g : Nat} (hwave : s.rel.wave = none)
include hwave

theorem beaconSends_resends {a : Nat} (hst : (groupAt s g).st = gACTIVE) (ha : (groupAt s g).resend = some a) : beaconSends s g = resendBlock s g a := by
  simp [beaconSends, hwave, hst, ha, gACTIVE, gFAILED]

section
variable {r : LReq} {q : List LReq} (hwalker : (groupAt s g).walker = none) (hq : (groupAt s g).q = r :: q)
include hwalker hq

theorem beaconSends_inj (hst : (groupAt s g).st = gACTIVE) (ha : (groupAt s g).resend = none) (hr : r.chain = false) :
    beaconSends s g = if windowRoom (groupAt s g) = false then modGroup s g (fun e => { e with bst := .windowFull }) else serveInj s g r := by
  simp [beaconSends, hwave, hst, ha, hwalker, hq, hr, gACTIVE, gFAILED]

theorem beaconSends_failed (hst : (groupAt s g).st = gFAILED) : beaconSends s g = (refuseHead s g r 2).getD s := by
  simp [beaconSends, hwave, hst, hwalker, hq]

end

end

section
variable (s : State) (g : Nat)

/-- A block of a replay is the last one, or the next one follows it. -/
theorem resend_resendBlock (a : Nat) : (groupAt (resendBlock s g a) g).resend ≠ some a := by
  rw [resendBlock, groupAt_modGroup_same]
  split_ifs
  · exact Option.some_ne_none a ∘ Eq.symm
  · simpa using seqNext_ne a

theorem next_passToSibling (r : LReq) (b : Option Block) : (groupAt (passToSibling s g r b) g).next = (groupAt s g).next := by
  unfold passToSibling
  dsimp only
  split
  · exact modGroup_keeps (field := Group.next) (h := fun _ => rfl) ..
  · rfl

theorem next_sent (b : Block) : (groupAt (popRequest (sendBlock s g b) g) g).next = seqNext (groupAt s g).next := by
  simp [popRequest, sendBlock]

end

/-- An event for a strand changes nothing of the light. -/
theorem pushEvent_light {s t : State} {a k : Nat} {w : Word} (h : pushEvent s a k w = some t) : t.light = s.light := by
  unfold pushEvent at h
  dsimp only at h
  split at h
  · rw [← Option.some.inj h]
  · split at h
    · rw [← Option.some.inj h, modStrand_light]
    · cases h

theorem refuse_light {s t : State} {r : LReq} {d : Nat} (h : refuse s r d = some t) : t.light = s.light := by
  unfold refuse at h
  split at h
  · rw [← Option.some.inj h]
  · exact pushEvent_light h

section
variable {s t : State} {g : Nat} {r : LReq} {q : List LReq} (hwave : s.rel.wave = none) (hwalker : (groupAt s g).walker = none) (hq : (groupAt s g).q = r :: q)
include hwave hwalker hq

theorem beaconSend_refuses (hst : (groupAt s g).st = gFAILED) (ht : refuse (popRequest s g) r 2 = some t) : exec (.beaconSend g) s = .next t := by
  have hgroup : groupAt t g = groupAt (popRequest s g) g := by rw [groupAt, refuse_light ht, groupAt]
  have hsends : beaconSends s g = t := by
    rw [beaconSends_failed hwave hwalker hq hst, refuseHead, ht]
    rfl
  refine beaconSend_other hsends (blockOut_of_same ?_ ?_)
  all_goals rw [hgroup, popRequest, groupAt_modGroup_same]

section
variable (hst : (groupAt s g).st = gACTIVE) (ha : (groupAt s g).resend = none) (hr : r.chain = false)
include hst ha hr

theorem beaconSend_windowFull (hroom : windowRoom (groupAt s g) = false) :
    exec (.beaconSend g) s = .next (modGroup s g (fun e => { e with bst := .windowFull })) := by
  have hsends := beaconSends_inj hwave hwalker hq hst ha hr
  rw [if_pos hroom] at hsends
  refine beaconSend_other hsends (blockOut_of_same ?_ ?_)
  all_goals rw [groupAt_modGroup_same]

/-- The INJ at the head of the queue is served in the group's turn, where a block goes out. -/
theorem beaconSend_serves (hroom : windowRoom (groupAt s g) = true) (hserve : serveInj s g r = t) (hnext : (groupAt t g).next = seqNext (groupAt s g).next) :
    (groupsTurn s g → exec (.beaconSend g) s = .next (servedBy s g t)) ∧ (¬ groupsTurn s g → exec (.beaconSend g) s = .next s) := by
  have hsends := beaconSends_inj hwave hwalker hq hst ha hr
  rw [if_neg (by simp [hroom]), hserve] at hsends
  exact beaconSend_block hsends (blockOut_of_next hnext)

end

end

section
variable {s : State} {g : Nat} {r : LReq} {b : Block}

theorem serveInj_fetched {h : Line} (hblock : r.block = none) (hhead : fetchHeader s g r.va = .inl h) (hbody : fetchBody s g r.va h none = .block b) :
    serveInj s g r = passToSibling (popRequest (sendBlock s g b) g) g r (some b) := by
  simp only [serveInj, hblock, hhead, hbody]

theorem serveInj_given (hblock : r.block = some b) : serveInj s g r = popRequest (sendBlock s g { b with seq := (groupAt s g).next }) g := by
  simp only [serveInj, hblock]

end

/-! ### Arrival at a member (R247) -/

/-- A member takes a block for itself (R242, R247, 15 R353, R369, 19 R423). -/
def takesLight (s : State) (g a : Nat) (t : Tag) (b : Block) : Prop :=
  ((groupAt s g).st = gACTIVE ∨ (groupAt s g).st = gFAILED) ∧ t = (groupAt s g).owner ∧ staleAt s a (some t) = false ∧ receivesLight s g a b = true ∧
    (agentAt s a).stopped = false

theorem not_takesLight {s : State} {g a : Nat} {t : Tag} {b : Block}
    (h : t ≠ (groupAt s g).owner ∨ staleAt s a (some t) = true ∨ receivesLight s g a b = false ∨ (agentAt s a).stopped = true) : ¬ takesLight s g a t b := by
  rintro ⟨-, htag, hlive, hlight, hruns⟩
  rw [hlive, hlight, hruns] at h
  simp [htag] at h

section
variable {s : State} {g a : Nat} {f : Flight} {b : Block} (bad : Bool) (hf : nextFlight s g a = some f) (hb : f.what = .block b)
include hf hb

theorem exec_blockArrival :
    (takesLight s g a f.tag b → exec (.blockArrival g a bad) s = .next (receiveBlock (popFlight s g a) g a b bad)) ∧
    (¬ takesLight s g a f.tag b → exec (.blockArrival g a bad) s = .next (popFlight s g a)) := by
  have hdrop : ((groupAt s g).st ≠ gACTIVE ∧ (groupAt s g).st ≠ gFAILED) ∨ staleLight s g a f = true ∨ (!receivesLight s g a b) = true ∨
      (agentAt s a).stopped = true ↔ ¬ takesLight s g a f.tag b := by
    simp only [takesLight, staleLight, Bool.or_eq_true, bne_iff_ne, Bool.not_eq_true', ne_eq, not_and_or, not_or, Bool.not_eq_true, Bool.not_eq_false, or_assoc]
  show (takesLight s g a f.tag b → execBlockArrival g a bad s = _) ∧ (¬ takesLight s g a f.tag b → execBlockArrival g a bad s = _)
  simp only [execBlockArrival, hf, hb]
  exact ⟨fun h => if_neg fun hd => hdrop.mp hd h, fun h => if_pos (hdrop.mpr h)⟩

end

/-- What becomes of a block that a member takes: it is out of sequence, damaged, without a slot, or it lands. -/
theorem receiveBlock_outcomes (s : State) (g a : Nat) (b : Block) (bad : Bool) :
    (b.seq ≠ (memberOf (agentAt s a) g).e → receiveBlock s g a b bad = s) ∧
    (b.seq = (memberOf (agentAt s a) g).e →
      (bad = true ∨ crcOk b = false → receiveBlock s g a b bad = addToken s g ⟨b.seq, 0, false, (groupAt s g).owner⟩) ∧
      (bad = false → crcOk b = true → freeSlotOf (agentAt s a) = none → receiveBlock s g a b bad = addToken s g ⟨b.seq, 0, true, (groupAt s g).owner⟩) ∧
      (∀ i, bad = false → crcOk b = true → freeSlotOf (agentAt s a) = some i → receiveBlock s g a b bad = landBlock s g a i b)) := by
  refine ⟨fun h => if_pos h, fun h => ?_⟩
  have hseq : ¬ b.seq ≠ (memberOf (agentAt s a) g).e := not_not.mpr h
  have hwhole : bad = false → crcOk b = true → ¬ (bad = true ∨ (!crcOk b) = true) := fun hgood hcrc => by simp [hgood, hcrc]
  refine ⟨fun hbad => (if_neg hseq).trans (if_pos (hbad.imp_right (by simp))), fun hgood hcrc hfree => ?_, fun i hgood hcrc hfree => ?_⟩
  all_goals
    refine (if_neg hseq).trans ((if_neg (hwhole hgood hcrc)).trans ?_)
    rw [hfree]

/-! ### Replay tokens (R246, R249) -/

/-- The state with the token of a group taken. -/
def tokenTaken (s : State) (g : Nat) (p : BToken) : State :=
  modGroup s g (fun e => { e with token := none, overruns := if p.full then min 255 (e.overruns + 1) else e.overruns })

/-- The replays there have been at a number, one after another. -/
def replayRun (e : Group) (seq : Nat) : Nat := if e.sameN ≠ 0 ∧ e.sameAt = seq then e.sameN else 0

section
variable {s : State} {g : Nat} {p : BToken} (hp : (groupAt s g).token = some p)
include hp

theorem replayToken_ignored (h : (groupAt s g).st ≠ gACTIVE ∨ seqSub (groupAt s g).next p.seq = 0 ∨ windowOf (groupAt s g) < seqSub (groupAt s g).next p.seq ∨
    p.tag ≠ (groupAt s g).owner) : exec (.replayToken g) s = .next (tokenTaken s g p) := by
  show execReplayToken g s = _
  simp only [execReplayToken, hp]
  exact if_pos h

section
variable (hst : (groupAt s g).st = gACTIVE) (hn : seqSub (groupAt s g).next p.seq ≠ 0) (hw : seqSub (groupAt s g).next p.seq ≤ windowOf (groupAt s g))
  (htag : p.tag = (groupAt s g).owner) (hcovers : replayCovers (groupAt s g) p.seq = false) (hcounts : p.counts = 0)
include hst hn hw htag hcovers hcounts

/-- A token in the window starts a replay. -/
theorem replayToken_replays (hrun : replayRun (groupAt s g) p.seq < 16) : exec (.replayToken g) s = .next (modGroup (tokenTaken s g p) g (fun e => { e with
    resend := some p.seq, bst := .replay, replays := min 255 (e.replays + 1), sameAt := p.seq, sameN := replayRun (groupAt s g) p.seq + 1 })) := by
  show execReplayToken g s = _
  unfold replayRun at hrun ⊢
  simp [execReplayToken, hp, hst, hn, Nat.not_lt.mpr hw, htag, hcovers, hcounts, Nat.not_le.mpr hrun]
  rfl

/-- The one after the 16th replay at its number sets the group FAILED. -/
theorem replayToken_fails (hrun : 16 ≤ replayRun (groupAt s g) p.seq) (ha : (groupAt s g).resend = none) : exec (.replayToken g) s =
    .next (modGroup (postBeacon (tokenTaken s g p) g 8 0 0 0 (BitVec.ofNat 64 (groupAt s g).next) 0) g (fun e => {
      e with st := gFAILED, resend := none, buf := [] })) := by
  show execReplayToken g s = _
  unfold replayRun at hrun
  simp [execReplayToken, hp, hst, hn, Nat.not_lt.mpr hw, htag, hcovers, hcounts, hrun, ha]
  rfl

end

end

/-! ### Release credits (R245, R246) -/

theorem exec_releaseCredit {s : State} {g : Nat} (hst : (groupAt s g).st = gACTIVE) (hmin : minRelease s g ≠ 0) :
    let r := ((groupAt s g).rel + minRelease s g) % seqMod
    exec (.releaseCredit g) s = .next (modGroup s g (fun e => {
      e with rel := r, buf := e.buf.filter (fun b => !seqLt b.seq r), bst := if e.bst = .windowFull then .idle else e.bst })) :=
  if_neg (not_or.mpr ⟨not_not.mpr hst, hmin⟩)

/-! ### The receivers' hue (19 R423) -/

/-- A record of a unit of a tile leaves every tile its receivers. -/
theorem postTile_rx (s : State) (a b : Nat) (r : Rec) : (agentAt (postTile s a r) b).rx = (agentAt s b).rx := by
  unfold postTile
  split
  · rfl
  · rw [agentAt_modAgent]
    split
    · next h => rw [h]
    · rfl

theorem rcvOf_setRcv (s : State) (a r : Nat) (h : HueSt) : rcvOf (agentAt (setRcv s a r h) a) r = { rcvOf (agentAt s a) r with st := h } := by
  rw [setRcv, agentAt_modAgent, if_pos rfl]
  exact mget_mput_same ..

theorem rcvOf_postHue (s : State) (a r detail : Nat) : rcvOf (agentAt (postHue s a r detail) a) r = rcvOf (agentAt s a) r :=
  congrArg (fun x : Rx => mget (⟨.locked, 0, 0⟩ : Receiver) x.rcv r) (postTile_rx s a a _)

/-- Replay tokens change no tile. -/
theorem agents_foldl_addToken (tok : State → Nat → BToken) (gs : List Nat) (s : State) : (gs.foldl (fun s g => addToken s g (tok s g)) s).agents = s.agents := by
  induction gs generalizing s with
  | nil => rfl
  | cons g gs ih => exact (ih _).trans (addToken_agents ..)

section
variable {s : State} {a r : Nat} (hused : rcvUsed s a r = true)
include hused

theorem exec_hueRelock (hst : (rcvOf (agentAt s a) r).st = .unlocked) : ∃ t, exec (.hueRelock a r) s = .next t ∧ (rcvOf (agentAt t a) r).st = .locked := by
  have hlocked : (rcvOf (agentAt (postHue (setRcv s a r .locked) a r 3) a) r).st = .locked := by rw [rcvOf_postHue, rcvOf_setRcv]
  have hgo : ¬ ((!rcvUsed s a r) = true ∨ (rcvOf (agentAt s a) r).st ≠ .unlocked) := by simp [hused, hst]
  show ∃ t, execHueRelock a r s = .next t ∧ _
  rw [execHueRelock, if_neg hgo]
  dsimp only
  split
  · exact ⟨_, rfl, hlocked⟩
  · refine ⟨_, rfl, ?_⟩
    rw [agentAt, agents_foldl_addToken]
    exact hlocked

theorem exec_hues :
    ((rcvOf (agentAt s a) r).st = .locked → exec (.hueDrift a r) s = .next (postHue (setRcv s a r .drifting) a r 1)) ∧
    ((rcvOf (agentAt s a) r).st = .locked ∨ (rcvOf (agentAt s a) r).st = .drifting → exec (.hueUnlock a r) s = .next (postHue (setRcv s a r .unlocked) a r 2)) ∧
    ((rcvOf (agentAt s a) r).st = .unlocked → exec (.receiverLost a r) s = .next (declareDead (postHue (setRcv s a r .lost) a r 4) a)) ∧
    ((rcvOf (agentAt s a) r).st = .drifting → exec (.receiverRetune a r) s = .next (setRcv s a r .locked)) :=
  ⟨fun h => congrArg Host.Outcome.next (if_pos ⟨hused, h⟩), fun h => congrArg Host.Outcome.next (if_pos ⟨hused, h⟩),
    fun h => congrArg Host.Outcome.next (if_pos ⟨hused, h⟩), fun h => congrArg Host.Outcome.next (if_pos ⟨hused, h⟩)⟩

end

end Sys2Proof.Machine

namespace Sys2Proof

open Machine

/-! ### The events together (Machine.lightEvents is the schedule's list of them) -/

/-- Settles O50: each event from what its step does where it can happen. -/
theorem lightEvents : Obligations.LightEvents := by
  intro s
  refine ⟨fun n r hready => ?_, fun g hwave hwalker => ?_, fun g a f b bad hf hb => ?_, fun g p hp => ?_, fun g hst hmin => ?_, fun a r hused => ?_⟩
  · refine ⟨fun h => (exec_beaconRequest hready).trans (if_pos h), fun hlive howner t ht => ?_, fun hlive howner hst t ht => ?_, fun hlive howner hst hgrp t ht => ?_,
      fun hlive howner hst hgrp => ?_⟩
    · exact beaconRequest_refused hready hlive (if_pos howner) (by decide) ht
    · exact beaconRequest_refused hready hlive (by rw [requestDetail, if_neg (not_not.mpr howner), if_pos hst]) (by decide) ht
    · exact beaconRequest_refused hready hlive (by rw [requestDetail, if_neg (not_not.mpr howner), if_neg (not_not.mpr hst), if_pos hgrp]) (by decide) ht
    · exact beaconRequest_queued hready hlive
        (by rw [requestDetail, if_neg (not_not.mpr howner), if_neg (not_not.mpr hst), if_neg (Nat.not_le.mpr hgrp)])
  · refine ⟨fun a hst ha => ?_, fun r q hst ha hq hr hroom => beaconSend_windowFull hwave hwalker hq hst ha hr hroom,
      fun r q h b hst ha hq hr hblock hroom hhead hbody => ?_, fun r q b hst ha hq hr hblock hroom hmine => ?_,
      fun r q t hst hq ht => beaconSend_refuses hwave hwalker hq hst ht⟩
    · exact beaconSend_block (beaconSends_resends hwave hst ha) (blockOut_of_resend ha (resend_resendBlock s g a))
    · exact beaconSend_serves hwave hwalker hq hst ha hr hroom (serveInj_fetched hblock hhead hbody) ((next_passToSibling ..).trans (next_sent ..))
    · exact (beaconSend_serves hwave hwalker hq hst ha hr hroom (serveInj_given hblock) (next_sent ..)).1 hmine
  · obtain ⟨htakes, hdrops⟩ := exec_blockArrival bad hf hb
    obtain ⟨hother, hseq⟩ := receiveBlock_outcomes (popFlight s g a) g a b bad
    refine ⟨fun h1 h2 => hdrops fun h => h.1.elim h1 h2, fun h => hdrops (not_takesLight h), fun hst htag hlive hlight hruns => ?_⟩
    rw [htakes ⟨.inl hst, htag, hlive, hlight, hruns⟩]
    refine ⟨fun h => congrArg Host.Outcome.next (hother h), fun h => ?_⟩
    obtain ⟨hbad, hfull, hlands⟩ := hseq h
    exact ⟨fun h => congrArg Host.Outcome.next (hbad h), fun h1 h2 h3 => congrArg Host.Outcome.next (hfull h1 h2 h3),
      fun i h1 h2 h3 => congrArg Host.Outcome.next (hlands i h1 h2 h3)⟩
  · refine ⟨fun h => replayToken_ignored hp h, fun hst hn hw htag hcovers => ⟨fun hcounts hrun => ?_, fun hcounts hrun ha => ?_⟩⟩
    · exact replayToken_replays hp hst hn hw htag hcovers hcounts hrun
    · exact ⟨_, replayToken_fails hp hst hn hw htag hcovers hcounts hrun ha, by simp⟩
  · exact ⟨_, exec_releaseCredit hst hmin, by simp⟩
  · obtain ⟨hdrift, hunlock, hlost, hretune⟩ := exec_hues hused
    exact ⟨hdrift, hunlock, fun hst _ => exec_hueRelock hused hst, hlost, hretune⟩

end Sys2Proof
end


section
/-!
O49. Reduction calls outside their members: admission, combination, rounding, the ring, tokens, deadlines and replays (07 R221 to R223, 09 R263 to R270, R272).
-/

namespace Sys2Proof.Machine

/-! ### Admission (R263, R267) -/

/-- Router r can take a call of tree g: it holds none, has room, and its ring stands (R263, 18 R410). -/
def canAdmit (s : State) (r g : Nat) : Prop :=
  teState (treeAt s r g) = 1 ∧ ¬ (teRoot (treeAt s r g) = true ∧ teRing (treeAt s r g) = true ∧ ringOvertaken s r g = true) ∧
    childPorts (treeAt s r g) ≠ [] ∧ (rduOf s r g).any (·.admitted) = false ∧
    (s.net.rdus.filter (fun c => c.router == r && c.admitted)).length < rduCap

/-- The choice of a backup pair at admission; a router without a pair makes none (R267). -/
def pairChoice (s : State) (r g : Nat) : Option Bool := if teBkv (treeAt s r g) then chooseBackup s r g (treeAt s r g) else none

/-- The first packets of a call agree with one another and with the entry of their tree (R263). -/
def packetsAgree (e : BitVec 128) (p : Packet) (rest : List Packet) : Prop :=
  (∀ q ∈ rest, q.hdr.seq = p.hdr.seq ∧ q.hdr.op = p.hdr.op ∧ q.hdr.ty = p.hdr.ty ∧ q.hdr.lm1 = p.hdr.lm1 ∧ q.hdr.sat = p.hdr.sat ∧
      q.hdr.all = p.hdr.all) ∧
    p.hdr.op.toNat = teOp e ∧ p.hdr.ty.toNat = teType e

/-- The router's own check, which finds packets that disagree. -/
theorem not_packetsAgree (e : BitVec 128) (p : Packet) (rest : List Packet) :
    ((!rest.all (fun q => q.hdr.seq == p.hdr.seq && q.hdr.op == p.hdr.op && q.hdr.ty == p.hdr.ty && q.hdr.lm1 == p.hdr.lm1 && q.hdr.sat == p.hdr.sat &&
      q.hdr.all == p.hdr.all)) = true ∨ p.hdr.op.toNat ≠ teOp e ∨ p.hdr.ty.toNat ≠ teType e) ↔ ¬ packetsAgree e p rest := by
  simp only [packetsAgree, not_and_or, Bool.not_eq_true', List.all_eq_false, Bool.and_eq_true, beq_iff_eq, and_assoc, not_forall, exists_prop, ne_eq]

theorem callAdmission_packets {s : State} {r g : Nat} {p : Packet} {rest : List Packet} (hadmit : canAdmit s r g)
    (hpair : teBkv (treeAt s r g) = true → pairChoice s r g ≠ none)
    (hfirst : (usedPorts (treeAt s r g) (pairChoice s r g)).map (firstPacket s r g) = (p :: rest).map some) :
    (¬ packetsAgree (treeAt s r g) p rest → exec (.callAdmission r g) s = .next (abortGroup s g 1 thisWafer)) ∧
    (packetsAgree (treeAt s r g) p rest → exec (.callAdmission r g) s = .next (putRdu s (admittedCall s r g p (pairChoice s r g)))) := by
  obtain ⟨hst, hring, hports, hidle, hroom⟩ := hadmit
  show (_ → execCallAdmission r g s = _) ∧ (_ → execCallAdmission r g s = _)
  unfold pairChoice at hpair hfirst ⊢
  have hchosen : ¬ (teBkv (treeAt s r g) = true ∧ (if teBkv (treeAt s r g) then chooseBackup s r g (treeAt s r g) else none) = none) := not_and.mpr hpair
  simp only [execCallAdmission, hst, hring, hports, hidle, Nat.not_le.mpr hroom, hchosen, hfirst, List.filterMap_map, Function.id_comp,
    List.filterMap_some, List.length_map, List.length_cons, lt_irrefl, ne_eq, not_true_eq_false, Bool.false_eq_true, or_self, ↓reduceIte]
  exact ⟨fun h => if_pos ((not_packetsAgree ..).mpr h), fun h => if_neg fun hd => (not_packetsAgree ..).mp hd h⟩

/-! ### Combination (R264) -/

theorem partialCombine_joins {s : State} {r g n : Nat} {c : RduCall} {us : List PVal} (hc : rduOf s r g = some c) (hadmitted : c.admitted = true)
    (hn : n = c.out.length) (hlen : n < c.len) (hus : (usedPorts (treeAt s r g) c.backup).map (fun p => portVal s r g p n) = us.map some) :
    exec (.partialCombine r g n) s = .next (putRdu s { c with out := c.out ++ [joinAll c.op c.ty us] }) := by
  have hgo : ¬ ((!c.admitted) = true ∨ n ≠ c.out.length ∨ c.len ≤ n) := by simp [hadmitted, ← hn, hlen]
  show execPartialCombine r g n s = _
  simp only [execPartialCombine, hc, hgo, hus, List.filterMap_map, Function.id_comp, List.filterMap_some, List.length_map, lt_irrefl, ↓reduceIte]

/-! ### Rounding at a root (R266, R269, R272) -/

/-- The backup of some pair gave a contribution to the call of group g on this wafer (R267). -/
def tookBackup (s : State) (g : Nat) : Bool := s.net.rdus.any (fun d => d.group == g && d.backup == some true)

section
variable {s : State} {r g : Nat} {c : RduCall} (hready : rootReady s r g = some c)
include hready

theorem rootRounding_mismatch {p : Nat} (hp : sampleMismatch s g c = some p) : exec (.rootRounding r g) s = .next (mismatchReplay s r g p) := by
  show execRootRounding r g s = _
  simp only [execRootRounding, hready, hp]

section
variable (hsame : sampleMismatch s g c = none)
include hsame

/-- A call that stays on the wafer, or whose ring has this wafer alone, ends at the root. -/
theorem rootRounding_finishes (h : teRing (treeAt s r g) = false ∨ (urValid c.ring = true ∧ urPos c.ring = 0 ∧ urRoot c.ring = thisWafer)) :
    exec (.rootRounding r g) s = .next (finishCall s r g c c.out 0 (tookBackup s g)) := by
  show execRootRounding r g s = _
  simp only [execRootRounding, hready, hsame]
  obtain hhere | ⟨hvalid, hpos, hroot⟩ := h
  · exact if_pos (by simp [hhere])
  · simp [hvalid, hpos, hroot, tookBackup]

/-- The first wafer of a ring sends its partials on. -/
theorem rootRounding_sends (hring : teRing (treeAt s r g) = true) (hvalid : urValid c.ring = true) (hpos : urPos c.ring = 0) (hroot : urRoot c.ring ≠ thisWafer) :
    let esc := escalated (baseOfCall s r g) c.op c.ty [c.out] c.out []
    exec (.rootRounding r g) s = .next (sendPartial s r g c (esc.filter id).length (treeMembers s g).length c.out esc) := by
  show execRootRounding r g s = _
  simp [execRootRounding, hready, hsame, hring, hvalid, hpos, hroot]

end

end

/-! ### A hop of the ring (R272, 18 R400) -/

/-- The call of a hop, with the backup's part marked. -/
def hopCall (c : RduCall) (p : RingIn) : RduCall := { c with backup := if p.backup.isSome then some true else c.backup }

/-- The hop's own partials, the indices of MAXIDX counted on from the members before (R265). -/
def hopOwn (c : RduCall) (p : RingIn) : List PVal := c.out.map (shiftIdx c.op (p.before * c.len))

/-- The partials after a hop. -/
def hopVals (c : RduCall) (p : RingIn) : List PVal := List.zipWith (joinPVal c.op c.ty) p.vals (hopOwn c p)

/-- The blocks that have escalated by the end of a hop (02 R72). -/
def hopEsc (s : State) (r g : Nat) (c : RduCall) (p : RingIn) : List Bool :=
  escalated (baseOfCall s r g) c.op c.ty [p.vals, hopOwn c p] (hopVals c p) p.esc

/-- The count of escalations that a hop passes on. -/
def hopEscapes (s : State) (r g : Nat) (c : RduCall) (p : RingIn) : Nat :=
  min 255 (p.escapes + ((hopEsc s r g c p).zipIdx.filter (fun b => b.1 && !p.esc.getD b.2 false)).length)

theorem hopCall_eq (c : RduCall) (p : RingIn) : (if p.backup.isSome then { c with backup := some true } else c) = hopCall c p := by
  unfold hopCall
  split <;> rfl

theorem exec_ringHop {s : State} {g r : Nat} {c : RduCall} {p : RingIn} (hr : treeRoot s g = some r) (hready : rootReady s r g = some c)
    (hring : teRing (treeAt s r g) = true) (hvalid : urValid c.ring = true) (hpos : urPos c.ring ≠ 0) (hp : hopFrom s r g c = some p)
    (hsame : sampleMismatch s g c = none) (hlen : p.vals.length = c.len) (hrev : revokedOf s (teTag (treeAt s r g)).cx.toNat = []) :
    exec (.ringHop g) s = .next (
      if urRoot c.ring = thisWafer then finishCall s r g (hopCall c p) (hopVals c p) (hopEscapes s r g c p) (p.backup.isSome || tookBackup s g)
      else sendPartial s r g (hopCall c p) (hopEscapes s r g c p) (p.before + (treeMembers s g).length) (hopVals c p) (hopEsc s r g c p)) := by
  have hgo : ¬ ((!teRing (treeAt s r g)) = true ∨ (!urValid c.ring) = true ∨ urPos c.ring = 0) := by simp [hring, hvalid, hpos]
  have hringField : (hopCall c p).ring = c.ring := rfl
  show execRingHop g s = _
  simp only [execRingHop, hr, hready, hgo, hp, hsame, hlen, hrev, hopCall_eq, hringField, ↓reduceIte]
  -- No wafer is revoked, so no backup's partial comes in beside the one that the hop takes (18 R411).
  have hextra : ∀ f : RingIn → Bool, (∀ q, f q = false) → s.net.ringIn.filter f = [] := fun f hf => List.filter_eq_nil_iff.mpr fun q _ => by simp [hf q]
  rw [hextra _ fun q => by cases q.backup <;> simp, if_neg (not_not.mpr rfl), bne_self_eq_false, Bool.or_false, apply_ite Host.Outcome.next]
  rfl

/-! ### Completion tokens (07 R221 to R223) -/

/-- A token's abort, if it brings one, has been posted (07 R223). -/
def abortPosted (t : CallToken) : Prop := t.abort = 0 ∨ t.posted = true

theorem not_postsAbort {t : CallToken} (h : abortPosted t) : ¬ (t.abort ≠ 0 ∧ (!t.posted) = true) := by
  simpa [abortPosted, imp_iff_not_or] using h

section
variable {s : State} {a g : Nat} {t : CallToken} {c : OpenCall}
  (ht : s.net.tokens.find? (fun t => t.agent == a && t.group == g && (tokenCall s t).isSome) = some t) (hc : tokenCall s t = some c)
include ht hc

theorem completionToken_posts (habort : t.abort ≠ 0) (hposted : t.posted = false) :
    exec (.completionToken a g) s = .next (putToken (postAbort s a c t.abort) t { t with posted := true }) := by
  show execCompletionToken a g s = _
  simp [execCompletionToken, ht, hc, habort, hposted]

section
variable (hdone : abortPosted t)
include hdone

theorem completionToken_unasked (hres : c.res = none) (hrec : receives s a c = false) : exec (.completionToken a g) s = .next (endCall s t c) := by
  show execCompletionToken a g s = _
  simp only [execCompletionToken, ht, hc, not_postsAbort hdone, hres, hrec, Bool.false_eq_true, ↓reduceIte]

section
variable {r : ResSpec} (hres : c.res = some r)
include hres

theorem completionToken_completes (hrec : receives s a c = false) (hroom : eventRoom s a r = true) :
    exec (.completionToken a g) s = .next (completeCall s t c r) := by
  show execCompletionToken a g s = _
  simp only [execCompletionToken, ht, hc, not_postsAbort hdone, hres, hrec, hroom, Bool.not_false, ↓reduceIte]

/-- Results and status word are written to the member's local store. -/
theorem completionToken_stores (hrec : receives s a c = true) (hrq : r.rq = false) (hroom : eventRoom s a r = true) :
    exec (.completionToken a g) s = .next (completeCall (setMem s
      (writeWord (writeBytes s.mem (keyLs a r.dst.toNat) (wordsBytes c.op c.ty (t.results.getD []))) (keyLs a (r.dst.toNat + statusOff c)) (statusWord c t.status)))
      t c r) := by
  show execCompletionToken a g s = _
  simp only [execCompletionToken, ht, hc, not_postsAbort hdone, hres, hrec, hrq, hroom, Bool.not_true, Bool.not_false, Bool.false_eq_true, ↓reduceIte]

/-- A result queue takes what it has room for, and the token keeps the rest. -/
theorem completionToken_queues (hrec : receives s a c = true) (hrq : r.rq = true) (hfree : queueTaken s t r.dst.toNat = false)
    (hleft : t.rest.getD (t.results.getD [] ++ [statusWord c t.status]) ≠ []) (hroom : (mget [] (agentAt s a).ni.rqs r.dst.toNat).length < resultCap) :
    let left := t.rest.getD (t.results.getD [] ++ [statusWord c t.status])
    let q := mget [] (agentAt s a).ni.rqs r.dst.toNat
    exec (.completionToken a g) s = .next (putToken (modAgent s a (fun x => { x with ni := { x.ni with
      rqs := mput x.ni.rqs r.dst.toNat (q ++ (left.take (resultCap - q.length)).map (fun w => ⟨w, none⟩)) } })) t
      { t with rest := some (left.drop (resultCap - q.length)) }) := by
  have hsome : resultCap - (mget [] (agentAt s a).ni.rqs r.dst.toNat).length ≠ 0 := Nat.sub_ne_zero_of_lt hroom
  show execCompletionToken a g s = _
  simp only [execCompletionToken, ht, hc, not_postsAbort hdone, hres, hrec, hrq, hfree, hleft, hsome, Bool.not_true, Bool.false_eq_true, or_self, ↓reduceIte]

end

end

end

/-! ### Deadlines (R267, R268) -/

section
variable {s : State} {r g : Nat} (hst : teState (treeAt s r g) = 1) (hdl : hasDeadline s r g = true) (hrun : groupStopped s g = false)
include hst hdl hrun

theorem calldlExpiry_ring {c : RduCall} (hc : ringWaits s r g = some c) : exec (.calldlExpiry r g) s =
    .next (expirePair s g (some c) (s.net.ringIn.any (fun p => p.group == g && p.seq == c.seq && p.backup == some (urPrev c.ring)))) := by
  show execCalldlExpiry r g s = _
  simp [execCalldlExpiry, hst, hdl, hrun, hc]

/-- A child that has sent nothing by the deadline ends the call, at a router without a backup pair. -/
theorem calldlExpiry_missing (hring : ringWaits s r g = none) (hidle : (rduOf s r g).any (·.admitted) = false)
    (hsome : ((childPorts (treeAt s r g)).findSome? (firstPacket s r g)).isSome = true) (hbkv : teBkv (treeAt s r g) = false)
    {p : Nat} (hp : p ∈ usedPorts (treeAt s r g) ((rduOf s r g).bind (·.backup))) (hnone : firstPacket s r g p = none) :
    exec (.calldlExpiry r g) s = .next (abortGroup s g 3 thisWafer) := by
  have hcame : (childPorts (treeAt s r g)).all (fun p => (firstPacket s r g p).isNone) = false := by
    simpa [List.findSome?_isSome_iff, Option.isSome_iff_ne_none] using hsome
  have hgone : p ∈ (usedPorts (treeAt s r g) ((rduOf s r g).bind (·.backup))).filter (fun p => (firstPacket s r g p).isNone) :=
    List.mem_filter.mpr ⟨hp, by rw [hnone]; rfl⟩
  obtain ⟨q, rest, hq⟩ := List.exists_cons_of_ne_nil (List.ne_nil_of_mem hgone)
  show execCalldlExpiry r g s = _
  simp [execCalldlExpiry, hst, hdl, hrun, hring, hidle, hcame, hbkv, hq]

end

/-! ### Replays (R269, R270, 19 R418, R419) -/

theorem mirrorOf_isSome {s : State} {g r q : Nat} (hr : treeRoot s g = some r) (hmirv : teMirv (treeAt s r g) = true)
    (hq : treeRoot s (teMgrp (treeAt s r g)) = some q) (hback : teMirv (treeAt s q (teMgrp (treeAt s r g))) = true)
    (hgrp : teMgrp (treeAt s q (teMgrp (treeAt s r g))) = g) : (mirrorOf s g).isSome = true := by
  simp [mirrorOf, hr, hmirv, hq, hback, hgrp]

section
variable {s : State} {g r : Nat} (n : Nat) (hr : treeRoot s g = some r) (hbegun : attemptBegun s g = true)
include hr hbegun

theorem callReplay_residue : exec (.callReplay g 0 n) s = .next (residueReplay s r g) := by
  show execCallReplay g 0 n s = _
  simp [execCallReplay, hr, hbegun]

theorem callReplay_poison :
    exec (.callReplay g 2 n) s = .next (replayCall (postUnit s r 3 cPOISON (some (teTag (treeAt s r g))) 4 2 0 0 (groupSeq s g).toNat g) g) := by
  show execCallReplay g 2 n s = _
  simp [execCallReplay, hr, hbegun]

theorem callReplay_mismatch (hmirror : (mirrorOf s g).isSome = true) (hsampled : sampledAt (groupSeq s g) n = true) :
    exec (.callReplay g 1 n) s = .next (mismatchReplay s r g n) := by
  show execCallReplay g 1 n s = _
  simp [execCallReplay, hr, hbegun, hmirror, hsampled]

end

end Sys2Proof.Machine

namespace Sys2Proof

open Machine

/-! ### The events together -/

/-- Settles O49: each event from what its step does where it can happen. -/
theorem callEvents : Obligations.CallEvents := by
  intro s
  refine ⟨fun r g hst hring hports hidle hroom choice hchoice hpair p rest hfirst => ?_,
    fun r g n c hc hadmitted hn hlen us hus => partialCombine_joins hc hadmitted hn hlen hus,
    fun r g c p hready hp => rootRounding_mismatch hready hp,
    fun r g c hready hsame => ⟨rootRounding_finishes hready hsame, rootRounding_sends hready hsame⟩,
    fun g r c p hr hready hring hvalid hpos hp hsame hlen hrev => ?_,
    fun a g t c ht hc => ?_,
    fun r g hst hdl hrun => ⟨fun c hc => calldlExpiry_ring hst hdl hrun hc,
      fun hring hidle hsome hbkv p hp hnone => calldlExpiry_missing hst hdl hrun hring hidle hsome hbkv hp hnone⟩,
    fun g n r hr hbegun => ⟨callReplay_residue n hr hbegun, callReplay_poison n hr hbegun,
      fun hmirv q hq hback hgrp hsampled => callReplay_mismatch n hr hbegun (mirrorOf_isSome hr hmirv hq hback hgrp) hsampled⟩⟩
  · subst hchoice
    obtain ⟨hdiffer, hagree⟩ := callAdmission_packets ⟨hst, hring, hports, hidle, hroom⟩ hpair hfirst
    exact ⟨hdiffer, fun h => ⟨_, hagree h, rfl, rfl, rfl, rfl, rfl, rfl, rfl, rfl, rfl, rfl, rfl, rfl, rfl, rfl, rfl, rfl⟩⟩
  · have hhop := exec_ringHop hr hready hring hvalid hpos hp hsame hlen hrev
    exact ⟨fun hroot => hhop.trans (congrArg Host.Outcome.next (if_pos hroot)), fun hroot => hhop.trans (congrArg Host.Outcome.next (if_neg hroot))⟩
  · refine ⟨completionToken_posts ht hc, completionToken_unasked ht hc, fun hdone r hres => ⟨completionToken_completes ht hc hdone hres,
      completionToken_stores ht hc hdone hres, fun hrec hrq hfree hleft hroom => completionToken_queues ht hc hdone hres hrec hrq hfree hleft hroom⟩⟩

end Sys2Proof
end

section
/-!
SUPPORT for O58. What the invariant speaks of, and the rules by which a computation, a reading of the TQU and a service of Lodestar keep it.
-/

namespace Sys2Proof.Machine

open Sys2Proof.Spec

variable {α β : Type} {s : State}

/-! ### What the invariant speaks of -/

/-- The copies of memory that checkpoints made are in canonical form. -/
def copiesInv (k : Ckpt) : Prop := (∀ p ∈ k.slots, imageInv p.2) ∧ (∀ i, k.staged = some i → imageInv i)

/-- The state of a checkpoint may change around its copies. -/
theorem copiesInv_congr {k k' : Ckpt} (h : copiesInv k) (hslots : k'.slots = k.slots) (hstaged : k'.staged = k.staged) : copiesInv k' := by
  rw [copiesInv, hslots, hstaged]
  exact h

/-! ### A change of another part of the state -/

theorem memInv_withEnv {e : Env} (h : memInv s) : memInv { s with env := e } := h

theorem memInv_withNet {n : Net} (h : memInv s) : memInv { s with net := n } := h

theorem memInv_withLight {l : Light} (h : memInv s) : memInv { s with light := l } := h

theorem memInv_withOs {o : Os} (h : memInv s) : memInv { s with os := o } := h

theorem memInv_withTrust {t : Trust} (h : memInv s) : memInv { s with trust := t } := h

/-- What the repair unit records beside a checkpoint is not a copy of memory. -/
theorem memInv_withRel {r : Rel} (h : memInv s) (hr : r.ckpt = s.rel.ckpt) : memInv { s with rel := r } :=
  ⟨h.1, copiesInv_congr h.2 (congrArg Ckpt.slots hr) (congrArg Ckpt.staged hr)⟩

/-- The state that an outcome goes on in, if there is one, meets the invariant. -/
def nextInv : Host.Outcome State Fault Refusal → Prop
  | .next t => memInv t
  | _ => True

theorem nextInv_next (h : memInv s) : nextInv (.next s) := h

theorem nextInv_ite {p : Prop} [Decidable p] {x y : Host.Outcome State Fault Refusal} (hx : nextInv x) (hy : nextInv y) : nextInv (if p then x else y) := by
  split
  · exact hx
  · exact hy

/-- The state of a pair that is known. -/
theorem memInv_of_fst {p : State × α} {t : State} {a : α} (hp : memInv p.1) (e : p = (t, a)) : memInv t := by rwa [e] at hp

theorem memInv_of_snd {p : α × State} {t : State} {a : α} (hp : memInv p.2) (e : p = (a, t)) : memInv t := by rwa [e] at hp

theorem memInv_foldl {f : State → β → State} (hf : ∀ t b, memInv t → memInv (f t b)) (l : List β) (h : memInv s) : memInv (l.foldl f s) := by
  induction l generalizing s with
  | nil => exact h
  | cons b l ih => exact ih (hf s b h)

/-- A fold that carries something beside the state. -/
theorem memInv_foldl_fst {γ : Type} {f : State × γ → β → State × γ} (hf : ∀ p b, memInv p.1 → memInv (f p b).1) (l : List β) {p : State × γ} (h : memInv p.1) :
    memInv (l.foldl f p).1 := by
  induction l generalizing p with
  | nil => exact h
  | cons b l ih => exact ih (hf p b h)

theorem memInv_ite {p : Prop} [Decidable p] {t : State} (hs : memInv s) (ht : memInv t) : memInv (if p then s else t) := by
  split
  · exact hs
  · exact ht

/-! ### Computations of an instruction -/

/-- What is kept of an instruction that stops leaves the invariant: the effects that stay with a trap, and the state that a wait begins in (04 R103). -/
def Stop.keeps : Stop → Prop
  | .trap t => ∀ s, memInv s → memInv (t.post s)
  | .wait _ f => ∀ s, memInv s → memInv (f s)

/-- A computation keeps the invariant, whether it ends or stops, and where it ends its value satisfies P. -/
def Yields (P : α → Prop) (x : Exec α) : Prop :=
  ∀ s, memInv s → match x s with
    | .ok (a, t) => P a ∧ memInv t
    | .error e => e.keeps

/-- A computation keeps the invariant, whether it ends or stops. -/
def Keeps (x : Exec α) : Prop := Yields (fun _ => True) x

theorem yields_bind {P : α → Prop} {Q : β → Prop} {x : Exec α} {f : α → Exec β} (hx : Yields P x) (hf : ∀ a, P a → Yields Q (f a)) : Yields Q (x >>= f) := by
  intro s h
  have hs := hx s h
  rw [run_bind]
  cases e : x s with
  | ok p =>
    rw [e] at hs
    exact hf _ hs.1 _ hs.2
  | error e' =>
    rw [e] at hs
    exact hs

theorem Keeps.yields_bind {Q : β → Prop} {x : Exec α} {f : α → Exec β} (hx : Keeps x) (hf : ∀ a, Yields Q (f a)) : Yields Q (x >>= f) :=
  Machine.yields_bind hx fun a _ => hf a

theorem keeps_bind {x : Exec α} {f : α → Exec β} (hx : Keeps x) (hf : ∀ a, Keeps (f a)) : Keeps (x >>= f) := hx.yields_bind hf

theorem keeps_yields_bind {P : α → Prop} {x : Exec α} {f : α → Exec β} (hx : Yields P x) (hf : ∀ a, P a → Keeps (f a)) : Keeps (x >>= f) := yields_bind hx hf

theorem yields_pure {P : α → Prop} {a : α} (h : P a) : Yields P (pure a) := fun _ hs => ⟨h, hs⟩

theorem keeps_pure {a : α} : Keeps (pure a) := yields_pure trivial

theorem keeps_ite {p : Prop} [Decidable p] {x y : Exec α} (hx : Keeps x) (hy : Keeps y) : Keeps (if p then x else y) := by
  split
  · exact hx
  · exact hy

/-- A check before the rest of a computation: it stops, or the rest goes on. -/
theorem keeps_check {p : Prop} [Decidable p] {x : Exec PUnit} {f : PUnit → Exec β} (hx : Keeps x) (hf : ∀ a, Keeps (f a)) :
    Keeps (if p then x >>= f else f ⟨⟩) := by
  split
  · exact keeps_bind hx hf
  · exact hf _

/-- The state that a computation reads meets the invariant. -/
theorem yields_getS : Yields memInv getS := fun _ h => ⟨h, h⟩

theorem keeps_getS {f : State → Exec β} (hf : ∀ s, memInv s → Keeps (f s)) : Keeps (getS >>= f) := yields_bind yields_getS hf

theorem keeps_modS {f : State → State} (hf : ∀ s, memInv s → memInv (f s)) : Keeps (modS f) := fun s h => ⟨trivial, hf s h⟩

theorem keeps_reads {f : State → α} : Keeps (reads f) := fun _ h => ⟨trivial, h⟩

/-- A trap whose kept effects leave the invariant. -/
theorem yields_trap {P : α → Prop} {t : Trap} (ht : ∀ s, memInv s → memInv (t.post s)) : Yields P (fun _ => .error (.trap t)) := fun _ _ => ht

theorem keeps_trap {t : Trap} (ht : ∀ s, memInv s → memInv (t.post s)) : Keeps (α := α) (fun _ => .error (.trap t)) := yields_trap ht

theorem keeps_trapAt {cause : Nat} {addr : Word} {info : Nat} : Keeps (α := α) (trapAt cause addr info) := keeps_trap fun _ h => h

theorem keeps_trapPc {cause : Nat} {info : Word} : Keeps (α := α) (trapPc cause info) := keeps_trap fun _ h => h

theorem keeps_waitWith {c : WaitCause} {f : State → State} (hf : ∀ s, memInv s → memInv (f s)) : Keeps (α := α) (waitWith c f) := fun _ _ => hf

theorem keeps_waitFor {c : WaitCause} : Keeps (α := α) (waitFor c) := keeps_waitWith fun _ h => h

theorem keeps_mapM {f : α → Exec β} (hf : ∀ a, Keeps (f a)) (l : List α) : Keeps (l.mapM f) := by
  induction l with
  | nil => exact keeps_pure
  | cons a l ih =>
    rw [List.mapM_cons]
    exact keeps_bind (hf a) fun _ => keeps_bind ih fun _ => keeps_pure

theorem keeps_forM {f : α → Exec PUnit} (hf : ∀ a, Keeps (f a)) (l : List α) : Keeps (l.forM f) := by
  induction l with
  | nil => exact keeps_pure
  | cons a l ih => exact keeps_bind (hf a) fun _ => ih

/-- What is put in the place of a state that may be missing. -/
theorem memInv_getD {o : Option State} (ho : ∀ t, o = some t → memInv t) (h : memInv s) : memInv (o.getD s) := by
  cases o with
  | none => exact h
  | some t => exact ho t rfl

/-! ### Readings of the TQU -/

/-- A reading keeps the invariant in the state in which a walk is begun, and where it ends its value satisfies P. -/
def TquYields (P : α → Prop) (x : Tqu α) : Prop :=
  ∀ s, memInv s → match x.run s with
    | .ok a => P a
    | .error (.walk t) => memInv t
    | .error (.bad _) => True

/-- A reading keeps the invariant. -/
def TquKeeps (x : Tqu α) : Prop := TquYields (fun _ => True) x

theorem TquYields.ok {P : α → Prop} {x : Tqu α} (hx : TquYields P x) (h : memInv s) {a : α} (e : x.run s = .ok a) : P a := by
  have hs := hx s h
  rwa [e] at hs

theorem TquYields.walk {P : α → Prop} {x : Tqu α} (hx : TquYields P x) (h : memInv s) {t : State} (e : x.run s = .error (.walk t)) : memInv t := by
  have hs := hx s h
  rwa [e] at hs

theorem tquYields_bind {P : α → Prop} {Q : β → Prop} {x : Tqu α} {f : α → Tqu β} (hx : TquYields P x) (hf : ∀ a, P a → TquYields Q (f a)) :
    TquYields Q (x >>= f) := by
  intro s h
  have hs := hx s h
  have hrun : (x >>= f).run s = (x.run s >>= fun a => (f a).run s) := rfl
  rw [hrun]
  cases e : x.run s with
  | ok a =>
    rw [e] at hs
    exact hf a hs s h
  | error e' =>
    rw [e] at hs
    cases e' <;> exact hs

theorem TquKeeps.bind {Q : β → Prop} {x : Tqu α} {f : α → Tqu β} (hx : TquKeeps x) (hf : ∀ a, TquYields Q (f a)) : TquYields Q (x >>= f) :=
  tquYields_bind hx fun a _ => hf a

theorem tquYields_pure {P : α → Prop} {a : α} (h : P a) : TquYields P (pure a) := fun _ _ => h

theorem tquKeeps_pure {a : α} : TquKeeps (pure a) := tquYields_pure trivial

theorem tquKeeps_read : TquKeeps read := fun _ _ => trivial

theorem tquYields_bad {P : α → Prop} {va : Nat} : TquYields P (throw (.bad va)) := fun _ _ => trivial

/-- A loop of readings. -/
theorem tquKeeps_forIn {f : α → β → Tqu (ForInStep β)} (hf : ∀ a b, TquKeeps (f a b)) (l : List α) {b : β} : TquKeeps (forIn l b f) := by
  induction l generalizing b with
  | nil => exact tquKeeps_pure
  | cons a l ih =>
    rw [List.forIn_cons]
    refine (hf a b).bind fun r => ?_
    cases r with
    | done b => exact tquKeeps_pure
    | yield b => exact ih

/-- A reading that may fail at an address yields what it yields, or the address. -/
theorem tquKeeps_tryRead {x : Tqu α} (hx : TquKeeps x) : TquKeeps (tryRead x) := by
  intro s h
  have hs := hx s h
  have hrun : (tryRead x).run s = match x.run s with | .ok v => .ok (.inl v) | .error (.bad va) => .ok (.inr va) | .error e => .error e := rfl
  rw [hrun]
  cases e : x.run s with
  | ok a => trivial
  | error e' =>
    rw [e] at hs
    cases e' with
    | walk t => exact hs
    | bad va => trivial

/-! ### Services of Lodestar -/

/-- A service keeps the invariant, whether it answers or fails. -/
def LodeKeeps (x : Lode α) : Prop := ∀ s, memInv s → memInv (x.run.run s).2

theorem lodeKeeps_bind {x : Lode α} {f : α → Lode β} (hx : LodeKeeps x) (hf : ∀ a, LodeKeeps (f a)) : LodeKeeps (x >>= f) := by
  intro s h
  have hs := hx s h
  have hrun : ((x >>= f).run.run s) = match x.run.run s with | (.ok a, t) => (f a).run.run t | (.error e, t) => (.error e, t) := by
    cases e : x.run.run s with
    | mk r t => cases r <;> simp [ExceptT.run_bind, StateT.run_bind, e] <;> rfl
  rw [hrun]
  cases e : x.run.run s with
  | mk r t =>
    rw [e] at hs
    cases r with
    | ok a => exact hf a t hs
    | error e => exact hs

theorem lodeKeeps_pure {a : α} : LodeKeeps (pure a) := fun _ h => h

theorem lodeKeeps_throw : LodeKeeps (α := α) (throw ()) := fun _ h => h

theorem lodeKeeps_get {f : State → Lode β} (hf : ∀ s, memInv s → LodeKeeps (f s)) : LodeKeeps (get >>= f) := fun s h => hf s h s h

theorem lodeKeeps_set {t : State} (h : memInv t) : LodeKeeps (set t) := fun _ _ => h

end Sys2Proof.Machine
end

section
/-!
SUPPORT for O58. Canonical memory through the model, Ops: the named operations on tiles, strands and fault records.
-/

namespace Sys2Proof.Machine

open Sys2Proof.Spec

variable {β : Type} {s : State}

theorem memInv_setAgent {a : Nat} {x : Agent} (h : memInv s) : memInv (setAgent s a x) := h

theorem memInv_modAgent {a : Nat} {f : Agent → Agent} (h : memInv s) : memInv (modAgent s a f) := h

theorem memInv_mapAgents {f : Nat → Agent → Agent} (h : memInv s) : memInv (mapAgents s f) := h

theorem memInv_setStrand {a k : Nat} {t : Strand} (h : memInv s) : memInv (setStrand s a k t) := h

theorem memInv_modStrand {a k : Nat} {f : Strand → Strand} (h : memInv s) : memInv (modStrand s a k f) := h

theorem memInv_modCur {f : Strand → Strand} (h : memInv s) : memInv (modCur s f) := h

theorem memInv_modCurAgent {f : Agent → Agent} (h : memInv s) : memInv (modCurAgent s f) := h

theorem memInv_modCtx {c : Nat} {f : Ctx → Ctx} (h : memInv s) : memInv (modCtx s c f) := h

theorem memInv_freshWord (h : memInv s) : memInv (freshWord s).2 := h

theorem memInv_freshBit (h : memInv s) : memInv (freshBit s).2 := h

theorem memInv_setMem {m : Memory} (h : memInv s) (hm : m.wf) : memInv (setMem s m) := ⟨hm, h.2⟩

/-- Memory after a number of writes. -/
theorem memInv_setMem_foldl {f : Memory → β → Memory} (hf : ∀ m b, Memory.wf m → (f m b).wf) (l : List β) (h : memInv s) : memInv (setMem s (l.foldl f s.mem)) :=
  memInv_setMem h (wf_foldl hf l h.1)

theorem memInv_postTile {a : Nat} {r : Rec} (h : memInv s) : memInv (postTile s a r) := memInv_ite h (memInv_modAgent h)

theorem memInv_postCore {c : Nat} {r : Rec} (h : memInv s) : memInv (postCore s c r) := h

theorem memInv_postUnit {a kind cause : Nat} {tag : Option Tag} {unit detail : Nat} {addr info : Word} {seq group : Nat} (h : memInv s) :
    memInv (postUnit s a kind cause tag unit detail addr info seq group) := memInv_postTile h

theorem memInv_postPoison {a : Nat} {tag : Option Tag} {unit key fn : Nat} (h : memInv s) : memInv (postPoison s a tag unit key fn) := memInv_postUnit h

theorem memInv_modTask {i : Nat} {f : Task → Task} (h : memInv s) : memInv (modTask s i f) := h

theorem memInv_failTask {i reason cause ftile fstr : Nat} {taddr tinfo : Word} (h : memInv s) : memInv (failTask s i reason cause ftile fstr taddr tinfo) := by
  unfold failTask
  split
  · exact h
  · exact memInv_ite h (memInv_mapAgents (memInv_ite h (memInv_modTask h)))

theorem memInv_failStrand {a k detail cause : Nat} {addr info : Word} (h : memInv s) : memInv (failStrand s a k detail cause addr info) := by
  unfold failStrand
  dsimp only
  split
  · exact memInv_failTask (memInv_postUnit (memInv_setStrand h))
  · exact memInv_postUnit (memInv_setStrand h)

theorem memInv_trapEntry {a k cause : Nat} {tpc addr info prev : Word} (h : memInv s) : memInv (trapEntry s a k cause tpc addr info prev) :=
  memInv_ite (memInv_setStrand h) (memInv_failStrand (memInv_setStrand h))

theorem memInv_memberFault {a reason cause : Nat} {addr : Option Word} {epiw place : Nat} (h : memInv s) :
    memInv (memberFault s a reason cause addr epiw place) := by
  unfold memberFault
  dsimp only
  split
  · exact h
  · split
    · exact h
    · exact memInv_modStrand (memInv_modAgent h)

theorem memInv_dropFailedWalks (h : memInv s) : memInv (dropFailedWalks s) := h

theorem memInv_takeTrap {t : Trap} (h : memInv (t.post s)) : memInv (takeTrap s t) :=
  have h' := memInv_dropFailedWalks h
  memInv_ite (memInv_ite (memInv_memberFault h') (memInv_memberFault h')) (memInv_trapEntry h')

theorem memInv_beginWait {c : WaitCause} (h : memInv s) : memInv (beginWait s c) := h

theorem memInv_retire {c : Ctl} (h : memInv s) : memInv (retire s c) := by cases c <;> exact h

/-- An instruction that keeps the invariant goes on in a state that meets it, whether it retires, traps or waits. -/
theorem nextInv_runWord {x : Exec Ctl} (h : memInv s) (hx : Keeps x) : nextInv (runWord s x) := by
  have hs := hx s h
  unfold runWord
  split
  · rename_i e
    rw [e] at hs
    exact memInv_retire hs.2
  · rename_i e
    rw [e] at hs
    exact memInv_takeTrap (hs s h)
  · rename_i e
    rw [e] at hs
    exact hs _ (memInv_beginWait h)

theorem keeps_acquire {scope : Nat} : Keeps (acquire scope) := keeps_modS fun _ => memInv_modCurAgent

end Sys2Proof.Machine
end

section
/-!
SUPPORT for O58. Canonical memory through the model, Mesh: messages on their way over the mesh.
-/

namespace Sys2Proof.Machine

open Sys2Proof.Spec

variable {s : State}

theorem memInv_noteServed {net here port vc : Nat} (h : memInv s) : memInv (noteServed s net here port vc) := h

theorem memInv_setMaxmsg {v : Word} (h : memInv s) : memInv (setMaxmsg s v) := memInv_ite (memInv_mapAgents h) (memInv_modCurAgent h)

theorem memInv_setCalldl {v : Word} (h : memInv s) : memInv (setCalldl s v) := memInv_ite (memInv_mapAgents h) (memInv_modCurAgent h)

theorem memInv_disarmHook (h : memInv s) : memInv (disarmHook s) := h

theorem memInv_passFlits {router port n : Nat} (h : memInv s) : memInv (passFlits s router port n) :=
  memInv_ite h (memInv_ite (memInv_postUnit (memInv_disarmHook h)) h)

theorem memInv_hopMsg {i : Nat} (h : memInv s) : memInv (hopMsg s i) := by
  unfold hopMsg
  split
  · exact h
  · split
    · exact h
    · exact memInv_ite h (memInv_passFlits (memInv_noteServed h))

theorem memInv_hopReq {i : Nat} (h : memInv s) : memInv (hopReq s i) := by
  unfold hopReq
  split
  · exact h
  · split
    · exact h
    · exact memInv_ite h (memInv_noteServed h)

theorem memInv_hopResp {i : Nat} (h : memInv s) : memInv (hopResp s i) := by
  unfold hopResp
  split
  · exact h
  · split
    · exact h
    · exact memInv_ite h (memInv_noteServed h)

end Sys2Proof.Machine
end

section
/-!
SUPPORT for O58. Canonical memory through the model, Access: memory as a strand reaches it (10 R273).
-/

namespace Sys2Proof.Machine

open Sys2Proof.Spec

variable {α : Type} {s : State}

theorem keeps_resolveName {n : Nat} : Keeps (resolveName n) := by
  refine keeps_getS fun _ _ => keeps_ite keeps_pure ?_
  split
  · exact keeps_bind (keeps_modS fun _ => memInv_modCurAgent) fun _ => keeps_pure
  · exact keeps_waitWith fun _ => memInv_modCurAgent

theorem memInv_addWalk {w : Walk} (h : memInv s) : memInv (addWalk w s) := memInv_ite h h

theorem keeps_translate {va access : Nat} {w quiet : Bool} : Keeps (translate va access w quiet) := by
  unfold translate
  dsimp only
  refine keeps_getS fun _ _ => ?_
  split
  · exact keeps_pure
  · split
    · exact keeps_bind (keeps_modS fun _ => memInv_modCurAgent) fun _ => keeps_pure
    · exact keeps_ite keeps_waitFor (keeps_waitWith fun _ => memInv_addWalk)

theorem keeps_checkAddr {nd : Need} {addr : Word} {al : Nat} : Keeps (checkAddr nd addr al) := by
  refine keeps_getS fun s _ => keeps_check keeps_trapAt fun _ => ?_
  split
  · exact keeps_pure
  · exact keeps_pure
  · exact keeps_pure
  · exact keeps_trapAt
  · exact keeps_trapAt
  · refine keeps_bind keeps_resolveName fun p => ?_
    cases p with
    | none => exact keeps_trapAt
    | some p => exact keeps_pure
  · refine keeps_bind keeps_translate fun e => ?_
    cases e with
    | none => exact keeps_trapAt
    | some e => exact keeps_check keeps_trapAt fun _ => keeps_check keeps_trapAt fun _ => keeps_pure

theorem memInv_performAccess {t : Option Tag} {x : Access} (h : memInv s) : memInv (performAccess s t x).1 := by
  refine ⟨wf_performAccess t x h.1, ?_⟩
  have hrel : (performAccess s t x).1.rel = s.rel := by
    unfold performAccess
    dsimp only
    repeat' split
    all_goals rfl
  rw [hrel]
  exact h.2

theorem keeps_homeReady {key : Nat} : Keeps (homeReady key) := keeps_getS fun _ _ => keeps_ite keeps_waitFor keeps_pure

theorem memInv_sendReq {accs : List Access} {wants : Bool} (h : memInv s) : memInv (sendReq accs wants s) := h

theorem keeps_behindSbar : Keeps (behindSbar) := keeps_getS fun _ _ => keeps_ite keeps_pure (keeps_ite (keeps_modS fun _ => memInv_modCur) keeps_waitFor)

theorem keeps_writeBackKey {va : Nat} : Keeps (writeBackKey va) := by
  refine keeps_bind keeps_translate fun _ => ?_
  split
  · exact keeps_pure
  · exact keeps_getS fun _ _ => keeps_ite keeps_pure keeps_pure

theorem memInv_writeBackMany {ls : List (Nat × WLine × Nat × (Nat ⊕ Nat))} (h : memInv s) : memInv (writeBackMany ls s) := by
  induction ls generalizing s with
  | nil => exact h
  | cons q t ih =>
    refine ih (s := _) ?_
    dsimp only
    split
    · exact memInv_modCurAgent (memInv_setMem h (wf_writeBackLine _ _ _ h.1))
    · exact h

theorem keeps_release {scope : Nat} : Keeps (release scope) := by
  refine keeps_getS fun s _ => keeps_check keeps_waitFor fun _ => keeps_bind keeps_behindSbar fun _ => ?_
  split
  · refine keeps_bind (keeps_mapM (fun _ => keeps_bind keeps_writeBackKey fun _ => keeps_pure) _) fun ls => ?_
    split
    · split
      · exact keeps_pure
      · exact keeps_waitWith fun _ => memInv_writeBackMany
    · exact keeps_trap fun _ => memInv_writeBackMany
  · exact keeps_pure

theorem keeps_readHere {nd : Need} {i : Nat} {addr : Word} {p : Place} {n : Nat} {plain : Bool} : Keeps (readHere nd i addr p n plain) := by
  refine keeps_getS fun s _ => ?_
  dsimp only
  split
  · exact keeps_pure
  · split
    · exact keeps_bind keeps_homeReady fun _ => keeps_pure
    · split
      · split
        · exact keeps_pure
        · split
          · exact keeps_pure
          · split
            · exact keeps_waitFor
            · exact keeps_trapAt
            · exact keeps_check keeps_waitFor fun _ => keeps_bind (keeps_modS fun _ h => h) fun _ => keeps_pure
      · split <;> exact keeps_pure

/-- A trap that is held back is one whose kept effects leave the invariant. -/
theorem yields_tried {x : Exec α} (hx : Keeps x) : Yields (fun r => ∀ t, r = .inl t → ∀ s, memInv s → memInv (t.post s)) (tried x) := by
  intro s h
  have hs := hx s h
  unfold tried
  cases e : x s with
  | ok p => exact ⟨fun _ => nofun, by rw [e] at hs; exact hs.2⟩
  | error e' =>
    rw [e] at hs
    cases e' with
    | trap t => exact ⟨fun _ ht => Sum.inl.inj ht ▸ hs, h⟩
    | wait c f => exact hs

/-- Elements that are tried: a trap that ends them early is one whose kept effects leave the invariant. -/
theorem yields_tryElems {n al : Nat} {plain : Bool} {extra : Nat → Nat} {fn : Nat} (els : List (Nat × Word)) :
    Yields (fun r => ∀ t, r.2 = some t → ∀ s, memInv s → memInv (t.post s)) (tryElems n al plain extra fn els) := by
  induction els with
  | nil => exact yields_pure fun _ => nofun
  | cons e rest ih =>
    refine yields_bind (yields_tried (keeps_bind keeps_checkAddr fun p => keeps_bind keeps_readHere fun _ => keeps_pure)) fun r hr => ?_
    split
    · rename_i t
      exact yields_pure fun _ ht => Option.some.inj ht ▸ hr t rfl
    · exact yields_pure fun _ ht => Option.some.inj ht ▸ fun _ h => memInv_postPoison h
    · exact yields_bind ih fun _ hl => yields_pure hl

theorem keeps_loadElems {els : List (Nat × Word)} {n al : Nat} {plain : Bool} {extra : Nat → Nat} {fn : Nat} : Keeps (loadElems els n al plain extra fn) := by
  refine keeps_bind keeps_behindSbar fun _ => keeps_yields_bind (yields_tryElems els) fun ⟨l, t⟩ ht => ?_
  dsimp only
  split
  · cases t with
    | none => exact keeps_pure
    | some t => exact keeps_trap (ht t rfl)
  · exact keeps_waitWith fun _ => memInv_sendReq

theorem keeps_holdStore {key n v : Nat} : Keeps (holdStore key n v) := by
  refine keeps_getS fun s _ => ?_
  split
  · exact keeps_trap fun _ h => h
  · exact keeps_modS fun _ h => h

theorem keeps_storeHere {nd : Need} {i : Nat} {addr : Word} {p : Place} {n v : Nat} {plain : Bool} : Keeps (storeHere nd i addr p n v plain) := by
  refine keeps_getS fun s _ => ?_
  dsimp only
  split
  · exact keeps_bind keeps_holdStore fun _ => keeps_pure
  · split
    · exact keeps_pure
    · split
      · exact keeps_pure
      · split
        · exact keeps_pure
        · split
          · exact keeps_waitFor
          · exact keeps_trapAt
          · split <;> exact keeps_bind (keeps_modS fun _ h => h) fun _ => keeps_pure

theorem keeps_epilogueTarget {nd : Need} {addr : Word} : Keeps (epilogueTarget nd addr) := by
  refine keeps_getS fun _ _ => keeps_ite ?_ keeps_pure
  split
  · exact keeps_trapAt
  · exact keeps_pure

theorem keeps_checkStore {nd : Need} {addr : Word} {al : Nat} : Keeps (checkStore nd addr al) :=
  keeps_check keeps_epilogueTarget fun _ => keeps_checkAddr

theorem keeps_checkStores {els : List (Nat × Word × Nat)} {al : Nat} {extra : Nat → Nat} : Keeps (checkStores els al extra) :=
  keeps_mapM (fun _ => keeps_bind keeps_checkStore fun _ => keeps_pure) els

theorem keeps_putStores {ps : List ((Nat × Word × Nat) × Place)} {n : Nat} {plain : Bool} {extra : Nat → Nat} : Keeps (putStores ps n plain extra) := by
  refine keeps_bind keeps_behindSbar fun _ => keeps_bind (keeps_mapM (fun _ => keeps_storeHere) ps) fun accs => ?_
  split
  · exact keeps_pure
  · exact keeps_modS fun _ => memInv_sendReq

theorem keeps_storeElems {rel : Exec Unit} {els : List (Nat × Word × Nat)} {n al : Nat} {plain : Bool} {extra : Nat → Nat} (hrel : Keeps rel) :
    Keeps (storeElems rel els n al plain extra) := keeps_bind keeps_checkStores fun _ => keeps_bind hrel fun _ => keeps_putStores

theorem keeps_onceAtHome {x : Exec Reply} (hx : Keeps x) : Keeps (onceAtHome x) := by
  refine keeps_getS fun _ _ => ?_
  split
  · exact keeps_pure
  · exact hx

theorem keeps_atHome {p : Place} {acc : Access} : Keeps (atHome p acc) := by
  refine keeps_ite (keeps_bind keeps_homeReady fun _ => keeps_getS fun _ ht => keeps_getS fun _ _ => ?_) (keeps_waitWith fun _ => memInv_sendReq)
  split
  · rename_i e
    exact keeps_bind (keeps_modS fun _ _ => memInv_of_fst (memInv_performAccess ht) e) fun _ => keeps_pure

theorem keeps_notPoisoned {addr : Word} {fn : Nat} {r : Reply} : Keeps (notPoisoned addr fn r) := by
  unfold notPoisoned
  split
  · exact keeps_trap fun _ => memInv_postPoison
  · exact keeps_pure

end Sys2Proof.Machine
end

section
/-!
SUPPORT for O58. Canonical memory through the model, Operands: operand forms.
-/

namespace Sys2Proof.Machine

open Sys2Proof.Spec

variable {α : Type} {s : State}

theorem memInv_setReg {a k f : Nat} {v : Word} (h : memInv s) : memInv (setReg s a k f v) := h

theorem memInv_setCurReg {f : Nat} {v : Word} (h : memInv s) : memInv (setCurReg s f v) := h

theorem keeps_abortCall {group reason : Nat} : Keeps (abortCall group reason : Exec α) := fun _ _ _ h => h

theorem keeps_owingCall {group : Nat} : Keeps (owingCall group) := by
  refine keeps_getS fun _ _ => ?_
  split
  · exact keeps_ite keeps_pure keeps_abortCall
  · exact keeps_abortCall

theorem keeps_contribute {c : OpenCall} {v : Word} : Keeps (contribute c v) := keeps_modS fun _ => memInv_modCurAgent

theorem keeps_unbound {n : Nat} {wrong : Bool} : Keeps (unbound n wrong : Exec α) := keeps_trapPc

theorem keeps_popPort {n : Nat} : Keeps (popPort n) := by
  refine keeps_getS fun s _ => keeps_check keeps_unbound fun _ => ?_
  split
  · exact keeps_waitFor
  · refine keeps_bind (keeps_modS fun _ h => h) fun _ => ?_
    split
    · exact keeps_bind keeps_acquire fun _ => keeps_pure
    · exact keeps_pure

theorem keeps_readReg {f : Reg} : Keeps (readReg f) := keeps_ite keeps_reads keeps_popPort

theorem memInv_bufferEls {es : List SendEl} (h : memInv s) : memInv (bufferEls es s) := h

theorem keeps_destTile {v : Word} : Keeps (destTile v) := by
  refine keeps_check keeps_trapAt fun _ => keeps_bind keeps_resolveName fun _ => ?_
  split
  · exact keeps_pure
  · exact keeps_trapAt

theorem keeps_checkDst {f : Reg} : Keeps (checkDst f) := by
  unfold checkDst
  dsimp only
  refine keeps_ite keeps_pure (keeps_getS fun _ _ => ?_)
  split
  · exact keeps_bind keeps_destTile fun _ => keeps_getS fun _ _ => keeps_ite keeps_waitFor keeps_pure
  · exact keeps_bind keeps_owingCall fun _ => keeps_pure
  · exact keeps_unbound

theorem keeps_writeReg {f : Reg} {v : Word} : Keeps (writeReg f v) := by
  unfold writeReg
  dsimp only
  refine keeps_ite (keeps_modS fun _ => memInv_setCurReg) (keeps_getS fun _ _ => ?_)
  split
  · exact keeps_bind keeps_destTile fun _ => keeps_modS fun _ => memInv_bufferEls
  · exact keeps_bind keeps_owingCall fun _ => keeps_contribute
  · exact keeps_unbound

theorem keeps_scalar {g : Guard} {dsts : List Reg} {x : Exec Ctl} (hx : Keeps x) : Keeps (scalar g dsts x) := by
  refine keeps_getS fun s _ => ?_
  split
  · exact keeps_pure
  · exact keeps_bind (keeps_forM (fun _ => keeps_checkDst) dsts) fun _ => hx

theorem keeps_baseOf {f : Reg} : Keeps (baseOf f) := keeps_ite keeps_pure keeps_readReg

theorem keeps_effectiveAddress {m : MemOp} : Keeps (effectiveAddress m) := keeps_bind keeps_baseOf fun _ => keeps_bind keeps_baseOf fun _ => keeps_pure

theorem keeps_raisePosted {cls : Nat} : Keeps (raisePosted cls) := by
  refine keeps_getS fun s _ => ?_
  dsimp only
  split
  · exact keeps_pure
  · split
    · exact keeps_pure
    · exact keeps_trap fun _ h => h

theorem keeps_engine {g : Guard} {cls : Nat} {dsts : List Reg} {x : Exec Ctl} (hx : Keeps x) : Keeps (engine g cls dsts x) := by
  refine keeps_getS fun s _ => ?_
  split
  · exact keeps_pure
  · exact keeps_bind keeps_raisePosted fun _ => keeps_bind (keeps_forM (fun _ => keeps_checkDst) dsts) fun _ => hx

theorem keeps_until' {c : WaitCause} {p : State → Bool} : Keeps (until' c p) := keeps_getS fun _ _ => keeps_ite keeps_pure keeps_waitFor

end Sys2Proof.Machine
end

section
/-!
SUPPORT for O58. Canonical memory through the model, EngineOps: what the engines share.
-/

namespace Sys2Proof.Machine

open Sys2Proof.Spec

variable {s : State}

theorem memInv_postFault {a k : Nat} {p : Posted} {gone : State → State} (h : memInv s) (hgone : ∀ s, memInv s → memInv (gone s)) :
    memInv (postFault s a k p gone) := by
  unfold postFault
  dsimp only
  split
  · exact h
  · exact memInv_modStrand (memInv_failStrand h)
  · exact hgone s h
  · exact memInv_modStrand h

theorem memInv_postEngine {a k info : Nat} {addr : Word} (h : memInv s) : memInv (postEngine s a k info addr) :=
  memInv_postFault h fun _ => memInv_failStrand

theorem memInv_poisonCommand {a k unit key fn : Nat} (h : memInv s) : memInv (poisonCommand s a k unit key fn) := memInv_failStrand (memInv_postPoison h)

theorem memInv_settle {a k : Nat} (h : memInv s) : memInv (settle s a k) := memInv_ite (memInv_setStrand h) h

theorem memInv_sendFrame {t : Tag} {dst kind : Nat} {body : List Byte} (h : memInv s) : memInv (sendFrame s t dst kind body) := by
  refine memInv_ite h ?_
  split
  · exact h
  · exact h

theorem memInv_engineBar {a : Nat} {tag : Option Tag} {w : Word} {arrive : Bool} {dbytes : Int} (h : memInv s) :
    memInv (engineBar s a tag w arrive dbytes).1 := by
  unfold engineBar
  split
  · exact h
  · split
    · exact h
    · dsimp only
      split
      · exact memInv_setMem h (wf_barUpdate _ _ _ h.1)
      · exact h

end Sys2Proof.Machine
end

section
/-!
SUPPORT for O58. Canonical memory through the model, Flags: floating-point flags and draws.
-/

namespace Sys2Proof.Machine

open Sys2Proof.Spec

variable {s : State}

theorem keeps_drawFor {mode : Nat} : Keeps (drawFor mode) := keeps_ite (keeps_bind (keeps_modS fun _ => memInv_modCur) fun _ => keeps_reads) keeps_pure

theorem keeps_raiseFlags {fl : BitVec 5} {elem : Nat} : Keeps (raiseFlags fl elem) := by
  refine keeps_getS fun s _ => ?_
  dsimp only
  split
  · exact keeps_trap fun _ h => h
  · exact keeps_modS fun _ h => h

end Sys2Proof.Machine
end

section
/-!
SUPPORT for O58. Canonical memory through the model, Integer: integer, address and constant instructions.
-/

namespace Sys2Proof.Machine

open Sys2Proof.Spec

variable {s : State}

theorem nextInv_alu2 {fn : Nat} {g : Guard} {d a b : Reg} {w u : BitVec 1} (h : memInv s) : nextInv (alu2 fn g d a b w u s) :=
  nextInv_runWord h (keeps_scalar (keeps_bind keeps_readReg fun _ => keeps_bind keeps_readReg fun _ => keeps_bind keeps_writeReg fun _ => keeps_pure))

theorem nextInv_alu1 {f : Nat → Nat → Nat} {g : Guard} {d a : Reg} {w u : BitVec 1} (h : memInv s) : nextInv (alu1 f g d a w u s) :=
  nextInv_runWord h (keeps_scalar (keeps_bind keeps_readReg fun _ => keeps_bind keeps_writeReg fun _ => keeps_pure))

theorem nextInv_aluImm {fn : Nat} {g : Guard} {d a : Reg} {b : Word} (h : memInv s) : nextInv (aluImm fn g d a b s) :=
  nextInv_runWord h (keeps_scalar (keeps_bind keeps_readReg fun _ => keeps_bind keeps_writeReg fun _ => keeps_pure))

theorem nextInv_put {g : Guard} {d : Reg} {x : Exec Word} (hx : Keeps x) (h : memInv s) : nextInv (put g d x s) :=
  nextInv_runWord h (keeps_scalar (keeps_bind hx fun _ => keeps_bind keeps_writeReg fun _ => keeps_pure))

theorem nextInv_execAdd {g : Guard} {d a b : Reg} {w u : BitVec 1} (h : memInv s) : nextInv (execAdd g d a b w u s) := nextInv_alu2 h

theorem nextInv_execSub {g : Guard} {d a b : Reg} {w u : BitVec 1} (h : memInv s) : nextInv (execSub g d a b w u s) := nextInv_alu2 h

theorem nextInv_execMul {g : Guard} {d a b : Reg} {w u : BitVec 1} (h : memInv s) : nextInv (execMul g d a b w u s) := nextInv_alu2 h

theorem nextInv_execMulh {g : Guard} {d a b : Reg} {w u : BitVec 1} (h : memInv s) : nextInv (execMulh g d a b w u s) := nextInv_alu2 h

theorem nextInv_execDiv {g : Guard} {d a b : Reg} {w u : BitVec 1} (h : memInv s) : nextInv (execDiv g d a b w u s) := nextInv_alu2 h

theorem nextInv_execRem {g : Guard} {d a b : Reg} {w u : BitVec 1} (h : memInv s) : nextInv (execRem g d a b w u s) := nextInv_alu2 h

theorem nextInv_execAnd {g : Guard} {d a b : Reg} {w u : BitVec 1} (h : memInv s) : nextInv (execAnd g d a b w u s) := nextInv_alu2 h

theorem nextInv_execOr {g : Guard} {d a b : Reg} {w u : BitVec 1} (h : memInv s) : nextInv (execOr g d a b w u s) := nextInv_alu2 h

theorem nextInv_execXor {g : Guard} {d a b : Reg} {w u : BitVec 1} (h : memInv s) : nextInv (execXor g d a b w u s) := nextInv_alu2 h

theorem nextInv_execAndn {g : Guard} {d a b : Reg} {w u : BitVec 1} (h : memInv s) : nextInv (execAndn g d a b w u s) := nextInv_alu2 h

theorem nextInv_execShl {g : Guard} {d a b : Reg} {w u : BitVec 1} (h : memInv s) : nextInv (execShl g d a b w u s) := nextInv_alu2 h

theorem nextInv_execShr {g : Guard} {d a b : Reg} {w u : BitVec 1} (h : memInv s) : nextInv (execShr g d a b w u s) := nextInv_alu2 h

theorem nextInv_execSar {g : Guard} {d a b : Reg} {w u : BitVec 1} (h : memInv s) : nextInv (execSar g d a b w u s) := nextInv_alu2 h

theorem nextInv_execRot {g : Guard} {d a b : Reg} {w u : BitVec 1} (h : memInv s) : nextInv (execRot g d a b w u s) := nextInv_alu2 h

theorem nextInv_execMin {g : Guard} {d a b : Reg} {w u : BitVec 1} (h : memInv s) : nextInv (execMin g d a b w u s) := nextInv_alu2 h

theorem nextInv_execMax {g : Guard} {d a b : Reg} {w u : BitVec 1} (h : memInv s) : nextInv (execMax g d a b w u s) := nextInv_alu2 h

theorem nextInv_execClz {g : Guard} {d a : Reg} {w u : BitVec 1} (h : memInv s) : nextInv (execClz g d a w u s) := nextInv_alu1 h

theorem nextInv_execCtz {g : Guard} {d a : Reg} {w u : BitVec 1} (h : memInv s) : nextInv (execCtz g d a w u s) := nextInv_alu1 h

theorem nextInv_execPopc {g : Guard} {d a : Reg} {w u : BitVec 1} (h : memInv s) : nextInv (execPopc g d a w u s) := nextInv_alu1 h

theorem nextInv_execBswap {g : Guard} {d a : Reg} {w u : BitVec 1} (h : memInv s) : nextInv (execBswap g d a w u s) := nextInv_alu1 h

theorem nextInv_execExt {g : Guard} {d a : Reg} {len : BitVec 6} {u : BitVec 1} (h : memInv s) : nextInv (execExt g d a len u s) :=
  nextInv_put (keeps_bind keeps_readReg fun _ => keeps_pure) h

theorem nextInv_execBfx {g : Guard} {d a : Reg} {pos len : BitVec 6} {u : BitVec 1} (h : memInv s) : nextInv (execBfx g d a pos len u s) :=
  nextInv_put (keeps_bind keeps_readReg fun _ => keeps_pure) h

theorem nextInv_execBfi {g : Guard} {d a b : Reg} {pos len : BitVec 6} (h : memInv s) : nextInv (execBfi g d a b pos len s) :=
  nextInv_put (keeps_bind keeps_readReg fun _ => keeps_bind keeps_readReg fun _ => keeps_pure) h

theorem nextInv_execSel {g : Guard} {d a b c : Reg} (h : memInv s) : nextInv (execSel g d a b c s) :=
  nextInv_put (keeps_bind keeps_readReg fun _ => keeps_bind keeps_readReg fun _ => keeps_bind keeps_readReg fun _ => keeps_pure) h

theorem nextInv_execMov {g : Guard} {d a : Reg} (h : memInv s) : nextInv (execMov g d a s) := nextInv_put keeps_readReg h

theorem nextInv_execCmp {g : Guard} {pd : PReg} {a b : Reg} {cond : BitVec 4} {w : BitVec 1} (h : memInv s) : nextInv (execCmp g pd a b cond w s) :=
  nextInv_runWord h (keeps_scalar (keeps_bind keeps_readReg fun _ => keeps_bind keeps_readReg fun _ => keeps_bind (keeps_modS fun _ => memInv_modCur) fun _
    => keeps_pure))

theorem nextInv_execLea {g : Guard} {d a b : Reg} {pos : BitVec 2} (h : memInv s) : nextInv (execLea g d a b pos s) :=
  nextInv_put (keeps_bind keeps_readReg fun _ => keeps_bind keeps_readReg fun _ => keeps_pure) h

theorem nextInv_execAddImm {g : Guard} {d a : Reg} {imm : BitVec 34} (h : memInv s) : nextInv (execAddImm g d a imm s) := nextInv_aluImm h

theorem nextInv_execSubImm {g : Guard} {d a : Reg} {imm : BitVec 34} (h : memInv s) : nextInv (execSubImm g d a imm s) := nextInv_aluImm h

theorem nextInv_execMulImm {g : Guard} {d a : Reg} {imm : BitVec 34} (h : memInv s) : nextInv (execMulImm g d a imm s) := nextInv_aluImm h

theorem nextInv_execMulhImm {g : Guard} {d a : Reg} {imm : BitVec 34} (h : memInv s) : nextInv (execMulhImm g d a imm s) := nextInv_aluImm h

theorem nextInv_execDivImm {g : Guard} {d a : Reg} {imm : BitVec 34} (h : memInv s) : nextInv (execDivImm g d a imm s) := nextInv_aluImm h

theorem nextInv_execRemImm {g : Guard} {d a : Reg} {imm : BitVec 34} (h : memInv s) : nextInv (execRemImm g d a imm s) := nextInv_aluImm h

theorem nextInv_execAndImm {g : Guard} {d a : Reg} {imm : BitVec 34} (h : memInv s) : nextInv (execAndImm g d a imm s) := nextInv_aluImm h

theorem nextInv_execOrImm {g : Guard} {d a : Reg} {imm : BitVec 34} (h : memInv s) : nextInv (execOrImm g d a imm s) := nextInv_aluImm h

theorem nextInv_execXorImm {g : Guard} {d a : Reg} {imm : BitVec 34} (h : memInv s) : nextInv (execXorImm g d a imm s) := nextInv_aluImm h

theorem nextInv_execAndnImm {g : Guard} {d a : Reg} {imm : BitVec 34} (h : memInv s) : nextInv (execAndnImm g d a imm s) := nextInv_aluImm h

theorem nextInv_execShlImm {g : Guard} {d a : Reg} {n : BitVec 6} (h : memInv s) : nextInv (execShlImm g d a n s) := nextInv_aluImm h

theorem nextInv_execShrImm {g : Guard} {d a : Reg} {n : BitVec 6} (h : memInv s) : nextInv (execShrImm g d a n s) := nextInv_aluImm h

theorem nextInv_execSarImm {g : Guard} {d a : Reg} {n : BitVec 6} (h : memInv s) : nextInv (execSarImm g d a n s) := nextInv_aluImm h

theorem nextInv_execRotImm {g : Guard} {d a : Reg} {n : BitVec 6} (h : memInv s) : nextInv (execRotImm g d a n s) := nextInv_aluImm h

theorem nextInv_execMinImm {g : Guard} {d a : Reg} {imm : BitVec 34} (h : memInv s) : nextInv (execMinImm g d a imm s) := nextInv_aluImm h

theorem nextInv_execMaxImm {g : Guard} {d a : Reg} {imm : BitVec 34} (h : memInv s) : nextInv (execMaxImm g d a imm s) := nextInv_aluImm h

theorem nextInv_execCmpImm {g : Guard} {pd : PReg} {a : Reg} {cond : BitVec 4} {imm : BitVec 30} (h : memInv s) : nextInv (execCmpImm g pd a cond imm s) :=
  nextInv_runWord h (keeps_scalar (keeps_bind keeps_readReg fun _ => keeps_bind (keeps_modS fun _ => memInv_modCur) fun _ => keeps_pure))

theorem nextInv_execLeaImm {g : Guard} {d a : Reg} {imm : BitVec 34} (h : memInv s) : nextInv (execLeaImm g d a imm s) :=
  nextInv_put (keeps_bind keeps_readReg fun _ => keeps_pure) h

theorem nextInv_execMovi {g : Guard} {d : Reg} {imm : BitVec 34} (h : memInv s) : nextInv (execMovi g d imm s) := nextInv_put (keeps_pure) h

theorem nextInv_execMovhi {g : Guard} {d a : Reg} {imm : BitVec 30} (h : memInv s) : nextInv (execMovhi g d a imm s) :=
  nextInv_put (keeps_bind keeps_readReg fun _ => keeps_pure) h

end Sys2Proof.Machine
end

section
/-!
SUPPORT for O58. Canonical memory through the model, Memory: loads, stores, atomics, FENCE and SBAR.
-/

namespace Sys2Proof.Machine

open Sys2Proof.Spec

variable {α : Type} {s : State}

theorem keeps_acquireIf {b : Bool} {scope : BitVec 2} : Keeps (acquireIf b scope) := keeps_ite keeps_acquire keeps_pure

theorem keeps_releaseIf {b : Bool} {scope : BitVec 2} : Keeps (releaseIf b scope) := keeps_ite keeps_release keeps_pure

theorem nextInv_execLd {g : Guard} {t : Reg} {size : BitVec 3} {o : Ord} {m : MemOp} (h : memInv s) : nextInv (execLd g t size o m s) :=
  nextInv_runWord h (keeps_scalar (keeps_bind keeps_effectiveAddress fun _ => keeps_bind keeps_loadElems fun _ => keeps_bind keeps_acquireIf fun _ =>
    keeps_bind keeps_writeReg fun _ => keeps_pure))

theorem nextInv_execSt {g : Guard} {t : Reg} {size : BitVec 3} {o : Ord} {m : MemOp} (h : memInv s) : nextInv (execSt g t size o m s) :=
  nextInv_runWord h (keeps_scalar (keeps_bind keeps_effectiveAddress fun _ => keeps_bind keeps_readReg fun _ => keeps_bind (keeps_storeElems
    keeps_releaseIf) fun _ => keeps_pure))

theorem keeps_pairAligned {addr : Word} : Keeps (pairAligned addr) := keeps_ite keeps_trapAt keeps_pure

theorem keeps_namingPair {addr : Word} {x : Exec α} (hx : Keeps x) : Keeps (namingPair addr x) := by
  intro s h
  have hs := hx s h
  unfold namingPair
  cases e : x s with
  | ok p => rwa [e] at hs
  | error e' =>
    rw [e] at hs
    cases e' <;> exact hs

theorem nextInv_execLdp {g : Guard} {t : Reg} {o : Ord} {m : MemOp} (h : memInv s) : nextInv (execLdp g t o m s) :=
  nextInv_runWord h (keeps_scalar (keeps_bind keeps_effectiveAddress fun _ => keeps_bind keeps_pairAligned fun _ => keeps_bind (keeps_namingPair
    keeps_loadElems) fun _ => keeps_bind keeps_acquireIf fun _ => keeps_bind (keeps_modS fun _ ht => memInv_setCurReg (memInv_setCurReg ht)) fun _ =>
    keeps_pure))

theorem nextInv_execStp {g : Guard} {t : Reg} {o : Ord} {m : MemOp} (h : memInv s) : nextInv (execStp g t o m s) :=
  nextInv_runWord h (keeps_scalar (keeps_bind keeps_effectiveAddress fun _ => keeps_bind keeps_pairAligned fun _ => keeps_getS fun _ _ => keeps_bind
    (keeps_namingPair keeps_checkStores) fun _ => keeps_bind keeps_releaseIf fun _ => keeps_bind (keeps_namingPair keeps_putStores) fun _ => keeps_pure))

theorem keeps_atomicAtHome {f n : Nat} {size : BitVec 3} {o : Ord} {addr src exp : Word} {uns : Bool} : Keeps (onceAtHome (do
    let p ← checkAddr needAtomic addr n
    releaseIf (o.ord = 2 ∨ o.ord = 3) o.scope
    behindSbar
    atHome p ⟨p.key, n, .amo f size uns, src, exp, 0⟩)) :=
  keeps_onceAtHome (keeps_bind keeps_checkAddr fun _ => keeps_bind keeps_releaseIf fun _ => keeps_bind keeps_behindSbar fun _ => keeps_atHome)

theorem nextInv_atomic {f : Nat} {g : Guard} {t base idx : Reg} {size : BitVec 3} {o : Ord} {disp : BitVec 18} {uns : Bool} (h : memInv s) :
    nextInv (atomic f g t base idx size o disp uns s) := by
  have hrest : ∀ addr src exp : Word, Keeps (do
      let r ← onceAtHome (do
        let p ← checkAddr needAtomic addr (sizeBytes size)
        releaseIf (o.ord = 2 ∨ o.ord = 3) o.scope
        behindSbar
        atHome p ⟨p.key, sizeBytes size, .amo f size uns, src, exp, 0⟩)
      notPoisoned addr f r
      acquireIf (o.ord = 1 ∨ o.ord = 3) o.scope
      writeReg t (loadExtend size r.val.toNat)
      return Ctl.next) := fun addr src exp =>
    keeps_bind keeps_atomicAtHome fun _ => keeps_bind keeps_notPoisoned fun _ => keeps_bind keeps_acquireIf fun _ => keeps_bind keeps_writeReg fun _ => keeps_pure
  refine nextInv_runWord h (keeps_scalar (keeps_bind keeps_baseOf fun b => keeps_bind keeps_readReg fun src => ?_))
  dsimp only
  split
  · exact keeps_bind keeps_readReg fun exp => hrest _ src exp
  · exact keeps_bind keeps_pure fun exp => hrest _ src exp

theorem nextInv_execAmoadd {g : Guard} {t base idx : Reg} {size : BitVec 3} {o : Ord} {disp : BitVec 18} (h : memInv s) :
    nextInv (execAmoadd g t base idx size o disp s) := nextInv_atomic h

theorem nextInv_execAmomin {g : Guard} {t base idx : Reg} {uns : BitVec 1} {size : BitVec 3} {o : Ord} {disp : BitVec 18} (h : memInv s) :
    nextInv (execAmomin g t base idx uns size o disp s) := nextInv_atomic h

theorem nextInv_execAmomax {g : Guard} {t base idx : Reg} {uns : BitVec 1} {size : BitVec 3} {o : Ord} {disp : BitVec 18} (h : memInv s) :
    nextInv (execAmomax g t base idx uns size o disp s) := nextInv_atomic h

theorem nextInv_execAmoand {g : Guard} {t base idx : Reg} {size : BitVec 3} {o : Ord} {disp : BitVec 18} (h : memInv s) :
    nextInv (execAmoand g t base idx size o disp s) := nextInv_atomic h

theorem nextInv_execAmoor {g : Guard} {t base idx : Reg} {size : BitVec 3} {o : Ord} {disp : BitVec 18} (h : memInv s) :
    nextInv (execAmoor g t base idx size o disp s) := nextInv_atomic h

theorem nextInv_execAmoxor {g : Guard} {t base idx : Reg} {size : BitVec 3} {o : Ord} {disp : BitVec 18} (h : memInv s) :
    nextInv (execAmoxor g t base idx size o disp s) := nextInv_atomic h

theorem nextInv_execAmoswp {g : Guard} {t base idx : Reg} {size : BitVec 3} {o : Ord} {disp : BitVec 18} (h : memInv s) :
    nextInv (execAmoswp g t base idx size o disp s) := nextInv_atomic h

theorem nextInv_execAmocas {g : Guard} {t base idx : Reg} {size : BitVec 3} {o : Ord} {disp : BitVec 18} (h : memInv s) :
    nextInv (execAmocas g t base idx size o disp s) := nextInv_atomic h

theorem nextInv_execAmofadd {g : Guard} {t base idx : Reg} {o : Ord} {disp : BitVec 18} (h : memInv s) : nextInv (execAmofadd g t base idx o disp s) :=
  nextInv_atomic h

theorem nextInv_execFence {g : Guard} {o : Ord} (h : memInv s) : nextInv (execFence g o s) :=
  nextInv_runWord h (keeps_scalar (keeps_bind keeps_releaseIf fun _ => keeps_bind keeps_acquireIf fun _ => keeps_check (keeps_modS fun _ =>
    memInv_modCurAgent) fun _ => keeps_pure))

theorem nextInv_execSbar {g : Guard} {mask : BitVec 18} (h : memInv s) : nextInv (execSbar g mask s) :=
  nextInv_runWord h (keeps_scalar (keeps_bind (keeps_modS fun _ => memInv_modCur) fun _ => keeps_pure))

end Sys2Proof.Machine
end

section
/-!
SUPPORT for O58. Canonical memory through the model, ScalarFp: scalar FP32, predicates and indexed registers.
-/

namespace Sys2Proof.Machine

open Sys2Proof.Spec

variable {s : State}

theorem nextInv_fpRound {g : Guard} {d : Reg} {rm : BitVec 3} {x : Nat → Exec Exact} (hx : ∀ a, Keeps (x a)) (h : memInv s) : nextInv (fpRound g d rm x s) :=
  nextInv_runWord h (keeps_scalar (keeps_bind keeps_reads fun _ => keeps_bind (hx _) fun _ => keeps_bind keeps_drawFor fun _ =>
    keeps_bind keeps_raiseFlags fun _ => keeps_bind keeps_writeReg fun _ => keeps_pure))

theorem keeps_fpTwo {a b : Reg} {f : Num → Num → Exact} : Keeps (fpTwo a b f) :=
  keeps_bind keeps_readReg fun _ => keeps_bind keeps_readReg fun _ => keeps_pure

theorem nextInv_execFadd {g : Guard} {d a b : Reg} {rm : BitVec 3} (h : memInv s) : nextInv (execFadd g d a b rm s) :=
  nextInv_fpRound (fun _ => keeps_fpTwo) h

theorem nextInv_execFsub {g : Guard} {d a b : Reg} {rm : BitVec 3} (h : memInv s) : nextInv (execFsub g d a b rm s) :=
  nextInv_fpRound (fun _ => keeps_fpTwo) h

theorem nextInv_execFmul {g : Guard} {d a b : Reg} {rm : BitVec 3} (h : memInv s) : nextInv (execFmul g d a b rm s) :=
  nextInv_fpRound (fun _ => keeps_fpTwo) h

theorem nextInv_execFfma {g : Guard} {d a b c : Reg} {rm : BitVec 3} (h : memInv s) : nextInv (execFfma g d a b c rm s) :=
  nextInv_fpRound (fun _ => keeps_bind keeps_readReg fun _ => keeps_bind keeps_readReg fun _ => keeps_bind keeps_readReg fun _ => keeps_pure) h

theorem nextInv_execFdiv {g : Guard} {d a b : Reg} {rm : BitVec 3} (h : memInv s) : nextInv (execFdiv g d a b rm s) :=
  nextInv_fpRound (fun _ => keeps_fpTwo) h

theorem nextInv_execFsqrt {g : Guard} {d a : Reg} {rm : BitVec 3} (h : memInv s) : nextInv (execFsqrt g d a rm s) :=
  nextInv_fpRound (fun _ => keeps_bind keeps_readReg fun _ => keeps_pure) h

theorem nextInv_fpSelect {g : Guard} {d a b : Reg} {f : Num → Num → Exact} (h : memInv s) : nextInv (fpSelect g d a b f s) := by
  refine nextInv_runWord h (keeps_scalar (keeps_bind keeps_fpTwo fun _ => ?_))
  split
  · exact keeps_bind keeps_raiseFlags fun _ => keeps_bind keeps_writeReg fun _ => keeps_pure

theorem nextInv_execFmin {g : Guard} {d a b : Reg} (h : memInv s) : nextInv (execFmin g d a b s) := nextInv_fpSelect h

theorem nextInv_execFmax {g : Guard} {d a b : Reg} (h : memInv s) : nextInv (execFmax g d a b s) := nextInv_fpSelect h

theorem nextInv_execFcmp {g : Guard} {pd : PReg} {a b : Reg} {cond : BitVec 4} (h : memInv s) : nextInv (execFcmp g pd a b cond s) :=
  nextInv_runWord h (keeps_scalar (keeps_bind keeps_readReg fun _ => keeps_bind keeps_readReg fun _ => keeps_bind keeps_raiseFlags fun _ => keeps_bind
    (keeps_modS fun _ => memInv_modCur) fun _ => keeps_pure))

theorem nextInv_execFcvt {g : Guard} {d a : Reg} {rm : BitVec 3} {sat : BitVec 1} {dt st : BitVec 4} {w64 : BitVec 1} (h : memInv s) :
    nextInv (execFcvt g d a rm sat dt st w64 s) := by
  refine nextInv_runWord h (keeps_scalar (keeps_bind keeps_reads fun _ => keeps_bind keeps_readReg fun _ => ?_))
  split
  · exact keeps_bind keeps_drawFor fun _ => keeps_bind keeps_raiseFlags fun _ => keeps_bind keeps_writeReg fun _ => keeps_pure
  · exact keeps_bind keeps_pure fun _ => keeps_bind keeps_raiseFlags fun _ => keeps_bind keeps_writeReg fun _ => keeps_pure

theorem nextInv_execFclass {g : Guard} {d a : Reg} (h : memInv s) : nextInv (execFclass g d a s) :=
  nextInv_put (keeps_bind keeps_readReg fun _ => keeps_pure) h

theorem nextInv_putPred {g : Guard} {pd : PReg} {x : Exec Nat} (hx : Keeps x) (h : memInv s) : nextInv (putPred g pd x s) :=
  nextInv_runWord h (keeps_scalar (keeps_bind hx fun _ => keeps_bind (keeps_modS fun _ => memInv_modCur) fun _ => keeps_pure))

theorem nextInv_execPset {g : Guard} {pd : PReg} {count : BitVec 7} (h : memInv s) : nextInv (execPset g pd count s) := nextInv_putPred (keeps_pure) h

theorem nextInv_execPlim {g : Guard} {pd : PReg} {a b : Reg} (h : memInv s) : nextInv (execPlim g pd a b s) :=
  nextInv_putPred (keeps_bind keeps_readReg fun _ => keeps_bind keeps_readReg fun _ => keeps_pure) h

theorem nextInv_execPmin {g : Guard} {pd pa pb : PReg} (h : memInv s) : nextInv (execPmin g pd pa pb s) := nextInv_putPred keeps_reads h

theorem nextInv_execPmax {g : Guard} {pd pa pb : PReg} (h : memInv s) : nextInv (execPmax g pd pa pb s) := nextInv_putPred keeps_reads h

theorem nextInv_execPrd {g : Guard} {d : Reg} {pa : PReg} (h : memInv s) : nextInv (execPrd g d pa s) := nextInv_put keeps_reads h

theorem keeps_indexed {wr : Bool} {a : Word} {imm : BitVec 34} : Keeps (indexed wr a imm) :=
  keeps_getS fun _ _ => keeps_check keeps_trapAt fun _ => keeps_pure

theorem nextInv_execGrd {g : Guard} {d a : Reg} {imm : BitVec 34} (h : memInv s) : nextInv (execGrd g d a imm s) :=
  nextInv_put (keeps_bind keeps_readReg fun _ => keeps_bind keeps_indexed fun _ => keeps_reads) h

theorem nextInv_execGwr {g : Guard} {d a : Reg} {imm : BitVec 34} (h : memInv s) : nextInv (execGwr g d a imm s) :=
  nextInv_runWord h (keeps_scalar (keeps_bind keeps_readReg fun _ => keeps_bind keeps_readReg fun _ => keeps_bind keeps_indexed fun _ => keeps_bind
    (keeps_modS fun _ => memInv_setCurReg) fun _ => keeps_pure))

end Sys2Proof.Machine
end

section
/-!
SUPPORT for O58. Canonical memory through the model, Vector: the vector column.
-/

namespace Sys2Proof.Machine

open Sys2Proof.Spec

variable {s : State}

theorem keeps_writeElems {vd : VReg} {w : Nat} {rs : List (Nat × Nat)} : Keeps (writeElems vd w rs) := keeps_modS fun _ => memInv_modCur

theorem keeps_deliver {vd : VReg} {w off : Nat} {rs : List (Nat × Nat × BitVec 5)} {at' : Option Nat} : Keeps (deliver vd w off rs at') :=
  keeps_bind keeps_reads fun _ => keeps_bind keeps_raiseFlags fun _ => keeps_writeElems

theorem nextInv_elementwise {g : Guard} {vd : VReg} {w n off : Nat} {rm : BitVec 3} {draws : Bool} {f : Strand → Nat → Nat → Nat → Nat × BitVec 5}
    (h : memInv s) : nextInv (elementwise g vd w n off rm draws f s) := by
  refine nextInv_runWord h (keeps_bind keeps_reads fun t => keeps_bind (keeps_mapM (fun e => ?_) _) fun rs => keeps_bind keeps_deliver fun _ => keeps_pure)
  split
  · exact keeps_bind keeps_drawFor fun _ => keeps_pure
  · exact keeps_pure

theorem nextInv_arith {g : Guard} {vd va vb vc : VReg} {et : BitVec 4} {rm : BitVec 3} {sat : BitVec 1} {fl : Nat → Num → Num → Num → Exact} {it : Int → Int → Int → Int} (h : memInv s) :
    nextInv (arith g vd va vb vc et rm sat fl it s) := nextInv_elementwise h

theorem nextInv_pick {g : Guard} {vd va vb vc : VReg} {et : BitVec 4} {fl : Num → Num → Num → Exact} {it : Int → Int → Int → Int} (h : memInv s) :
    nextInv (pick g vd va vb vc et fl it s) := nextInv_elementwise h

theorem nextInv_signOp {g : Guard} {vd va : VReg} {et : BitVec 4} {sat : BitVec 1} {fl : Num → Num} {it : Int → Int} (h : memInv s) :
    nextInv (signOp g vd va et sat fl it s) := nextInv_elementwise h

theorem nextInv_execVadd {g : Guard} {vd va vb : VReg} {et : BitVec 4} {rm : BitVec 3} {sat : BitVec 1} (h : memInv s) :
    nextInv (execVadd g vd va vb et rm sat s) := nextInv_arith h

theorem nextInv_execVsub {g : Guard} {vd va vb : VReg} {et : BitVec 4} {rm : BitVec 3} {sat : BitVec 1} (h : memInv s) :
    nextInv (execVsub g vd va vb et rm sat s) := nextInv_arith h

theorem nextInv_execVmul {g : Guard} {vd va vb : VReg} {et : BitVec 4} {rm : BitVec 3} {sat : BitVec 1} (h : memInv s) :
    nextInv (execVmul g vd va vb et rm sat s) := nextInv_arith h

theorem nextInv_execVfma {g : Guard} {vd va vb vc : VReg} {et : BitVec 4} {rm : BitVec 3} {sat : BitVec 1} (h : memInv s) :
    nextInv (execVfma g vd va vb vc et rm sat s) := nextInv_arith h

theorem nextInv_execVfms {g : Guard} {vd va vb vc : VReg} {et : BitVec 4} {rm : BitVec 3} {sat : BitVec 1} (h : memInv s) :
    nextInv (execVfms g vd va vb vc et rm sat s) := nextInv_arith h

theorem nextInv_execVmin {g : Guard} {vd va vb : VReg} {et : BitVec 4} (h : memInv s) : nextInv (execVmin g vd va vb et s) := nextInv_pick h

theorem nextInv_execVmax {g : Guard} {vd va vb : VReg} {et : BitVec 4} (h : memInv s) : nextInv (execVmax g vd va vb et s) := nextInv_pick h

theorem nextInv_execVabs {g : Guard} {vd va : VReg} {et : BitVec 4} {sat : BitVec 1} (h : memInv s) : nextInv (execVabs g vd va et sat s) :=
  nextInv_signOp h

theorem nextInv_execVneg {g : Guard} {vd va : VReg} {et : BitVec 4} {sat : BitVec 1} (h : memInv s) : nextInv (execVneg g vd va et sat s) :=
  nextInv_signOp h

theorem nextInv_execVclamp {g : Guard} {vd va vb vc : VReg} {et : BitVec 4} (h : memInv s) : nextInv (execVclamp g vd va vb vc et s) := nextInv_pick h

theorem nextInv_special {g : Guard} {vd va : VReg} {et : BitVec 4} {rm : BitVec 3} {f : Num → Exact} (h : memInv s) : nextInv (special g vd va et rm f s) :=
  nextInv_elementwise h

theorem nextInv_execVexp2 {g : Guard} {vd va : VReg} {et : BitVec 4} {rm : BitVec 3} (h : memInv s) : nextInv (execVexp2 g vd va et rm s) :=
  nextInv_special h

theorem nextInv_execVlog2 {g : Guard} {vd va : VReg} {et : BitVec 4} {rm : BitVec 3} (h : memInv s) : nextInv (execVlog2 g vd va et rm s) :=
  nextInv_special h

theorem nextInv_execVrcp {g : Guard} {vd va : VReg} {et : BitVec 4} {rm : BitVec 3} (h : memInv s) : nextInv (execVrcp g vd va et rm s) :=
  nextInv_special h

theorem nextInv_execVrsq {g : Guard} {vd va : VReg} {et : BitVec 4} {rm : BitVec 3} (h : memInv s) : nextInv (execVrsq g vd va et rm s) :=
  nextInv_special h

theorem nextInv_execVtanh {g : Guard} {vd va : VReg} {et : BitVec 4} {rm : BitVec 3} (h : memInv s) : nextInv (execVtanh g vd va et rm s) :=
  nextInv_special h

theorem nextInv_execVerf {g : Guard} {vd va : VReg} {et : BitVec 4} {rm : BitVec 3} (h : memInv s) : nextInv (execVerf g vd va et rm s) :=
  nextInv_special h

theorem nextInv_execVand {g : Guard} {vd va vb : VReg} {et : BitVec 4} (h : memInv s) : nextInv (execVand g vd va vb et s) := h

theorem nextInv_execVor {g : Guard} {vd va vb : VReg} {et : BitVec 4} (h : memInv s) : nextInv (execVor g vd va vb et s) := h

theorem nextInv_execVxor {g : Guard} {vd va vb : VReg} {et : BitVec 4} (h : memInv s) : nextInv (execVxor g vd va vb et s) := h

theorem nextInv_execVnot {g : Guard} {vd va : VReg} {et : BitVec 4} (h : memInv s) : nextInv (execVnot g vd va et s) := h

theorem nextInv_execVshl {g : Guard} {vd va vb : VReg} {et : BitVec 4} {imm : BitVec 7} (h : memInv s) : nextInv (execVshl g vd va vb et imm s) := h

theorem nextInv_execVshr {g : Guard} {vd va vb : VReg} {et : BitVec 4} {imm : BitVec 7} (h : memInv s) : nextInv (execVshr g vd va vb et imm s) := h

theorem nextInv_execVsar {g : Guard} {vd va vb : VReg} {et : BitVec 4} {imm : BitVec 7} (h : memInv s) : nextInv (execVsar g vd va vb et imm s) := h

theorem nextInv_execVmulh {g : Guard} {vd va vb : VReg} {et : BitVec 4} (h : memInv s) : nextInv (execVmulh g vd va vb et s) := h

theorem nextInv_execVcmp {g : Guard} {pd : PReg} {va vb : VReg} {et cond : BitVec 4} (h : memInv s) : nextInv (execVcmp g pd va vb et cond s) :=
  nextInv_runWord h (keeps_bind keeps_reads fun _ => keeps_bind keeps_raiseFlags fun _ => keeps_bind (keeps_modS fun _ => memInv_modCur) fun _ =>
    keeps_pure)

theorem nextInv_execVsel {g : Guard} {vd va vb : VReg} {et : BitVec 4} {x : PReg} (h : memInv s) : nextInv (execVsel g vd va vb et x s) := h

theorem nextInv_execVcvt {g : Guard} {vd va : VReg} {et : BitVec 4} {rm : BitVec 3} {sat : BitVec 1} {part : BitVec 2} {st : BitVec 4} (h : memInv s) :
    nextInv (execVcvt g vd va et rm sat part st s) := by
  unfold execVcvt
  exact nextInv_elementwise h

theorem nextInv_execVmov {g : Guard} {vd va : VReg} {et : BitVec 4} (h : memInv s) : nextInv (execVmov g vd va et s) := h

theorem nextInv_fromReg {g : Guard} {vd : VReg} {gs : Reg} {et : BitVec 4} {f : Nat → Nat → Nat} (h : memInv s) : nextInv (fromReg g vd gs et f s) :=
  nextInv_runWord h (keeps_bind keeps_readReg fun _ => keeps_bind keeps_reads fun _ => keeps_bind keeps_writeElems fun _ => keeps_pure)

theorem nextInv_execVbcast {g : Guard} {vd : VReg} {gs : Reg} {et : BitVec 4} (h : memInv s) : nextInv (execVbcast g vd gs et s) := nextInv_fromReg h

theorem nextInv_execViota {g : Guard} {vd : VReg} {gs : Reg} {et : BitVec 4} (h : memInv s) : nextInv (execViota g vd gs et s) := nextInv_fromReg h

theorem nextInv_execVext {g : Guard} {gd : Reg} {va : VReg} {et : BitVec 4} {i : BitVec 7} (h : memInv s) : nextInv (execVext g gd va et i s) :=
  nextInv_runWord h (keeps_bind keeps_reads fun _ => keeps_ite (keeps_bind keeps_checkDst fun _ => keeps_bind keeps_writeReg fun _ => keeps_pure)
    keeps_pure)

theorem nextInv_execVins {g : Guard} {vd : VReg} {gs : Reg} {et : BitVec 4} {i : BitVec 7} (h : memInv s) : nextInv (execVins g vd gs et i s) :=
  nextInv_runWord h (keeps_bind keeps_readReg fun _ => keeps_bind keeps_reads fun _ => keeps_bind keeps_writeElems fun _ => keeps_pure)

theorem nextInv_execVcond {g : Guard} {x : PReg} (h : memInv s) : nextInv (execVcond g x s) :=
  nextInv_runWord h (keeps_scalar (keeps_bind (keeps_modS fun _ => memInv_modCurAgent) fun _ => keeps_pure))

theorem nextInv_execVshup {g : Guard} {vd va : VReg} {et : BitVec 4} {skew : BitVec 5} (h : memInv s) : nextInv (execVshup g vd va et skew s) := h

theorem nextInv_execVshdn {g : Guard} {vd va : VReg} {et : BitVec 4} {skew : BitVec 5} (h : memInv s) : nextInv (execVshdn g vd va et skew s) := h

theorem nextInv_execVrot {g : Guard} {vd va : VReg} {et : BitVec 4} {skew : BitVec 5} (h : memInv s) : nextInv (execVrot g vd va et skew s) := h

theorem nextInv_execVperm {g : Guard} {vd va vb : VReg} {et : BitVec 4} {skew : BitVec 5} (h : memInv s) : nextInv (execVperm g vd va vb et skew s) := h

theorem nextInv_execVscan {g : Guard} {vd va : VReg} {et : BitVec 4} {rm : BitVec 3} {sat : BitVec 1} {op : BitVec 7} (h : memInv s) :
    nextInv (execVscan g vd va et rm sat op s) := by
  unfold execVscan
  exact nextInv_elementwise h

theorem nextInv_execVred {g : Guard} {vd va : VReg} {et : BitVec 4} {rm : BitVec 3} {sat : BitVec 1} {op : BitVec 7} (h : memInv s) :
    nextInv (execVred g vd va et rm sat op s) := by
  refine nextInv_runWord h (keeps_bind keeps_reads fun t => ?_)
  dsimp only
  split
  · exact keeps_bind (keeps_mapM (fun _ => keeps_drawFor) _) fun _ => keeps_bind keeps_deliver fun _ => keeps_pure
  · exact keeps_bind keeps_pure fun _ => keeps_bind keeps_deliver fun _ => keeps_pure

theorem nextInv_execVmaxi {g : Guard} {vd va : VReg} {gi : Reg} {et : BitVec 4} (h : memInv s) : nextInv (execVmaxi g vd va gi et s) :=
  nextInv_runWord h (keeps_bind keeps_checkDst fun _ => keeps_bind keeps_reads fun _ => keeps_bind keeps_deliver fun _ => keeps_bind keeps_writeReg fun _ => keeps_pure)

theorem nextInv_execVpack {g : Guard} {vd va vb : VReg} {et : BitVec 4} {rm : BitVec 3} {sat : BitVec 1} (h : memInv s) :
    nextInv (execVpack g vd va vb et rm sat s) := by
  unfold execVpack
  exact nextInv_elementwise h

theorem nextInv_execVunpk {g : Guard} {vd va : VReg} {et : BitVec 4} {half : BitVec 1} (h : memInv s) : nextInv (execVunpk g vd va et half s) := by
  unfold execVunpk
  exact nextInv_elementwise h

theorem nextInv_execVscale {g : Guard} {vd va : VReg} {gs : Reg} {et : BitVec 4} {rm : BitVec 3} {sat inv : BitVec 1} (h : memInv s) :
    nextInv (execVscale g vd va gs et rm sat inv s) := by
  refine nextInv_runWord h (keeps_bind keeps_readReg fun k => keeps_bind keeps_reads fun t => keeps_bind (keeps_mapM (fun e => ?_) _) fun rs =>
    keeps_bind keeps_deliver fun _ => keeps_pure)
  split
  · exact keeps_pure
  · exact keeps_bind keeps_drawFor fun _ => keeps_pure

theorem nextInv_execVqnt {g : Guard} {vd va : VReg} {gs : Reg} {et : BitVec 4} {rm : BitVec 3} {h' : BitVec 1} (h : memInv s) :
    nextInv (execVqnt g vd va gs et rm h' s) := by
  refine nextInv_runWord h (keeps_bind keeps_checkDst fun _ => keeps_bind keeps_reads fun t => keeps_bind (keeps_mapM (fun e => ?_) _) fun rs =>
    keeps_bind keeps_deliver fun _ => keeps_bind keeps_writeReg fun _ => keeps_pure)
  dsimp only
  split
  · exact keeps_pure
  · exact keeps_bind keeps_drawFor fun _ => keeps_pure

end Sys2Proof.Machine
end

section
/-!
SUPPORT for O58. Canonical memory through the model, Mxe: the matrix engine.
-/

namespace Sys2Proof.Machine

open Sys2Proof.Spec

variable {s : State}

theorem memInv_passMemory {a : Nat} (h : memInv s) : memInv (passMemory s a).1 := by
  refine memInv_foldl_fst (fun _ _ ht => ?_) _ h
  split
  · rename_i e
    exact memInv_of_snd (memInv_freshBit ht) e

theorem memInv_applyPert {a b : Nat} {tag : Option Tag} {old new : Bank} {w : WBuf} {o : PassArgs} (h : memInv s) :
    memInv (applyPert s a b tag old new w o).1 := by
  unfold applyPert
  split
  · exact h
  · split
    · exact h
    · split
      · exact memInv_postUnit (memInv_modAgent h)
      · split
        · exact memInv_postUnit (memInv_modAgent h)
        · exact memInv_modAgent h

theorem memInv_makePass {a b : Nat} {tag : Option Tag} {w : WBuf} {o : PassArgs} (h : memInv s) : memInv (makePass s a b tag w o) :=
  memInv_modAgent (memInv_applyPert (memInv_passMemory h))

theorem memInv_modMx {a : Nat} {f : Mxe → Mxe} (h : memInv s) : memInv (modMx s a f) := h

theorem memInv_dropRun {f : MxRun → Bool} {a : Nat} (h : memInv s) : memInv (dropRun f s a) := h

theorem memInv_coolDown {a : Nat} (h : memInv s) : memInv (coolDown s a) := h

theorem memInv_unfire {a : Nat} {r : MxRun} {f : Fired} (h : memInv s) : memInv (unfire s a r f) := h

theorem memInv_endRun {a : Nat} {r : MxRun} (h : memInv s) : memInv (endRun s a r) := by
  unfold endRun
  split
  · exact memInv_modMx h
  · exact memInv_dropRun (memInv_unfire h)

theorem memInv_beginPass {a : Nat} {r : MxRun} (h : memInv s) : memInv (beginPass s a r) := by
  unfold beginPass
  dsimp only
  split
  · split
    · exact memInv_endRun (memInv_poisonCommand h)
    · exact memInv_modMx (memInv_makePass h)
  · exact memInv_endRun (memInv_postEngine h)

theorem memInv_servePass {a : Nat} {r : MxRun} (h : memInv s) : memInv (servePass s a r) := by
  unfold servePass
  dsimp only
  split
  · exact memInv_beginPass h
  · exact memInv_ite (memInv_beginPass (memInv_modMx h)) (memInv_modMx (memInv_modMx h))

theorem memInv_serveCmd {a : Nat} {c : MxCmd} (h : memInv s) : memInv (serveCmd s a c) := by
  unfold serveCmd
  split
  · exact memInv_modMx (memInv_modAgent h)
  · exact memInv_modMx (memInv_modAgent h)
  · exact memInv_ite (memInv_modMx (memInv_poisonCommand h)) (memInv_modMx (memInv_modMx h))
  · exact memInv_servePass (memInv_modMx h)
  · exact memInv_modMx (memInv_modMx h)
  · exact memInv_modMx (memInv_modMx h)
  · exact memInv_modMx h
  · exact memInv_coolDown (memInv_modMx (memInv_modMx h))
  · exact memInv_modMx (memInv_modMx h)

theorem memInv_serveMxe {n a : Nat} (h : memInv s) : memInv (serveMxe n s a) := by
  induction n generalizing s with
  | zero => exact h
  | succ n ih => grind [serveMxe, memInv_modStrand, memInv_modMx, memInv_serveCmd]

theorem memInv_kickMxe {a : Nat} (h : memInv s) : memInv (kickMxe s a) := memInv_serveMxe h

theorem memInv_offerBlock {a i : Nat} (h : memInv s) : memInv (offerBlock s a i).1 := by
  unfold offerBlock
  extract_lets x
  split
  · exact h
  · split
    · exact h
    · split
      · exact h
      · exact memInv_modAgent (memInv_modMx h)

theorem memInv_pushMcq {a k : Nat} {w : Word} (h : memInv s) : memInv (pushMcq s a k w) := h

theorem nextInv_execTriggeredPass {agent : Nat} (h : memInv s) : nextInv (execTriggeredPass agent s) := by
  unfold execTriggeredPass
  split
  · exact h
  · exact memInv_kickMxe (memInv_servePass h)

theorem nextInv_execRampUpEnd {agent : Nat} (h : memInv s) : nextInv (execRampUpEnd agent s) := by
  refine nextInv_ite h ?_
  split
  · exact memInv_kickMxe (memInv_beginPass (memInv_modMx h))
  · exact memInv_coolDown (memInv_modMx h)

theorem nextInv_execRampDownEnd {agent : Nat} (h : memInv s) : nextInv (execRampDownEnd agent s) := h

theorem nextInv_execRampGapExpiry {agent : Nat} (h : memInv s) : nextInv (execRampGapExpiry agent s) := nextInv_ite (memInv_modMx h) h

theorem nextInv_execPassEnd {agent : Nat} (h : memInv s) : nextInv (execPassEnd agent s) := by
  unfold execPassEnd
  split
  · exact h
  · refine memInv_coolDown (memInv_kickMxe ?_)
    split
    · refine memInv_servePass ?_
      split
      · exact memInv_modAgent (memInv_modMx h)
      · exact memInv_modMx h
    · split
      · exact memInv_modAgent (memInv_modMx h)
      · exact memInv_modMx h

theorem nextInv_execPassResultHeld {agent run : Nat} (h : memInv s) : nextInv (execPassResultHeld agent run s) := by
  unfold execPassResultHeld
  split
  · exact h
  · split
    · exact memInv_modMx h
    · exact nextInv_ite h (memInv_dropRun (memInv_ite (memInv_pushMcq h) h))

theorem wf_markWords {m : Memory} (f : Nat → Nat) (n : Nat) (h : m.wf) : ((List.range n).foldl (fun m j => markPoison m (f j)) m).wf :=
  wf_foldl (fun _ _ hm => wf_markPoison _ hm) _ h

theorem wf_putDrained {m : Memory} (p size : Nat) (l : List (Nat × Nat × Bool)) (h : m.wf) : (putDrained m p size l).wf := by
  refine wf_foldl (fun m q hm => ?_) _ h
  dsimp only
  split
  · exact wf_markWords _ _ (wf_writeNat _ _ _ hm)
  · exact wf_writeNat _ _ _ hm

theorem memInv_drainOne {a : Nat} {r : MxRun} (h : memInv s) : memInv (drainOne s a r) := by
  have hput : ∀ size out, memInv (setMem s (putDrained s.mem a size out)) := fun size out => memInv_setMem h (wf_putDrained _ _ _ h.1)
  grind [drainOne, memInv_modAgent, memInv_modMx, memInv_engineBar, memInv_postEngine, memInv_poisonCommand]

theorem nextInv_execDrainStep {agent : Nat} (h : memInv s) : nextInv (execDrainStep agent s) := by
  unfold execDrainStep
  split
  · exact h
  · exact memInv_kickMxe (memInv_drainOne h)

theorem memInv_completeMx {a k : Nat} (h : memInv s) : memInv (completeMx s a k) := by
  unfold completeMx
  split
  · exact h
  · refine memInv_settle (memInv_dropRun ?_)
    split
    · exact memInv_pushMcq h
    · exact h

end Sys2Proof.Machine
end

section
/-!
SUPPORT for O58. Canonical memory through the model, Network: ports, messages, domains and spawned strands.
-/

namespace Sys2Proof.Machine

open Sys2Proof.Spec

variable {α : Type} {s : State}

theorem keeps_badTarget {n : Nat} : Keeps (badTarget n : Exec α) := keeps_trapPc

theorem nextInv_execQbind {g : Guard} {a : Reg} {kind : BitVec 4} {n : BitVec 3} (h : memInv s) : nextInv (execQbind g a kind n s) :=
  nextInv_runWord h (keeps_scalar (keeps_ite (keeps_bind keeps_readReg fun _ => keeps_check keeps_badTarget fun _ => keeps_bind (keeps_modS fun _ =>
    memInv_modCurAgent) fun _ => keeps_pure) (keeps_bind keeps_pure fun _ => keeps_check keeps_badTarget fun _ => keeps_bind (keeps_modS fun _ =>
    memInv_modCurAgent) fun _ => keeps_pure)))

theorem nextInv_execQstat {g : Guard} {a : Reg} {n : BitVec 3} (h : memInv s) : nextInv (execQstat g a n s) :=
  nextInv_runWord h (keeps_scalar (keeps_bind keeps_reads fun _ => keeps_bind keeps_writeReg fun _ => keeps_pure))

theorem keeps_placeElems {o : SendOp} {l : List Reply} : Keeps (placeElems o l) :=
  keeps_bind keeps_reads fun _ => keeps_ite (keeps_bind (keeps_modS fun _ => memInv_bufferEls) fun _ => keeps_pure) (keeps_ite keeps_waitFor
    (keeps_waitWith fun _ ht => memInv_modCur (memInv_bufferEls ht)))

theorem keeps_sendElems {dst : Nat} {o : SendOp} {elems : List Word} : Keeps (sendElems dst o elems) :=
  keeps_bind keeps_releaseIf fun _ => keeps_getS fun _ _ => keeps_placeElems

theorem keeps_sendWords {gb : Word} {n : Nat} : Keeps (sendWords gb n) := by
  refine keeps_getS fun s _ => keeps_bind keeps_behindSbar fun _ => keeps_bind keeps_homeReady fun _ => keeps_getS fun s _ => ?_
  dsimp only
  split
  · exact keeps_bind keeps_notPoisoned fun _ => keeps_pure
  · exact keeps_pure

theorem nextInv_execSnd {g : Guard} {a b : Reg} {o : SendOp} (h : memInv s) : nextInv (execSnd g a b o s) := by
  refine nextInv_runWord h (keeps_scalar (keeps_bind keeps_readReg fun name => keeps_bind keeps_readReg fun gb => keeps_getS fun s _ => ?_))
  split
  · exact keeps_placeElems
  · exact keeps_check keeps_trapAt fun _ => keeps_check keeps_trapAt fun _ => keeps_bind keeps_destTile fun _ => keeps_bind keeps_sendWords fun _ => keeps_sendElems

theorem nextInv_execSndv {g : Guard} {a : Reg} {vb : VReg} {o : SendOp} (h : memInv s) : nextInv (execSndv g a vb o s) := by
  refine nextInv_runWord h (keeps_scalar (keeps_bind keeps_readReg fun _ => keeps_getS fun _ _ => ?_))
  split
  · exact keeps_placeElems
  · exact keeps_bind keeps_destTile fun _ => keeps_bind keeps_reads fun _ => keeps_sendElems

theorem memInv_drainSend {a : Nat} (h : memInv s) : memInv (drainSend s a) := by
  unfold drainSend
  split
  · exact h
  · exact h

theorem nextInv_execMessageLanding {msg : Nat} (h : memInv s) : nextInv (execMessageLanding msg s) := by
  unfold execMessageLanding
  split
  · exact h
  · split
    · exact h
    · exact memInv_passFlits h
    · exact memInv_passFlits (memInv_setAgent h)

theorem nextInv_execNameWalk {agent name : Nat} (h : memInv s) : nextInv (execNameWalk agent name s) := nextInv_ite (memInv_modAgent h) h

theorem memInv_openPhase {c : Nat} (h : memInv s) : memInv (openPhase s c) := by
  unfold openPhase
  split
  · exact h
  · exact h

theorem memInv_arrive {l : Nat} (h : memInv s) : memInv (arrive l s) := by
  refine memInv_ite ?_ (memInv_modCur h)
  split
  · exact memInv_openPhase (memInv_modCur h)
  · exact memInv_modCur h

theorem nextInv_execDarv {g : Guard} {l : BitVec 2} (h : memInv s) : nextInv (execDarv g l s) :=
  nextInv_runWord h (keeps_engine (keeps_getS fun _ _ => keeps_ite keeps_pure (keeps_bind keeps_until' fun _ => keeps_bind keeps_release fun _ =>
    keeps_bind (keeps_modS fun _ => memInv_arrive) fun _ => keeps_pure)))

theorem keeps_awaitRelease : Keeps (awaitRelease) := keeps_waitWith fun _ => memInv_modCur

theorem nextInv_execDwait {g : Guard} {l : BitVec 2} (h : memInv s) : nextInv (execDwait g l s) :=
  nextInv_runWord h (keeps_engine (keeps_getS fun _ _ => keeps_ite keeps_pure (keeps_getS fun _ _ => keeps_ite keeps_awaitRelease (keeps_getS fun _ _ =>
    keeps_check keeps_acquire fun _ => keeps_pure))))

theorem nextInv_execDsync {g : Guard} {l : BitVec 2} (h : memInv s) : nextInv (execDsync g l s) :=
  nextInv_runWord h (keeps_engine (keeps_getS fun _ _ => keeps_ite keeps_pure (keeps_bind keeps_until' fun _ => keeps_getS fun _ _ => keeps_ite (keeps_bind
    keeps_acquire fun _ => keeps_pure) (keeps_bind keeps_release fun _ => keeps_waitWith fun _ ht => memInv_modCur (memInv_arrive ht)))))

theorem memInv_releasePhase {agent strand level : Nat} (h : memInv s) : memInv (releasePhase s agent strand level) := by
  unfold releasePhase
  dsimp only
  split
  · split
    · exact memInv_openPhase h
    · exact h
  · exact h

theorem nextInv_execPhaseRelease {agent strand level : Nat} {peers : Bool} (h : memInv s) : nextInv (execPhaseRelease agent strand level peers s) := by
  refine nextInv_ite h (nextInv_ite ?_ (memInv_releasePhase h))
  split
  · exact h
  · exact h

theorem nextInv_execSpawn {g : Guard} {a b c : Reg} {base8 : BitVec 6} {size8 k : BitVec 3} (h : memInv s) : nextInv (execSpawn g a b c base8 size8 k s) :=
  nextInv_runWord h (keeps_engine (keeps_bind keeps_readReg fun _ => keeps_bind keeps_readReg fun _ => keeps_bind keeps_readReg fun _ =>
    keeps_bind keeps_until' fun _ => keeps_check keeps_trapAt fun _ => keeps_bind keeps_reads fun _ => keeps_check keeps_trapAt fun _ =>
    keeps_bind keeps_release fun _ => keeps_bind (keeps_modS fun _ h => h) fun _ => keeps_pure))

theorem nextInv_execSwait {g : Guard} {k : BitVec 3} (h : memInv s) : nextInv (execSwait g k s) :=
  nextInv_runWord h (keeps_engine (keeps_getS fun _ _ => keeps_ite keeps_pure (keeps_bind keeps_until' fun _ => keeps_bind keeps_acquire fun _ =>
    keeps_pure)))

theorem memInv_answerReq {i : Nat} {r : Req} (h : memInv s) : memInv (answerReq s i r) := memInv_ite (memInv_kickMxe h) (memInv_kickMxe h)

theorem nextInv_execRequestAtHome {request : Nat} (h : memInv s) : nextInv (execRequestAtHome request s) := by
  unfold execRequestAtHome
  split
  · exact h
  · split
    · exact memInv_answerReq h
    · refine nextInv_ite h (nextInv_ite h ?_)
      split
      · rename_i e
        exact nextInv_ite (memInv_answerReq (memInv_of_fst (memInv_performAccess h) e)) (memInv_withNet (memInv_of_fst (memInv_performAccess h) e))

theorem nextInv_execResponseLanding {response : Nat} (h : memInv s) : nextInv (execResponseLanding response s) := by
  unfold execResponseLanding
  split
  · exact h
  · exact nextInv_ite h (nextInv_ite h (memInv_modStrand h))

theorem nextInv_execOrphan {response : Nat} (h : memInv s) : nextInv (execOrphan response s) := by
  unfold execOrphan
  split
  · exact h
  · split
    · exact h
    · exact nextInv_ite h (memInv_modAgent h)

end Sys2Proof.Machine
end

section
/-!
SUPPORT for O58. Canonical memory through the model, Light: weights in light.
-/

namespace Sys2Proof.Machine

open Sys2Proof.Spec

variable {s : State}

theorem memInv_modGroup {g : Nat} {f : Group → Group} (h : memInv s) : memInv (modGroup s g f) := h

theorem memInv_pushEvent {a k : Nat} {w : Word} (h : memInv s) {t : State} (e : pushEvent s a k w = some t) : memInv t := by
  unfold pushEvent at e
  dsimp only at e
  split at e
  · exact Option.some.inj e ▸ h
  · split at e
    · exact Option.some.inj e ▸ memInv_modStrand h
    · cases e

theorem memInv_refuse {r : LReq} {detail : Nat} (h : memInv s) {t : State} (e : refuse s r detail = some t) : memInv t := by
  unfold refuse at e
  split at e
  · exact Option.some.inj e ▸ h
  · exact memInv_pushEvent h e

theorem keeps_inject {a b : Reg} {chain : Bool} : Keeps (inject a b chain) :=
  keeps_bind keeps_readReg fun _ => keeps_bind keeps_readReg fun _ => keeps_check keeps_trapAt fun _ => keeps_bind keeps_until' fun _ =>
    keeps_bind keeps_release fun _ => keeps_bind (keeps_modS fun _ h => h) fun _ => keeps_pure

theorem nextInv_execInj {g : Guard} {a b : Reg} (h : memInv s) : nextInv (execInj g a b s) := nextInv_runWord h (keeps_scalar keeps_inject)

theorem nextInv_execInjc {g : Guard} {a b : Reg} (h : memInv s) : nextInv (execInjc g a b s) := nextInv_runWord h (keeps_scalar keeps_inject)

theorem nextInv_execBeaconRequest {request : Nat} (h : memInv s) : nextInv (execBeaconRequest request s) := by
  have hgone : memInv { s with light := { s.light with pending := s.light.pending.eraseIdx request } } := h
  have hrefused : ∀ r d, memInv ((refuse { s with light := { s.light with pending := s.light.pending.eraseIdx request } } r d).getD s) := fun _ _ =>
    memInv_getD (fun _ => memInv_refuse hgone) h
  grind [execBeaconRequest, memInv_modGroup, nextInv_next]

theorem memInv_passToSibling {g : Nat} {r : LReq} {b : Option Block} (h : memInv s) : memInv (passToSibling s g r b) := memInv_ite (memInv_modGroup h) h

theorem memInv_beaconPage {g va : Nat} {w : Bool} (h : memInv s) {t : State} (e : beaconPage s g va w = .walk t) : memInv t := by
  grind [beaconPage, memInv_addWalk]

theorem memInv_dropBeaconWalks {g : Nat} (h : memInv s) : memInv (dropBeaconWalks s g) := h

theorem memInv_beaconPiece {g va n : Nat} (h : memInv s) {t : State} (e : beaconPiece s g va n = .walk t) : memInv t := by
  grind [beaconPiece, memInv_beaconPage]

theorem memInv_beaconRead {g f va n : Nat} (h : memInv s) {t : State} (e : beaconRead s g f va n = .walk t) : memInv t := by
  induction f generalizing va n with
  | zero => cases e
  | succ f ih => grind [beaconRead, memInv_beaconPiece]

theorem memInv_fetchHeader {g : Nat} {va : Word} (h : memInv s) {t : State} (e : fetchHeader s g va = .inr (.walk t)) : memInv t := by
  grind [fetchHeader, memInv_beaconRead]

theorem memInv_fetchBody {g : Nat} {va : Word} {hdr : Line} {inj : Option (Nat × Nat)} (h : memInv s) {t : State}
    (e : fetchBody s g va hdr inj = .walk t) : memInv t := by
  grind [fetchBody, memInv_beaconRead]

theorem memInv_postBeacon {g kind cause detail : Nat} {addr info : Word} {seq : Nat} (h : memInv s) :
    memInv (postBeacon s g kind cause detail addr info seq) := h

theorem memInv_beaconPoison {g reason key : Nat} (h : memInv s) : memInv (beaconPoison s g reason key) := memInv_ite (memInv_postBeacon h) h

theorem memInv_shine {g : Nat} {p : Photon} (h : memInv s) : memInv (shine s g p) := h

theorem memInv_sendBlock {g : Nat} {b : Block} (h : memInv s) : memInv (sendBlock s g b) := h

theorem memInv_popRequest {g : Nat} (h : memInv s) : memInv (popRequest s g) := h

theorem memInv_refuseHead {g : Nat} {r : LReq} {detail : Nat} (h : memInv s) {t : State} (e : refuseHead s g r detail = some t) : memInv t :=
  memInv_refuse (memInv_popRequest h) e

theorem memInv_resendBlock {g at' : Nat} (h : memInv s) : memInv (resendBlock s g at') := by
  refine memInv_modGroup ?_
  split
  · exact memInv_shine h
  · exact h

theorem memInv_serveInj {g : Nat} {r : LReq} (h : memInv s) : memInv (serveInj s g r) := by
  have hrefused : ∀ reason key, memInv ((refuseHead (beaconPoison (dropBeaconWalks s g) g reason key) g r (injDetail reason)).getD s) := fun reason key =>
    memInv_getD (fun _ => memInv_refuseHead (memInv_beaconPoison (memInv_dropBeaconWalks h))) h
  grind [serveInj, memInv_popRequest, memInv_sendBlock, memInv_fetchHeader, memInv_fetchBody, memInv_passToSibling]

theorem memInv_beaconSends {g : Nat} (h : memInv s) : memInv (beaconSends s g) := by
  unfold beaconSends
  dsimp only
  split
  · exact h
  · split
    · split
      · exact h
      · split
        · exact h
        · exact memInv_getD (fun _ => memInv_refuseHead h) h
    · split
      · exact h
      · split
        · exact memInv_resendBlock h
        · split
          · split
            · exact h
            · split
              · exact memInv_modGroup h
              · exact memInv_serveInj h
          · exact h

theorem memInv_addToken {g : Nat} {t : BToken} (h : memInv s) : memInv (addToken s g t) := h

theorem memInv_landBlock {g a i : Nat} {b : Block} (h : memInv s) : memInv (landBlock s g a i b) := by
  unfold landBlock
  refine memInv_ite (memInv_modAgent (memInv_modAgent (memInv_modAgent h))) ?_
  split
  · rename_i e
    exact memInv_ite (memInv_of_fst (memInv_offerBlock (memInv_modAgent (memInv_modAgent h))) e) (memInv_modAgent (memInv_of_fst (memInv_offerBlock
      (memInv_modAgent (memInv_modAgent h))) e))

theorem memInv_receiveBlock {g a : Nat} {b : Block} {bad : Bool} (h : memInv s) : memInv (receiveBlock s g a b bad) := by
  refine memInv_ite h (memInv_ite (memInv_addToken h) ?_)
  split
  · exact memInv_addToken h
  · exact memInv_landBlock h

theorem memInv_popFlight {g a : Nat} (h : memInv s) : memInv (popFlight s g a) := h

theorem nextInv_execBlockArrival {group agent : Nat} {bad : Bool} (h : memInv s) : nextInv (execBlockArrival group agent bad s) := by
  unfold execBlockArrival
  split
  · exact h
  · split
    · exact h
    · exact nextInv_ite (memInv_popFlight h) (memInv_receiveBlock (memInv_popFlight h))

theorem nextInv_execReplayToken {group : Nat} (h : memInv s) : nextInv (execReplayToken group s) := by
  unfold execReplayToken
  dsimp only
  split
  · exact h
  · exact nextInv_ite (memInv_modGroup h) (nextInv_ite (memInv_modGroup (memInv_modGroup h)) (nextInv_ite h (nextInv_ite (memInv_modGroup
      (memInv_postBeacon (memInv_modGroup h))) (memInv_modGroup (memInv_modGroup h)))))

theorem nextInv_execReleaseCredit {group : Nat} (h : memInv s) : nextInv (execReleaseCredit group s) := nextInv_ite h (memInv_modGroup h)

theorem keeps_slotNumber {gb : Word} : Keeps (slotNumber gb) := keeps_check keeps_trapAt fun _ => keeps_pure

theorem keeps_ordinaryBlock {i : Nat} : Keeps (ordinaryBlock i) := by
  refine keeps_getS fun _ _ => ?_
  split
  · exact keeps_trapPc
  · exact keeps_ite keeps_pure keeps_trapPc

theorem nextInv_execWbhdr {g : Guard} {va : VReg} {b : Reg} (h : memInv s) : nextInv (execWbhdr g va b s) :=
  nextInv_runWord h (keeps_scalar (keeps_bind keeps_readReg fun _ => keeps_bind keeps_slotNumber fun _ => keeps_bind keeps_ordinaryBlock fun _ =>
    keeps_bind (keeps_modS fun _ => memInv_modCur) fun _ => keeps_pure))

theorem nextInv_execWbpop {g : Guard} {a b : Reg} (h : memInv s) : nextInv (execWbpop g a b s) :=
  nextInv_runWord h (keeps_scalar (keeps_bind keeps_readReg fun _ => keeps_bind keeps_readReg fun _ => keeps_bind keeps_slotNumber fun _ =>
    keeps_bind keeps_ordinaryBlock fun _ => keeps_check keeps_trapPc fun _ => keeps_check keeps_trapAt fun _ => keeps_check keeps_trapAt fun _ =>
    keeps_bind keeps_behindSbar fun _ => keeps_bind keeps_homeReady fun _ =>
    keeps_bind (keeps_modS fun _ h => memInv_setMem h (wf_writeBytes _ _ h.1)) fun _ => keeps_pure))

theorem nextInv_execWbrel {g : Guard} {b : Reg} (h : memInv s) : nextInv (execWbrel g b s) := by
  refine nextInv_runWord h (keeps_scalar (keeps_bind keeps_readReg fun gb => keeps_bind keeps_slotNumber fun i => keeps_getS fun s _ => ?_))
  split
  · exact keeps_pure
  · split
    · exact keeps_pure
    · dsimp only
      split <;> exact keeps_bind (keeps_modS fun _ h => h) fun _ => keeps_pure

end Sys2Proof.Machine
end

section
/-!
SUPPORT for O58. Canonical memory through the model, Chains: weight-driven execution.
-/

namespace Sys2Proof.Machine

open Sys2Proof.Spec

variable {s : State}

theorem nextInv_execWdrive {g : Guard} {a b c : Reg} (h : memInv s) : nextInv (execWdrive g a b c s) :=
  nextInv_runWord h (keeps_scalar (keeps_bind keeps_readReg fun _ => keeps_bind keeps_readReg fun _ => keeps_check keeps_trapAt fun _ =>
    keeps_check keeps_trapAt fun _ => keeps_check keeps_trapAt fun _ => keeps_bind keeps_until' fun _ =>
    keeps_bind (keeps_modS fun _ h => h) fun _ => keeps_bind (keeps_modS fun _ h => h) fun _ => keeps_pure))

theorem nextInv_execWdstop {g : Guard} (h : memInv s) : nextInv (execWdstop g s) :=
  nextInv_runWord h (keeps_scalar (keeps_bind (keeps_modS fun _ => memInv_modCurAgent) fun _ => keeps_pure))

theorem memInv_startEnd {g reason : Nat} {va : Word} {seq cause : Nat} (h : memInv s) : memInv (startEnd s g reason va seq cause) := h

theorem memInv_beaconFault {g reason : Nat} {va : Word} {key : Nat} (h : memInv s) : memInv (beaconFault s g reason va key) :=
  memInv_startEnd (memInv_beaconPoison (memInv_dropBeaconWalks h))

theorem memInv_beginChain {g : Nat} {r : LReq} (h : memInv s) : memInv (beginChain s g r) := by
  have hrefused : memInv ((refuseHead (dropBeaconWalks s g) g r 3).getD s) := memInv_getD (fun _ => memInv_refuseHead (memInv_dropBeaconWalks h)) h
  grind [beginChain, memInv_beaconPage, memInv_passToSibling, memInv_modGroup, memInv_popRequest]

theorem memInv_markPlace {g : Nat} {alt : Word} (h : memInv s) {t : State} (e : markPlace s g alt = .walk t) : memInv t := by
  grind [markPlace, memInv_beaconPage]

theorem memInv_sendChained {g : Nat} {w : Walker} {b : Block} {nxt : Option (Word × List Word)} (h : memInv s) : memInv (sendChained s g w b nxt) := h

theorem memInv_walkBlock {g : Nat} {w : Walker} (h : memInv s) : memInv (walkBlock s g w) := by
  unfold walkBlock
  dsimp only
  split
  · rename_i e
    exact memInv_fetchHeader h e
  · exact memInv_beaconFault h
  · exact h
  · split
    · exact h
    · split
      · rename_i e
        split at e
        · exact memInv_markPlace h e
        · cases e
      · exact memInv_beaconFault h
      · exact memInv_beaconFault h
      · rename_i e _ _ _
        exact memInv_fetchBody h e
      · exact memInv_beaconFault h
      · exact memInv_sendChained h

theorem memInv_chainWalks {g : Nat} (h : memInv s) : memInv (chainWalks s g) := by
  unfold chainWalks
  dsimp only
  split
  · exact h
  · split
    · split
      · split
        · exact memInv_beginChain h
        · exact h
      · exact h
    · split
      · exact h
      · split
        · exact memInv_beaconFault h
        · split
          · exact h
          · split
            · exact memInv_modGroup h
            · exact memInv_walkBlock h

theorem memInv_beaconTurn {t : State} {g : Nat} (h : memInv s) (ht : memInv t) : memInv (beaconTurn s t g) := memInv_ite ht (memInv_ite h ht)

theorem nextInv_execBeaconSend {group : Nat} (h : memInv s) : nextInv (execBeaconSend group s) := memInv_beaconTurn h (memInv_beaconSends h)

theorem nextInv_execChainWalk {group : Nat} (h : memInv s) : nextInv (execChainWalk group s) := memInv_beaconTurn h (memInv_chainWalks h)

theorem nextInv_execBranchCondition {group : Nat} (h : memInv s) : nextInv (execBranchCondition group s) := by
  unfold execBranchCondition
  dsimp only
  split
  · exact h
  · split
    · exact h
    · exact nextInv_ite h (nextInv_ite (memInv_modGroup h) (memInv_beaconFault h))

theorem nextInv_execMarkWrite {group : Nat} (h : memInv s) : nextInv (execMarkWrite group s) := by
  unfold execMarkWrite
  dsimp only
  split
  · exact h
  · split
    · exact h
    · split
      · rename_i e
        exact memInv_markPlace h e
      · split
        · exact memInv_dropBeaconWalks (memInv_modGroup h)
        · exact memInv_beaconFault (memInv_modGroup h)
      · split
        · exact memInv_modGroup (memInv_setMem h (wf_writeWord _ _ h.1))
        · exact memInv_modGroup h

theorem memInv_redoBlock {a : Nat} {c : Chain} {i : Nat} {sl : Slot} {b : Nat} {t : Pert} (h : memInv s) : memInv (redoBlock s a c i sl b t) :=
  memInv_ite (memInv_memberFault (memInv_postUnit (memInv_modMx h))) (memInv_addToken (memInv_modAgent (memInv_postUnit (memInv_modMx h))))

theorem wf_performHeld {m : Memory} (held : List (Nat × Byte)) (marks : List Nat) (h : m.wf) : (performHeld m held marks).wf := by
  have hstored : (held.foldl (fun m h => writeByte m h.1 h.2) m).wf := wf_foldl (fun _ _ hm => wf_writeByte _ _ hm) held h
  exact wf_foldl (fun _ _ hm => wf_markPoison _ hm) marks ⟨hstored.1, risingFrom_filter _ hstored.2⟩

theorem memInv_commitBlock {a : Nat} (h : memInv s) : memInv (commitBlock s a) := by
  have hput : ∀ held marks, memInv (setMem s (performHeld s.mem held marks)) := fun held marks => memInv_setMem h (wf_performHeld _ _ h.1)
  grind [commitBlock, memInv_modAgent, memInv_modStrand]

theorem memInv_holdLs {a off : Nat} {bs : List Byte} (h : memInv s) : memInv (holdLs s a off bs) := h

theorem memInv_holdDrain {a : Nat} {c : Chain} {hdr : Line} (h : memInv s) {t : State} (e : holdDrain s a c hdr = .inl t) : memInv t := by
  unfold holdDrain at e
  dsimp only at e
  split at e
  · cases e
  · split at e
    · cases e
    · cases e
      exact memInv_modAgent (memInv_foldl (fun _ _ => memInv_holdLs) _ (memInv_modStrand h))

theorem memInv_afterPass {a : Nat} {c : Chain} {hdr : Line} (h : memInv s) : memInv (afterPass s a c hdr) := by
  unfold afterPass
  dsimp only
  split
  · exact memInv_memberFault h
  · rename_i t e
    have ht : memInv t := by
      split at e
      · exact memInv_holdDrain h e
      · cases e
        exact h
    have hstopped : memInv (if hOpc hdr = 8 then modAgent t a (acquireAgent 2) else t) := memInv_ite (memInv_modAgent ht) ht
    exact memInv_ite (memInv_commitBlock hstopped) (memInv_modStrand (memInv_modAgent hstopped))

theorem memInv_invoke {a : Nat} {c : Chain} {i : Nat} {sl : Slot} (h : memInv s) : memInv (invoke s a c i sl) := by
  refine memInv_ite (memInv_memberFault h) (memInv_ite (memInv_memberFault h) (memInv_ite (memInv_memberFault (memInv_postPoison h))
    (memInv_ite (memInv_afterPass h) (memInv_ite (memInv_memberFault h)
    (memInv_ite (memInv_ite (memInv_memberFault h) (memInv_commitBlock (memInv_holdLs h))) ?_)))))
  extract_lets b w zero o s' x
  have h' : memInv s' := memInv_ite (memInv_modAgent h) h
  clear_value s'
  refine memInv_ite (memInv_memberFault h') (memInv_ite (memInv_modAgent h') ?_)
  split
  · exact memInv_memberFault (memInv_postPoison h')
  · split
    · exact memInv_redoBlock (memInv_modMx h')
    · exact memInv_coolDown (memInv_afterPass (memInv_modAgent (memInv_makePass (memInv_modMx h'))))

theorem nextInv_execBlockInvocation {agent : Nat} (h : memInv s) : nextInv (execBlockInvocation agent s) := by
  unfold execBlockInvocation
  dsimp only
  split
  · exact h
  · refine nextInv_ite h ?_
    split
    · split
      · exact memInv_invoke h
      · exact h
    · split
      · exact h
      · exact nextInv_ite h (memInv_invoke (memInv_modAgent h))

theorem nextInv_execEpilogueEnd {agent : Nat} (h : memInv s) : nextInv (execEpilogueEnd agent s) := by
  unfold execEpilogueEnd
  split
  · exact h
  · exact nextInv_ite (memInv_commitBlock h) h

theorem nextInv_execChainStopToken {group : Nat} (h : memInv s) : nextInv (execChainStopToken group s) := by
  refine nextInv_ite h ?_
  split
  · exact h
  · split
    · exact memInv_startEnd h

theorem memInv_endMember {g a reason : Nat} {va : Word} {seq cause : Nat} (h : memInv s) : memInv (endMember s g a reason va seq cause) := by
  unfold endMember
  split
  · exact h
  · exact memInv_ite h (memInv_modAgent (memInv_modStrand h))

theorem memInv_confirmEnd {g a : Nat} (h : memInv s) : memInv (confirmEnd s g a) := h

theorem memInv_sendUnitAgain {g a : Nat} {f : Flight} (h : memInv s) : memInv (sendUnitAgain s g a f) := h

theorem nextInv_execChainEndUnit {group agent : Nat} (h : memInv s) : nextInv (execChainEndUnit group agent s) := by
  unfold execChainEndUnit
  split
  · exact h
  · split
    · exact h
    · exact nextInv_ite (memInv_popFlight h) (nextInv_ite (memInv_sendUnitAgain h) (memInv_confirmEnd (memInv_modAgent (memInv_endMember (memInv_popFlight
        h)))))

theorem nextInv_execChainLeave {agent : Nat} (h : memInv s) : nextInv (execChainLeave agent s) := by
  unfold execChainLeave
  dsimp only
  split
  · exact h
  · split
    · exact h
    · split
      · exact h
      · split
        · exact h
        · rename_i t e
          have ht : memInv t := by
            split at e
            · split at e
              · exact memInv_pushEvent h e
              · exact Option.some.inj e ▸ h
            · exact Option.some.inj e ▸ h
          refine memInv_kickMxe ?_
          split
          · exact memInv_trapEntry (memInv_setReg (memInv_modStrand (memInv_modAgent ht)))
          · exact memInv_setReg (memInv_modStrand (memInv_modAgent ht))

end Sys2Proof.Machine
end

section
/-!
SUPPORT for O58. Canonical memory through the model, Cpe: the copy engine and stream windows.
-/

namespace Sys2Proof.Machine

open Sys2Proof.Spec

variable {s : State}

theorem memInv_copyWalk {a : Nat} {tag : Option Tag} {va : Nat} {w : Bool} (h : memInv s) : memInv (copyWalk s a tag va w) :=
  memInv_ite h (memInv_addWalk h)

theorem memInv_modCp {a : Nat} {f : Cpe → Cpe} (h : memInv s) : memInv (modCp s a f) := h

theorem memInv_modEntry {a : Nat} {r : CpRun} {f : CpRun → CpRun} (h : memInv s) : memInv (modEntry s a r f) := h

theorem memInv_modStat {a : Nat} {c : CpCmd} {f : CopyStat → CopyStat} (h : memInv s) : memInv (modStat s a c f) := h

theorem memInv_cpFault {a : Nat} {r : CpRun} {code sub : Nat} {addr : Word} (h : memInv s) : memInv (cpFault s a r code sub addr) :=
  memInv_modEntry (memInv_modStat (memInv_postEngine h))

theorem memInv_cpPoison {a : Nat} {r : CpRun} {key : Nat} (h : memInv s) : memInv (cpPoison s a r key) := memInv_modEntry (memInv_poisonCommand h)

theorem memInv_cpBarrier {a : Nat} {r : CpRun} {arrive : Bool} {bytes : Nat} (h : memInv s) : memInv (cpBarrier s a r arrive bytes).1 := by
  unfold cpBarrier
  split
  · exact h
  · split
    · rename_i e
      exact memInv_of_fst (memInv_engineBar h) e
    · rename_i e
      exact memInv_cpFault (memInv_of_fst (memInv_engineBar h) e)
    · rename_i e
      exact memInv_cpPoison (memInv_of_fst (memInv_engineBar h) e)

theorem memInv_readList {a : Nat} {r : CpRun} (h : memInv s) : memInv (readList s a r).1 := by
  unfold readList
  dsimp only
  split
  · exact h
  · split
    · exact h
    · split
      · exact memInv_cpFault h
      · split
        · exact memInv_cpPoison h
        · split
          · exact memInv_cpFault h
          · exact memInv_modEntry h

theorem wf_putCopied {m : Memory} (l : List (Nat × Byte × Bool)) (h : m.wf) : (putCopied m l).wf := by
  refine wf_foldl (fun m q hm => ?_) _ (wf_foldl (fun m k hm => ?_) _ (wf_foldl (fun m q hm => wf_writeByte _ _ hm) _ h))
  · split
    · exact wf_markPoison _ hm
    · exact hm
  · split
    · exact wf_clearPoison _ _ hm
    · exact hm

theorem memInv_writePiece {a : Nat} {r : CpRun} {out : List (Found × Byte × Bool)} (h : memInv s) : memInv (writePiece s a r out) :=
  memInv_setMem h (wf_putCopied _ h.1)

theorem memInv_sendPiece {a : Nat} {r : CpRun} {i : Nat} {out : List (Found × Byte × Bool)} (h : memInv s) : memInv (sendPiece s a r i out) :=
  memInv_modEntry (memInv_foldl (fun _ _ => memInv_sendFrame) _ h)

theorem memInv_pushCcq {a k : Nat} {w : Word} (h : memInv s) : memInv (pushCcq s a k w) := h

theorem memInv_pushDue {a : Nat} {r : CpRun} (h : memInv s) : memInv (pushDue s a r) := memInv_modEntry (memInv_foldl (fun _ _ => memInv_pushCcq) _ h)

theorem memInv_landedPiece {a : Nat} {r : CpRun} {i bytes : Nat} (h : memInv s) : memInv (landedPiece s a r i bytes) :=
  memInv_pushDue (memInv_modEntry (memInv_modStat h))

theorem memInv_landPiece {a : Nat} {r : CpRun} {idx : List Nat} {i : Nat} (h : memInv s) : memInv (landPiece s a r idx i) := by
  unfold landPiece
  dsimp only
  split
  · exact memInv_copyWalk h
  · exact memInv_cpFault h
  · refine memInv_ite h ?_
    split
    · exact memInv_ite (memInv_cpFault h) (memInv_sendPiece (memInv_modEntry h))
    · split
      · rename_i e
        exact memInv_landedPiece (memInv_of_fst (memInv_cpBarrier (memInv_writePiece h)) e)
      · rename_i e
        exact memInv_of_fst (memInv_cpBarrier (memInv_writePiece h)) e

theorem memInv_peerAnswer {a : Nat} {r : CpRun} {i code sub : Nat} (h : memInv s) : memInv (peerAnswer s a r i code sub) := by
  refine memInv_ite h (memInv_ite (memInv_modEntry (memInv_failStrand h)) (memInv_ite (memInv_cpFault h) ?_))
  split
  · exact h
  · exact memInv_ite (memInv_landedPiece (memInv_modEntry h)) (memInv_modEntry h)

theorem memInv_takeSource {a : Nat} {r : CpRun} {idx : List Nat} (h : memInv s) : memInv (takeSource s a r idx).1 := by
  unfold takeSource
  dsimp only
  split
  · exact h
  · split
    · exact memInv_copyWalk h
    · exact memInv_cpFault h
    · split
      · exact h
      · exact memInv_modEntry h

theorem nextInv_execCopyLanding {agent entry piece : Nat} (h : memInv s) : nextInv (execCopyLanding agent entry piece s) := by
  unfold execCopyLanding
  dsimp only
  split
  · exact h
  · refine nextInv_ite h (nextInv_ite (memInv_cpFault h) (nextInv_ite h ?_))
    split
    · rename_i e
      exact memInv_of_fst (memInv_readList h) e
    · rename_i e
      split
      · rename_i e _ _ e'
        exact memInv_of_fst (memInv_takeSource (memInv_of_fst (memInv_readList h) e)) e'
      · rename_i e _ _ _ e'
        exact memInv_landPiece (memInv_of_fst (memInv_takeSource (memInv_of_fst (memInv_readList h) e)) e')

theorem memInv_acceptCp {a : Nat} {c : CpCmd} (h : memInv s) : memInv (acceptCp s a c) := h

theorem memInv_serveCpe {n a : Nat} (h : memInv s) : memInv (serveCpe n s a) := by
  induction n generalizing s with
  | zero => exact h
  | succ n ih => grind [serveCpe, memInv_modStrand, memInv_modCp, memInv_acceptCp]

theorem memInv_kickCpe {a : Nat} (h : memInv s) : memInv (kickCpe s a) := memInv_serveCpe h

theorem memInv_setWin {a w : Nat} {v : Window} (h : memInv s) : memInv (setWin s a w v) := h

theorem memInv_backLine {a w : Nat} {v : Window} {l : WLine} (h : memInv s) {t : State} (e : backLine s a w v l = .done t) : memInv t := by
  have hback : ∀ key, memInv (setMem s (writeBackLine s (some v.tag) key l).1) := fun key => memInv_setMem h (wf_writeBackLine _ _ _ h.1)
  grind [backLine, memInv_modAgent]

theorem memInv_backLines {a w : Nat} {drop : Bool} (is : List Nat) (h : memInv s) : memInv (backLines a w drop is s).1 := by
  induction is generalizing s with
  | nil => exact h
  | cons i rest ih =>
    have hgo : ∀ (v : Window) (t : State), memInv t → memInv (backLines a w drop rest (if drop then modCp t a (fun c => { c with
        wins := mmod v c.wins w (fun v => { v with lines := v.lines.filter (fun l => l.idx != i), tail := i + 1 }) }) else t)).1 := by
      intro v t ht
      split
      · exact ih (memInv_modCp ht)
      · exact ih ht
    unfold backLines
    split
    · exact h
    · dsimp only
      split
      · exact hgo _ _ h
      · split
        · rename_i e
          exact hgo _ _ (memInv_backLine h e)
        · exact h
        · exact h

theorem memInv_raiseHead {a w : Nat} {l : WLine} (h : memInv s) : memInv (raiseHead s a w l) := h

theorem memInv_fillLine {a : Nat} {r : CpRun} {v : Window} {l : WLine} (h : memInv s) : memInv (fillLine s a r v l) := by
  unfold fillLine
  dsimp only
  split
  · exact memInv_copyWalk h
  · split
    · rename_i e
      exact memInv_modEntry (memInv_of_fst (memInv_cpBarrier (memInv_raiseHead (memInv_modAgent h))) e)
    · rename_i e
      exact memInv_of_fst (memInv_cpBarrier (memInv_raiseHead (memInv_modAgent h))) e
  · exact memInv_cpFault (memInv_raiseHead (memInv_modAgent h))
  · exact memInv_cpFault (memInv_raiseHead (memInv_modAgent h))

theorem memInv_allocLine {a : Nat} {r : CpRun} {v : Window} (h : memInv s) : memInv (allocLine s a r v) := by
  unfold allocLine
  extract_lets evict
  have hevict : memInv evict.1 := by
    dsimp only [evict]
    split
    · exact memInv_backLines _ h
    · exact h
  clear_value evict
  split
  · exact memInv_copyWalk hevict
  · exact memInv_cpFault hevict
  · exact memInv_cpFault hevict
  · exact memInv_ite (memInv_modEntry (memInv_modCp hevict)) (memInv_modCp hevict)

theorem nextInv_execWindowFill {agent entry : Nat} (h : memInv s) : nextInv (execWindowFill agent entry s) := by
  unfold execWindowFill
  split
  · exact h
  · refine nextInv_ite h ?_
    split
    · exact memInv_cpFault h
    · refine nextInv_ite (memInv_cpFault h) ?_
      split
      · exact memInv_fillLine h
      · exact memInv_allocLine h

theorem memInv_openWindow {a : Nat} {r : CpRun} (h : memInv s) : memInv (openWindow s a r) :=
  memInv_ite (memInv_cpFault h) (memInv_ite (memInv_cpFault h) (memInv_modEntry (memInv_setWin h)))

theorem memInv_syncWindow {a : Nat} {r : CpRun} {close : Bool} (h : memInv s) : memInv (syncWindow s a r close) := by
  unfold syncWindow
  dsimp only
  split
  · exact memInv_cpFault h
  · split
    · exact memInv_copyWalk h
    · rename_i e
      exact memInv_cpFault (memInv_of_fst (memInv_backLines _ h) e)
    · rename_i e
      exact memInv_cpFault (memInv_of_fst (memInv_backLines _ h) e)
    · rename_i e
      have hback := memInv_of_fst (memInv_backLines _ h) e
      have hclosed := fun i => memInv_cpBarrier (a := a) (r := r) (arrive := true) (bytes := 0) (memInv_ite (p := close) (memInv_modCp (a := a) (f := i) hback) hback)
      split
      · rename_i e
        exact memInv_modEntry (memInv_of_fst (hclosed _) e)
      · rename_i e
        exact memInv_of_fst (hclosed _) e

theorem memInv_leaveTable {a : Nat} {r : CpRun} (h : memInv s) : memInv (leaveTable s a r) := by
  refine memInv_settle (memInv_kickCpe (memInv_modCp (memInv_ite ?_ ?_)))
  · split
    · exact memInv_pushCcq h
    · exact h
  · refine memInv_modStat ?_
    split
    · exact memInv_pushCcq h
    · exact h

theorem memInv_completeCp {a k : Nat} (h : memInv s) : memInv (completeCp s a k) := by
  unfold completeCp
  split
  · exact h
  · exact memInv_ite (memInv_pushDue h) (memInv_ite (memInv_leaveTable h) (memInv_ite (memInv_openWindow h) (memInv_syncWindow h)))

theorem nextInv_execCommandCompletion {agent strand : Nat} {cpe : Bool} (h : memInv s) : nextInv (execCommandCompletion agent strand cpe s) :=
  memInv_ite (memInv_completeCp h) (memInv_completeMx h)

end Sys2Proof.Machine
end

section
/-!
SUPPORT for O58. Canonical memory through the model, Engines: matrix, copy, window and barrier instructions.
-/

namespace Sys2Proof.Machine

open Sys2Proof.Spec

variable {α : Type} {s : State}

theorem keeps_syncFault {fn eng : Nat} {tag : BitVec 12} {code : Nat} : Keeps (syncFault fn eng tag code : Exec α) := keeps_trapAt

theorem keeps_pushMx {fn : Nat} {tag : BitVec 12} {bad : Option Nat} {op : MxOp} : Keeps (pushMx fn tag bad op) := by
  cases bad with
  | some c => exact keeps_syncFault
  | none => exact keeps_bind (keeps_modS fun _ h => memInv_kickMxe h) fun _ => keeps_pure

theorem keeps_mxRoom : Keeps (mxRoom) := keeps_until'

theorem keeps_cpRoom : Keeps (cpRoom) := keeps_until'

theorem keeps_doneOf {cs : Compl} : Keeps (doneOf cs) :=
  keeps_ite (keeps_bind (keeps_bind keeps_readReg fun _ => keeps_pure) fun _ => keeps_pure) (keeps_bind keeps_pure fun _ => keeps_pure)

theorem nextInv_execMxcfg {g : Guard} {f : BitVec 9} {mode bank : BitVec 2} (h : memInv s) : nextInv (execMxcfg g f mode bank s) :=
  nextInv_runWord h (keeps_engine (keeps_bind keeps_mxRoom fun _ => keeps_pushMx))

theorem nextInv_execMxzero {g : Guard} {bank : BitVec 2} (h : memInv s) : nextInv (execMxzero g bank s) :=
  nextInv_runWord h (keeps_engine (keeps_bind keeps_mxRoom fun _ => keeps_pushMx))

theorem nextInv_execMxldw {g : Guard} {a : Reg} {sc : BitVec 1} {kq wt : BitVec 3} {buf : BitVec 1} (h : memInv s) : nextInv (execMxldw g a sc kq wt buf s) :=
  nextInv_runWord h (keeps_engine (keeps_bind keeps_mxRoom fun _ => keeps_bind keeps_readReg fun _ => keeps_pushMx))

theorem nextInv_execMxpass {g : Guard} {a b : Reg} {mhalf : BitVec 1} {at' : BitVec 2} {asc zf : BitVec 1} {nm1 : BitVec 7} {buf : BitVec 1} {bank : BitVec 2} (h : memInv s) :
    nextInv (execMxpass g a b mhalf at' asc zf nm1 buf bank s) :=
  nextInv_runWord h (keeps_engine (keeps_bind keeps_mxRoom fun _ => keeps_bind keeps_readReg fun _ => keeps_bind keeps_readReg fun _ => keeps_pushMx))

theorem nextInv_execMxarm {g : Guard} {a b : Reg} {slot : BitVec 3} (h : memInv s) : nextInv (execMxarm g a b slot s) :=
  nextInv_runWord h (keeps_engine (keeps_bind keeps_mxRoom fun _ => keeps_bind keeps_readReg fun _ => keeps_bind keeps_readReg fun _ => keeps_pushMx))

theorem nextInv_execMxdisarm {g : Guard} {slot : BitVec 3} (h : memInv s) : nextInv (execMxdisarm g slot s) :=
  nextInv_runWord h (keeps_engine (keeps_bind keeps_mxRoom fun _ => keeps_pushMx))

theorem nextInv_execMxdrain {g : Guard} {a b c : Reg} {cs : Compl} {bank : BitVec 2} (h : memInv s) : nextInv (execMxdrain g a b c cs bank s) :=
  nextInv_runWord h (keeps_engine (keeps_bind keeps_mxRoom fun _ => keeps_bind keeps_readReg fun _ => keeps_bind keeps_readReg fun _ =>
    keeps_bind keeps_readReg fun _ => keeps_bind keeps_doneOf fun _ => keeps_check keeps_syncFault fun _ => keeps_bind keeps_reads fun _ =>
    keeps_bind keeps_drawFor fun _ => keeps_pushMx))

theorem nextInv_execMxramp {g : Guard} {n : BitVec 16} (h : memInv s) : nextInv (execMxramp g n s) :=
  nextInv_runWord h (keeps_engine (keeps_bind keeps_mxRoom fun _ => keeps_pushMx))

theorem nextInv_execMxwait {g : Guard} {n : BitVec 8} (h : memInv s) : nextInv (execMxwait g n s) :=
  nextInv_runWord h (keeps_engine (keeps_bind keeps_until' fun _ => keeps_pure))

theorem nextInv_execMxpert {g : Guard} {a : Reg} {n m : BitVec 7} {bank : BitVec 2} (h : memInv s) : nextInv (execMxpert g a n m bank s) :=
  nextInv_runWord h (keeps_engine (keeps_bind keeps_mxRoom fun _ => keeps_bind keeps_readReg fun _ => keeps_bind keeps_reads fun _ => keeps_pushMx))

theorem nextInv_execMxstat {g : Guard} {a : Reg} {bank : BitVec 2} (h : memInv s) : nextInv (execMxstat g a bank s) :=
  nextInv_runWord h (keeps_engine (keeps_bind keeps_reads fun _ => keeps_bind keeps_writeReg fun _ => keeps_pure))

theorem keeps_pushCp {c : CpCmd} {bad : Bool} : Keeps (pushCp c bad) := by
  unfold pushCp
  exact keeps_check keeps_syncFault fun _ => keeps_bind (keeps_modS fun _ ht => memInv_kickCpe (memInv_modCur (memInv_modCurAgent ht))) fun _ => keeps_pure

theorem nextInv_execCpy {g : Guard} {a b c : Reg} {cs : Compl} {ctslot ct : BitVec 1} (h : memInv s) : nextInv (execCpy g a b c cs ctslot ct s) := by
  unfold execCpy
  exact nextInv_runWord h (keeps_engine (keeps_bind keeps_cpRoom fun _ => keeps_bind keeps_readReg fun _ => keeps_bind keeps_readReg fun _ => keeps_bind
    keeps_readReg fun _ => keeps_bind keeps_doneOf fun _ => keeps_bind keeps_reads fun _ => keeps_pushCp))

theorem keeps_pairOf {c : Reg} : Keeps (pairOf c) := keeps_reads

theorem nextInv_execCpy2d {g : Guard} {a b c : Reg} {cs : Compl} (h : memInv s) : nextInv (execCpy2d g a b c cs s) := by
  unfold execCpy2d
  refine nextInv_runWord h (keeps_engine (keeps_bind keeps_cpRoom fun _ => keeps_bind keeps_readReg fun _ => keeps_bind keeps_readReg fun _ => keeps_bind
    keeps_pairOf fun _ => ?_))
  split
  · exact keeps_bind keeps_doneOf fun _ => keeps_pushCp

theorem nextInv_execCpyg {g : Guard} {a b c : Reg} {cs : Compl} {arr : BitVec 1} (h : memInv s) : nextInv (execCpyg g a b c cs arr s) := by
  unfold execCpyg
  refine nextInv_runWord h (keeps_engine (keeps_bind keeps_cpRoom fun _ => keeps_bind keeps_readReg fun _ => keeps_bind keeps_readReg fun _ => keeps_bind
    keeps_pairOf fun _ => ?_))
  split
  · exact keeps_bind keeps_doneOf fun _ => keeps_pushCp

theorem nextInv_execCpys {g : Guard} {a b c : Reg} {cs : Compl} (h : memInv s) : nextInv (execCpys g a b c cs s) := by
  unfold execCpys
  refine nextInv_runWord h (keeps_engine (keeps_bind keeps_cpRoom fun _ => keeps_bind keeps_readReg fun _ => keeps_bind keeps_readReg fun _ => keeps_bind
    keeps_pairOf fun _ => ?_))
  split
  · exact keeps_bind keeps_doneOf fun _ => keeps_pushCp

theorem nextInv_execCpyf {g : Guard} {a b c : Reg} {cs : Compl} (h : memInv s) : nextInv (execCpyf g a b c cs s) := by
  unfold execCpyf
  exact nextInv_runWord h (keeps_engine (keeps_bind keeps_cpRoom fun _ => keeps_bind keeps_readReg fun _ => keeps_bind keeps_readReg fun _ => keeps_bind
    keeps_readReg fun _ => keeps_bind keeps_doneOf fun _ => keeps_pushCp))

theorem nextInv_execCpym {g : Guard} {a b c : Reg} {cs : Compl} {km1 : BitVec 4} (h : memInv s) : nextInv (execCpym g a b c cs km1 s) := by
  unfold execCpym
  refine nextInv_runWord h (keeps_engine (keeps_bind keeps_cpRoom fun _ => keeps_bind keeps_readReg fun _ => keeps_bind keeps_readReg fun _ => keeps_bind
    keeps_pairOf fun _ => ?_))
  split
  · exact keeps_bind keeps_doneOf fun _ => keeps_pushCp

theorem nextInv_execCpstat {g : Guard} {a : Reg} {tag : BitVec 12} (h : memInv s) : nextInv (execCpstat g a tag s) :=
  nextInv_runWord h (keeps_engine (keeps_bind keeps_reads fun _ => keeps_bind keeps_writeReg fun _ => keeps_pure))

theorem nextInv_execCpwait {g : Guard} {n : BitVec 10} (h : memInv s) : nextInv (execCpwait g n s) :=
  nextInv_runWord h (keeps_engine (keeps_bind keeps_until' fun _ => keeps_pure))

theorem nextInv_execCtcfg {g : Guard} {a b c : Reg} {slot : BitVec 1} (h : memInv s) : nextInv (execCtcfg g a b c slot s) :=
  nextInv_runWord h (keeps_engine (keeps_bind keeps_readReg fun _ => keeps_bind keeps_readReg fun _ => keeps_bind keeps_readReg fun _ => keeps_check
    keeps_syncFault fun _ => keeps_bind (keeps_modS fun _ => memInv_modCur) fun _ => keeps_pure))

theorem nextInv_execWopen {g : Guard} {a b c : Reg} {w : BitVec 4} (h : memInv s) : nextInv (execWopen g a b c w s) := by
  unfold execWopen
  exact nextInv_runWord h (keeps_engine (keeps_bind keeps_cpRoom fun _ => keeps_bind keeps_readReg fun _ => keeps_bind keeps_readReg fun _ => keeps_bind
    keeps_readReg fun _ => keeps_pushCp))

theorem nextInv_execWadv {g : Guard} {a : Reg} {cs : Compl} {w : BitVec 4} (h : memInv s) : nextInv (execWadv g a cs w s) := by
  unfold execWadv
  exact nextInv_runWord h (keeps_engine (keeps_bind keeps_cpRoom fun _ => keeps_bind keeps_readReg fun _ => keeps_bind keeps_doneOf fun _ => keeps_pushCp))

theorem nextInv_execWsync {g : Guard} {a : Reg} {cs : Compl} {w : BitVec 4} (h : memInv s) : nextInv (execWsync g a cs w s) := by
  unfold execWsync
  exact nextInv_runWord h (keeps_engine (keeps_bind keeps_cpRoom fun _ => keeps_bind keeps_readReg fun _ => keeps_bind keeps_doneOf fun _ => keeps_pushCp))

theorem nextInv_execWclose {g : Guard} {cs : Compl} {w : BitVec 4} (h : memInv s) : nextInv (execWclose g cs w s) := by
  unfold execWclose
  exact nextInv_runWord h (keeps_engine (keeps_bind keeps_cpRoom fun _ => keeps_bind keeps_doneOf fun _ => keeps_pushCp))

theorem keeps_barPlace {ga : Word} {load : Bool} : Keeps (barPlace ga load) := by
  refine keeps_check keeps_trapAt fun _ => keeps_getS fun s _ => ?_
  split
  · exact keeps_pure
  · exact keeps_pure
  · exact keeps_pure
  · refine keeps_bind keeps_resolveName fun p => ?_
    cases p with
    | some p => exact keeps_pure
    | none => exact keeps_trapAt
  · exact keeps_trapAt

theorem nextInv_execBinit {g : Guard} {a : Reg} {p1 : BitVec 1} {count : BitVec 7} (h : memInv s) : nextInv (execBinit g a p1 count s) :=
  nextInv_runWord h (keeps_engine (keeps_bind keeps_readReg fun _ => keeps_bind keeps_barPlace fun _ => keeps_bind keeps_behindSbar fun _ => keeps_bind
    (keeps_modS fun _ => memInv_sendReq) fun _ => keeps_pure))

theorem keeps_updateBar {fn : Nat} {ga : Word} {arrive : Bool} {dbytes : Word} {before : Exec Unit} (hbefore : Keeps before) :
    Keeps (updateBar fn ga arrive dbytes before) :=
  keeps_bind (keeps_onceAtHome (keeps_bind keeps_barPlace fun _ => keeps_bind keeps_behindSbar fun _ => keeps_bind hbefore fun _ => keeps_atHome)) fun _ =>
    keeps_bind keeps_notPoisoned fun _ => keeps_ite keeps_trapAt keeps_pure

theorem nextInv_execBexp {g : Guard} {a b : Reg} (h : memInv s) : nextInv (execBexp g a b s) :=
  nextInv_runWord h (keeps_engine (keeps_bind keeps_readReg fun _ => keeps_bind keeps_readReg fun _ => keeps_bind (keeps_updateBar keeps_pure) fun _ =>
    keeps_pure))

theorem nextInv_execBarv {g : Guard} {a b : Reg} {scope : BitVec 2} {exp : BitVec 1} (h : memInv s) : nextInv (execBarv g a b scope exp s) :=
  nextInv_runWord h (keeps_engine (keeps_bind keeps_readReg fun _ => keeps_ite (keeps_bind keeps_readReg fun _ => keeps_bind (keeps_updateBar
    keeps_release) fun _ => keeps_pure) (keeps_bind keeps_pure fun _ => keeps_bind (keeps_updateBar keeps_release) fun _ => keeps_pure)))

theorem nextInv_execBwait {g : Guard} {a b : Reg} {scope : BitVec 2} (h : memInv s) : nextInv (execBwait g a b scope s) :=
  nextInv_runWord h (keeps_engine (keeps_bind keeps_readReg fun _ => keeps_bind keeps_readReg fun _ => keeps_bind keeps_barPlace fun _ =>
    keeps_bind keeps_behindSbar fun _ => keeps_bind keeps_homeReady fun _ => keeps_bind keeps_reads fun _ => keeps_bind keeps_notPoisoned fun _ =>
    keeps_bind keeps_until' fun _ => keeps_bind keeps_acquire fun _ => keeps_pure))

theorem nextInv_execBtest {g : Guard} {pc : PReg} {a b : Reg} {scope : BitVec 2} (h : memInv s) : nextInv (execBtest g pc a b scope s) :=
  nextInv_runWord h (keeps_engine (keeps_bind keeps_readReg fun _ => keeps_bind keeps_readReg fun _ => keeps_bind (keeps_onceAtHome (keeps_bind
    keeps_barPlace fun _ => keeps_bind keeps_behindSbar fun _ => keeps_atHome)) fun _ => keeps_bind keeps_notPoisoned fun _ => keeps_bind (keeps_modS fun _
    => memInv_modCur) fun _ => keeps_bind keeps_acquireIf fun _ => keeps_pure))

end Sys2Proof.Machine
end

section
/-!
SUPPORT for O58. Canonical memory through the model, Reduce: reduction calls.
-/

namespace Sys2Proof.Machine

open Sys2Proof.Spec

variable {α : Type} {s : State}

theorem memInv_putRdu {c : RduCall} (h : memInv s) : memInv (putRdu s c) := h

theorem memInv_endAbort {g reason : Nat} (h : memInv s) : memInv (endAbort s g reason) := h

theorem memInv_abortGroup {g reason from' : Nat} (h : memInv s) : memInv (abortGroup s g reason from') := by
  unfold abortGroup
  split
  · exact memInv_endAbort h
  · exact memInv_ite (memInv_sendFrame (memInv_endAbort h)) (memInv_endAbort h)

theorem memInv_sendDown {r g : Nat} {seq : BitVec 32} {all here : Bool} {res : List Word} {status : Nat} (h : memInv s) :
    memInv (sendDown s r g seq all here res status) := h

theorem memInv_finishCall {r g : Nat} {c : RduCall} {vals : List PVal} {escapes : Nat} {backup : Bool} (h : memInv s) :
    memInv (finishCall s r g c vals escapes backup) := by
  unfold finishCall
  split
  · exact memInv_ite (memInv_sendFrame (memInv_sendDown h)) (memInv_sendDown h)

theorem memInv_restartHere {g : Nat} {counts : Bool} (h : memInv s) : memInv (restartHere s g counts) :=
  memInv_withNet (memInv_foldl (fun _ _ => memInv_modAgent) _ h)

theorem memInv_passRestart {g : Nat} {counts : Bool} {from' : Nat} (h : memInv s) : memInv (passRestart s g counts from') := by
  unfold passRestart
  split
  · exact h
  · exact memInv_ite (memInv_sendFrame h) h

theorem memInv_restartCall {g : Nat} {counts : Bool} (h : memInv s) : memInv (restartCall s g counts) := memInv_passRestart (memInv_restartHere h)

theorem memInv_replayCall {g : Nat} (h : memInv s) : memInv (replayCall s g) := memInv_ite h (memInv_ite (memInv_abortGroup h) (memInv_restartCall h))

theorem memInv_residueReplay {r g : Nat} (h : memInv s) : memInv (residueReplay s r g) := memInv_replayCall (memInv_postUnit h)

theorem memInv_receivePacket {k : Packet} (h : memInv s) : memInv (receivePacket s k) :=
  memInv_ite h (memInv_ite (memInv_residueReplay h) (memInv_withNet (memInv_ite h (memInv_putRdu h))))

theorem memInv_forwardPacket {r g : Nat} (h : memInv s) : memInv (forwardPacket s r g) := by
  unfold forwardPacket
  dsimp only
  split
  · exact memInv_ite h (memInv_receivePacket (memInv_passFlits (memInv_putRdu h)))
  · exact h

theorem keeps_abortWith {seq group reason : Nat} : Keeps (abortWith seq group reason : Exec α) := fun _ _ _ h => h

theorem nextInv_execRdopen {g : Guard} {a b c : Reg} {base : BitVec 9} {all sat : BitVec 1} {ty op : BitVec 4} (h : memInv s) :
    nextInv (execRdopen g a b c base all sat ty op s) :=
  nextInv_runWord h (keeps_engine (keeps_bind keeps_readReg fun _ => keeps_bind keeps_readReg fun _ => keeps_bind keeps_readReg fun _ =>
    keeps_check keeps_abortWith fun _ => keeps_bind keeps_reads fun _ => keeps_check keeps_abortWith fun _ => keeps_bind keeps_until' fun _ =>
    keeps_bind (keeps_modS fun _ h => h) fun _ => keeps_pure))

theorem nextInv_execRdcs {g : Guard} {a b : Reg} (h : memInv s) : nextInv (execRdcs g a b s) :=
  nextInv_runWord h (keeps_engine (keeps_bind keeps_readReg fun _ => keeps_bind keeps_readReg fun _ => keeps_bind keeps_owingCall fun _ => keeps_bind
    keeps_contribute fun _ => keeps_pure))

theorem nextInv_execRdcb {g : Guard} {a b c : Reg} (h : memInv s) : nextInv (execRdcb g a b c s) :=
  nextInv_runWord h (keeps_engine (keeps_bind keeps_readReg fun _ => keeps_bind keeps_readReg fun _ => keeps_bind keeps_readReg fun _ =>
    keeps_bind keeps_owingCall fun _ => keeps_check keeps_abortCall fun _ => keeps_check keeps_trapAt fun _ => keeps_bind keeps_reads fun _ =>
    keeps_check keeps_trapAt fun _ => keeps_bind keeps_release fun _ => keeps_bind (keeps_modS fun _ h => h) fun _ => keeps_pure))

theorem nextInv_execRdres {g : Guard} {a b : Reg} {cs : Compl} {rq : BitVec 1} (h : memInv s) : nextInv (execRdres g a b cs rq s) := by
  refine nextInv_runWord h (keeps_engine (keeps_bind keeps_readReg fun ga => keeps_bind keeps_reads fun there => ?_))
  have hopen : ∀ (c : OpenCall) (gb : Word) (dn : Done), Keeps (do
      release 0
      modS (fun s => modCurAgent s (fun x => putCall x { c with res := some ⟨gb, rq = 1, dn, s.env.strand⟩ }))
      return Ctl.next) := fun c gb dn => keeps_bind keeps_release fun _ => keeps_bind (keeps_modS fun _ => memInv_modCurAgent) fun _ => keeps_pure
  have hrest : ∀ gb : Word, Keeps (do
      let dn ← doneOf cs
      match ← reads (fun s => callOf (curAgent s) (groupOf ga)) with
      | none => abortCall (groupOf ga) 5
      | some c =>
        if c.res.isSome then abortCall (groupOf ga) 5
        if there then
          if rq = 1 then
            if 4 ≤ gb.toNat then abortCall (groupOf ga) 4
          else
            if gb.toNat % 8 ≠ 0 then trapAt cMISALIGN gb 8
            if lsBytes < gb.toNat + statusOff c + 8 then trapAt cSTORE gb 1
        release 0
        modS (fun s => modCurAgent s (fun x => putCall x { c with res := some ⟨gb, rq = 1, dn, s.env.strand⟩ }))
        return Ctl.next) := by
    refine fun gb => keeps_bind keeps_doneOf fun dn => keeps_bind keeps_reads fun call => ?_
    cases call with
    | none => exact keeps_abortCall
    | some c =>
      exact keeps_check keeps_abortCall fun _ => keeps_ite
        (keeps_ite (keeps_check keeps_abortCall fun _ => hopen c gb dn) (keeps_check keeps_trapAt fun _ => keeps_check keeps_trapAt fun _ => hopen c gb dn))
        (hopen c gb dn)
  exact keeps_ite (keeps_bind keeps_readReg hrest) (keeps_bind keeps_pure hrest)

theorem nextInv_execCallAdmission {router group : Nat} (h : memInv s) : nextInv (execCallAdmission router group s) := by
  unfold execCallAdmission
  dsimp only
  refine nextInv_ite h (nextInv_ite h ?_)
  split
  · exact h
  · exact nextInv_ite h (nextInv_ite (memInv_abortGroup h) (memInv_putRdu h))

theorem memInv_loseContribution {r g key strand : Nat} {addr : Word} (h : memInv s) : memInv (loseContribution s r g key strand addr) := by
  refine memInv_modAgent ?_
  split
  · exact memInv_failTask (memInv_postPoison h)
  · exact memInv_postPoison h

theorem memInv_contributePacket {a g : Nat} (h : memInv s) : memInv (contributePacket s a g) := by
  unfold contributePacket
  split
  · exact h
  · refine memInv_ite h ?_
    split
    · exact h
    · exact memInv_loseContribution h
    · exact memInv_receivePacket (memInv_modAgent h)

theorem nextInv_execPartialCombine {router group pos : Nat} (h : memInv s) : nextInv (execPartialCombine router group pos s) := by
  unfold execPartialCombine
  split
  · exact h
  · exact nextInv_ite h (nextInv_ite h (memInv_putRdu h))

theorem memInv_mismatchReplay {r g pos : Nat} (h : memInv s) : memInv (mismatchReplay s r g pos) := memInv_replayCall (memInv_postUnit h)

theorem memInv_sendPartial {r g : Nat} {c : RduCall} {escapes before : Nat} {vals : List PVal} {esc : List Bool} (h : memInv s) :
    memInv (sendPartial s r g c escapes before vals esc) := memInv_sendFrame (memInv_putRdu h)

theorem nextInv_execRootRounding {router group : Nat} (h : memInv s) : nextInv (execRootRounding router group s) := by
  unfold execRootRounding
  split
  · exact h
  · split
    · exact memInv_mismatchReplay h
    · exact nextInv_ite (memInv_finishCall h) (nextInv_ite h (nextInv_ite (memInv_finishCall h) (memInv_sendPartial h)))

theorem nextInv_execRingHop {group : Nat} (h : memInv s) : nextInv (execRingHop group s) := by
  unfold execRingHop
  split
  · exact h
  · split
    · exact h
    · refine nextInv_ite h ?_
      split
      · exact h
      · exact memInv_mismatchReplay h
      · exact nextInv_ite h (nextInv_ite (memInv_finishCall h) (memInv_sendPartial h))

theorem memInv_postAbort {a : Nat} {c : OpenCall} {reason : Nat} (h : memInv s) : memInv (postAbort s a c reason) := memInv_postFault h fun _ ht => ht

theorem memInv_putToken {t t' : CallToken} (h : memInv s) : memInv (putToken s t t') := h

theorem memInv_endCall {t : CallToken} {c : OpenCall} (h : memInv s) : memInv (endCall s t c) := h

theorem memInv_completeCall {t : CallToken} {c : OpenCall} {r : ResSpec} (h : memInv s) : memInv (completeCall s t c r) := by
  unfold completeCall
  extract_lets s' elem push
  have h' : memInv s' := memInv_endCall h
  have hpush : ∀ u, memInv u → memInv (push u) := fun _ hu => memInv_ite (memInv_modStrand hu) hu
  split
  · exact hpush _ h'
  · split
    · rename_i e
      exact hpush _ (memInv_of_fst (memInv_engineBar h') e)
    · rename_i e
      exact memInv_postEngine (memInv_of_fst (memInv_engineBar h') e)
    · rename_i e
      exact memInv_poisonCommand (memInv_of_fst (memInv_engineBar h') e)

theorem nextInv_execCompletionToken {agent group : Nat} (h : memInv s) : nextInv (execCompletionToken agent group s) := by
  unfold execCompletionToken
  split
  · exact h
  · split
    · exact h
    · refine nextInv_ite (memInv_putToken (memInv_postAbort h)) ?_
      split
      · exact memInv_ite h (memInv_endCall h)
      · exact nextInv_ite (nextInv_ite (memInv_completeCall h) h) (nextInv_ite (nextInv_ite h (memInv_completeCall (memInv_setMem h (wf_writeWord _ _
          (wf_writeBytes _ _ h.1))))) (nextInv_ite (nextInv_ite (memInv_completeCall h) h) (nextInv_ite h (memInv_putToken (memInv_modAgent h)))))

theorem memInv_expirePair {g : Nat} {seen : Option RduCall} {backupHere : Bool} (h : memInv s) : memInv (expirePair s g seen backupHere) := by
  unfold expirePair
  split
  · exact h
  · split
    · exact memInv_putRdu h
    · split
      · exact memInv_putRdu h
      · exact memInv_abortGroup h

theorem nextInv_execCalldlExpiry {router group : Nat} (h : memInv s) : nextInv (execCalldlExpiry router group s) := by
  unfold execCalldlExpiry
  dsimp only
  refine nextInv_ite h ?_
  split
  · exact memInv_expirePair h
  · split
    · exact h
    · exact nextInv_ite h (nextInv_ite (memInv_abortGroup h) (nextInv_ite (nextInv_ite (memInv_restartCall (memInv_expirePair h)) (memInv_abortGroup h))
        (nextInv_ite h (memInv_expirePair h))))

theorem nextInv_execCallReplay {group cause pos : Nat} (h : memInv s) : nextInv (execCallReplay group cause pos s) := by
  unfold execCallReplay
  split
  · exact h
  · refine nextInv_ite h ?_
    split
    · exact memInv_residueReplay h
    · exact memInv_mismatchReplay h
    · exact memInv_replayCall (memInv_postUnit h)

theorem memInv_ringPartial {sender : Nat} {b : List Byte} (h : memInv s) : memInv (ringPartial s sender b) := by
  unfold ringPartial
  dsimp only
  split
  · exact h
  · refine memInv_ite h ?_
    split
    · exact memInv_residueReplay h
    · exact h

theorem memInv_ringResult {b : List Byte} (h : memInv s) : memInv (ringResult s b) := by
  unfold ringResult
  dsimp only
  split
  · exact h
  · exact memInv_ite (memInv_sendDown h) (memInv_sendFrame (memInv_sendDown h))

theorem memInv_ringAbort {b : List Byte} (h : memInv s) : memInv (ringAbort s b) :=
  memInv_ite h (memInv_ite (memInv_passRestart (memInv_restartHere h)) (memInv_ite h (memInv_abortGroup h)))

end Sys2Proof.Machine
end

section
/-!
SUPPORT for O58. Canonical memory through the model, System: system words.
-/

namespace Sys2Proof.Machine

open Sys2Proof.Spec

variable {α : Type} {s : State}

theorem memInv_modRow {r : Nat} {f : Row → Row} (h : memInv s) : memInv (modRow s r f) := h

theorem memInv_beginWave {r : Nat} {dead : BitVec 17} (h : memInv s) : memInv (beginWave s r dead) := h

theorem memInv_declareDead {p : Nat} (h : memInv s) : memInv (declareDead s p) :=
  memInv_ite (memInv_ite h (memInv_modAgent h)) (memInv_ite (memInv_beginWave (memInv_ite h (memInv_modAgent h))) (memInv_modRow (memInv_ite h
    (memInv_modAgent h))))

theorem keeps_sysIllegal {field : Nat} : Keeps (sysIllegal field : Exec α) := keeps_trapPc

theorem keeps_checkSys {n : Nat} {write : Bool} : Keeps (checkSys n write) :=
  keeps_getS fun _ _ => keeps_check keeps_trapPc fun _ => keeps_check keeps_sysIllegal fun _ => keeps_ite keeps_sysIllegal keeps_pure

theorem memInv_mirror {c : Nat} (h : memInv s) : memInv (mirror s c) := memInv_setMem h (wf_writeWord _ _ h.1)

theorem memInv_answerWalk {token : Nat} {retry : Bool} (h : memInv s) : memInv (answerWalk s token retry) := h

theorem memInv_writeCkpt {op : BitVec 2} (h : memInv s) : memInv (writeCkpt s op) := by
  refine memInv_ite h ?_
  split
  · exact h
  · exact memInv_ite h h
  · exact h

theorem keeps_setSys {f : SysRegs → SysRegs} : Keeps (setSys f) := keeps_modS fun _ => memInv_modCur

theorem keeps_writeStrandReg {n : Nat} {v : Word} : Keeps (writeStrandReg n v) := by
  unfold writeStrandReg
  split
  · split
    · exact keeps_sysIllegal
    · exact keeps_setSys
  all_goals exact keeps_setSys

theorem keeps_modOs {f : Os → Os} : Keeps (modOs f) := keeps_modS fun _ ht => ht

theorem keeps_modRel {f : Rel → Rel} (hf : ∀ r, (f r).ckpt = r.ckpt) : Keeps (modRel f) :=
  keeps_modS fun s h => ⟨h.1, copiesInv_congr h.2 (congrArg Ckpt.slots (hf s.rel)) (congrArg Ckpt.staged (hf s.rel))⟩

theorem keeps_writeSysReg {n : Nat} {v : Word} : Keeps (writeSysReg n v) := by
  unfold writeSysReg
  split
  · exact keeps_writeStrandReg
  · split
    · exact keeps_modS fun s h => by split <;> exact h
    · split
      · exact keeps_modOs
      · exact keeps_modS fun s h => memInv_foldl (fun _ _ => memInv_mirror) _ (s := { s with os := _ }) h
      · split
        · exact keeps_sysIllegal
        · exact keeps_modS fun s => memInv_setMaxmsg
      · exact keeps_modOs
      · exact keeps_modS fun s => memInv_setCalldl
      · exact keeps_modS fun s => memInv_modCurAgent
      · dsimp only
        split
        · exact keeps_sysIllegal
        · exact keeps_modS fun s => memInv_answerWalk
      · split
        · exact keeps_sysIllegal
        · exact keeps_modRel fun _ => rfl
      · exact keeps_modS fun s h => by split <;> exact h
      · split
        · exact keeps_sysIllegal
        · exact keeps_modRel fun _ => rfl
      · dsimp only
        split
        · exact keeps_sysIllegal
        · refine keeps_modS fun s h => ?_
          split
          · exact memInv_declareDead h
          · exact h
      · split
        · exact keeps_sysIllegal
        · exact keeps_modS fun s => memInv_writeCkpt
      · exact keeps_pure

theorem keeps_moveToSys {g : Guard} {a : Reg} {n : Nat} : Keeps (moveToSys g a n) :=
  keeps_scalar (keeps_bind keeps_readReg fun _ => keeps_bind keeps_checkSys fun _ => keeps_bind keeps_writeSysReg fun _ => keeps_pure)

theorem nextInv_execMfs {g : Guard} {d : Reg} {num : BitVec 12} (h : memInv s) : nextInv (execMfs g d num s) :=
  nextInv_runWord h (keeps_scalar (keeps_bind keeps_checkSys fun _ => keeps_bind keeps_reads fun _ => keeps_bind keeps_writeReg fun _ => keeps_pure))

theorem nextInv_execMts {g : Guard} {a : Reg} {num : BitVec 12} (h : memInv s) : nextInv (execMts g a num s) := nextInv_runWord h keeps_moveToSys

theorem nextInv_execErrinjWrite {g : Guard} {a : Reg} (h : memInv s) : nextInv (execErrinjWrite g a s) := nextInv_runWord h keeps_moveToSys

theorem nextInv_execFaultansWrite {g : Guard} {a : Reg} (h : memInv s) : nextInv (execFaultansWrite g a s) := nextInv_runWord h keeps_moveToSys

theorem nextInv_execRowstateKill {g : Guard} {a : Reg} (h : memInv s) : nextInv (execRowstateKill g a s) := nextInv_runWord h keeps_moveToSys

theorem nextInv_execRemapstatRebuild {g : Guard} {a : Reg} (h : memInv s) : nextInv (execRemapstatRebuild g a s) := nextInv_runWord h keeps_moveToSys

theorem nextInv_execCkptCheckpoint {g : Guard} {a : Reg} (h : memInv s) : nextInv (execCkptCheckpoint g a s) := nextInv_runWord h keeps_moveToSys

theorem nextInv_execCkptRestore {g : Guard} {a : Reg} (h : memInv s) : nextInv (execCkptRestore g a s) := nextInv_runWord h keeps_moveToSys

theorem nextInv_execTopo {g : Guard} {d : Reg} {w : BitVec 1} (h : memInv s) : nextInv (execTopo g d w s) :=
  nextInv_runWord h (keeps_scalar (keeps_bind keeps_reads fun _ => keeps_bind keeps_writeReg fun _ => keeps_pure))

theorem nextInv_execTret {g : Guard} (h : memInv s) : nextInv (execTret g s) :=
  nextInv_runWord h (keeps_scalar (keeps_bind keeps_reads fun _ => keeps_pure))

theorem keeps_streamDone : Keeps (streamDone) := keeps_bind keeps_until' fun _ => keeps_behindSbar

theorem keeps_noOperand : Keeps (noOperand) := keeps_pure

theorem keeps_answered {g : Guard} {d : Reg} {rd : Exec Word} {x : Word → Exec Word} (hrd : Keeps rd) (hx : ∀ a, Keeps (x a)) : Keeps (answered g d rd x) := by
  refine keeps_scalar (keeps_bind hrd fun _ => keeps_bind keeps_streamDone fun _ => keeps_getS fun s _ => ?_)
  split
  · exact keeps_bind keeps_writeReg fun _ => keeps_pure
  · exact keeps_bind (hx _) fun _ => keeps_bind keeps_writeReg fun _ => keeps_pure

theorem memInv_answerStrand {a k : Nat} {w : Word} (h : memInv s) : memInv (answerStrand s a k w) := h

theorem nextInv_execSyscall {g : Guard} {d a : Reg} {lode : BitVec 1} {svc : BitVec 16} (h : memInv s) : nextInv (execSyscall g d a lode svc s) := by
  refine nextInv_runWord h (keeps_scalar (keeps_bind keeps_readReg fun v => keeps_getS fun s _ => ?_))
  split
  · exact keeps_bind keeps_behindSbar fun _ => keeps_bind keeps_acquire fun _ => keeps_bind keeps_writeReg fun _ => keeps_pure
  · refine keeps_bind keeps_release fun _ => keeps_waitWith fun s h => ?_
    split <;> exact h

theorem nextInv_execHalt {g : Guard} {d : Reg} {us : BitVec 20} (h : memInv s) : nextInv (execHalt g d us s) := by
  unfold execHalt
  dsimp only
  refine nextInv_runWord h (keeps_scalar (keeps_bind keeps_streamDone fun _ => keeps_getS fun _ _ => ?_))
  split
  · exact keeps_waitFor
  · exact keeps_bind keeps_writeReg fun _ => keeps_pure

theorem nextInv_execHaltTimeout {agent strand : Nat} (h : memInv s) : nextInv (execHaltTimeout agent strand s) := nextInv_ite (memInv_answerStrand h) h

theorem keeps_cfgPlace {ga : Word} {cause : Nat} : Keeps (cfgPlace ga cause) := by
  unfold cfgPlace
  exact keeps_check keeps_trapAt fun _ => keeps_getS fun _ _ => keeps_check keeps_trapAt fun _ => keeps_check keeps_waitFor fun _ => keeps_pure

theorem memInv_stageWord {p w : Nat} {v : Word} (h : memInv s) : memInv (stageWord s p w v) :=
  memInv_ite (memInv_setAgent h) (memInv_ite (memInv_postUnit (memInv_disarmHook (memInv_setAgent h))) (memInv_ite h (memInv_setAgent h)))

theorem memInv_recordCheck {p : Nat} {v : Word} (h : memInv s) : memInv (recordCheck s p v) := h

theorem keeps_writeCfg {ga v : Word} : Keeps (writeCfg ga v) := by
  refine keeps_bind keeps_cfgPlace fun _ => ?_
  split
  · exact keeps_modS fun _ ht => memInv_ite (memInv_recordCheck ht) (memInv_ite ht (memInv_stageWord ht))

theorem nextInv_execCfgw {g : Guard} {d a : Reg} (h : memInv s) : nextInv (execCfgw g d a s) :=
  nextInv_runWord h (keeps_scalar (keeps_bind keeps_readReg fun _ => keeps_bind keeps_readReg fun _ => keeps_bind keeps_streamDone fun _ => keeps_bind
    keeps_writeCfg fun _ => keeps_pure))

theorem nextInv_execRecchk {g : Guard} {d a : Reg} (h : memInv s) : nextInv (execRecchk g d a s) :=
  nextInv_runWord h (keeps_scalar (keeps_bind keeps_readReg fun _ => keeps_bind keeps_readReg fun _ => keeps_bind keeps_streamDone fun _ => keeps_bind
    keeps_writeCfg fun _ => keeps_pure))

theorem nextInv_execCfgr {g : Guard} {d a : Reg} (h : memInv s) : nextInv (execCfgr g d a s) := by
  refine nextInv_runWord h (keeps_scalar (keeps_bind keeps_readReg fun _ => keeps_bind keeps_streamDone fun _ => keeps_bind keeps_cfgPlace fun _ => ?_))
  split
  · exact keeps_bind keeps_reads fun _ => keeps_bind keeps_writeReg fun _ => keeps_pure

end Sys2Proof.Machine
end

section
/-!
SUPPORT for O58. Canonical memory through the model, Walks: translation walks and fault rings.
-/

namespace Sys2Proof.Machine

open Sys2Proof.Spec

variable {s : State}

theorem memInv_touchLeaf {key : Nat} {e : Word} {w : Bool} (h : memInv s) : memInv (touchLeaf s key e w).1 := by
  unfold touchLeaf
  dsimp only
  split
  · split
    · exact h
    · exact memInv_setMem h (wf_writeWord _ _ h.1)
  · split
    · exact h
    · exact memInv_setMem h (wf_writeWord _ _ h.1)

theorem memInv_walkNow {t : Tag} {va access : Nat} {w : Bool} (h : memInv s) : memInv (walkNow s t va access w).1 := by
  unfold walkNow
  split
  · split
    · split
      · rename_i e
        exact memInv_of_fst (memInv_touchLeaf h) e
    · exact h
  · exact h

theorem memInv_cacheLeaf {who : Requester} {e : TlbE} (h : memInv s) : memInv (cacheLeaf s who e) := by cases who <;> exact h

theorem memInv_postTranslate {w : Walk} {detail token lv : Nat} {last : Word} (h : memInv s) : memInv (postTranslate s w detail token lv last) := h

theorem memInv_postEntry {w : Walk} {key : Nat} (h : memInv s) : memInv (postEntry s w key) := h

theorem memInv_missWalk {i : Nat} {w : Walk} {bad : Bool} {lv : Nat} {last : Word} (h : memInv s) : memInv (missWalk s i w bad lv last) := by
  refine memInv_ite (memInv_withNet (memInv_ite (memInv_postTranslate h) h)) ?_
  split
  · exact h
  · exact h

theorem nextInv_execTranslationWalk {walk : Nat} (h : memInv s) : nextInv (execTranslationWalk walk s) := by
  unfold execTranslationWalk
  split
  · exact h
  · refine nextInv_ite h (nextInv_ite h ?_)
    split
    · exact nextInv_ite (memInv_cacheLeaf (memInv_touchLeaf h)) (nextInv_ite (memInv_cacheLeaf h) h)
    · exact memInv_missWalk h
    · exact memInv_missWalk h
    · exact memInv_missWalk (memInv_postEntry h)

theorem nextInv_execTranslationTimeout {token : Nat} (h : memInv s) : nextInv (execTranslationTimeout token s) := h

theorem memInv_putRecord {c : Nat} {r : Rec} (h : memInv s) : memInv (putRecord s c r) :=
  memInv_setMem h (wf_writeWord _ _ (wf_foldl (fun _ _ hm => wf_writeWord _ _ hm) _ h.1))

theorem memInv_loseRecord {c : Nat} (h : memInv s) : memInv (loseRecord s c) := memInv_ite (memInv_setMem h (wf_writeWord _ _ h.1)) h

theorem memInv_forwardRecord {c : Nat} (h : memInv s) : memInv (forwardRecord s c) := by
  unfold forwardRecord
  split
  · exact h
  · split
    · exact h
    · exact memInv_postCore (memInv_setAgent h)

theorem nextInv_execFaultRecord {core : Nat} (h : memInv s) : nextInv (execFaultRecord core s) := by
  refine nextInv_ite ?_ ?_
  · split
    · exact memInv_forwardRecord h
    · exact memInv_putRecord h
  · split
    · exact memInv_forwardRecord h
    · exact memInv_loseRecord h

end Sys2Proof.Machine
end

section
/-!
SUPPORT for O58. Canonical memory through the model, Tqu: the task queue unit.
-/

namespace Sys2Proof.Machine

open Sys2Proof.Spec

variable {α : Type} {s : State}

theorem tquKeeps_tquPage {t : Tag} {va access : Nat} {quiet : Bool} : TquKeeps (tquPage t va access quiet) := by
  intro s h
  have htouch : ∀ key e, memInv (touchLeaf s key e false).1 := fun _ _ => memInv_touchLeaf h
  have hwalk : ∀ w, memInv (addWalk w s) := fun _ => memInv_addWalk h
  grind [tquPage, ReaderT.run]

theorem tquKeeps_tquRead {t : Tag} {access : Nat} {quiet : Bool} {f va n : Nat} : TquKeeps (tquRead t access quiet f va n) := by
  induction f generalizing va n with
  | zero => exact tquKeeps_pure
  | succ f ih =>
    unfold tquRead
    split
    · exact tquKeeps_pure
    · refine tquKeeps_tquPage.bind fun e => tquKeeps_read.bind fun s => ?_
      have hrest : ∀ k, TquKeeps (do
          let (rest, p) ← tquRead t access quiet f (va + min n (2 ^ 16 - va % 2 ^ 16)) (n - min n (2 ^ 16 - va % 2 ^ 16))
          return (ctxBytes s t k (min n (2 ^ 16 - va % 2 ^ 16)) ++ rest, p || poisoned s.mem k (min n (2 ^ 16 - va % 2 ^ 16)))) :=
        fun k => ih.bind fun _ => tquKeeps_pure
      dsimp only
      split
      · exact TquKeeps.bind tquYields_bad fun _ => hrest _
      · exact hrest _

theorem tquKeeps_tquBytes {t : Tag} {va n : Nat} : TquKeeps (tquBytes t va n) := tquKeeps_tquRead

theorem tquKeeps_tquWord {t : Tag} {va : Nat} : TquKeeps (tquWord t va) := tquKeeps_tquBytes.bind fun _ => tquKeeps_pure

theorem memInv_dropTquWalk {c va : Nat} (h : memInv s) : memInv (dropTquWalk s c va) := h

theorem memInv_tquWrite {t : Tag} {va : Nat} {bs : List Byte} (h : memInv s) : memInv (tquWrite s t va bs).1 := by
  unfold tquWrite
  split
  · rename_i e
    split
    · rename_i e _
      exact memInv_ite (memInv_setMem (memInv_of_fst (memInv_walkNow h) e) (wf_writeBytes _ _ ((memInv_of_fst (memInv_walkNow h) e).1))) (memInv_of_fst
        (memInv_walkNow h) e)
    · exact h
  · exact h

theorem memInv_tquPoison {t : Tag} {va n : Nat} (h : memInv s) : memInv (tquPoison s t va n) := by
  unfold tquPoison
  dsimp only
  split
  · exact memInv_postCore h
  · exact h

theorem memInv_tquPut {t : Tag} {va v : Nat} (h : memInv s) : memInv (tquPut s t va v).1 := memInv_tquWrite h

theorem memInv_setQueue {c l : Nat} {q : Queue} (h : memInv s) : memInv (setQueue s c l q) := h

theorem memInv_refreshCtx {c : Nat} (h : memInv s) : memInv (refreshCtx s c) := memInv_ite h (memInv_modCtx h)

theorem tquKeeps_readHeader {c l : Nat} : TquKeeps (readHeader s c l) := tquKeeps_tquWord.bind fun _ => tquKeeps_tquWord.bind fun _ => tquKeeps_pure

theorem memInv_writeHeader {c l : Nat} (h : memInv s) : memInv (writeHeader s c l) := by
  unfold writeHeader
  dsimp only
  split
  · exact memInv_tquPut (memInv_tquPut h)
  · exact memInv_tquPut h

theorem memInv_postQueue {t : Tag} {detail addr tail : Nat} (h : memInv s) : memInv (postQueue s t detail addr tail) := h

theorem memInv_freezeQueue {c l : Nat} {fault : Bool} (h : memInv s) : memInv (freezeQueue s c l fault) := memInv_writeHeader (memInv_setQueue h)

theorem memInv_faultQueue {c l detail addr tail : Nat} (h : memInv s) : memInv (faultQueue s c l detail addr tail) :=
  memInv_postQueue (memInv_freezeQueue h)

theorem tquKeeps_judgeRecord {t : Tag} {r : List Word} {lvl : Nat} {poison : Bool} : TquKeeps (judgeRecord t r lvl poison) := by
  unfold judgeRecord
  split
  · exact tquKeeps_pure
  · refine (tquKeeps_tryRead tquKeeps_tquBytes).bind fun r => ?_
    cases r with
    | inr va => exact tquKeeps_pure
    | inl fb =>
      dsimp only
      split
      · exact tquKeeps_pure
      · refine (tquKeeps_tryRead (tquKeeps_tquBytes.bind fun _ => tquKeeps_tquBytes.bind fun _ => tquKeeps_pure)).bind fun r => ?_
        cases r with
        | inr va => exact tquKeeps_pure
        | inl hb =>
          dsimp only
          repeat' split
          all_goals exact tquKeeps_pure

theorem tquKeeps_readDeps {t : Tag} {r : List Word} : TquKeeps (readDeps s t r) := by
  refine (tquKeeps_tryRead tquKeeps_tquBytes).bind fun d => ?_
  cases d with
  | inr va => exact tquKeeps_pure
  | inl p =>
    dsimp only
    split
    · exact tquKeeps_pure
    · refine TquKeeps.bind (tquKeeps_forIn (fun i b => ?_) _) fun out => ?_
      · split
        · exact tquKeeps_pure
        · refine (tquKeeps_tryRead tquKeeps_tquWord).bind fun w => ?_
          repeat' split
          all_goals exact tquKeeps_pure
      · split <;> exact tquKeeps_pure

theorem memInv_addTask {t : Task} (h : memInv s) : memInv (addTask s t) := h

theorem memInv_tellPoison {t : Tag} (l : List (Nat × Nat)) (h : memInv s) : memInv (tellPoison s t l) := by
  induction l with
  | nil => exact h
  | cons q l ih => grind [tellPoison, memInv_tquPoison]

theorem tquYields_trackRecord {t : Tag} {lvl : Nat} {r : List Word} {poison : Bool} {slot : Nat} (h : memInv s) :
    TquYields memInv (trackRecord s t lvl r poison slot) := by
  refine tquKeeps_judgeRecord.bind fun v => ?_
  cases v with
  | reject reason taddr unread =>
    refine tquYields_pure (memInv_addTask (memInv_dropTquWalk ?_))
    split
    · exact memInv_tquPoison h
    · split
      · exact memInv_tquPoison h
      · exact h
  | track img foot =>
    dsimp only
    split
    · exact tquYields_pure (memInv_addTask h)
    · refine tquKeeps_readDeps.bind fun d => ?_
      cases d with
      | inr unread => exact tquYields_pure (memInv_addTask (memInv_dropTquWalk (memInv_tellPoison _ h)))
      | inl l => exact tquYields_pure (memInv_addTask h)

theorem tquYields_readNext {c l : Nat} (h : memInv s) : TquYields memInv (readNext s c l) := by
  refine tquKeeps_readHeader.bind fun p => tquKeeps_tquPage.bind fun e => ?_
  dsimp only
  generalize hs' : (if 2 ^ 60 ≤ leafKey e (headerVa s c l) ∧ leafKey e (headerVa s c l) < 2 ^ 61 then
    { s with trust := { s.trust with hostLines := insertNat s.trust.hostLines ((leafKey e (headerVa s c l) - 2 ^ 60) / 64) } } else s) = s'
  have h' : memInv s' := by
    subst hs'
    split <;> exact h
  split
  · exact tquYields_pure (memInv_faultQueue h')
  · split
    · exact tquYields_pure (memInv_faultQueue h')
    · generalize hs'' : (if (queueAt s c l).last = p.1 then s' else setQueue s' c l { queueAt s c l with last := p.1 }) = s''
      have h'' : memInv s'' := by
        subst hs''
        split
        · exact h'
        · exact memInv_setQueue h'
      split
      · exact tquYields_pure h''
      · refine (tquKeeps_tryRead tquKeeps_tquBytes).bind fun r => ?_
        cases r with
        | inr va => exact tquYields_pure (memInv_faultQueue (memInv_dropTquWalk h''))
        | inl b =>
          refine (tquKeeps_tryRead tquKeeps_tquPage).bind fun r => ?_
          cases r with
          | inr va => exact tquYields_pure (memInv_faultQueue (memInv_writeHeader (memInv_setQueue (memInv_dropTquWalk h''))))
          | inl e =>
            dsimp only
            split
            · exact tquYields_pure (memInv_faultQueue (memInv_writeHeader (memInv_setQueue h'')))
            · exact tquYields_bind (tquYields_trackRecord h'') fun _ ht => tquYields_pure (memInv_writeHeader (memInv_setQueue ht))

theorem nextInv_execTailObserved {cx lvl : Nat} (h : memInv s) : nextInv (execTailObserved cx lvl s) := by
  have h' : memInv (refreshCtx s cx) := memInv_refreshCtx h
  unfold execTailObserved
  dsimp only
  split
  · exact h'
  · split
    · rename_i e
      exact (tquYields_readNext h').ok h' e
    · rename_i e
      exact (tquYields_readNext h').walk h' e
    · exact memInv_dropTquWalk h'

theorem nextInv_execDependenceCounterZero {task : Nat} (h : memInv s) : nextInv (execDependenceCounterZero task s) := by
  unfold execDependenceCounterZero
  split
  · exact h
  · split
    · exact h
    · dsimp only
      split
      · exact memInv_modTask (memInv_dropTquWalk (memInv_tquPoison h))
      · exact memInv_modTask h
      · exact h
      · rename_i e
        exact tquKeeps_tquWord.walk h e
      · exact memInv_modTask (memInv_dropTquWalk h)

theorem memInv_flushLine {a w : Nat} {t : Tag} {l : WLine} {va : Nat} (h : memInv s) : memInv (flushLine s a w t l va).1 := by
  have hback : ∀ {s' : State} key, memInv s' → memInv (setMem s' (writeBackLine s' (some t) key l).1) := fun key h' =>
    memInv_setMem h' (wf_writeBackLine _ _ _ h'.1)
  have hread : ∀ {s' : State} {e : Option TlbE}, walkNow s t va 6 true = (s', e) → memInv s' := fun e => by
    have hw := memInv_walkNow (t := t) (va := va) (access := 6) (w := true) h
    rwa [e] at hw
  grind [flushLine, memInv_modAgent, memInv_addWalk]

theorem memInv_flushWindows {a : Nat} (h : memInv s) : memInv (flushWindows s a).1 := by
  unfold flushWindows
  split
  · rename_i e
    refine memInv_withNet (memInv_of_fst (memInv_foldl_fst (fun _ _ ht => ?_) _ h) e)
    split
    · rename_i e'
      exact memInv_of_fst (memInv_flushLine ht) e'

theorem memInv_flushTile {a : Nat} (h : memInv s) : memInv (flushTile s a) := by
  unfold flushTile
  split
  · rename_i e
    split
    · rename_i e
      exact memInv_failTask (memInv_of_fst (memInv_flushWindows h) e)
    · rename_i e _
      exact memInv_of_fst (memInv_flushWindows h) e

theorem memInv_writeCompletion {t : Task} {abandoned : Nat} (h : memInv s) : memInv (writeCompletion s t abandoned) := by
  unfold writeCompletion
  dsimp only
  split
  · rename_i e
    exact memInv_tquPut (memInv_of_fst (memInv_tquWrite h) e)
  · exact memInv_postQueue (memInv_dropTquWalk h)

theorem tquKeeps_endPages {t : Task} : TquKeeps (endPages s t) :=
  (tquKeeps_tryRead tquKeeps_tquPage).bind fun _ => (tquKeeps_tryRead tquKeeps_tquPage).bind fun _ => tquKeeps_pure

theorem memInv_withEndPages {t : Task} {x : State} (h : memInv s) (hx : memInv x) : memInv (withEndPages s t x) := by
  unfold withEndPages
  split
  · rename_i e
    exact tquKeeps_endPages.walk h e
  · exact hx

theorem memInv_tellDependents {i : Nat} {done : Bool} (h : memInv s) : memInv (tellDependents s i done) := h

theorem memInv_closePhase {c : Nat} (h : memInv s) : memInv (closePhase s c) := by
  unfold closePhase
  dsimp only
  split
  · exact h
  · refine memInv_ite h ?_
    split
    · exact memInv_openPhase h
    · exact h

theorem memInv_retireTask {t : Task} {fin : TaskSt} (h : memInv s) : memInv (retireTask s t fin) := by
  unfold retireTask
  extract_lets tiles abandoned t' s₁ s₂ _ s₃ s₄ s₅ s₆
  have h₃ : memInv s₃ := memInv_withOs (memInv_writeCompletion (memInv_mapAgents h))
  have h₄ : memInv s₄ := memInv_ite (memInv_freezeQueue h₃) h₃
  have h₅ : memInv s₅ := memInv_ite h₄ (memInv_tellDependents h₄)
  have h₆ : memInv s₆ := memInv_closePhase h₅
  exact memInv_ite (memInv_addTask h₆) (memInv_refreshCtx h₆)

theorem nextInv_execTaskRetirement {task : Nat} (h : memInv s) : nextInv (execTaskRetirement task s) := by
  unfold execTaskRetirement
  dsimp only
  split
  · exact h
  · refine nextInv_ite h ?_
    split
    · refine memInv_ite ?_ h
      split
      · exact memInv_flushTile h
      · exact memInv_withEndPages h (memInv_retireTask h)
    · refine memInv_ite ?_ h
      split
      · exact memInv_flushTile h
      · exact memInv_withEndPages h (memInv_retireTask h)

theorem nextInv_execWatchdog {task : Nat} (h : memInv s) : nextInv (execWatchdog task s) := by
  unfold execWatchdog
  split
  · exact h
  · exact nextInv_ite h (memInv_failTask h)

theorem tquYields_copyRecord {c l : Nat} {r : List Word} (h : memInv s) : TquYields (fun p => memInv p.1) (copyRecord s c l r) := by
  refine (tquKeeps_tryRead tquKeeps_readHeader).bind fun d => ?_
  cases d with
  | inr va => exact tquYields_pure (memInv_dropTquWalk h)
  | inl p =>
    dsimp only
    split
    · exact tquYields_pure h
    · split
      · exact tquYields_pure h
      · refine (tquKeeps_tryRead tquKeeps_tquPage).bind fun _ => ?_
        split
        · rename_i e
          exact tquYields_pure (memInv_of_fst (memInv_tquWrite h) e)
        · exact tquYields_pure (memInv_dropTquWalk h)

theorem tquYields_publishRecord {c l k : Nat} (h : memInv s) : TquYields (fun p => memInv p.1) (publishRecord s c l k) := by
  refine (tquKeeps_tryRead tquKeeps_readHeader).bind fun d => ?_
  cases d with
  | inr va => exact tquYields_pure (memInv_dropTquWalk h)
  | inl p =>
    dsimp only
    split
    · exact tquYields_pure (memInv_faultQueue h)
    · split
      · rename_i e
        exact tquYields_pure (memInv_of_fst (memInv_tquPut h) e)
      · exact tquYields_pure h

theorem memInv_markPush {q k : Nat} (h : memInv s) : memInv (markPush q k s) := h

/-- A wait for a walk takes the walk's state into the one that waits. -/
theorem memInv_walkInto {t : State} (ht : memInv t) (h : memInv s) : memInv (walkInto t s) := ⟨ht.1, h.2⟩

theorem yields_atTqu {P : α → Prop} {x : State → Tqu α} (hx : ∀ s, memInv s → TquYields P (x s)) : Yields P (atTqu x) := by
  refine yields_bind yields_getS fun s h => ?_
  split
  · rename_i e
    exact yields_pure ((hx s h).ok h e)
  · intro _ _ t ht
    dsimp only
    split
    · rename_i e
      exact memInv_walkInto ((hx t ht).walk ht e) ht
    · exact ht

theorem nextInv_execTqpush {g : Guard} {d a : Reg} {lvl : BitVec 2} (h : memInv s) : nextInv (execTqpush g d a lvl s) := by
  refine nextInv_runWord h (keeps_scalar (keeps_bind keeps_readReg fun ga => keeps_getS fun s hs => ?_))
  have hends : ∀ (t : State) (w : Word), memInv t → Keeps (do
      modS (fun _ => t)
      writeReg d w
      return Ctl.next) := fun t w ht => keeps_bind (keeps_modS fun _ _ => ht) fun _ => keeps_bind keeps_writeReg fun _ => keeps_pure
  dsimp only
  split
  · exact keeps_yields_bind (yields_atTqu fun _ => tquYields_publishRecord) fun p hp => hends _ _ hp
  · refine keeps_check keeps_trapAt fun _ => keeps_bind keeps_release fun _ => keeps_bind keeps_loadElems fun ws => ?_
    split
    · exact keeps_getS fun t ht => hends _ _ ht
    · refine keeps_bind keeps_until' fun _ => keeps_yields_bind (yields_atTqu fun _ => tquYields_copyRecord) fun p hp => ?_
      obtain ⟨t, r⟩ := p
      cases r with
      | inl w => exact hends _ _ hp
      | inr k =>
        refine keeps_waitWith fun u hu => ?_
        split
        · rename_i e
          exact memInv_markPush ((tquYields_copyRecord hu).ok hu e)
        · exact hu

theorem keeps_liveCx {c : Nat} {x : Exec Word} (hx : Keeps x) : Keeps (liveCx c x) := keeps_getS fun _ _ => keeps_ite keeps_pure hx

theorem keeps_popRecord {c l : Nat} {ga : Word} : Keeps (popRecord c l ga) := by
  refine keeps_bind (keeps_modS fun _ => memInv_refreshCtx) fun _ => keeps_check keeps_trapAt fun _ => keeps_bind keeps_checkAddr fun p =>
    keeps_getS fun s h => ?_
  have hread : TquKeeps (do
      let (tail, ring) ← readHeader s c l
      if tail ≤ (queueAt s c l).head then return none
      return some (← tquBytes (liveTag s c) (ringVa ring + 64 * ((queueAt s c l).head % 2 ^ ringLog ring)) 64).1 : Tqu (Option (List Byte))) := by
    refine tquKeeps_readHeader.bind fun q => ?_
    dsimp only
    split
    · exact tquKeeps_pure
    · exact tquKeeps_tquBytes.bind fun _ => tquKeeps_pure
  dsimp only
  split
  · exact keeps_pure
  · split
    · refine keeps_bind (keeps_modS fun t ht => ?_) fun _ => keeps_bind (keeps_modS fun t ht => memInv_writeHeader (memInv_setQueue ht)) fun _ => keeps_pure
      split
      · exact memInv_setMem ht (wf_writeBytes _ _ ht.1)
      · exact ht
    · exact keeps_pure
    · exact keeps_pure
    · rename_i e
      exact keeps_waitWith fun _ => memInv_walkInto (hread.walk h e)

theorem nextInv_execTqpop {g : Guard} {d a : Reg} {lvl : BitVec 2} {cx : BitVec 6} (h : memInv s) : nextInv (execTqpop g d a lvl cx s) :=
  nextInv_runWord h (keeps_answered keeps_readReg fun _ => keeps_liveCx keeps_popRecord)

theorem keeps_endForWord {t : Task} {fin : TaskSt} : Keeps (endForWord t fin) := by
  refine keeps_getS fun s h => ?_
  split
  · rename_i e
    exact keeps_waitWith fun _ => memInv_walkInto (tquKeeps_endPages.walk h e)
  · exact keeps_bind (keeps_modS fun _ => memInv_retireTask) fun _ => keeps_pure

theorem nextInv_execTqdone {g : Guard} {d a : Reg} {cx : BitVec 6} (h : memInv s) : nextInv (execTqdone g d a cx s) := by
  refine nextInv_runWord h (keeps_answered keeps_readReg fun _ => keeps_liveCx (keeps_getS fun _ _ => ?_))
  split
  · exact keeps_pure
  · exact keeps_ite keeps_pure keeps_endForWord

theorem nextInv_execTqcancel {g : Guard} {d a : Reg} {cx : BitVec 6} (h : memInv s) : nextInv (execTqcancel g d a cx s) := by
  refine nextInv_runWord h (keeps_answered keeps_readReg fun _ => keeps_liveCx (keeps_getS fun _ _ => ?_))
  split
  · exact keeps_pure
  · exact keeps_ite keeps_pure keeps_endForWord

theorem nextInv_execTqresume {g : Guard} {d : Reg} {lvl : BitVec 2} {cx : BitVec 6} (h : memInv s) : nextInv (execTqresume g d lvl cx s) :=
  nextInv_runWord h (keeps_answered keeps_noOperand fun _ => keeps_liveCx (keeps_bind keeps_until' fun _ => keeps_bind (keeps_modS fun _ =>
    memInv_refreshCtx) fun _ => keeps_bind (keeps_modS fun _ ht => memInv_ite (memInv_writeHeader (memInv_setQueue ht)) ht) fun _ => keeps_pure))

end Sys2Proof.Machine
end

section
/-!
SUPPORT for O58. Canonical memory through the model, Tasks: placement, prefetch and retirement of tasks.
-/

namespace Sys2Proof.Machine

open Sys2Proof.Spec

variable {α : Type} {s : State}

theorem memInv_placeAt {t : Task} {o : Nat} (h : memInv s) : memInv (placeAt s t o) := by
  unfold placeAt
  dsimp only
  refine memInv_ite (memInv_modTask h) ?_
  split
  · rename_i e
    exact memInv_of_fst (memInv_tquWrite (memInv_mapAgents (memInv_modTask h))) e
  · exact memInv_postQueue (memInv_dropTquWalk (memInv_mapAgents (memInv_modTask h)))

theorem memInv_placeTask {t : Task} (h : memInv s) : memInv (placeTask s t) := by
  unfold placeTask
  split
  · exact memInv_modTask h
  · split
    · exact memInv_withEndPages h (memInv_placeAt h)
    · exact memInv_modTask h

theorem nextInv_execTaskPlacement {cx : Nat} (h : memInv s) : nextInv (execTaskPlacement cx s) := by
  unfold execTaskPlacement
  split
  · exact h
  · exact nextInv_ite h (memInv_withOs (memInv_placeTask h))

theorem nextInv_execPlace {g : Guard} {d a : Reg} {cx : BitVec 6} (h : memInv s) : nextInv (execPlace g d a cx s) := by
  refine nextInv_runWord h (keeps_answered keeps_readReg fun ga => keeps_liveCx (keeps_bind keeps_until' fun _ => keeps_getS fun s h => ?_))
  split
  · exact keeps_pure
  · split
    · exact keeps_pure
    · dsimp only
      split
      · exact keeps_pure
      · split
        · rename_i e
          exact keeps_waitWith fun _ => memInv_walkInto (tquKeeps_endPages.walk h e)
        · exact keeps_bind (keeps_modS fun _ => memInv_placeAt) fun _ => keeps_pure

theorem memInv_prefetchPage {a : Nat} {t : Tag} {va : Nat} {w : Bool} (h : memInv s) : memInv (prefetchPage s a t va w).1 := by
  unfold prefetchPage
  split
  · exact h
  · split
    · exact h
    · split
      · rename_i e
        exact memInv_ite (memInv_withNet (memInv_of_fst (memInv_walkNow h) e)) (memInv_of_fst (memInv_walkNow h) e)
      · rename_i e
        split
        · rename_i e _ _ _ _
          exact memInv_postTranslate (memInv_of_fst (memInv_walkNow h) e)
        · rename_i e _ _ _ _
          exact memInv_postTranslate (memInv_postEntry (memInv_of_fst (memInv_walkNow h) e))
        · rename_i e _ _ _
          exact memInv_of_fst (memInv_walkNow h) e

theorem memInv_prefetchMove {a : Nat} {t : Tag} {dst f va n : Nat} (h : memInv s) : memInv (prefetchMove a t dst f s va n).1 := by
  induction f generalizing s dst va n with
  | zero => exact h
  | succ f ih =>
    have hput : ∀ s' : State, memInv s' → ∀ k m, memInv (setMem s' (if plainTo s' (some t) k then moveBytes s'.mem dst k m else
        writeBytes s'.mem dst (ctxBytes s' t k m))) := by
      intro s' h' k m
      split
      · exact memInv_setMem h' (wf_moveBytes _ _ _ h'.1)
      · exact memInv_setMem h' (wf_writeBytes _ _ h'.1)
    grind [prefetchMove, memInv_prefetchPage]

theorem memInv_prefetchRead {a : Nat} {t : Tag} {f va n : Nat} (h : memInv s) : memInv (prefetchRead a t f s va n).1 := by
  induction f generalizing s va n with
  | zero => exact h
  | succ f ih => grind [prefetchRead, memInv_prefetchPage]

theorem memInv_pokeImage {a : Nat} {t : Tag} {va : Nat} {bs : List Byte} (h : memInv s) : memInv (pokeImage s a t va bs).1 := by
  unfold pokeImage
  split
  · rename_i e
    exact memInv_ite (memInv_setMem (memInv_of_fst (memInv_prefetchPage h) e) (wf_writeBytes _ _ ((memInv_of_fst (memInv_prefetchPage h) e).1)))
      (memInv_of_fst (memInv_prefetchPage h) e)
  · rename_i e
    exact memInv_of_fst (memInv_prefetchPage h) e

theorem memInv_untilBad {f : State → α → State × Option Nat} (hf : ∀ t a, memInv t → memInv (f t a).1) {l : List α} (h : memInv s) :
    memInv (untilBad f l s).1 := by
  refine memInv_foldl_fst (fun p a hp => ?_) l h
  split
  · exact hp
  · exact hf _ _ hp

theorem memInv_crcInPlace {a : Nat} {t : Tag} {va : Nat} (h : memInv s) : memInv (crcInPlace a t s va).1 := by
  unfold crcInPlace
  split
  · rename_i e
    exact memInv_of_fst (memInv_prefetchRead h) e
  · rename_i e
    split
    · rename_i e _ _ e'
      exact memInv_of_fst (memInv_prefetchRead (memInv_of_fst (memInv_prefetchRead h) e)) e'
    · rename_i e _ _ _ e'
      exact memInv_pokeImage (memInv_of_fst (memInv_prefetchRead (memInv_of_fst (memInv_prefetchRead h) e)) e')

theorem memInv_fixInPlace {a : Nat} {t : Task} {sect : Nat} {byp : Bool} (h : memInv s) : memInv (fixInPlace s a t sect byp).1 := by
  unfold fixInPlace
  split
  · rename_i e
    exact memInv_of_fst (memInv_untilBad (fun _ _ => memInv_pokeImage) h) e
  · rename_i e
    exact memInv_untilBad (fun _ _ => memInv_crcInPlace) (memInv_of_fst (memInv_untilBad (fun _ _ => memInv_pokeImage) h) e)

theorem memInv_loadSection {a : Nat} {t : Task} {sec : Nat × Nat × Nat} {key : Nat} {byp : Bool} (h : memInv s) :
    memInv (loadSection s a t sec key byp).1 := by
  have hmove := memInv_prefetchMove (a := a) (t := t.tag) (dst := key) (f := pagesOf sec.2.2) (va := sec.2.1) (n := sec.2.2) h
  unfold loadSection
  split
  · rename_i e
    rwa [e] at hmove
  · rename_i e
    rw [e] at hmove
    exact memInv_setMem hmove (wf_foldl (fun _ _ hm => wf_writeNat _ _ _ hm) _ (wf_foldl (fun _ _ hm => wf_writeNat _ _ _ hm) _ hmove.1))

theorem memInv_doLoad {a : Nat} {t : Task} {byp : Bool} {l : Load} (h : memInv s) : memInv (doLoad a t byp s l).1 := by
  cases l with
  | sect sec key => exact memInv_loadSection (s := s) h
  | range va n key => exact memInv_prefetchMove (s := s) (f := pagesOf n) h

theorem memInv_loadTiles {t : Task} (h : memInv s) : memInv (loadTiles s t).1 := by
  refine memInv_foldl_fst (fun _ _ ht => ?_) _ h
  split
  · exact ht
  · exact memInv_doLoad ht

theorem memInv_measureImage {t : Task} (h : memInv s) : memInv (measureImage s t) := by
  unfold measureImage
  refine memInv_ite h ?_
  split
  · rename_i e
    exact memInv_withTrust (memInv_of_fst (memInv_prefetchRead h) e)

theorem nextInv_execPrefetch {task : Nat} (h : memInv s) : nextInv (execPrefetch task s) := by
  unfold execPrefetch
  dsimp only
  split
  · exact h
  · refine nextInv_ite h ?_
    split
    · rename_i e
      exact memInv_failTask (memInv_of_fst (memInv_untilBad (fun _ _ => memInv_fixInPlace) (memInv_measureImage h)) e)
    · rename_i e
      split
      · rename_i e _ _ e'
        exact memInv_modTask (memInv_of_fst (memInv_loadTiles (memInv_of_fst (memInv_untilBad (fun _ _ => memInv_fixInPlace) (memInv_measureImage h)) e))
          e')
      · rename_i e _ _ _ _ e'
        exact memInv_failTask (memInv_of_fst (memInv_loadTiles (memInv_of_fst (memInv_untilBad (fun _ _ => memInv_fixInPlace) (memInv_measureImage h)) e))
          e')

theorem memInv_ringWafers {c : Nat} (h : memInv s) : memInv (ringWafers s c).2 := by
  unfold ringWafers
  dsimp only
  split
  · exact h
  · split
    · exact h
    · exact memInv_freshWord h

theorem nextInv_execStrandStart {task : Nat} (h : memInv s) : nextInv (execStrandStart task s) := by
  unfold execStrandStart
  split
  · exact h
  · refine nextInv_ite h ?_
    split
    · rename_i e
      refine memInv_modTask (memInv_foldl (fun _ _ ht => ?_) _ (memInv_of_snd (memInv_ringWafers h) e))
      split
      · exact ht
      · exact memInv_modAgent ht

end Sys2Proof.Machine
end

section
/-!
SUPPORT for O58. Canonical memory through the model, Stops: stopping a tile and starting it again.
-/

namespace Sys2Proof.Machine

open Sys2Proof.Spec

variable {s : State}

theorem memInv_stopTile {a : Nat} (h : memInv s) : memInv (stopTile s a) := memInv_ite h (memInv_flushTile (memInv_modAgent h))

theorem memInv_restoreTokens {a : Nat} (h : memInv s) : memInv (restoreTokens s a) := memInv_foldl (fun _ _ ht => memInv_ite (memInv_addToken ht) ht) _ h

theorem memInv_resumeTile {a : Nat} (h : memInv s) : memInv (resumeTile s a) :=
  memInv_ite h (memInv_kickCpe (memInv_kickMxe (memInv_restoreTokens (memInv_modAgent h))))

theorem memInv_restartCalls {mine : Tag → Bool} (h : memInv s) : memInv (restartCalls s mine) := by
  refine memInv_foldl (fun _ _ ht => ?_) _ h
  split
  · exact memInv_ite (memInv_restartCall ht) ht
  · exact ht

theorem nextInv_execStopMarker {agent : Nat} (h : memInv s) : nextInv (execStopMarker agent s) :=
  nextInv_ite (memInv_flushTile h) (nextInv_ite h (memInv_withOs (memInv_stopTile h)))

theorem memInv_resumeAll (h : memInv s) : memInv (resumeAll s) := memInv_foldl (fun _ _ ht => memInv_ite ht (memInv_resumeTile ht)) _ h

end Sys2Proof.Machine
end

section
/-!
SUPPORT for O58. Canonical memory through the model, Contexts: contexts and their lives.
-/

namespace Sys2Proof.Machine

open Sys2Proof.Spec

variable {α : Type} {s : State}

theorem memInv_addOp {kind : OpKind} {c : Nat} {inc : BitVec 12} {strand : Nat} (h : memInv s) : memInv (addOp kind c inc strand s) := h

theorem keeps_beginOp {kind : OpKind} {c : Nat} {f : State → State} (hf : ∀ s, memInv s → memInv (f s)) : Keeps (beginOp kind c f : Exec α) :=
  keeps_waitWith fun s h => memInv_addOp (hf s h)

theorem memInv_endOp {o : Op} {w : Word} (h : memInv s) : memInv (endOp s o w) := memInv_ite h (memInv_answerStrand h)

theorem memInv_reach {o : Op} {u : Nat} (h : memInv s) : memInv (reach s o u) := h

theorem memInv_nameConvoy (h : memInv s) : memInv (nameConvoy s).2 := h

theorem memInv_drawKey (h : memInv s) : memInv (drawKey s).2 := h

theorem memInv_createCtx {c : Nat} {isSealed : Bool} {inc : BitVec 12} (h : memInv s) : memInv (createCtx s c isSealed inc) := by
  unfold createCtx
  extract_lets _ s₁ _ s₂ s₃ s₄
  have h₂ : memInv s₂ := memInv_withOs (memInv_modCtx h)
  have h₄ : memInv s₄ := memInv_refreshCtx (memInv_mapAgents h₂)
  exact memInv_mirror (memInv_ite (memInv_withTrust (memInv_drawKey h₄)) h₄)

theorem nextInv_execCxnew {g : Guard} {d : Reg} {isSealed : BitVec 1} {cx : BitVec 6} (h : memInv s) : nextInv (execCxnew g d isSealed cx s) := by
  refine nextInv_runWord h (keeps_answered keeps_noOperand fun _ => keeps_bind keeps_until' fun _ => keeps_getS fun s h => ?_)
  split
  · exact keeps_pure
  · split
    · exact keeps_bind (keeps_modS fun _ => memInv_createCtx) fun _ => keeps_pure
    · refine keeps_bind (keeps_modS fun _ _ => memInv_nameConvoy h) fun _ => ?_
      split
      · exact keeps_pure
      · exact keeps_bind (keeps_modS fun s h => memInv_createCtx (s := { s with trust := _ }) h) fun _ => keeps_pure

theorem memInv_endPreempt {c : Nat} (h : memInv s) : memInv (endPreempt s c) := by
  unfold endPreempt
  split
  · exact memInv_endOp h
  · exact h

theorem memInv_beginKill {c strand : Nat} (h : memInv s) : memInv (beginKill c strand s) :=
  memInv_addOp (memInv_mirror (memInv_modCtx (memInv_endPreempt h)))

theorem nextInv_execCxkill {g : Guard} {d : Reg} {cx : BitVec 6} (h : memInv s) : nextInv (execCxkill g d cx s) :=
  nextInv_runWord h (keeps_answered keeps_noOperand fun _ => keeps_bind keeps_until' fun _ => keeps_liveCx (keeps_bind keeps_reads fun _ => keeps_ite
    (keeps_waitWith fun _ => memInv_addOp) (keeps_waitWith fun _ => memInv_beginKill)))

theorem memInv_dropOldWalks {c : Nat} {inc : BitVec 12} {mine : Requester → Bool} (h : memInv s) : memInv (dropOldWalks s c inc mine) := h

theorem memInv_killTile {c : Nat} {inc : BitVec 12} {a : Nat} (h : memInv s) : memInv (killTile s c inc a) := h

theorem memInv_killBeacon {c : Nat} {inc : BitVec 12} {b : Nat} (h : memInv s) : memInv (killBeacon s c inc b) := h

theorem memInv_killTrees {c : Nat} {inc : BitVec 12} (h : memInv s) : memInv (killTrees s c inc) := h

theorem tquYields_killRecord {c l : Nat} (h : memInv s) : TquYields memInv (killRecord s c l) := by
  refine tquKeeps_readHeader.bind fun p => ?_
  dsimp only
  split
  · exact tquYields_pure h
  · split
    · exact tquYields_pure (memInv_writeHeader (memInv_setQueue h))
    · refine (tquKeeps_tryRead tquKeeps_tquBytes).bind fun r => ?_
      cases r with
      | inr va => exact tquYields_pure (memInv_writeHeader (memInv_setQueue (memInv_dropTquWalk h)))
      | inl b => exact tquYields_pure (memInv_writeCompletion (memInv_writeHeader (memInv_setQueue h)))

theorem memInv_killQueues {c : Nat} (h : memInv s) : memInv (killQueues s c).1 := by
  unfold killQueues
  split
  · exact memInv_withEndPages h (memInv_retireTask h)
  · refine memInv_foldl_fst (fun acc l hacc => ?_) _ h
    split
    · exact hacc
    · split
      · rename_i e
        exact (tquYields_killRecord hacc).ok hacc e
      · rename_i e
        exact (tquYields_killRecord hacc).walk hacc e
      · exact memInv_dropTquWalk hacc

theorem nextInv_execKillMarker {cx checkpoint : Nat} (h : memInv s) : nextInv (execKillMarker cx checkpoint s) := by
  unfold execKillMarker
  split
  · exact h
  · refine nextInv_ite h (nextInv_ite (memInv_reach (memInv_killTile h)) (nextInv_ite (memInv_reach (memInv_killBeacon h)) (nextInv_ite ?_ (nextInv_ite
      (memInv_reach h) h))))
    split
    · rename_i e
      exact memInv_ite (memInv_reach (memInv_killTrees (memInv_of_fst (memInv_killQueues (memInv_dropOldWalks h)) e))) (memInv_of_fst (memInv_killQueues
        (memInv_dropOldWalks h)) e)

theorem nextInv_execKillAcknowledgement {cx : Nat} (h : memInv s) : nextInv (execKillAcknowledgement cx s) := by
  unfold execKillAcknowledgement
  split
  · exact h
  · exact nextInv_ite h (memInv_endOp (memInv_refreshCtx (memInv_mirror (memInv_modCtx h))))

theorem nextInv_execCxreclaim {g : Guard} {d : Reg} {cx : BitVec 6} (h : memInv s) : nextInv (execCxreclaim g d cx s) :=
  nextInv_runWord h (keeps_answered keeps_noOperand fun _ => keeps_bind keeps_until' fun _ => keeps_liveCx (keeps_bind keeps_reads fun _ => keeps_ite
    keeps_pure (keeps_beginOp fun _ ht => ht)))

theorem nextInv_execReclaimMarker {cx : Nat} (h : memInv s) : nextInv (execReclaimMarker cx s) := by
  unfold execReclaimMarker
  split
  · exact h
  · exact nextInv_ite h (memInv_ite (memInv_beginKill (memInv_endOp (memInv_mirror (memInv_modCtx h)))) (memInv_endOp (memInv_mirror (memInv_modCtx h))))

theorem nextInv_execPreempt {g : Guard} {d : Reg} {cx : BitVec 6} (h : memInv s) : nextInv (execPreempt g d cx s) :=
  nextInv_runWord h (keeps_answered keeps_noOperand fun _ => keeps_bind keeps_until' fun _ => keeps_getS fun _ _ => keeps_ite keeps_pure (keeps_beginOp fun
    _ => memInv_refreshCtx))

theorem nextInv_execPreemptDrained {cx : Nat} (h : memInv s) : nextInv (execPreemptDrained cx s) := by
  unfold execPreemptDrained
  split
  · exact h
  · exact nextInv_ite h (memInv_endOp (memInv_mirror (memInv_modCtx (memInv_withOs (memInv_restartCalls h)))))

theorem nextInv_execTlbinv {g : Guard} {d a : Reg} {npg : BitVec 20} {mode : BitVec 2} {cx : BitVec 6} (h : memInv s) :
    nextInv (execTlbinv g d a npg mode cx s) :=
  nextInv_runWord h (keeps_answered keeps_readReg fun _ => keeps_bind keeps_until' fun _ => keeps_getS fun _ _ => keeps_ite keeps_pure (keeps_ite
    keeps_pure (keeps_beginOp fun _ ht => ht)))

theorem memInv_flushNamed {a : Nat} {named : Tag → Nat → Nat → Bool} (h : memInv s) : memInv (flushNamed s a named) :=
  memInv_foldl (fun _ _ ht => memInv_setMem ht (wf_writeBackLine _ _ _ ht.1)) _ h

theorem memInv_invTile {a : Nat} {mode : BitVec 2} {first npg c : Nat} (h : memInv s) : memInv (invTile s a mode first npg c) :=
  memInv_modAgent (memInv_flushNamed h)

theorem memInv_restartWalks {mine : Requester → Bool} {named : Tag → Nat → Nat → Bool} (h : memInv s) : memInv (restartWalks s mine named) := h

theorem memInv_invUnit {u : Nat} {mode : BitVec 2} {first npg c : Nat} (h : memInv s) : memInv (invUnit s u mode first npg c) :=
  memInv_ite (memInv_invTile h) (memInv_ite (memInv_restartWalks h) (memInv_restartWalks h))

theorem memInv_latchRoot {c : Nat} (h : memInv s) : memInv (latchRoot s c) := memInv_ite h (memInv_modCtx h)

theorem nextInv_execTlbinvMarker {op agent : Nat} (h : memInv s) : nextInv (execTlbinvMarker op agent s) := by
  unfold execTlbinvMarker
  split
  · exact h
  · split
    · exact nextInv_ite h (nextInv_ite (memInv_endOp (memInv_foldl (fun _ _ => memInv_latchRoot) _ (memInv_reach (memInv_invUnit h)))) (memInv_reach
        (memInv_invUnit h)))
    · exact h

theorem nextInv_execNameinv {g : Guard} {d a : Reg} {all : BitVec 1} (h : memInv s) : nextInv (execNameinv g d a all s) :=
  nextInv_runWord h (keeps_answered keeps_readReg fun _ => keeps_beginOp fun _ ht => ht)

theorem nextInv_execNameinvAcknowledgement (h : memInv s) : nextInv (execNameinvAcknowledgement s) := by
  unfold execNameinvAcknowledgement
  split
  · exact h
  · exact memInv_endOp (memInv_mapAgents h)

theorem nextInv_execContextFreed {cx : Nat} (h : memInv s) : nextInv (execContextFreed cx s) :=
  nextInv_ite h (memInv_withTrust (memInv_mirror (memInv_modCtx h)))

end Sys2Proof.Machine
end

section
/-!
SUPPORT for O58. Canonical memory through the model, Saves: CXSAVE, CXLOAD and the save area.
-/

namespace Sys2Proof.Machine

open Sys2Proof.Spec

variable {s : State}

theorem memInv_putSaved {c f va : Nat} {bs : List Byte} (h : memInv s) : memInv (putSaved c f s va bs).1 := by
  induction f generalizing s va bs with
  | zero => exact h
  | succ f ih =>
    have hput : ∀ s' : State, memInv s' → ∀ k out, memInv (setMem s' (writeBytes s'.mem k out)) := fun _ h' _ _ => memInv_setMem h' (wf_writeBytes _ _ h'.1)
    grind [putSaved, memInv_walkNow]

theorem memInv_getSaved {c f va n : Nat} (h : memInv s) : memInv (getSaved c f s va n).1 := by
  induction f generalizing s va n with
  | zero => exact h
  | succ f ih => grind [getSaved, memInv_walkNow]

theorem memInv_pagesMissing {c va n : Nat} (h : memInv s) {t : State} (e : pagesMissing s c va n = some t) : memInv t := by
  obtain ⟨_, _, _, _, hi, _⟩ := List.findSome?_eq_some_iff.mp e
  split at hi
  · rename_i e
    cases hi
    exact tquKeeps_tquPage.walk h e
  · cases hi

theorem memInv_dropAreaWalks {c : Nat} (h : memInv s) : memInv (dropAreaWalks s c) := h

theorem nextInv_execCxsave {g : Guard} {d : Reg} {vlt lsall : BitVec 1} {cx : BitVec 6} (h : memInv s) : nextInv (execCxsave g d vlt lsall cx s) :=
  nextInv_runWord h (keeps_answered keeps_noOperand fun _ => keeps_bind keeps_until' fun _ => keeps_getS fun _ _ => keeps_ite keeps_pure (keeps_beginOp fun
    _ => memInv_refreshCtx))

theorem memInv_earlierRecord {c name : Nat} {vlt : Bool} (h : memInv s) : memInv (earlierRecord s c name vlt).1 := by
  unfold earlierRecord
  split
  · exact h
  · split
    · exact h
    · exact memInv_getSaved h

theorem memInv_recordFor {c name a : Nat} {lsall vlt : Bool} (h : memInv s) : memInv (recordFor s c name a lsall vlt).1 := by
  unfold recordFor
  dsimp only
  split
  · exact h
  · split
    · rename_i e
      exact memInv_of_fst (memInv_earlierRecord h) e
    · rename_i e
      exact memInv_withEnv (memInv_of_fst (memInv_earlierRecord h) e)

theorem memInv_putRecords {c : Nat} {lsall vlt : Bool} (h : memInv s) : memInv (putRecords s c lsall vlt).1 := by
  refine memInv_foldl_fst (fun _ _ ht => ?_) _ h
  split
  · split
    · rename_i e
      exact memInv_putSaved (memInv_of_fst (memInv_recordFor ht) e)
  · exact ht

theorem nextInv_execCxsaveComplete {cx : Nat} (h : memInv s) : nextInv (execCxsaveComplete cx s) := by
  -- The length of the header as a variable: the kernel would count up to the numeral.
  obtain ⟨header, hheader⟩ : ∃ n, n = 0x10000 := ⟨_, rfl⟩
  unfold execCxsaveComplete
  rw [← hheader]
  split
  · exact h
  · rename_i o _
    split
    case h_2 => exact h
    case h_1 lsall vlt _ =>
      dsimp only
      have hrefused : nextInv (.next (endOp (dropAreaWalks s cx) o (sysStatus kCHECK 0))) := memInv_endOp (memInv_dropAreaWalks h)
      split
      · rename_i e
        exact memInv_pagesMissing h e
      · split
        · exact hrefused
        · rename_i ew
          split
          · exact hrefused
          · rename_i eg
            exact memInv_ite (memInv_endOp (s := { (putSaved ..).1 with os := _ })
              (memInv_putSaved (memInv_of_fst (memInv_getSaved (memInv_of_fst (memInv_putRecords h) ew)) eg))) hrefused

theorem nextInv_execCxload {g : Guard} {d : Reg} {cx : BitVec 6} (h : memInv s) : nextInv (execCxload g d cx s) :=
  nextInv_runWord h (keeps_answered keeps_noOperand fun _ => keeps_bind keeps_until' fun _ => keeps_getS fun _ _ => keeps_ite keeps_pure (keeps_beginOp fun
    _ ht => ht))

theorem memInv_areaMissing {c : Nat} (h : memInv s) {t : State} (e : areaMissing s c = some t) : memInv t := by
  rcases Option.or_eq_some_iff.mp e with e | ⟨-, e⟩
  · exact memInv_pagesMissing h e
  · split at e
    · split at e
      · exact memInv_pagesMissing h e
      · cases e
    · cases e

theorem memInv_freeRange {key n : Nat} (h : memInv s) : memInv (freeRange s key n) := ⟨wf_foldl (fun _ _ hm => wf_writeWord _ _ hm) _ h.1, h.2⟩

theorem memInv_loadMemories {c a k : Nat} {v : Saved} {x : Agent} (h : memInv s) : memInv (loadMemories s c a k v x) := by
  unfold loadMemories
  extract_lets base put pins s'
  clear_value base pins
  have hput : ∀ t key va n, memInv t → memInv (put t key va n) := by
    intro t key va n ht
    have hgot := memInv_getSaved (c := c) (f := n / 64 + 1) (va := va / 64 * 64) (n := n + va % 64) ht
    dsimp only [put]
    split
    · rename_i e
      rwa [e] at hgot
    · rename_i e
      rw [e] at hgot
      exact memInv_setMem hgot (wf_writeBytes _ _ hgot.1)
  have hs' : memInv s' := memInv_ite (hput _ _ _ _ h) (memInv_foldl (fun _ _ => hput _ _ _ _) _ (memInv_freeRange h))
  exact memInv_ite (hput _ _ _ _ hs') (memInv_freeRange hs')

theorem memInv_loadTasks {c : Nat} {l : List Task} (h : memInv s) : memInv (loadTasks s c l) := h

theorem memInv_loadTiles' {c : Nat} {v : Saved} (h : memInv s) : memInv (loadTiles' s c v) := by
  refine memInv_foldl (fun _ _ ht => ?_) _ h
  split
  · exact ht
  · exact memInv_resumeTile (memInv_loadMemories (memInv_modAgent ht))

theorem nextInv_execCxloadComplete {cx : Nat} (h : memInv s) : nextInv (execCxloadComplete cx s) := by
  unfold execCxloadComplete
  split
  · exact h
  · split
    · rename_i e
      exact memInv_areaMissing h e
    · exact memInv_endOp (memInv_dropAreaWalks h)
    · exact memInv_endOp (memInv_mirror (memInv_modCtx (memInv_withOs (memInv_loadTiles' (memInv_loadTasks h)))))

end Sys2Proof.Machine
end

section
/-!
SUPPORT for O58. Canonical memory through the model, Tables: GTABW and TTABW.
-/

namespace Sys2Proof.Machine

open Sys2Proof.Spec

variable {s : State}

theorem keeps_imageWords {ga : Word} {k n : Nat} : Keeps (imageWords ga k n) := keeps_bind keeps_loadElems fun _ => keeps_pure

theorem keeps_approved {sealedToo : Bool} {x : Exec Word} (hx : Keeps x) : Keeps (approved sealedToo x) := by
  refine keeps_ite hx (keeps_getS fun _ ht => ?_)
  split
  · rename_i e
    exact keeps_bind (keeps_modS fun _ _ => memInv_of_snd (memInv_freshBit ht) e) fun _ => keeps_ite hx keeps_pure

theorem memInv_forceEvent {a k : Nat} {w : Word} (h : memInv s) : memInv (forceEvent s a k w) := memInv_ite h (memInv_modStrand h)

theorem memInv_endGroup {g : Nat} (h : memInv s) : memInv (endGroup s g) := by
  refine memInv_foldl (fun _ _ ht => ?_) _ (memInv_foldl (fun _ _ => memInv_endMember) _ h)
  split
  · exact ht
  · exact memInv_forceEvent ht

theorem memInv_tuneReceivers {e : Group} (h : memInv s) : memInv (tuneReceivers s e) := memInv_foldl (fun _ _ => memInv_modAgent) _ h

theorem memInv_putGroup {g : Nat} {e : Group} (h : memInv s) : memInv (putGroup s g e) :=
  memInv_tuneReceivers (memInv_mapAgents (memInv_withLight (memInv_ite h (memInv_mapAgents h))))

theorem memInv_modWave {f : Wave → Wave} (h : memInv s) : memInv (modWave s f) := h

theorem keeps_writeGroup {g : Nat} {e : Group} : Keeps (writeGroup g e) := by
  refine keeps_getS fun _ _ => keeps_ite keeps_pure (keeps_ite keeps_pure (keeps_ite keeps_pure (keeps_ite keeps_pure ?_)))
  split
  · exact keeps_pure
  · exact keeps_approved (keeps_bind (keeps_modS fun _ ht => memInv_ite (memInv_tuneReceivers (memInv_modGroup (memInv_modWave ht))) (memInv_putGroup
      (memInv_ite (memInv_endGroup (memInv_modWave ht)) (memInv_modWave ht)))) fun _ => keeps_pure)

theorem nextInv_execGtabw {g : Guard} {d a : Reg} {grp : BitVec 8} (h : memInv s) : nextInv (execGtabw g d a grp s) :=
  nextInv_runWord h (keeps_answered keeps_readReg fun _ => keeps_check keeps_trapAt fun _ => keeps_bind keeps_imageWords fun _ => keeps_bind
    keeps_imageWords fun _ => keeps_writeGroup)

theorem memInv_putTree {t : Nat} {rs : List TreeRec} (h : memInv s) : memInv (putTree s t rs) := h

theorem keeps_writeTree {t : Nat} {rs : List TreeRec} : Keeps (writeTree t rs) :=
  keeps_getS fun _ _ => keeps_ite keeps_pure (keeps_ite keeps_pure (keeps_ite keeps_pure (keeps_ite keeps_pure (keeps_ite keeps_pure
    (keeps_approved (keeps_bind (keeps_modS fun _ h => memInv_modWave (memInv_putTree (memInv_ite (memInv_endAbort h) h))) fun _ => keeps_pure))))))

theorem nextInv_execTtabw {g : Guard} {d a : Reg} {tree : BitVec 9} (h : memInv s) : nextInv (execTtabw g d a tree s) :=
  nextInv_runWord h (keeps_answered keeps_readReg fun _ => keeps_check keeps_trapAt fun _ => keeps_bind keeps_imageWords fun _ => keeps_ite keeps_pure
    (keeps_bind keeps_imageWords fun _ => keeps_writeTree))

end Sys2Proof.Machine
end

section
/-!
SUPPORT for O58. Canonical memory through the model, Faults: faults of arrays, links, routers and receivers.
-/

namespace Sys2Proof.Machine

open Sys2Proof.Spec

variable {s : State}

theorem nextInv_execCorrectedError {array unit : Nat} (h : memInv s) : nextInv (execCorrectedError array unit s) :=
  nextInv_ite h (nextInv_ite (memInv_postUnit h) (memInv_postCore h))

theorem memInv_postMarked {key : Nat} (h : memInv s) : memInv (postMarked s key) := memInv_ite (memInv_postCore h) (memInv_postUnit h)

theorem memInv_markWindow {p o : Nat} (h : memInv s) : memInv (markWindow s p o) := by
  unfold markWindow
  split
  · exact h
  · exact memInv_postUnit (memInv_modAgent h)

theorem memInv_markHeld {p i : Nat} (h : memInv s) : memInv (markHeld s p i) := by
  unfold markHeld
  dsimp only
  split
  · exact memInv_postUnit (memInv_setAgent h)
  · exact h

theorem memInv_markDetected {key : Nat} (h : memInv s) : memInv (markDetected s key) :=
  memInv_ite (memInv_postMarked (memInv_setMem_foldl (fun _ _ hm => wf_markPoison _ hm) _ h))
    (memInv_ite (memInv_postMarked (memInv_setMem h (wf_markPoison _ h.1)))
    (memInv_ite (memInv_postUnit (memInv_modAgent h)) (memInv_ite (memInv_markWindow h) (memInv_ite (memInv_markHeld h) h))))

theorem nextInv_execUncorrectableError {key : Nat} (h : memInv s) : nextInv (execUncorrectableError key s) := memInv_markDetected h

theorem nextInv_execScrub {key : Nat} {found : Bool} (h : memInv s) : nextInv (execScrub key found s) := memInv_ite (memInv_markDetected h) h

theorem memInv_loseOnTree {p g : Nat} (h : memInv s) : memInv (loseOnTree s p g) := memInv_ite h (memInv_ite (memInv_abortGroup h) (memInv_replayCall h))

theorem memInv_loseRouter {p detail : Nat} (h : memInv s) : memInv (loseRouter s p detail) := by
  refine memInv_ite h (memInv_declareDead (memInv_withNet (memInv_foldl (fun _ _ => memInv_loseOnTree) _ ?_)))
  split
  · exact memInv_postUnit h
  · exact h

theorem nextInv_execLinkRetry {tile port fails : Nat} (h : memInv s) : nextInv (execLinkRetry tile port fails s) :=
  nextInv_ite h (nextInv_ite h (memInv_loseRouter (memInv_postUnit h)))

theorem nextInv_execRouterLost {tile : Nat} {fromInside : Bool} (h : memInv s) : nextInv (execRouterLost tile fromInside s) :=
  memInv_ite h (memInv_loseRouter h)

theorem nextInv_execTileDeclaredDead {tile : Nat} (h : memInv s) : nextInv (execTileDeclaredDead tile s) := memInv_ite h (memInv_declareDead h)

theorem memInv_setRcv {a r : Nat} {st : HueSt} (h : memInv s) : memInv (setRcv s a r st) := h

theorem memInv_postHue {a r detail : Nat} (h : memInv s) : memInv (postHue s a r detail) := memInv_postUnit h

theorem nextInv_execHueDrift {agent rcv : Nat} (h : memInv s) : nextInv (execHueDrift agent rcv s) := memInv_ite (memInv_postHue (memInv_setRcv h)) h

theorem nextInv_execHueUnlock {agent rcv : Nat} (h : memInv s) : nextInv (execHueUnlock agent rcv s) := memInv_ite (memInv_postHue (memInv_setRcv h)) h

theorem nextInv_execHueRelock {agent rcv : Nat} (h : memInv s) : nextInv (execHueRelock agent rcv s) :=
  nextInv_ite h (nextInv_ite (memInv_postHue (memInv_setRcv h)) (memInv_foldl (fun _ _ => memInv_addToken) _ (memInv_postHue (memInv_setRcv h))))

theorem nextInv_execReceiverLost {agent rcv : Nat} (h : memInv s) : nextInv (execReceiverLost agent rcv s) :=
  memInv_ite (memInv_declareDead (memInv_postHue (memInv_setRcv h))) h

theorem nextInv_execReceiverRetune {agent rcv : Nat} (h : memInv s) : nextInv (execReceiverRetune agent rcv s) := memInv_ite (memInv_setRcv h) h

theorem nextInv_execThermalThrottle {field : Nat} (h : memInv s) : nextInv (execThermalThrottle field s) := memInv_ite h h

theorem nextInv_execThrottleLift {field : Nat} (h : memInv s) : nextInv (execThrottleLift field s) := h

end Sys2Proof.Machine
end

section
/-!
SUPPORT for O58. Canonical memory through the model, Waves: the full rebuild and the shift-remap wave.
-/

namespace Sys2Proof.Machine

open Sys2Proof.Spec

variable {s : State}

theorem memInv_writeEntries {byp : Bool} {l : List (Nat × Option Nat)} (h : memInv s) : memInv (writeEntries s byp l) :=
  memInv_setMem_foldl (fun _ _ hm => wf_writeNat _ _ _ hm) _ h

theorem memInv_rebuild (h : memInv s) : memInv (rebuild s) := by
  unfold rebuild
  extract_lets _ s₁ rows names s₂ s₃ s₄ s₅ s₆ s₇
  have h₂ : memInv s₂ := memInv_setMem_foldl (fun _ _ hm => wf_writeNat _ _ _ hm) _ (memInv_withRel h rfl)
  have h₃ : memInv s₃ := memInv_foldl (fun _ _ => memInv_writeEntries) _ h₂
  have h₅ : memInv s₅ := memInv_foldl (fun t p ht => by
    split
    · exact memInv_modAgent ht
    · exact ht) _ (memInv_mapAgents h₃)
  have h₇ : memInv s₇ := memInv_foldl (fun _ _ => memInv_modRow) _ (memInv_mapAgents h₅)
  clear_value s₇
  exact memInv_withRel h₇ rfl

theorem nextInv_execFullRebuild (h : memInv s) : nextInv (execFullRebuild s) := memInv_ite (memInv_rebuild h) h

theorem memInv_haltWafer (h : memInv s) : memInv (haltWafer s) := memInv_withLight (memInv_restartCalls h)

theorem nextInv_execShiftRemapWave {row : Nat} (h : memInv s) : nextInv (execShiftRemapWave row s) := by
  unfold execShiftRemapWave
  split
  · exact nextInv_ite (memInv_beginWave (memInv_modRow h)) h
  · exact memInv_ite (memInv_modWave (memInv_haltWafer h)) h

theorem memInv_moveTrees {p : Nat} {q : Option Nat} (h : memInv s) : memInv (moveTrees s p q) := h

theorem memInv_moveName {w : Wave} {m : Move} (h : memInv s) : memInv (moveName w s m) := by
  unfold moveName
  split
  · extract_lets dead x s₁ s₂ s₃
    have h₂ : memInv s₂ := memInv_setAgent (memInv_setAgent h)
    exact memInv_moveTrees (memInv_ite h₂ (memInv_setMem h₂ (wf_moveBytes _ _ _ (wf_moveBytes _ _ _ h₂.1))))
  · exact memInv_moveTrees (memInv_setAgent h)
  · exact memInv_modAgent h
  · exact h

theorem memInv_renumberAll {f : Nat → Nat} (h : memInv s) : memInv (renumberAll f s) := h

theorem memInv_dropWalksOf {tiles : List Nat} (h : memInv s) : memInv (dropWalksOf s tiles) := h

theorem memInv_migrate {w : Wave} (h : memInv s) : memInv (migrate s w) :=
  memInv_modWave (memInv_dropWalksOf (memInv_renumberAll (memInv_foldl (fun _ _ => memInv_modAgent) _ (memInv_foldl (fun _ _ => memInv_moveName) _ h))))

theorem memInv_rewriteRow {w : Wave} (h : memInv s) : memInv (rewriteRow s w) :=
  memInv_modWave (memInv_mapAgents (memInv_modRow (memInv_writeEntries h)))

theorem nextInv_execWaveDrained (h : memInv s) : nextInv (execWaveDrained s) := by
  unfold execWaveDrained
  split
  · exact h
  · exact nextInv_ite h (nextInv_ite (memInv_modWave h) (nextInv_ite (memInv_migrate h) (nextInv_ite (memInv_rewriteRow h) h)))

theorem memInv_failLost {lost : List Nat} (h : memInv s) : memInv (failLost s lost) := by
  refine memInv_foldl (fun _ _ ht => ?_) _ h
  split
  · exact ht
  · exact memInv_ite (memInv_failTask ht) ht

theorem memInv_postCapacity {lost : List Nat} (h : memInv s) : memInv (postCapacity s lost) := by
  refine memInv_foldl (fun _ _ ht => memInv_ite ht ?_) _ h
  split
  · exact ht
  · exact memInv_foldl (fun _ _ ht' => memInv_postFault ht' fun _ ht₂ => ht₂) _ ht

theorem memInv_countRingReplays {lost : List Nat} (h : memInv s) : memInv (countRingReplays s lost) := memInv_ite h h

theorem nextInv_execWaveRepaired (h : memInv s) : nextInv (execWaveRepaired s) := by
  unfold execWaveRepaired
  split
  · exact h
  · exact nextInv_ite h (nextInv_ite (memInv_modWave h) (nextInv_ite (memInv_resumeAll (memInv_withEnv (memInv_countRingReplays (memInv_postCapacity
      (memInv_failLost h))))) h))

end Sys2Proof.Machine
end

section
/-!
SUPPORT for O58. Canonical memory through the model, Checkpoints: checkpoints, restores and the loss of power (20 R444 to R448).
-/

namespace Sys2Proof.Machine

open Sys2Proof.Spec

variable {α : Type} {s : State}

theorem memInv_modCkpt {f : Ckpt → Ckpt} (hf : ∀ k, copiesInv k → copiesInv (f k)) (h : memInv s) : memInv (modCkpt s f) := ⟨h.1, hf _ h.2⟩

/-- Progress of a checkpoint that leaves its copies. -/
theorem memInv_modCkpt_congr {f : Ckpt → Ckpt} (hslots : ∀ k, (f k).slots = k.slots) (hstaged : ∀ k, (f k).staged = k.staged) (h : memInv s) :
    memInv (modCkpt s f) :=
  memInv_modCkpt (fun k hk => copiesInv_congr hk (hslots k) (hstaged k)) h

theorem mem_mput {l : SMap α} {k : Nat} {v : α} {p : Nat × α} (hp : p ∈ mput l k v) : p = (k, v) ∨ p ∈ l := by
  induction l with
  | nil => exact .inl (List.mem_singleton.mp hp)
  | cons q l ih => grind [mput]

/-- Copies in the slots stay in canonical form where another is put among them. -/
theorem imageInv_mput {l : SMap Image} {k : Nat} {i : Image} (hl : ∀ p ∈ l, imageInv p.2) (hi : imageInv i) : ∀ p ∈ mput l k i, imageInv p.2 := by
  intro p hp
  rcases mem_mput hp with rfl | hp
  · exact hi
  · exact hl p hp

theorem imageInv_of_mget? {l : SMap Image} {k : Nat} {i : Image} (hl : ∀ p ∈ l, imageInv p.2) (e : mget? l k = some i) : imageInv i := by
  induction l with
  | nil => cases e
  | cons q l ih => grind [mget?]

theorem memInv_putStaged {c : Option Nat} {f k : Nat} {bs : List Byte} (h : memInv s) : memInv (putStaged c f s k bs) := by
  induction f generalizing s k bs with
  | zero => exact h
  | succ f ih =>
    unfold putStaged
    split
    · exact h
    · exact ih (memInv_setMem h (wf_writeBytes _ _ h.1))

theorem memInv_stageAll (h : memInv s) : memInv (stageAll s) := by
  refine memInv_foldl (fun t c ht => ?_) _ (memInv_foldl (fun t p ht => memInv_withEnv (memInv_putStaged ht)) _ h)
  split
  · exact ht
  · exact memInv_putStaged ht

theorem nextInv_execCheckpointQuiesced (h : memInv s) : nextInv (execCheckpointQuiesced s) := by
  unfold execCheckpointQuiesced
  dsimp only
  split
  · exact h
  · split
    · exact memInv_modCkpt_congr (fun _ => rfl) (fun _ => rfl) h
    · split
      · exact memInv_modCkpt_congr (fun _ => rfl) (fun _ => rfl) (memInv_stageAll (memInv_restartCalls h))
      · exact h

theorem memInv_deliverL3 {c : Nat} (h : memInv s) : memInv (deliverL3 s c) := by
  unfold deliverL3
  dsimp only
  split
  · exact memInv_releasePhase h
  · exact h

theorem memInv_endCheckpoint {st : BitVec 8} (h : memInv s) : memInv (endCheckpoint s st) :=
  memInv_foldl (fun _ _ => memInv_deliverL3) _ (memInv_resumeAll (memInv_modCkpt (fun _ hk => ⟨hk.1, fun _ => nofun⟩) h))

/-- The memory of the module that a checkpoint copies is in canonical form, and stays below the addresses of everything else. -/
theorem imageInv_takeImage (h : memInv s) : imageInv (takeImage s) :=
  ⟨⟨cellsWf_filter _ h.1.1, risingFrom_filter _ h.1.2⟩, fun _ hc => of_decide_eq_true (List.mem_filter.mp hc).2, fun _ hw => of_decide_eq_true (List.mem_filter.mp hw).2⟩

theorem nextInv_execCheckpointCommit (h : memInv s) : nextInv (execCheckpointCommit s) := by
  have hi := imageInv_takeImage h
  unfold execCheckpointCommit
  dsimp only
  split
  · exact h
  · split
    · exact memInv_modCkpt (fun k hk => ⟨imageInv_mput hk.1 hi, fun _ e => Option.some.inj e ▸ hi⟩) h
    · split
      · split
        · exact h
        · rename_i i e
          exact memInv_endCheckpoint (memInv_modCkpt (fun k hk => ⟨imageInv_mput (i := { i with good := true }) hk.1 (h.2.2 i e), hk.2⟩) h)
      · exact h

theorem nextInv_execCheckpointFailed (h : memInv s) : nextInv (execCheckpointFailed s) := memInv_ite (memInv_endCheckpoint h) h

theorem memInv_restoreTile {n : Nat} {x : Agent} {owner : Option Nat} (h : memInv s) : memInv (restoreTile s n x owner) := by
  unfold restoreTile
  split
  · exact h
  · exact memInv_setMem (memInv_modAgent h) (wf_writeBytes _ _ (wf_writeBytes _ _ (memInv_modAgent h).1))

theorem memInv_restoreCtx {i : Image} {p : Nat × Ctx} (h : memInv s) : memInv (restoreCtx i s p) := by
  unfold restoreCtx
  dsimp only
  split
  · exact h
  · refine memInv_foldl (fun _ _ => memInv_restoreTile) _ (memInv_mirror ?_)
    exact h

/-- The memory of a copy under the memory that a checkpoint does not copy. -/
theorem wf_restored {i : Image} {m : Memory} (hi : imageInv i) (hm : m.wf) :
    Memory.wf ⟨i.mem.cells ++ m.cells.filter (fun c => 2 ^ 43 ≤ c.1), i.mem.poison ++ m.poison.filter (fun w => 2 ^ 40 ≤ w)⟩ := by
  obtain ⟨hwf, hcells, hpoison⟩ := hi
  exact ⟨cellsWf_append hwf.1 (cellsWf_filter _ hm.1) hcells (fun _ hc => of_decide_eq_true (List.mem_filter.mp hc).2) (fun _ _ _ => nofun),
    risingFrom_append hwf.2 (risingFrom_filter _ hm.2) hpoison (fun _ hw => of_decide_eq_true (List.mem_filter.mp hw).2) (fun _ _ _ => nofun)⟩

theorem nextInv_execCheckpointRestoreComplete (h : memInv s) : nextInv (execCheckpointRestoreComplete s) := by
  have hover : memInv (modCkpt s (fun k => { k with st := 7, op := 0 })) := memInv_modCkpt_congr (fun _ => rfl) (fun _ => rfl) h
  unfold execCheckpointRestoreComplete
  dsimp only
  split
  · exact h
  · split
    · exact hover
    · rename_i i e
      split
      · exact hover
      · refine memInv_foldl (fun _ _ => memInv_deliverL3) _ (memInv_resumeAll (memInv_modCkpt_congr (fun _ => rfl) (fun _ => rfl)
          (memInv_foldl (fun _ _ => memInv_restoreCtx) _ ?_)))
        exact memInv_setMem (s := s) h (wf_restored (imageInv_of_mget? h.2.1 e) h.1)

/-- Power is lost with everything but the flash and the slots of the checkpoints. -/
theorem memInv_powerDown (h : memInv s) : memInv (powerDown s) :=
  ⟨⟨cellsWf_filter _ h.1.1, rfl⟩, h.2.1, fun _ => nofun⟩

theorem wf_writeMasked {m : Memory} (k : Nat) (data : Line) (mask : BitVec 64) (h : m.wf) : (writeMasked m k data mask).wf := by
  refine wf_foldl (fun m w hm => ?_) _ h
  dsimp only
  split
  · exact wf_writeNat _ _ _ hm
  · exact wf_foldl (fun _ _ => wf_writeByte _ _) _ hm

theorem nextInv_execThermalPowerDown {field : Nat} (h : memInv s) : nextInv (execThermalPowerDown field s) := memInv_ite (memInv_powerDown h) h

theorem nextInv_execPowerLoss (h : memInv s) : nextInv (execPowerLoss s) := memInv_powerDown h

end Sys2Proof.Machine
end

section
/-!
SUPPORT for O58. Canonical memory through the model, Outside: the host's ports.
-/

namespace Sys2Proof.Machine

open Sys2Proof.Spec

variable {s : State}

theorem nextInv_execCxlMemRead {port line : Nat} (h : memInv s) : nextInv (execCxlMemRead port line s) := memInv_ite (s := { s with trust := _ }) h h

theorem nextInv_execCxlMemWrite {port line : Nat} {data : Line} {mask : BitVec 64} (h : memInv s) : nextInv (execCxlMemWrite port line data mask s) := by
  -- Written out as a function: the kernel would evaluate the line of the port in an application.
  have hw : execCxlMemWrite = fun port line data mask s => match portLine port line with
    | none => .next s
    | some k =>
      if !portHas port line then .next s
      else if (sealOf s k).isSome then
        .next { s with trust := { s.trust with refused := mmod 0 s.trust.refused port (fun n => min (n + 1) (2 ^ 32 - 1)) } }
      else .next (setMem s (writeMasked s.mem k data mask)) := rfl
  rw [hw]
  beta_reduce
  split
  · exact h
  · split
    · exact h
    · split
      · exact h
      · exact memInv_setMem h (wf_writeMasked _ _ _ h.1)

theorem nextInv_execHostSnoop {port addr : Nat} {data : Line} (h : memInv s) : nextInv (execHostSnoop port addr data s) := by
  unfold execHostSnoop
  split
  · exact h
  · exact memInv_setMem h (wf_writeBytes _ _ h.1)

theorem memInv_putBox {i : Nat} {b : Mailbox} (h : memInv s) : memInv (putBox s i b) := h

theorem nextInv_execMailboxGo {port : Nat} {attest : Bool} {len op : Nat} {payload : List Byte} (h : memInv s) :
    nextInv (execMailboxGo port attest len op payload s) := nextInv_ite h (nextInv_ite (memInv_putBox h) (memInv_putBox h))

theorem memInv_acceptBox {i : Nat} {code : Byte} {answer : List Byte} (h : memInv s) : memInv (acceptBox s i code answer) := h

theorem nextInv_execMgmtCommand {port : Nat} {code : Byte} {answer : List Byte} (h : memInv s) : nextInv (execMgmtCommand port code answer s) :=
  nextInv_ite h (nextInv_ite (memInv_acceptBox h) (nextInv_ite (memInv_acceptBox h) (memInv_acceptBox h)))

theorem nextInv_execMailboxAnswer {port : Nat} {attest : Bool} (h : memInv s) : nextInv (execMailboxAnswer port attest s) := by
  refine nextInv_ite h ?_
  split
  · exact memInv_putBox h
  · exact nextInv_ite (memInv_putBox h) h

end Sys2Proof.Machine
end

section
/-!
SUPPORT for O58. Canonical memory through the model, Trust: Lodestar and convoys.
-/

namespace Sys2Proof.Machine

open Sys2Proof.Spec

variable {s : State}

theorem memInv_putConvoy {v : Convoy} (h : memInv s) : memInv (putConvoy s v) := h

theorem memInv_abortConvoy {id : BitVec 256} (h : memInv s) : memInv (abortConvoy s id) := h

theorem memInv_wrapSecret {v : Convoy} (h : memInv s) : memInv (wrapSecret s v).2.2 := h

theorem memInv_formConvoy {msg : List Byte} (h : memInv s) : memInv (formConvoy s msg).1 := by
  unfold formConvoy
  dsimp only
  split
  · split
    · exact memInv_putConvoy h
    · exact h
  · split
    · exact h
    · split
      · exact memInv_putConvoy h
      · exact memInv_abortConvoy h
  · split
    · exact h
    · split
      · exact memInv_abortConvoy h
      · split
        · exact memInv_putConvoy (memInv_wrapSecret h)
        · split
          · exact memInv_putConvoy h
          · exact memInv_abortConvoy h
  · exact memInv_abortConvoy h

theorem memInv_killByOrder {c : Nat} (h : memInv s) : memInv (killByOrder s c) := memInv_ite h (memInv_ite (memInv_addOp h) (memInv_beginKill h))

theorem memInv_leaveConvoy {v : Convoy} (h : memInv s) : memInv (leaveConvoy s v) := memInv_withTrust (memInv_foldl (fun _ _ => memInv_killByOrder) _ h)

theorem memInv_overtakeCall {g wafer : Nat} (h : memInv s) : memInv (overtakeCall s g wafer) := by
  refine memInv_ite h (memInv_ite (memInv_restartHere h) ?_)
  split
  · rename_i e
    exact memInv_ite (memInv_restartHere (memInv_of_snd (memInv_freshBit h) e)) (memInv_endAbort (memInv_of_snd (memInv_freshBit h) e))

theorem memInv_failPeerCopies {a wafer : Nat} (h : memInv s) : memInv (failPeerCopies s a wafer) := by
  refine memInv_foldl (fun _ _ ht => memInv_ite ht ?_) _ h
  split
  · exact memInv_ite (memInv_cpFault ht) ht
  · exact ht

theorem memInv_forwardOrder {v : Convoy} {order : List Byte} (h : memInv s) : memInv (forwardOrder s v order) := h

theorem memInv_revoke {order : List Byte} (h : memInv s) : memInv (revoke s order).1 := by
  have hsettle : ∀ (t : State) (groups : List Nat) (wafer : Nat), memInv t →
      memInv ((allTiles t).foldl (fun s a => failPeerCopies s a wafer) (groups.foldl (fun s g => overtakeCall s g wafer) t)) :=
    fun t groups wafer ht => memInv_foldl (fun _ _ => memInv_failPeerCopies) _ (memInv_foldl (fun _ _ => memInv_overtakeCall) _ ht)
  unfold revoke
  dsimp only
  split
  · exact h
  · split
    · exact h
    · split
      · exact h
      · split
        · exact memInv_leaveConvoy (memInv_forwardOrder h)
        · split
          · exact hsettle _ _ _ (memInv_putConvoy (memInv_wrapSecret (memInv_forwardOrder h)))
          · split
            · exact hsettle _ _ _ (memInv_putConvoy (memInv_forwardOrder h))
            · exact memInv_forwardOrder h

theorem nextInv_execCertificateChain {port : Nat} (h : memInv s) : nextInv (execCertificateChain port s) := memInv_ite (memInv_acceptBox h) h

theorem nextInv_execAttestationReport {port : Nat} (h : memInv s) : nextInv (execAttestationReport port s) := by
  refine nextInv_ite h (nextInv_ite (memInv_acceptBox h) (nextInv_ite (memInv_acceptBox h) ?_))
  split
  · exact memInv_acceptBox h
  · exact memInv_acceptBox h

theorem nextInv_execSignatureCheck {port : Nat} (h : memInv s) : nextInv (execSignatureCheck port s) :=
  nextInv_ite h (nextInv_ite (memInv_acceptBox h) (nextInv_ite (memInv_acceptBox h) (memInv_acceptBox h)))

theorem nextInv_execBootstatRead {port : Nat} (h : memInv s) : nextInv (execBootstatRead port s) := memInv_ite (memInv_acceptBox h) h

theorem nextInv_execConvoyFormation {port : Nat} (h : memInv s) : nextInv (execConvoyFormation port s) := by
  refine nextInv_ite h (nextInv_ite (memInv_acceptBox h) ?_)
  split
  · rename_i e
    exact memInv_acceptBox (memInv_of_fst (memInv_formConvoy h) e)

theorem nextInv_execRevocationOrder {port : Nat} (h : memInv s) : nextInv (execRevocationOrder port s) := by
  refine nextInv_ite h (nextInv_ite (memInv_acceptBox h) ?_)
  split
  · rename_i e
    exact memInv_acceptBox (memInv_of_fst (memInv_revoke h) e)

theorem lodeKeeps_lodeRead {r : SvcReq} {f va n : Nat} : LodeKeeps (lodeRead r f va n) := by
  induction f generalizing va n with
  | zero =>
    unfold lodeRead
    split
    · exact lodeKeeps_pure
    · exact lodeKeeps_throw
  | succ f ih =>
    have hrest : ∀ m k, LodeKeeps (do
        let s ← get
        if poisoned s.mem k m then throw ()
        let rest ← lodeRead r f (va + m) (n - m)
        return (match r.tag with | some t => ctxBytes s t k m | none => readBytes s.mem k m) ++ rest) := by
      refine fun m k => lodeKeeps_get fun s h => ?_
      dsimp only
      split
      · exact lodeKeeps_bind lodeKeeps_throw fun _ => lodeKeeps_bind ih fun _ => lodeKeeps_pure
      · exact lodeKeeps_bind ih fun _ => lodeKeeps_pure
    unfold lodeRead
    split
    · exact lodeKeeps_pure
    · dsimp only
      split
      · split
        · exact lodeKeeps_bind lodeKeeps_pure fun _ => hrest _ _
        · exact lodeKeeps_bind lodeKeeps_throw fun _ => hrest _ _
      · refine lodeKeeps_get fun s h => lodeKeeps_bind (lodeKeeps_set (memInv_prefetchPage h)) fun _ => ?_
        split
        · exact lodeKeeps_bind lodeKeeps_pure fun _ => hrest _ _
        · exact lodeKeeps_bind lodeKeeps_throw fun _ => hrest _ _

theorem lodeKeeps_lodeBytes {r : SvcReq} {va n : Nat} : LodeKeeps (lodeBytes r va n) := lodeKeeps_lodeRead

theorem lodeKeeps_lodeMessage {r : SvcReq} {va : Nat} : LodeKeeps (lodeMessage r va) := lodeKeeps_bind lodeKeeps_lodeBytes fun _ => lodeKeeps_lodeBytes

theorem lodeKeeps_lodeSignature {r : SvcReq} {va : Nat} : LodeKeeps (lodeSignature r va) :=
  lodeKeeps_bind lodeKeeps_lodeBytes fun _ => lodeKeeps_bind lodeKeeps_lodeBytes fun _ => lodeKeeps_bind lodeKeeps_lodeBytes fun _ =>
    lodeKeeps_bind lodeKeeps_lodeBytes fun _ => lodeKeeps_pure

theorem lodeKeeps_lodeOrder {r : SvcReq} {f : State → List Byte → State × Byte × List Byte} (hf : ∀ s m, memInv s → memInv (f s m).1) :
    LodeKeeps (lodeOrder r f) :=
  lodeKeeps_bind lodeKeeps_lodeMessage fun _ => lodeKeeps_get fun _ h => lodeKeeps_bind (lodeKeeps_set (hf _ _ h)) fun _ => lodeKeeps_pure

theorem memInv_lodeCode {x : Lode Byte} (hx : LodeKeeps x) (h : memInv s) : memInv (lodeCode s x).1 := by
  have hs := hx s h
  unfold lodeCode
  split
  · rename_i e
    rwa [e] at hs
  · rename_i e
    rwa [e] at hs

theorem memInv_lodeAnswer {r : SvcReq} (h : memInv s) : memInv (lodeAnswer s r).1 := by
  unfold lodeAnswer
  split
  · exact h
  · exact memInv_lodeCode (lodeKeeps_bind lodeKeeps_lodeBytes fun _ => lodeKeeps_pure) h
  · exact memInv_lodeCode lodeKeeps_lodeSignature h
  · exact h
  · exact memInv_lodeCode (lodeKeeps_lodeOrder fun _ _ => memInv_formConvoy) h
  · exact memInv_lodeCode (lodeKeeps_lodeOrder fun _ _ => memInv_revoke) h
  · exact h

theorem nextInv_execSyscallAnswer {agent strand : Nat} {ans : Word} (h : memInv s) : nextInv (execSyscallAnswer agent strand ans s) := by
  unfold execSyscallAnswer
  split
  · exact h
  · split
    · rename_i e
      refine memInv_answerStrand (memInv_withOs (memInv_of_fst ?_ e))
      split
      · exact memInv_lodeAnswer h
      · exact h

theorem memInv_countAuthFail (h : memInv s) : memInv (countAuthFail s) := h

theorem memInv_landPeer {t : Tag} {name offset : Nat} {data : List Byte} {bar : Option Nat} (h : memInv s) : memInv (landPeer s t name offset data bar).1 := by
  unfold landPeer
  split
  · exact h
  · rename_i p _
    have hwf : (writeBytes s.mem (keyVault p offset) data).wf := wf_writeBytes _ _ h.1
    have hm := memInv_setMem h hwf
    split
    · exact h
    · split
      · exact h
      · dsimp only
        split
        · exact hm
        · split
          · exact hm
          · split
            · exact hm
            · split
              · exact memInv_setMem h (wf_barUpdate _ _ _ hwf)
              · exact hm

theorem memInv_receiveCopy {t : Tag} {sender : Nat} {b : List Byte} (h : memInv s) : memInv (receiveCopy s t sender b) := by
  unfold receiveCopy
  dsimp only
  split
  · rename_i e
    exact memInv_of_fst (memInv_landPeer h) e
  · rename_i e
    exact memInv_sendFrame (memInv_of_fst (memInv_landPeer h) e)

theorem memInv_receiveAnswer {t : Tag} {b : List Byte} (h : memInv s) : memInv (receiveAnswer s t b) := by
  unfold receiveAnswer
  split
  · exact h
  · split
    · exact h
    · exact memInv_ite h (memInv_peerAnswer h)

theorem memInv_deliverFrame {t : Tag} {sender kind : Nat} {b : List Byte} (h : memInv s) : memInv (deliverFrame s t sender kind b) := by
  refine memInv_ite (memInv_receiveCopy h) (memInv_ite (memInv_receiveAnswer h) (memInv_ite h ?_))
  split
  · exact memInv_ringPartial h
  · exact memInv_ringResult h
  · exact memInv_ringAbort h
  · exact h

theorem nextInv_execUlnenuFrame {cx inc gen sender kind no : Nat} {cipher : List Byte} {tag : BitVec 128} (h : memInv s) :
    nextInv (execUlnenuFrame cx inc gen sender kind no cipher tag s) := by
  refine nextInv_ite (memInv_revoke h) (nextInv_ite h ?_)
  split
  · exact memInv_countAuthFail h
  · exact memInv_deliverFrame h

theorem nextInv_execPeerCopyLanding {cx inc name offset : Nat} {data : List Byte} {bar : Option Nat} (h : memInv s) :
    nextInv (execPeerCopyLanding cx inc name offset data bar s) := memInv_ite h (memInv_landPeer h)

end Sys2Proof.Machine
end

section
/-!
SUPPORT for O58. Canonical memory through the model, Boot: bring-up and service levels.
-/

namespace Sys2Proof.Machine

open Sys2Proof.Spec

variable {s : State}

theorem memInv_modBoot {f : Boot → Boot} (h : memInv s) : memInv (modBoot s f) := h

theorem memInv_enterStage {n : BitVec 4} (h : memInv s) : memInv (enterStage s n) := h

theorem memInv_setCode {c : BitVec 4} (h : memInv s) : memInv (setCode s c) := h

theorem memInv_startCore {c : Nat} (h : memInv s) : memInv (startCore s c) := h

theorem memInv_bootChart {patch : BootImage} (h : memInv s) : memInv (bootChart s patch) := by
  unfold bootChart
  dsimp only
  split
  · exact memInv_setCode (memInv_enterStage (memInv_modBoot (memInv_enterStage h)))
  · exact memInv_enterStage (memInv_foldl (fun _ _ => memInv_startCore) _ (memInv_modBoot (memInv_ite (memInv_setCode (memInv_modBoot (memInv_enterStage
      h))) (memInv_modBoot (memInv_enterStage h)))))

theorem nextInv_execPowerGood (h : memInv s) : nextInv (execPowerGood s) := by
  unfold execPowerGood
  dsimp only
  refine nextInv_ite h ?_
  split
  · exact memInv_setCode (memInv_enterStage (memInv_modBoot h))
  · exact memInv_bootChart (memInv_ite (memInv_setCode (memInv_modBoot h)) (memInv_modBoot h))

theorem memInv_markDead {p : Nat} (h : memInv s) : memInv (markDead s p) := h

theorem nextInv_execSelfTestOverrun {field : Nat} (h : memInv s) : nextInv (execSelfTestOverrun field s) :=
  memInv_ite (memInv_setCode (memInv_foldl (fun _ _ => memInv_markDead) _ h)) h

theorem nextInv_execSelfTestEnd {dead : List Nat} {trims : List (Nat × Word)} (h : memInv s) : nextInv (execSelfTestEnd dead trims s) :=
  nextInv_ite h (memInv_modBoot (memInv_enterStage (memInv_rebuild (memInv_foldl (fun _ _ => memInv_modAgent) _ (memInv_foldl (fun _ _ => memInv_markDead)
    _ h)))))

theorem nextInv_execCalibrationComplete (h : memInv s) : nextInv (execCalibrationComplete s) := nextInv_ite h (memInv_modBoot (memInv_mapAgents h))

theorem nextInv_execCalibrationOverrun (h : memInv s) : nextInv (execCalibrationOverrun s) := memInv_ite (memInv_setCode h) h

theorem memInv_switchService {toPilot : Bool} (h : memInv s) : memInv (switchService s toPilot) :=
  memInv_resumeAll (memInv_withEnv (memInv_modBoot (memInv_enterStage (memInv_haltWafer h))))

theorem nextInv_execServiceSwitch (h : memInv s) : nextInv (execServiceSwitch s) := by
  unfold execServiceSwitch
  split
  · exact memInv_ite h h
  · exact memInv_ite (memInv_switchService h) h
  · exact h

theorem nextInv_execLaserUnitLoss {u : Nat} (h : memInv s) : nextInv (execLaserUnitLoss u s) := nextInv_ite h (memInv_modBoot h)

theorem nextInv_execLaserUnitRelit {u : Nat} (h : memInv s) : nextInv (execLaserUnitRelit u s) := memInv_ite (memInv_modBoot h) h

end Sys2Proof.Machine
end

section
/-!
SUPPORT for O58. Canonical memory through the model, Control: branches, strand end and software traps.
-/

namespace Sys2Proof.Machine

open Sys2Proof.Spec

variable {s : State}

theorem keeps_curPc : Keeps (curPc) := keeps_reads

theorem keeps_branchTarget {off : BitVec 30} : Keeps (branchTarget off) := keeps_bind keeps_curPc fun _ => keeps_pure

theorem keeps_alignedTarget {t : Word} : Keeps (alignedTarget t) := keeps_ite keeps_trapAt keeps_pure

theorem nextInv_execBr {g : Guard} {off : BitVec 30} (h : memInv s) : nextInv (execBr g off s) :=
  nextInv_runWord h (keeps_scalar (keeps_bind keeps_branchTarget fun _ => keeps_pure))

theorem nextInv_execBc {g : Guard} {cond : BitVec 4} {a b : Reg} {off : BitVec 30} (h : memInv s) : nextInv (execBc g cond a b off s) :=
  nextInv_runWord h (keeps_scalar (keeps_bind keeps_readReg fun _ => keeps_bind keeps_readReg fun _ => keeps_bind keeps_branchTarget fun _ => keeps_pure))

theorem nextInv_execBp {g : Guard} {z : BitVec 1} {pa : PReg} {off : BitVec 30} (h : memInv s) : nextInv (execBp g z pa off s) :=
  nextInv_runWord h (keeps_scalar (keeps_bind keeps_reads fun _ => keeps_bind keeps_branchTarget fun _ => keeps_pure))

theorem nextInv_execCall {g : Guard} {a : Reg} {off : BitVec 30} (h : memInv s) : nextInv (execCall g a off s) :=
  nextInv_runWord h (keeps_scalar (keeps_bind keeps_branchTarget fun _ => keeps_bind keeps_curPc fun _ => keeps_bind keeps_writeReg fun _ => keeps_pure))

theorem nextInv_execRet {g : Guard} {a : Reg} (h : memInv s) : nextInv (execRet g a s) :=
  nextInv_runWord h (keeps_scalar (keeps_bind keeps_readReg fun _ => keeps_bind keeps_alignedTarget fun _ => keeps_pure))

theorem nextInv_execJmpr {g : Guard} {a : Reg} {off : BitVec 30} (h : memInv s) : nextInv (execJmpr g a off s) :=
  nextInv_runWord h (keeps_scalar (keeps_bind keeps_readReg fun _ => keeps_bind keeps_alignedTarget fun _ => keeps_pure))

theorem nextInv_execLoop {g : Guard} {a : Reg} {off : BitVec 30} (h : memInv s) : nextInv (execLoop g a off s) :=
  nextInv_runWord h (keeps_scalar (keeps_bind keeps_reads fun _ => keeps_bind keeps_branchTarget fun _ => keeps_bind (keeps_modS fun _ => memInv_setCurReg)
    fun _ => keeps_pure))

theorem nextInv_execExit {g : Guard} {abandon : BitVec 1} (h : memInv s) : nextInv (execExit g abandon s) :=
  nextInv_runWord h (keeps_scalar (keeps_bind keeps_raisePosted fun _ => keeps_bind keeps_release fun _ => keeps_bind (keeps_modS fun _ =>
    memInv_modCurAgent) fun _ => keeps_pure))

theorem nextInv_execYield {g : Guard} (h : memInv s) : nextInv (execYield g s) :=
  nextInv_runWord h (keeps_scalar (keeps_bind (keeps_modS fun _ => memInv_modCur) fun _ => keeps_pure))

theorem nextInv_execNop {g : Guard} (h : memInv s) : nextInv (execNop g s) := nextInv_runWord h (keeps_scalar keeps_pure)

theorem nextInv_execTrap {g : Guard} {n : BitVec 34} (h : memInv s) : nextInv (execTrap g n s) :=
  nextInv_runWord h (keeps_scalar (keeps_bind keeps_curPc fun _ => keeps_trap fun _ h => h))

theorem nextInv_execBrk {g : Guard} {n : BitVec 34} (h : memInv s) : nextInv (execBrk g n s) := nextInv_runWord h (keeps_scalar keeps_trapPc)

end Sys2Proof.Machine
end

section
/-!
SUPPORT for O58. Canonical memory through the model, VectorMem: vector loads and stores.
-/

namespace Sys2Proof.Machine

open Sys2Proof.Spec

variable {α : Type} {s : State}

theorem keeps_vload {fn : Nat} {vt : VReg} {size : BitVec 3} {o : Ord} {els : List (Nat × Word)} : Keeps (vload fn vt size o els) :=
  keeps_bind keeps_loadElems fun _ => keeps_bind keeps_acquireIf fun _ => keeps_bind keeps_writeElems fun _ => keeps_pure

theorem keeps_vstore {vt : VReg} {size : BitVec 3} {o : Ord} {els : List (Nat × Word)} : Keeps (vstore vt size o els) :=
  keeps_bind keeps_reads fun _ => keeps_bind (keeps_storeElems keeps_releaseIf) fun _ => keeps_pure

theorem keeps_contiguous {g : Guard} {size : BitVec 3} {m : MemOp} : Keeps (contiguous g size m) :=
  keeps_bind keeps_effectiveAddress fun _ => keeps_bind keeps_reads fun _ => keeps_pure

theorem keeps_strided {g : Guard} {size : BitVec 3} {m : MemOp} : Keeps (strided g size m) :=
  keeps_bind keeps_baseOf fun _ => keeps_bind keeps_baseOf fun _ => keeps_bind keeps_reads fun _ => keeps_pure

theorem keeps_gathered {g : Guard} {size : BitVec 3} {base : Reg} {vi : VReg} {scl : BitVec 2} {disp : BitVec 18} : Keeps (gathered g size base vi scl disp) :=
  keeps_bind keeps_baseOf fun _ => keeps_bind keeps_reads fun _ => keeps_pure

theorem nextInv_execVld {g : Guard} {vt : VReg} {size : BitVec 3} {o : Ord} {m : MemOp} (h : memInv s) : nextInv (execVld g vt size o m s) :=
  nextInv_runWord h (keeps_bind keeps_contiguous fun _ => keeps_vload)

theorem nextInv_execVst {g : Guard} {vt : VReg} {size : BitVec 3} {o : Ord} {m : MemOp} (h : memInv s) : nextInv (execVst g vt size o m s) :=
  nextInv_runWord h (keeps_bind keeps_contiguous fun _ => keeps_vstore)

theorem nextInv_execVlds {g : Guard} {vt : VReg} {size : BitVec 3} {o : Ord} {m : MemOp} (h : memInv s) : nextInv (execVlds g vt size o m s) :=
  nextInv_runWord h (keeps_bind keeps_strided fun _ => keeps_vload)

theorem nextInv_execVsts {g : Guard} {vt : VReg} {size : BitVec 3} {o : Ord} {m : MemOp} (h : memInv s) : nextInv (execVsts g vt size o m s) :=
  nextInv_runWord h (keeps_bind keeps_strided fun _ => keeps_vstore)

theorem nextInv_execVgath {g : Guard} {vt : VReg} {size : BitVec 3} {o : Ord} {base : Reg} {vi : VReg} {scl : BitVec 2} {disp : BitVec 18} (h : memInv s) :
    nextInv (execVgath g vt size o base vi scl disp s) := nextInv_runWord h (keeps_bind keeps_gathered fun _ => keeps_vload)

theorem nextInv_execVscat {g : Guard} {vt : VReg} {size : BitVec 3} {o : Ord} {base : Reg} {vi : VReg} {scl : BitVec 2} {disp : BitVec 18} (h : memInv s) :
    nextInv (execVscat g vt size o base vi scl disp s) := nextInv_runWord h (keeps_bind keeps_gathered fun _ => keeps_vstore)

theorem nextInv_execVldb {g : Guard} {vt : VReg} {size : BitVec 3} {o : Ord} {m : MemOp} (h : memInv s) : nextInv (execVldb g vt size o m s) := by
  refine nextInv_runWord h (keeps_bind keeps_effectiveAddress fun a => keeps_bind keeps_reads fun t => ?_)
  dsimp only
  split
  · exact keeps_bind keeps_acquireIf fun _ => keeps_pure
  · exact keeps_bind keeps_loadElems fun _ => keeps_bind keeps_acquireIf fun _ => keeps_bind keeps_writeElems fun _ => keeps_pure

theorem keeps_attempt {x : Exec α} (hx : Keeps x) : Keeps (attempt x) := by
  intro s h
  have hs := hx s h
  unfold attempt
  cases e : x s with
  | ok p => exact ⟨trivial, by rw [e] at hs; exact hs.2⟩
  | error e' =>
    cases e' with
    | trap t => exact ⟨trivial, h⟩
    | wait c f => rwa [e] at hs

theorem keeps_firstPlaces {n : Nat} (els : List (Nat × Word)) : Keeps (firstPlaces n els) := by
  induction els with
  | nil => exact keeps_pure
  | cons e rest ih =>
    unfold firstPlaces
    split
    · exact keeps_bind keeps_checkAddr fun _ => keeps_bind ih fun _ => keeps_pure
    · refine keeps_bind (keeps_attempt keeps_checkAddr) fun p => ?_
      cases p with
      | none => exact keeps_pure
      | some p => exact keeps_bind ih fun _ => keeps_pure

theorem keeps_firstReads {n : Nat} (ps : List (Nat × Word × Place)) : Keeps (firstReads n ps) := by
  induction ps with
  | nil => exact keeps_pure
  | cons q rest ih =>
    unfold firstReads
    split
    · exact keeps_bind keeps_readHere fun _ => keeps_bind ih fun _ => keeps_pure
    · refine keeps_bind (keeps_attempt keeps_readHere) fun v => ?_
      cases v with
      | none => exact keeps_pure
      | some v => exact keeps_bind ih fun _ => keeps_pure

theorem nextInv_execVldff {g : Guard} {vt : VReg} {size : BitVec 3} {m : MemOp} (h : memInv s) : nextInv (execVldff g vt size m s) := by
  refine nextInv_runWord h (keeps_bind keeps_contiguous fun els => keeps_bind keeps_behindSbar fun _ => keeps_bind (keeps_firstPlaces _) fun ps =>
    keeps_bind (keeps_firstReads _) fun vs => ?_)
  split
  · split
    · exact keeps_trap fun _ => memInv_postPoison
    · refine keeps_bind keeps_writeElems fun _ => keeps_bind (keeps_modS fun _ h => h) fun _ => ?_
      split
      · exact keeps_bind (keeps_modS fun _ h => h) fun _ => keeps_pure
      · exact keeps_pure
  · exact keeps_waitWith fun _ => memInv_sendReq

end Sys2Proof.Machine
end

section
/-!
SUPPORT for O58. Canonical memory through the model, Dispatch: every instruction and every event.
-/

namespace Sys2Proof.Machine

open Sys2Proof.Spec

variable {s : State}

/-- Every instruction and every event keeps the invariant. -/
theorem nextInv_exec {i : Instr} (h : memInv s) : nextInv (exec i s) :=
  match i with
  | .add .. => nextInv_execAdd h
  | .sub .. => nextInv_execSub h
  | .mul .. => nextInv_execMul h
  | .mulh .. => nextInv_execMulh h
  | .div .. => nextInv_execDiv h
  | .rem .. => nextInv_execRem h
  | .and .. => nextInv_execAnd h
  | .or .. => nextInv_execOr h
  | .xor .. => nextInv_execXor h
  | .andn .. => nextInv_execAndn h
  | .shl .. => nextInv_execShl h
  | .shr .. => nextInv_execShr h
  | .sar .. => nextInv_execSar h
  | .rot .. => nextInv_execRot h
  | .min .. => nextInv_execMin h
  | .max .. => nextInv_execMax h
  | .clz .. => nextInv_execClz h
  | .ctz .. => nextInv_execCtz h
  | .popc .. => nextInv_execPopc h
  | .bswap .. => nextInv_execBswap h
  | .ext .. => nextInv_execExt h
  | .bfx .. => nextInv_execBfx h
  | .bfi .. => nextInv_execBfi h
  | .sel .. => nextInv_execSel h
  | .mov .. => nextInv_execMov h
  | .cmp .. => nextInv_execCmp h
  | .lea .. => nextInv_execLea h
  | .addImm .. => nextInv_execAddImm h
  | .subImm .. => nextInv_execSubImm h
  | .mulImm .. => nextInv_execMulImm h
  | .mulhImm .. => nextInv_execMulhImm h
  | .divImm .. => nextInv_execDivImm h
  | .remImm .. => nextInv_execRemImm h
  | .andImm .. => nextInv_execAndImm h
  | .orImm .. => nextInv_execOrImm h
  | .xorImm .. => nextInv_execXorImm h
  | .andnImm .. => nextInv_execAndnImm h
  | .shlImm .. => nextInv_execShlImm h
  | .shrImm .. => nextInv_execShrImm h
  | .sarImm .. => nextInv_execSarImm h
  | .rotImm .. => nextInv_execRotImm h
  | .minImm .. => nextInv_execMinImm h
  | .maxImm .. => nextInv_execMaxImm h
  | .cmpImm .. => nextInv_execCmpImm h
  | .leaImm .. => nextInv_execLeaImm h
  | .movi .. => nextInv_execMovi h
  | .movhi .. => nextInv_execMovhi h
  | .fadd .. => nextInv_execFadd h
  | .fsub .. => nextInv_execFsub h
  | .fmul .. => nextInv_execFmul h
  | .ffma .. => nextInv_execFfma h
  | .fdiv .. => nextInv_execFdiv h
  | .fsqrt .. => nextInv_execFsqrt h
  | .fmin .. => nextInv_execFmin h
  | .fmax .. => nextInv_execFmax h
  | .fcmp .. => nextInv_execFcmp h
  | .fcvt .. => nextInv_execFcvt h
  | .fclass .. => nextInv_execFclass h
  | .pset .. => nextInv_execPset h
  | .plim .. => nextInv_execPlim h
  | .pmin .. => nextInv_execPmin h
  | .pmax .. => nextInv_execPmax h
  | .prd .. => nextInv_execPrd h
  | .grd .. => nextInv_execGrd h
  | .gwr .. => nextInv_execGwr h
  | .ld .. => nextInv_execLd h
  | .st .. => nextInv_execSt h
  | .ldp .. => nextInv_execLdp h
  | .stp .. => nextInv_execStp h
  | .amoadd .. => nextInv_execAmoadd h
  | .amomin .. => nextInv_execAmomin h
  | .amomax .. => nextInv_execAmomax h
  | .amoand .. => nextInv_execAmoand h
  | .amoor .. => nextInv_execAmoor h
  | .amoxor .. => nextInv_execAmoxor h
  | .amoswp .. => nextInv_execAmoswp h
  | .amocas .. => nextInv_execAmocas h
  | .amofadd .. => nextInv_execAmofadd h
  | .fence .. => nextInv_execFence h
  | .sbar .. => nextInv_execSbar h
  | .br .. => nextInv_execBr h
  | .bc .. => nextInv_execBc h
  | .bp .. => nextInv_execBp h
  | .call .. => nextInv_execCall h
  | .ret .. => nextInv_execRet h
  | .jmpr .. => nextInv_execJmpr h
  | .loop .. => nextInv_execLoop h
  | .exit .. => nextInv_execExit h
  | .yield .. => nextInv_execYield h
  | .nop .. => nextInv_execNop h
  | .trap .. => nextInv_execTrap h
  | .brk .. => nextInv_execBrk h
  | .vadd .. => nextInv_execVadd h
  | .vsub .. => nextInv_execVsub h
  | .vmul .. => nextInv_execVmul h
  | .vfma .. => nextInv_execVfma h
  | .vfms .. => nextInv_execVfms h
  | .vmin .. => nextInv_execVmin h
  | .vmax .. => nextInv_execVmax h
  | .vabs .. => nextInv_execVabs h
  | .vneg .. => nextInv_execVneg h
  | .vclamp .. => nextInv_execVclamp h
  | .vexp2 .. => nextInv_execVexp2 h
  | .vlog2 .. => nextInv_execVlog2 h
  | .vrcp .. => nextInv_execVrcp h
  | .vrsq .. => nextInv_execVrsq h
  | .vtanh .. => nextInv_execVtanh h
  | .verf .. => nextInv_execVerf h
  | .vand .. => nextInv_execVand h
  | .vor .. => nextInv_execVor h
  | .vxor .. => nextInv_execVxor h
  | .vnot .. => nextInv_execVnot h
  | .vshl .. => nextInv_execVshl h
  | .vshr .. => nextInv_execVshr h
  | .vsar .. => nextInv_execVsar h
  | .vmulh .. => nextInv_execVmulh h
  | .vcmp .. => nextInv_execVcmp h
  | .vsel .. => nextInv_execVsel h
  | .vcvt .. => nextInv_execVcvt h
  | .vmov .. => nextInv_execVmov h
  | .vbcast .. => nextInv_execVbcast h
  | .vext .. => nextInv_execVext h
  | .vins .. => nextInv_execVins h
  | .viota .. => nextInv_execViota h
  | .vcond .. => nextInv_execVcond h
  | .vshup .. => nextInv_execVshup h
  | .vshdn .. => nextInv_execVshdn h
  | .vrot .. => nextInv_execVrot h
  | .vscan .. => nextInv_execVscan h
  | .vred .. => nextInv_execVred h
  | .vmaxi .. => nextInv_execVmaxi h
  | .vperm .. => nextInv_execVperm h
  | .vpack .. => nextInv_execVpack h
  | .vunpk .. => nextInv_execVunpk h
  | .vscale .. => nextInv_execVscale h
  | .vqnt .. => nextInv_execVqnt h
  | .vld .. => nextInv_execVld h
  | .vst .. => nextInv_execVst h
  | .vldff .. => nextInv_execVldff h
  | .vlds .. => nextInv_execVlds h
  | .vsts .. => nextInv_execVsts h
  | .vgath .. => nextInv_execVgath h
  | .vscat .. => nextInv_execVscat h
  | .vldb .. => nextInv_execVldb h
  | .mxcfg .. => nextInv_execMxcfg h
  | .mxzero .. => nextInv_execMxzero h
  | .mxldw .. => nextInv_execMxldw h
  | .mxpass .. => nextInv_execMxpass h
  | .mxarm .. => nextInv_execMxarm h
  | .mxdisarm .. => nextInv_execMxdisarm h
  | .mxdrain .. => nextInv_execMxdrain h
  | .mxramp .. => nextInv_execMxramp h
  | .mxwait .. => nextInv_execMxwait h
  | .mxpert .. => nextInv_execMxpert h
  | .mxstat .. => nextInv_execMxstat h
  | .cpy .. => nextInv_execCpy h
  | .cpy2d .. => nextInv_execCpy2d h
  | .cpyg .. => nextInv_execCpyg h
  | .cpys .. => nextInv_execCpys h
  | .cpyf .. => nextInv_execCpyf h
  | .cpym .. => nextInv_execCpym h
  | .cpstat .. => nextInv_execCpstat h
  | .cpwait .. => nextInv_execCpwait h
  | .ctcfg .. => nextInv_execCtcfg h
  | .wopen .. => nextInv_execWopen h
  | .wadv .. => nextInv_execWadv h
  | .wsync .. => nextInv_execWsync h
  | .wclose .. => nextInv_execWclose h
  | .binit .. => nextInv_execBinit h
  | .bexp .. => nextInv_execBexp h
  | .barv .. => nextInv_execBarv h
  | .bwait .. => nextInv_execBwait h
  | .btest .. => nextInv_execBtest h
  | .qbind .. => nextInv_execQbind h
  | .qstat .. => nextInv_execQstat h
  | .snd .. => nextInv_execSnd h
  | .sndv .. => nextInv_execSndv h
  | .rdopen .. => nextInv_execRdopen h
  | .rdcs .. => nextInv_execRdcs h
  | .rdcb .. => nextInv_execRdcb h
  | .rdres .. => nextInv_execRdres h
  | .inj .. => nextInv_execInj h
  | .injc .. => nextInv_execInjc h
  | .wbhdr .. => nextInv_execWbhdr h
  | .wbpop .. => nextInv_execWbpop h
  | .wbrel .. => nextInv_execWbrel h
  | .wdrive .. => nextInv_execWdrive h
  | .wdstop .. => nextInv_execWdstop h
  | .dsync .. => nextInv_execDsync h
  | .darv .. => nextInv_execDarv h
  | .dwait .. => nextInv_execDwait h
  | .spawn .. => nextInv_execSpawn h
  | .swait .. => nextInv_execSwait h
  | .mfs .. => nextInv_execMfs h
  | .mts .. => nextInv_execMts h
  | .topo .. => nextInv_execTopo h
  | .syscall .. => nextInv_execSyscall h
  | .tqpush .. => nextInv_execTqpush h
  | .tret .. => nextInv_execTret h
  | .tqpop .. => nextInv_execTqpop h
  | .tqdone .. => nextInv_execTqdone h
  | .tqcancel .. => nextInv_execTqcancel h
  | .tqresume .. => nextInv_execTqresume h
  | .place .. => nextInv_execPlace h
  | .cxnew .. => nextInv_execCxnew h
  | .cxkill .. => nextInv_execCxkill h
  | .cxreclaim .. => nextInv_execCxreclaim h
  | .cxsave .. => nextInv_execCxsave h
  | .cxload .. => nextInv_execCxload h
  | .preempt .. => nextInv_execPreempt h
  | .tlbinv .. => nextInv_execTlbinv h
  | .nameinv .. => nextInv_execNameinv h
  | .halt .. => nextInv_execHalt h
  | .cfgw .. => nextInv_execCfgw h
  | .recchk .. => nextInv_execRecchk h
  | .cfgr .. => nextInv_execCfgr h
  | .gtabw .. => nextInv_execGtabw h
  | .ttabw .. => nextInv_execTtabw h
  | .errinjWrite .. => nextInv_execErrinjWrite h
  | .faultansWrite .. => nextInv_execFaultansWrite h
  | .rowstateKill .. => nextInv_execRowstateKill h
  | .remapstatRebuild .. => nextInv_execRemapstatRebuild h
  | .ckptCheckpoint .. => nextInv_execCkptCheckpoint h
  | .ckptRestore .. => nextInv_execCkptRestore h
  | .strandStart .. => nextInv_execStrandStart h
  | .commandCompletion .. => nextInv_execCommandCompletion h
  | .copyLanding .. => nextInv_execCopyLanding h
  | .drainStep .. => nextInv_execDrainStep h
  | .windowFill .. => nextInv_execWindowFill h
  | .triggeredPass .. => nextInv_execTriggeredPass h
  | .passResultHeld .. => nextInv_execPassResultHeld h
  | .rampUpEnd .. => nextInv_execRampUpEnd h
  | .rampDownEnd .. => nextInv_execRampDownEnd h
  | .rampGapExpiry .. => nextInv_execRampGapExpiry h
  | .messageLanding .. => nextInv_execMessageLanding h
  | .phaseRelease .. => nextInv_execPhaseRelease h
  | .nameWalk .. => nextInv_execNameWalk h
  | .linkRetry .. => nextInv_execLinkRetry h
  | .routerLost .. => nextInv_execRouterLost h
  | .callAdmission .. => nextInv_execCallAdmission h
  | .partialCombine .. => nextInv_execPartialCombine h
  | .rootRounding .. => nextInv_execRootRounding h
  | .completionToken .. => nextInv_execCompletionToken h
  | .callReplay .. => nextInv_execCallReplay h
  | .calldlExpiry .. => nextInv_execCalldlExpiry h
  | .ringHop .. => nextInv_execRingHop h
  | .beaconRequest .. => nextInv_execBeaconRequest h
  | .beaconSend .. => nextInv_execBeaconSend h
  | .blockArrival .. => nextInv_execBlockArrival h
  | .replayToken .. => nextInv_execReplayToken h
  | .releaseCredit .. => nextInv_execReleaseCredit h
  | .chainWalk .. => nextInv_execChainWalk h
  | .branchCondition .. => nextInv_execBranchCondition h
  | .markWrite .. => nextInv_execMarkWrite h
  | .blockInvocation .. => nextInv_execBlockInvocation h
  | .epilogueEnd .. => nextInv_execEpilogueEnd h
  | .chainStopToken .. => nextInv_execChainStopToken h
  | .chainEndUnit .. => nextInv_execChainEndUnit h
  | .chainLeave .. => nextInv_execChainLeave h
  | .tailObserved .. => nextInv_execTailObserved h
  | .dependenceCounterZero .. => nextInv_execDependenceCounterZero h
  | .taskPlacement .. => nextInv_execTaskPlacement h
  | .prefetch .. => nextInv_execPrefetch h
  | .taskRetirement .. => nextInv_execTaskRetirement h
  | .watchdog .. => nextInv_execWatchdog h
  | .killMarker .. => nextInv_execKillMarker h
  | .killAcknowledgement .. => nextInv_execKillAcknowledgement h
  | .orphan .. => nextInv_execOrphan h
  | .reclaimMarker .. => nextInv_execReclaimMarker h
  | .stopMarker .. => nextInv_execStopMarker h
  | .preemptDrained .. => nextInv_execPreemptDrained h
  | .tlbinvMarker .. => nextInv_execTlbinvMarker h
  | .translationWalk .. => nextInv_execTranslationWalk h
  | .translationTimeout .. => nextInv_execTranslationTimeout h
  | .syscallAnswer .. => nextInv_execSyscallAnswer h
  | .haltTimeout .. => nextInv_execHaltTimeout h
  | .faultRecord .. => nextInv_execFaultRecord h
  | .cxlMemRead .. => nextInv_execCxlMemRead h
  | .cxlMemWrite .. => nextInv_execCxlMemWrite h
  | .hostSnoop .. => nextInv_execHostSnoop h
  | .mailboxGo .. => nextInv_execMailboxGo h
  | .mgmtCommand .. => nextInv_execMgmtCommand h
  | .certificateChain .. => nextInv_execCertificateChain h
  | .attestationReport .. => nextInv_execAttestationReport h
  | .signatureCheck .. => nextInv_execSignatureCheck h
  | .bootstatRead .. => nextInv_execBootstatRead h
  | .convoyFormation .. => nextInv_execConvoyFormation h
  | .revocationOrder .. => nextInv_execRevocationOrder h
  | .mailboxAnswer .. => nextInv_execMailboxAnswer h
  | .ulnenuFrame .. => nextInv_execUlnenuFrame h
  | .peerCopyLanding .. => nextInv_execPeerCopyLanding h
  | .correctedError .. => nextInv_execCorrectedError h
  | .uncorrectableError .. => nextInv_execUncorrectableError h
  | .scrub .. => nextInv_execScrub h
  | .hueDrift .. => nextInv_execHueDrift h
  | .hueUnlock .. => nextInv_execHueUnlock h
  | .hueRelock .. => nextInv_execHueRelock h
  | .receiverLost .. => nextInv_execReceiverLost h
  | .tileDeclaredDead .. => nextInv_execTileDeclaredDead h
  | .shiftRemapWave .. => nextInv_execShiftRemapWave h
  | .waveDrained => nextInv_execWaveDrained h
  | .waveRepaired => nextInv_execWaveRepaired h
  | .fullRebuild => nextInv_execFullRebuild h
  | .checkpointQuiesced => nextInv_execCheckpointQuiesced h
  | .checkpointCommit => nextInv_execCheckpointCommit h
  | .checkpointFailed => nextInv_execCheckpointFailed h
  | .powerGood => nextInv_execPowerGood h
  | .selfTestEnd .. => nextInv_execSelfTestEnd h
  | .selfTestOverrun .. => nextInv_execSelfTestOverrun h
  | .calibrationComplete => nextInv_execCalibrationComplete h
  | .calibrationOverrun => nextInv_execCalibrationOverrun h
  | .serviceSwitch => nextInv_execServiceSwitch h
  | .laserUnitLoss .. => nextInv_execLaserUnitLoss h
  | .thermalThrottle .. => nextInv_execThermalThrottle h
  | .throttleLift .. => nextInv_execThrottleLift h
  | .thermalPowerDown .. => nextInv_execThermalPowerDown h
  | .powerLoss => nextInv_execPowerLoss h
  | .requestAtHome .. => nextInv_execRequestAtHome h
  | .responseLanding .. => nextInv_execResponseLanding h
  | .passEnd .. => nextInv_execPassEnd h
  | .cxloadComplete .. => nextInv_execCxloadComplete h
  | .cxsaveComplete .. => nextInv_execCxsaveComplete h
  | .nameinvAcknowledgement => nextInv_execNameinvAcknowledgement h
  | .checkpointRestoreComplete => nextInv_execCheckpointRestoreComplete h
  | .contextFreed .. => nextInv_execContextFreed h
  | .receiverRetune .. => nextInv_execReceiverRetune h
  | .laserUnitRelit .. => nextInv_execLaserUnitRelit h

end Sys2Proof.Machine
end

section
/-!
SUPPORT for O58. Canonical memory through the model, Fetch: fetching and one instruction of a strand.
-/

namespace Sys2Proof.Machine

open Sys2Proof.Spec

variable {α : Type} {s : State}

theorem keeps_fetchFault {pc : Word} {info : Nat} : Keeps (fetchFault pc info : Exec α) := fun _ _ _ h => h

theorem keeps_fetchPoison {pc : Word} {key : Nat} : Keeps (fetchPoison pc key : Exec α) := fun _ _ _ => memInv_postPoison

theorem keeps_fetchHome {pc : Word} {key : Nat} : Keeps (fetchHome pc key) := keeps_getS fun _ _ => keeps_ite keeps_fetchPoison keeps_pure

theorem keeps_fetchCached {va : Nat} {w : Word} : Keeps (fetchCached va w) := by
  refine keeps_getS fun _ ht => ?_
  split
  · exact keeps_pure
  · refine keeps_ite keeps_pure ?_
    split
    · rename_i e
      exact keeps_bind (keeps_modS fun _ _ => memInv_of_snd (memInv_freshBit ht) e) fun _ => keeps_pure

theorem keeps_fetchFill {pc : Word} {va : Nat} : Keeps (fetchFill pc va) := by
  refine keeps_bind keeps_translate fun e => ?_
  cases e with
  | none => exact keeps_fetchFault
  | some e =>
    exact keeps_getS fun _ _ => keeps_check keeps_fetchFault fun _ => keeps_bind keeps_fetchHome fun _ =>
      keeps_bind (keeps_modS fun _ => memInv_modCurAgent) fun _ => keeps_pure

theorem keeps_fetchWord : Keeps (fetchWord) := by
  unfold fetchWord
  dsimp only
  refine keeps_getS fun _ _ => ?_
  split
  · exact keeps_fetchHome
  · split
    · exact keeps_fetchCached
    · exact keeps_fetchFill
  · exact keeps_fetchFault

theorem nextInv_execWord {w : Word} (h : memInv s) : nextInv (execWord s w) := by
  unfold execWord
  split
  · exact nextInv_exec h
  · exact memInv_takeTrap (t := decodeTrap _) h

theorem memInv_keepWord {w : Word} (h : memInv s) : memInv (keepWord s w) := h

theorem nextInv_runStrand (h : memInv s) : nextInv (runStrand s) := by
  have hs := keeps_fetchWord s h
  unfold runStrand
  split
  · exact nextInv_execWord h
  · split
    · rename_i e
      rw [e] at hs
      exact nextInv_execWord (memInv_keepWord hs.2)
    · rename_i e
      rw [e] at hs
      exact memInv_takeTrap (hs s h)
    · rename_i e
      rw [e] at hs
      exact hs _ (memInv_beginWait h)

end Sys2Proof.Machine
end

section
/-!
SUPPORT for O58. Canonical memory through the model, Schedule: the choice of a strand and what happens by itself.
-/

namespace Sys2Proof.Machine

open Sys2Proof.Spec

variable {s : State}

theorem nextInv_runAt {a k : Nat} (h : memInv s) : nextInv (runAt s a k) := nextInv_runStrand h

theorem memInv_noteIssue {a k : Nat} (h : memInv s) : memInv (noteIssue s a k) := h

theorem nextInv_issue {a : Nat} (h : memInv s) : nextInv (issue s a) := by
  unfold issue
  split
  · exact h
  · rename_i k _
    have hrun := nextInv_runAt (a := a) (k := k) (memInv_noteIssue (a := a) (k := k) h)
    split
    · rename_i e
      rw [e] at hrun
      exact nextInv_ite (nextInv_runAt h) hrun
    · exact hrun

theorem nextInv_resume {a k : Nat} (h : memInv s) : nextInv (resume s a k) := by
  unfold resume
  dsimp only
  split
  · have hrun := nextInv_runAt (a := a) (k := k) h
    split
    · rename_i e
      rw [e] at hrun
      exact memInv_ite (memInv_modStrand hrun) hrun
    · exact hrun
  · exact h

theorem memInv_wake {a k : Nat} (h : memInv s) : memInv (wake s a k) := h

theorem nextInv_takeInput (h : memInv s) : nextInv (takeInput s) := by
  unfold takeInput
  split
  · exact h
  · exact nextInv_ite (nextInv_exec h) h

theorem nextInv_Ev_run {e : Ev} (h : memInv s) : nextInv (e.run s) :=
  match e with
  | .issue .. => nextInv_issue h
  | .resume .. => nextInv_resume h
  | .wake .. => memInv_wake h
  | .input => nextInv_takeInput h
  | .niSend .. => memInv_drainSend h
  | .hopMsg .. => memInv_hopMsg h
  | .hopReq .. => memInv_hopReq h
  | .hopResp .. => memInv_hopResp h
  | .callSend .. => memInv_contributePacket h
  | .callForward .. => memInv_forwardPacket h
  | .powerGood => nextInv_execPowerGood h
  | .strandStart .. => nextInv_execStrandStart h
  | .commandCompletion .. => nextInv_execCommandCompletion h
  | .copyLanding .. => nextInv_execCopyLanding h
  | .drainStep .. => nextInv_execDrainStep h
  | .windowFill .. => nextInv_execWindowFill h
  | .triggeredPass .. => nextInv_execTriggeredPass h
  | .passEnd .. => nextInv_execPassEnd h
  | .passResultHeld .. => nextInv_execPassResultHeld h
  | .rampUpEnd .. => nextInv_execRampUpEnd h
  | .rampDownEnd .. => nextInv_execRampDownEnd h
  | .rampGapExpiry .. => nextInv_execRampGapExpiry h
  | .messageLanding .. => nextInv_execMessageLanding h
  | .phaseRelease .. => nextInv_execPhaseRelease h
  | .nameWalk .. => nextInv_execNameWalk h
  | .requestAtHome .. => nextInv_execRequestAtHome h
  | .responseLanding .. => nextInv_execResponseLanding h
  | .orphan .. => nextInv_execOrphan h
  | .callAdmission .. => nextInv_execCallAdmission h
  | .partialCombine .. => nextInv_execPartialCombine h
  | .rootRounding .. => nextInv_execRootRounding h
  | .completionToken .. => nextInv_execCompletionToken h
  | .calldlExpiry .. => nextInv_execCalldlExpiry h
  | .ringHop .. => nextInv_execRingHop h
  | .beaconRequest .. => nextInv_execBeaconRequest h
  | .beaconSend .. => nextInv_execBeaconSend h
  | .blockArrival .. => nextInv_execBlockArrival h
  | .replayToken .. => nextInv_execReplayToken h
  | .releaseCredit .. => nextInv_execReleaseCredit h
  | .chainWalk .. => nextInv_execChainWalk h
  | .branchCondition .. => nextInv_execBranchCondition h
  | .markWrite .. => nextInv_execMarkWrite h
  | .blockInvocation .. => nextInv_execBlockInvocation h
  | .epilogueEnd .. => nextInv_execEpilogueEnd h
  | .chainStopToken .. => nextInv_execChainStopToken h
  | .chainEndUnit .. => nextInv_execChainEndUnit h
  | .chainLeave .. => nextInv_execChainLeave h
  | .tailObserved .. => nextInv_execTailObserved h
  | .dependenceCounterZero .. => nextInv_execDependenceCounterZero h
  | .taskPlacement .. => nextInv_execTaskPlacement h
  | .prefetch .. => nextInv_execPrefetch h
  | .taskRetirement .. => nextInv_execTaskRetirement h
  | .watchdog .. => nextInv_execWatchdog h
  | .killMarker .. => nextInv_execKillMarker h
  | .killAcknowledgement .. => nextInv_execKillAcknowledgement h
  | .reclaimMarker .. => nextInv_execReclaimMarker h
  | .stopMarker .. => nextInv_execStopMarker h
  | .preemptDrained .. => nextInv_execPreemptDrained h
  | .cxsaveComplete .. => nextInv_execCxsaveComplete h
  | .cxloadComplete .. => nextInv_execCxloadComplete h
  | .tlbinvMarker .. => nextInv_execTlbinvMarker h
  | .nameinvAcknowledgement => nextInv_execNameinvAcknowledgement h
  | .translationWalk .. => nextInv_execTranslationWalk h
  | .translationTimeout .. => nextInv_execTranslationTimeout h
  | .haltTimeout .. => nextInv_execHaltTimeout h
  | .syscallAnswer .. => nextInv_execSyscallAnswer h
  | .faultRecord .. => nextInv_execFaultRecord h
  | .certificateChain .. => nextInv_execCertificateChain h
  | .attestationReport .. => nextInv_execAttestationReport h
  | .signatureCheck .. => nextInv_execSignatureCheck h
  | .bootstatRead .. => nextInv_execBootstatRead h
  | .convoyFormation .. => nextInv_execConvoyFormation h
  | .revocationOrder .. => nextInv_execRevocationOrder h
  | .mailboxAnswer .. => nextInv_execMailboxAnswer h
  | .shiftRemapWave .. => nextInv_execShiftRemapWave h
  | .waveDrained => nextInv_execWaveDrained h
  | .waveRepaired => nextInv_execWaveRepaired h
  | .fullRebuild => nextInv_execFullRebuild h
  | .checkpointQuiesced => nextInv_execCheckpointQuiesced h
  | .checkpointCommit => nextInv_execCheckpointCommit h
  | .checkpointFailed => nextInv_execCheckpointFailed h
  | .checkpointRestoreComplete => nextInv_execCheckpointRestoreComplete h
  | .serviceSwitch => nextInv_execServiceSwitch h

theorem memInv_tick (h : memInv s) : memInv (tick s) := h

theorem nextInv_darkStep (h : memInv s) : nextInv (darkStep s) := by
  unfold darkStep
  split
  · trivial
  · exact nextInv_execPowerGood h
  · exact h

/-- A step of the machine keeps the invariant. -/
theorem nextInv_step (h : memInv s) : nextInv (step s) := by
  unfold step
  split
  · split
    · exact nextInv_Ev_run (memInv_tick h)
    · exact memInv_tick h
  · exact nextInv_darkStep h

end Sys2Proof.Machine
end

section
/-!
O58 and O59. Memory stays in canonical form (10 R273).
-/

namespace Sys2Proof

open Machine

/-- Settles O58: every operation of the model over its state keeps the invariant, and so does the step that is made of them. -/
theorem memoryStaysCanonical : Obligations.MemoryStaysCanonical := fun s t h e => by
  have ht := nextInv_step (s := s) h
  rwa [e] at ht

/-- Settles O59: memory is empty at reset, and no checkpoint has been made. -/
theorem resetMemoryCanonical : Obligations.ResetMemoryCanonical := ⟨wf_reset, fun _ hp => (List.not_mem_nil hp).elim, fun _ => nofun⟩

end Sys2Proof
end
